-- ==== Sys2Proof/Word.lean ====
section
/-! DEFINITION. The word types and their plainest arithmetic. -/

namespace Sys2Proof

/-- One byte of memory or of a pad (R225). -/
abbrev Byte := BitVec 8

/-- An instruction word or a 32-bit register (R29, R110). -/
abbrev Word := BitVec 32

end Sys2Proof
end

