-- ==== Sys2Proof/Syntax.lean ====
section
/-! DEFINITION. The instruction syntax: one constructor for each row of spec/opcode_table.json.
The first 197 are the instruction forms of R63, their arguments the fields of R36 to R39 (`g` is the
guard field with its neg bit below it, `la` the lookahead). The other 101 are the machine's events,
which no word encodes; their arguments name the objects the event acts on. -/

namespace Sys2Proof

/-- The agent of a uniform or lane instruction: a group or a cadence stream, by its index in State (R224). -/
inductive Agent where
  | group (gid : Nat)
  | stream (sid : Nat)
  deriving DecidableEq, Repr

/-- The register windows that agents outside the cores write (R422, R446, R364, R261, R371, R207); `replicas` is the hub's replica
table (R359), `bind` the function, the PASID and the port of a context (R448) and `fuses` the fused minimum versions (R473), to which the
spec gives no place in a window; nor does it say where in the privileged windows the access counters, the slice registers and the
context table begin, which are windows of their own here. (DESIGN CHOICE, log entry 99) -/
inductive Window where
  | hub
  | die (die : Nat)
  | counters (die : Nat)
  | slice (die slice : Nat)
  | ctxTable (die : Nat)
  | func (fn : Nat)
  | replicas
  | bind (ctx : Nat)
  | fuses
  deriving DecidableEq, Repr

/-- What a write in a window carries: how many bytes, and their bits, the least significant byte first (R4). -/
structure RegWrite where
  bytes : Nat
  bits : BitVec 64
  deriving DecidableEq, Repr

/-- The three kinds of unit that a partition owns (R398). -/
inductive UnitName where
  | cluster (die clu : Nat)
  | slice (die slice : Nat)
  | cg (n : Nat)
  deriving DecidableEq, Repr

/-- Where an error lies: nowhere, a line of memory, a pad byte, a tile, a link lane, a row of a bank of the HBM4E pseudo-channel
that holds the address (R260, R459, R463). -/
inductive ErrorPlace where
  | nowhere
  | line (pa : Nat)
  | pad (bid off : Nat)
  | tile (bid n : Nat)
  | lane (link : Nat) (inward : Bool)
  | row (bank row : Nat)
  | way (die set way : Nat)
  deriving DecidableEq, Repr

/-- One error as it is reported to the severity matrix (R459, R461): `bid` is the block whose agent consumed it,
if one did. -/
structure ErrorReport where
  cls : Nat
  src : Nat
  die : Nat
  unitNo : Nat
  ctx : Option Nat
  bid : Option Nat
  addr : BitVec 64
  place : ErrorPlace
  deriving DecidableEq, Repr

/-- The copies a memory spoke's copier makes (R365, R359, R463). -/
inductive CopierJob where
  | frame (src dst bytes : Nat)
  | replica (prim dst slot : Nat)
  | spareRow (stack pc bank row : Nat)
  | pseudoChannel (stack pc : Nat)
  deriving DecidableEq, Repr

/-- The outside agents of R224. -/
inductive OutsideAgent where
  | host
  | saddle (die : Nat)
  | peer (port : Nat)
  deriving DecidableEq, Repr

/-- Whose snapshot an image is: a block's or a cadence stream's (R467). -/
inductive SnapOwner where
  | block (bid : Nat)
  | stream (sid : Nat)
  deriving DecidableEq, Repr

/-- A firmware and kernel image as boot finds it (R473): its bytes, whether its signature verifies under the vendor key, and its security
version. -/
structure BootImage where
  bytes : List Byte
  signed : Bool
  version : Word
  deriving DecidableEq, Repr

/-- What an outside agent does at a physical address (R224, R275, R447); `unmap` is the host's withdrawal of the translation of the
host page there, which makes the device's next access to it raise a page request (R448). (DESIGN CHOICE, log entry 103) -/
inductive OutsideOp where
  | read (bytes : Nat)
  | write (data : List Byte)
  | atomic (aop : BitVec 4) (bytes : Nat) (operand compare : BitVec 64)
  | unmap
  deriving DecidableEq, Repr

/-- One access of an outside agent to a physical address (R224). -/
structure OutsideAccess where
  agent : OutsideAgent
  part : Option Nat
  pa : Nat
  op : OutsideOp
  deriving DecidableEq, Repr

/-- The instructions and events of spec/opcode_table.json. -/
inductive Instr where
  /-- IADD, LR 0x00, R122: Lane 32-bit add of Va and Bsel, wrapping or saturating under MOD sat -/
  | iadd (d : BitVec 7) (a : BitVec 7) (b : BitVec 8)
  /-- ISUB, LR 0x01, R122: Lane 32-bit subtract -/
  | isub (d : BitVec 7) (a : BitVec 7) (b : BitVec 8)
  /-- IMUL, LR 0x02, R122: Lane multiply keeping the low 32 bits -/
  | imul (d : BitVec 7) (a : BitVec 7) (b : BitVec 8)
  /-- IMULH, LR 0x03, R122: Lane signed multiply high word -/
  | imulh (d : BitVec 7) (a : BitVec 7) (b : BitVec 8)
  /-- IMULHU, LR 0x04, R122: Lane unsigned multiply high word -/
  | imulhu (d : BitVec 7) (a : BitVec 7) (b : BitVec 8)
  /-- IMIN, LR 0x05, R122: Lane signed minimum -/
  | imin (d : BitVec 7) (a : BitVec 7) (b : BitVec 8)
  /-- IMAX, LR 0x06, R122: Lane signed maximum -/
  | imax (d : BitVec 7) (a : BitVec 7) (b : BitVec 8)
  /-- IMINU, LR 0x07, R122: Lane unsigned minimum -/
  | iminu (d : BitVec 7) (a : BitVec 7) (b : BitVec 8)
  /-- IMAXU, LR 0x08, R122: Lane unsigned maximum -/
  | imaxu (d : BitVec 7) (a : BitVec 7) (b : BitVec 8)
  /-- IABS, LR 0x09, R122: Lane absolute value of Va -/
  | iabs (d : BitVec 7) (a : BitVec 7)
  /-- IADDS, LR 0x0A, R122: Lane signed saturating add -/
  | iadds (d : BitVec 7) (a : BitVec 7) (b : BitVec 8)
  /-- ISUBS, LR 0x0B, R122: Lane signed saturating subtract -/
  | isubs (d : BitVec 7) (a : BitVec 7) (b : BitVec 8)
  /-- IADDSU, LR 0x0C, R122: Lane unsigned saturating add -/
  | iaddsu (d : BitVec 7) (a : BitVec 7) (b : BitVec 8)
  /-- ISUBSU, LR 0x0D, R122: Lane unsigned saturating subtract -/
  | isubsu (d : BitVec 7) (a : BitVec 7) (b : BitVec 8)
  /-- AND, LR 0x10, R123: Lane bitwise AND -/
  | and (d : BitVec 7) (a : BitVec 7) (b : BitVec 8)
  /-- OR, LR 0x11, R123: Lane bitwise OR -/
  | or (d : BitVec 7) (a : BitVec 7) (b : BitVec 8)
  /-- XOR, LR 0x12, R123: Lane bitwise XOR -/
  | xor (d : BitVec 7) (a : BitVec 7) (b : BitVec 8)
  /-- ANDN, LR 0x13, R123: Lane AND with complemented B -/
  | andn (d : BitVec 7) (a : BitVec 7) (b : BitVec 8)
  /-- ORN, LR 0x14, R123: Lane OR with complemented B -/
  | orn (d : BitVec 7) (a : BitVec 7) (b : BitVec 8)
  /-- SHL, LR 0x15, R123: Lane logical shift left -/
  | shl (d : BitVec 7) (a : BitVec 7) (b : BitVec 8)
  /-- SHR, LR 0x16, R123: Lane logical shift right -/
  | shr (d : BitVec 7) (a : BitVec 7) (b : BitVec 8)
  /-- SAR, LR 0x17, R123: Lane arithmetic shift right -/
  | sar (d : BitVec 7) (a : BitVec 7) (b : BitVec 8)
  /-- ROTL, LR 0x18, R123: Lane rotate left -/
  | rotl (d : BitVec 7) (a : BitVec 7) (b : BitVec 8)
  /-- POPC, LR 0x19, R123: Lane population count -/
  | popc (d : BitVec 7) (a : BitVec 7)
  /-- CLZ, LR 0x1A, R123: Lane count leading zeros -/
  | clz (d : BitVec 7) (a : BitVec 7)
  /-- BREV, LR 0x1B, R123: Lane bit reverse -/
  | brev (d : BitVec 7) (a : BitVec 7)
  /-- MOV, LR 0x1C, R123: Lane move of the Bsel operand -/
  | mov (d : BitVec 7) (b : BitVec 8)
  /-- FADD, LR 0x20, R146: FP32 add through the result path -/
  | fadd (d : BitVec 7) (a : BitVec 7) (b : BitVec 8)
  /-- FSUB, LR 0x21, R146: FP32 subtract -/
  | fsub (d : BitVec 7) (a : BitVec 7) (b : BitVec 8)
  /-- FMUL, LR 0x22, R146: FP32 multiply -/
  | fmul (d : BitVec 7) (a : BitVec 7) (b : BitVec 8)
  /-- FMIN, LR 0x23, R146: FP32 minimum with NaN and signed-zero rules -/
  | fmin (d : BitVec 7) (a : BitVec 7) (b : BitVec 8)
  /-- FMAX, LR 0x24, R146: FP32 maximum -/
  | fmax (d : BitVec 7) (a : BitVec 7) (b : BitVec 8)
  /-- FABS, LR 0x25, R146: FP32 absolute value -/
  | fabs (d : BitVec 7) (a : BitVec 7)
  /-- FFLOOR, LR 0x26, R146: FP32 floor -/
  | ffloor (d : BitVec 7) (a : BitVec 7)
  /-- FCEIL, LR 0x27, R146: FP32 ceiling -/
  | fceil (d : BitVec 7) (a : BitVec 7)
  /-- FTRUNC, LR 0x28, R146: FP32 truncation to integer -/
  | ftrunc (d : BitVec 7) (a : BitVec 7)
  /-- FRINT, LR 0x29, R146: FP32 round to integer in the active mode -/
  | frint (d : BitVec 7) (a : BitVec 7)
  /-- HADD2, LR 0x38, R149: Packed FP16 pair add -/
  | hadd2 (d : BitVec 7) (a : BitVec 7) (b : BitVec 8)
  /-- HMUL2, LR 0x39, R149: Packed FP16 pair multiply -/
  | hmul2 (d : BitVec 7) (a : BitVec 7) (b : BitVec 8)
  /-- HMIN2, LR 0x3A, R149: Packed FP16 pair minimum -/
  | hmin2 (d : BitVec 7) (a : BitVec 7) (b : BitVec 8)
  /-- HMAX2, LR 0x3B, R149: Packed FP16 pair maximum -/
  | hmax2 (d : BitVec 7) (a : BitVec 7) (b : BitVec 8)
  /-- BADD2, LR 0x3C, R149: Packed BF16 pair add -/
  | badd2 (d : BitVec 7) (a : BitVec 7) (b : BitVec 8)
  /-- BMUL2, LR 0x3D, R149: Packed BF16 pair multiply -/
  | bmul2 (d : BitVec 7) (a : BitVec 7) (b : BitVec 8)
  /-- I2F, LR 0x40, R157: Signed integer to FP32 conversion -/
  | i2f (d : BitVec 7) (a : BitVec 7)
  /-- U2F, LR 0x41, R157: Unsigned integer to FP32 conversion -/
  | u2f (d : BitVec 7) (a : BitVec 7)
  /-- F2I, LR 0x42, R157: FP32 to INT32 conversion under R90 -/
  | f2i (d : BitVec 7) (a : BitVec 7)
  /-- F2U, LR 0x43, R157: FP32 to UINT32 conversion under R90 -/
  | f2u (d : BitVec 7) (a : BitVec 7)
  /-- F2H, LR 0x44, R157: Two FP32 values to an FP16 pair -/
  | f2h (d : BitVec 7) (a : BitVec 7) (b : BitVec 8)
  /-- H2F, LR 0x45, R157: One FP16 half to FP32, exact -/
  | h2f (d : BitVec 7) (a : BitVec 7) (b : BitVec 8)
  /-- F2B, LR 0x46, R157: Two FP32 values to a BF16 pair -/
  | f2b (d : BitVec 7) (a : BitVec 7) (b : BitVec 8)
  /-- B2F, LR 0x47, R157: One BF16 half to FP32, exact -/
  | b2f (d : BitVec 7) (a : BitVec 7) (b : BitVec 8)
  /-- NOP, LR 0x7F, R63: Lane no-operation -/
  | nop
  /-- UADD, UR 0x00, R122: Uniform add -/
  | uadd (d : BitVec 8) (a : BitVec 8) (b : BitVec 6)
  /-- USUB, UR 0x01, R122: Uniform subtract -/
  | usub (d : BitVec 8) (a : BitVec 8) (b : BitVec 6)
  /-- UMUL, UR 0x02, R122: Uniform multiply low -/
  | umul (d : BitVec 8) (a : BitVec 8) (b : BitVec 6)
  /-- UMULH, UR 0x03, R122: Uniform signed multiply high -/
  | umulh (d : BitVec 8) (a : BitVec 8) (b : BitVec 6)
  /-- UMIN, UR 0x04, R122: Uniform signed minimum -/
  | umin (d : BitVec 8) (a : BitVec 8) (b : BitVec 6)
  /-- UMAX, UR 0x05, R122: Uniform signed maximum -/
  | umax (d : BitVec 8) (a : BitVec 8) (b : BitVec 6)
  /-- UMINU, UR 0x06, R122: Uniform unsigned minimum -/
  | uminu (d : BitVec 8) (a : BitVec 8) (b : BitVec 6)
  /-- UMAXU, UR 0x07, R122: Uniform unsigned maximum -/
  | umaxu (d : BitVec 8) (a : BitVec 8) (b : BitVec 6)
  /-- UAND, UR 0x08, R123: Uniform bitwise AND -/
  | uand (d : BitVec 8) (a : BitVec 8) (b : BitVec 6)
  /-- UOR, UR 0x09, R123: Uniform bitwise OR -/
  | uor (d : BitVec 8) (a : BitVec 8) (b : BitVec 6)
  /-- UXOR, UR 0x0A, R123: Uniform bitwise XOR -/
  | uxor (d : BitVec 8) (a : BitVec 8) (b : BitVec 6)
  /-- UANDN, UR 0x0B, R123: Uniform AND with complemented B -/
  | uandn (d : BitVec 8) (a : BitVec 8) (b : BitVec 6)
  /-- USHL, UR 0x0C, R123: Uniform shift left -/
  | ushl (d : BitVec 8) (a : BitVec 8) (b : BitVec 6)
  /-- USHR, UR 0x0D, R123: Uniform logical shift right -/
  | ushr (d : BitVec 8) (a : BitVec 8) (b : BitVec 6)
  /-- USAR, UR 0x0E, R123: Uniform arithmetic shift right -/
  | usar (d : BitVec 8) (a : BitVec 8) (b : BitVec 6)
  /-- UPOPC, UR 0x0F, R123: Uniform population count -/
  | upopc (d : BitVec 8) (a : BitVec 8)
  /-- UCLZ, UR 0x10, R123: Uniform count leading zeros -/
  | uclz (d : BitVec 8) (a : BitVec 8)
  /-- UMOV, UR 0x11, R123: Uniform move of a Bu6 operand -/
  | umov (d : BitVec 8) (b : BitVec 6)
  /-- UNOP, UR 0x7F, R63: Uniform no-operation -/
  | unop
  /-- IMAC, LX 0x00, R126: Lane multiply-add of three operands -/
  | imac (g : BitVec 4) (d : BitVec 7) (a : BitVec 7) (b : BitVec 8) (c : BitVec 8)
  /-- IMACW, LX 0x01, R127: Lane 64-bit multiply-add into a pair -/
  | imacw (g : BitVec 4) (d : BitVec 7) (a : BitVec 7) (b : BitVec 8) (c : BitVec 8) (u : BitVec 1)
  /-- ISUM3, LX 0x02, R126: Lane three-operand sum -/
  | isum3 (g : BitVec 4) (d : BitVec 7) (a : BitVec 7) (b : BitVec 8) (c : BitVec 8)
  /-- IDOT8, LX 0x03, R128: Lane four-way 8-bit dot product plus C -/
  | idot8 (g : BitVec 4) (d : BitVec 7) (a : BitVec 7) (b : BitVec 8) (c : BitVec 8) (ua : BitVec 1) (ub : BitVec 1)
  /-- IABDA, LX 0x04, R126: Lane absolute difference plus C -/
  | iabda (g : BitVec 4) (d : BitVec 7) (a : BitVec 7) (b : BitVec 8) (c : BitVec 8) (u : BitVec 1)
  /-- IADDC, LX 0x05, R134: Lane add with carry in and out through predicates -/
  | iaddc (g : BitVec 4) (d : BitVec 7) (a : BitVec 7) (b : BitVec 8) (cin : BitVec 3) (cout : BitVec 3)
  /-- ISUBB, LX 0x06, R134: Lane subtract with borrow in and out -/
  | isubb (g : BitVec 4) (d : BitVec 7) (a : BitVec 7) (b : BitVec 8) (cin : BitVec 3) (cout : BitVec 3)
  /-- IADDW, LX 0x07, R129: Lane add of one widened narrow element -/
  | iaddw (g : BitVec 4) (d : BitVec 7) (a : BitVec 7) (b : BitVec 8) (ty : BitVec 2) (k : BitVec 2)
  /-- LEA, LX 0x08, R130: Lane base plus shifted index, 32 or 64 bits -/
  | lea (g : BitVec 4) (d : BitVec 7) (a : BitVec 7) (b : BitVec 8) (s : BitVec 1) (w : BitVec 1) (sh : BitVec 5)
  /-- BFX, LX 0x09, R131: Lane bit-field extract -/
  | bfx (g : BitVec 4) (d : BitVec 7) (a : BitVec 7) (b : BitVec 8) (s : BitVec 1)
  /-- BFI, LX 0x0A, R131: Lane bit-field insert -/
  | bfi (g : BitVec 4) (d : BitVec 7) (a : BitVec 7) (b : BitVec 8) (c : BitVec 8)
  /-- BYTEX, LX 0x0B, R132: Lane byte select and sign fill -/
  | bytex (g : BitVec 4) (d : BitVec 7) (a : BitVec 7) (b : BitVec 8) (c : BitVec 8)
  /-- SEL, LX 0x0C, R133: Lane select by predicate -/
  | sel (g : BitVec 4) (d : BitVec 7) (a : BitVec 7) (b : BitVec 8) (pneg : BitVec 1) (p : BitVec 3)
  /-- ISETP, LX 0x0D, R135: Lane integer compare combined into a predicate -/
  | isetp (g : BitVec 4) (a : BitVec 7) (b : BitVec 8) (pd : BitVec 3) (pc : BitVec 3) (pcneg : BitVec 1) (bop : BitVec 2) (u : BitVec 1) (cmp : BitVec 3)
  /-- MOVLO, LX 0x0E, R138: Lane write of a zero-extended 16-bit immediate -/
  | movlo (g : BitVec 4) (d : BitVec 7) (imm : BitVec 16)
  /-- MOVHI, LX 0x0F, R138: Lane write of the high half keeping the low half -/
  | movhi (g : BitVec 4) (d : BitVec 7) (imm : BitVec 16)
  /-- PTAB, LX 0x10, R136: Lane predicate truth table over three predicates -/
  | ptab (g : BitVec 4) (pd : BitVec 3) (pa : BitVec 3) (pb : BitVec 3) (pc : BitVec 3) (table : BitVec 8)
  /-- P2V, LX 0x11, R137: Lane copy of P0-P6 into a register -/
  | p2v (g : BitVec 4) (d : BitVec 7)
  /-- V2P, LX 0x12, R137: Lane masked write of predicates from a register -/
  | v2p (g : BitVec 4) (a : BitVec 7) (b : BitVec 8)
  /-- FFMA, LX 0x18, R150: FP32 fused multiply-add with one rounding -/
  | ffma (g : BitVec 4) (d : BitVec 7) (a : BitVec 7) (b : BitVec 8) (c : BitVec 8) (np : BitVec 1) (nc : BitVec 1)
  /-- HFMA2, LX 0x1B, R150: Packed FP16 fused multiply-add -/
  | hfma2 (g : BitVec 4) (d : BitVec 7) (a : BitVec 7) (b : BitVec 8) (c : BitVec 8) (np : BitVec 1) (nc : BitVec 1)
  /-- BFMA2, LX 0x1C, R150: Packed BF16 fused multiply-add -/
  | bfma2 (g : BitVec 4) (d : BitVec 7) (a : BitVec 7) (b : BitVec 8) (c : BitVec 8) (np : BitVec 1) (nc : BitVec 1)
  /-- FSETP, LX 0x19, R153: FP32 compare combined into a predicate -/
  | fsetp (g : BitVec 4) (a : BitVec 7) (b : BitVec 8) (pd : BitVec 3) (pc : BitVec 3) (pcneg : BitVec 1) (bop : BitVec 2) (u : BitVec 1) (cmp : BitVec 3)
  /-- FCLASS, LX 0x1A, R154: FP32 class test into a predicate -/
  | fclass (g : BitVec 4) (a : BitVec 7) (pd : BitVec 3) (mask : BitVec 10)
  /-- FDOT2, LX 0x1D, R151: Pair dot product plus FP32 addend -/
  | fdot2 (g : BitVec 4) (d : BitVec 7) (a : BitVec 7) (b : BitVec 8) (c : BitVec 8) (bf : BitVec 1)
  /-- CVTN, LX 0x1E, R158: Convert one value into a narrow element through a format slot -/
  | cvtn (g : BitVec 4) (d : BitVec 7) (a : BitVec 7) (n : BitVec 3) (k : BitVec 2) (isrc : BitVec 1)
  /-- CVTW, LX 0x1F, R159: Widen one narrow element through a format slot -/
  | cvtw (g : BitVec 4) (d : BitVec 7) (a : BitVec 7) (n : BitVec 3) (k : BitVec 2) (idst : BitVec 1)
  /-- FRCP, LX 0x20, R155: Special-function reciprocal -/
  | frcp (g : BitVec 4) (la : BitVec 4) (d : BitVec 7) (a : BitVec 7)
  /-- FRSQ, LX 0x21, R155: Special-function reciprocal square root -/
  | frsq (g : BitVec 4) (la : BitVec 4) (d : BitVec 7) (a : BitVec 7)
  /-- FSQRT, LX 0x22, R155: Correctly rounded square root -/
  | fsqrt (g : BitVec 4) (la : BitVec 4) (d : BitVec 7) (a : BitVec 7)
  /-- FEXP2, LX 0x23, R155: Special-function base-2 exponential -/
  | fexp2 (g : BitVec 4) (la : BitVec 4) (d : BitVec 7) (a : BitVec 7)
  /-- FLOG2, LX 0x24, R155: Special-function base-2 logarithm -/
  | flog2 (g : BitVec 4) (la : BitVec 4) (d : BitVec 7) (a : BitVec 7)
  /-- FSINT, LX 0x25, R155: Sine of an angle in turns -/
  | fsint (g : BitVec 4) (la : BitVec 4) (d : BitVec 7) (a : BitVec 7)
  /-- FCOST, LX 0x26, R155: Cosine of an angle in turns -/
  | fcost (g : BitVec 4) (la : BitVec 4) (d : BitVec 7) (a : BitVec 7)
  /-- FLDEXP, LX 0x27, R152: FP32 scale by a power of two -/
  | fldexp (g : BitVec 4) (d : BitVec 7) (a : BitVec 7) (b : BitVec 8)
  /-- SHFL, LX 0x28, R187: Collective shuffle arrival -/
  | shfl (g : BitVec 4) (la : BitVec 4) (d : BitVec 7) (a : BitVec 7) (b : BitVec 8) (c : BitVec 8) (op : BitVec 2) (all : BitVec 1) (sm : BitVec 8)
  /-- VOTE, LX 0x29, R187: Collective predicate vote arrival -/
  | vote (g : BitVec 4) (la : BitVec 4) (pd : BitVec 3) (pneg : BitVec 1) (p : BitVec 3) (op : BitVec 2) (all : BitVec 1) (sm : BitVec 8)
  /-- BALLOT, LX 0x2A, R187: Collective ballot arrival -/
  | ballot (g : BitVec 4) (la : BitVec 4) (d : BitVec 7) (pneg : BitVec 1) (p : BitVec 3) (all : BitVec 1) (sm : BitVec 8)
  /-- MATCH, LX 0x2B, R187: Collective value match arrival -/
  | matchv (g : BitVec 4) (la : BitVec 4) (d : BitVec 7) (a : BitVec 7) (all : BitVec 1) (sm : BitVec 8)
  /-- REDUX, LX 0x2C, R187: Collective reduction arrival -/
  | redux (g : BitVec 4) (la : BitVec 4) (d : BitVec 7) (a : BitVec 7) (c : BitVec 8) (op : BitVec 3) (all : BitVec 1) (sm : BitVec 8)
  /-- SCANX, LX 0x2D, R187: Collective prefix scan arrival -/
  | scanx (g : BitVec 4) (la : BitVec 4) (d : BitVec 7) (a : BitVec 7) (c : BitVec 8) (ex : BitVec 1) (op : BitVec 3) (all : BitVec 1) (sm : BitVec 8)
  /-- BRA, LX 0x30, R175: Per-thread relative branch -/
  | bra (g : BitVec 4) (off : BitVec 21)
  /-- JMPI, LX 0x31, R175: Per-thread indirect jump -/
  | jmpi (g : BitVec 4) (a : BitVec 7)
  /-- CALL, LX 0x32, R175: Per-thread call pushing a return address on the G15 slice -/
  | call (g : BitVec 4) (off : BitVec 21)
  /-- CALLI, LX 0x33, R175: Per-thread indirect call -/
  | calli (g : BitVec 4) (a : BitVec 7)
  /-- RET, LX 0x34, R175: Per-thread return popping the slice -/
  | ret (g : BitVec 4)
  /-- EXIT, LX 0x35, R177: Ends the thread, dropping its monitor and member-set places -/
  | exitT (g : BitVec 4)
  /-- JOIN, LX 0x36, R178: Thread waits for reconvergence or n clocks -/
  | join (g : BitVec 4) (n : BitVec 16)
  /-- YIELD, LX 0x37, R179: Thread stops being ready for 64 quadrant issues -/
  | yield (g : BitVec 4)
  /-- GROW, LX 0x38, R180: Group raises its register ceiling or queues a request -/
  | grow (g : BitVec 4) (n : BitVec 4)
  /-- SHRINK, LX 0x39, R180: Group lowers its register ceiling and frees space -/
  | shrink (g : BitVec 4) (n : BitVec 4)
  /-- MONW, LX 0x3A, R188: Arms the thread's monitor on a line -/
  | monw (g : BitVec 4) (a : BitVec 7) (size : BitVec 3) (sext : BitVec 1) (ord : BitVec 2) (off64 : BitVec 1) (gr : BitVec 4) (hint : BitVec 2) (scope : BitVec 3) (imm : BitVec 12)
  /-- MWAIT, LX 0x3B, R189: Thread waits on its monitor with an optional timeout -/
  | mwait (g : BitVec 4) (b : BitVec 8) (pd : BitVec 3) (p : BitVec 1)
  /-- TRAP, LX 0x3C, R397: Raises USER_TRAP in each guarded lane -/
  | trap (g : BitVec 4) (imm : BitVec 16)
  /-- BKPT, LX 0x3D, R397: Raises BREAKPOINT when BKEN is set -/
  | bkpt (g : BitVec 4) (imm : BitVec 16)
  /-- RDCTR, LX 0x3E, R396: Reads a performance or trap counter into a pair -/
  | rdctr (g : BitVec 4) (la : BitVec 4) (d : BitVec 7) (sl : BitVec 8)
  /-- LD, LX 0x40, R267: Lane load through a grant -/
  | ld (g : BitVec 4) (la : BitVec 4) (d : BitVec 7) (a : BitVec 7) (size : BitVec 3) (sext : BitVec 1) (ord : BitVec 2) (off64 : BitVec 1) (gr : BitVec 4) (hint : BitVec 2) (scope : BitVec 3) (imm : BitVec 12)
  /-- ST, LX 0x41, R268: Lane store through a grant -/
  | st (g : BitVec 4) (d : BitVec 7) (a : BitVec 7) (size : BitVec 3) (sext : BitVec 1) (ord : BitVec 2) (off64 : BitVec 1) (gr : BitVec 4) (hint : BitVec 2) (scope : BitVec 3) (imm : BitVec 12)
  /-- LDX, LX 0x42, R269: Lane atomic load at the site of its scope -/
  | ldx (g : BitVec 4) (la : BitVec 4) (d : BitVec 7) (a : BitVec 7) (size : BitVec 3) (sext : BitVec 1) (ord : BitVec 2) (off64 : BitVec 1) (gr : BitVec 4) (hint : BitVec 2) (scope : BitVec 3) (imm : BitVec 12)
  /-- PLD, LX 0x43, R270: Lane pad load, own pad or window -/
  | pld (g : BitVec 4) (la : BitVec 4) (d : BitVec 7) (a : BitVec 7) (size : BitVec 3) (sext : BitVec 1) (ord : BitVec 2) (off64 : BitVec 1) (gr : BitVec 4) (hint : BitVec 2) (scope : BitVec 3) (imm : BitVec 12)
  /-- PST, LX 0x44, R270: Lane pad store -/
  | pst (g : BitVec 4) (d : BitVec 7) (a : BitVec 7) (size : BitVec 3) (sext : BitVec 1) (ord : BitVec 2) (off64 : BitVec 1) (gr : BitVec 4) (hint : BitVec 2) (scope : BitVec 3) (imm : BitVec 12)
  /-- ATOM, LX 0x45, R272: Lane atomic returning the old value -/
  | atom (g : BitVec 4) (la : BitVec 4) (d : BitVec 7) (a : BitVec 7) (size : BitVec 3) (sext : BitVec 1) (ord : BitVec 2) (off64 : BitVec 1) (gr : BitVec 4) (hint : BitVec 2) (scope : BitVec 3) (imm : BitVec 12)
  /-- ATOMC, LX 0x46, R273: Lane compare and swap -/
  | atomc (g : BitVec 4) (la : BitVec 4) (d : BitVec 7) (a : BitVec 7) (size : BitVec 3) (sext : BitVec 1) (ord : BitVec 2) (off64 : BitVec 1) (gr : BitVec 4) (hint : BitVec 2) (scope : BitVec 3) (imm : BitVec 12)
  /-- RED, LX 0x47, R272: Lane atomic with no return -/
  | red (g : BitVec 4) (d : BitVec 7) (a : BitVec 7) (size : BitVec 3) (sext : BitVec 1) (ord : BitVec 2) (off64 : BitVec 1) (gr : BitVec 4) (hint : BitVec 2) (scope : BitVec 3) (imm : BitVec 12)
  /-- PATOM, LX 0x48, R272: Lane atomic on a pad -/
  | patom (g : BitVec 4) (la : BitVec 4) (d : BitVec 7) (a : BitVec 7) (size : BitVec 3) (sext : BitVec 1) (ord : BitVec 2) (off64 : BitVec 1) (gr : BitVec 4) (hint : BitVec 2) (scope : BitVec 3) (imm : BitVec 12)
  /-- FENCE, LX 0x49, R276: Thread memory fence of a kind and scope -/
  | fence (g : BitVec 4) (kind : BitVec 2) (scope : BitVec 3)
  /-- CFLUSH, LX 0x4A, R277: Writes back a line to the point of a scope -/
  | cflush (g : BitVec 4) (a : BitVec 7) (size : BitVec 3) (sext : BitVec 1) (ord : BitVec 2) (off64 : BitVec 1) (gr : BitVec 4) (hint : BitVec 2) (scope : BitVec 3) (imm : BitVec 12)
  /-- CINV, LX 0x4B, R277: Writes back and invalidates a line -/
  | cinv (g : BitVec 4) (a : BitVec 7) (size : BitVec 3) (sext : BitVec 1) (ord : BitVec 2) (off64 : BitVec 1) (gr : BitVec 4) (hint : BitVec 2) (scope : BitVec 3) (imm : BitVec 12)
  /-- PREF, LX 0x4C, R278: Prefetches a line into a level; never traps -/
  | pref (g : BitVec 4) (a : BitVec 7) (size : BitVec 3) (sext : BitVec 1) (ord : BitVec 2) (off64 : BitVec 1) (gr : BitVec 4) (hint : BitVec 2) (scope : BitVec 3) (imm : BitVec 12)
  /-- PPROBE, LX 0x4D, R367: Translates a VA and returns the leaf attributes -/
  | pprobe (g : BitVec 4) (la : BitVec 4) (d : BitVec 7) (a : BitVec 7) (size : BitVec 3) (sext : BitVec 1) (ord : BitVec 2) (off64 : BitVec 1) (gr : BitVec 4) (hint : BitVec 2) (scope : BitVec 3) (imm : BitVec 12)
  /-- PHINT, LX 0x4E, R368: Posts, cools or clears a migration counter region -/
  | phint (g : BitVec 4) (kind : BitVec 2) (a : BitVec 7) (size : BitVec 3) (sext : BitVec 1) (ord : BitVec 2) (off64 : BitVec 1) (gr : BitVec 4) (hint : BitVec 2) (scope : BitVec 3) (imm : BitVec 12)
  /-- UMAC, UX 0x00, R139: Uniform multiply-add -/
  | umac (g : BitVec 4) (d : BitVec 8) (a : BitVec 8) (b : BitVec 6) (sb : BitVec 8)
  /-- UMOVLO, UX 0x01, R138: Uniform write of a 16-bit immediate -/
  | umovlo (g : BitVec 4) (d : BitVec 8) (imm : BitVec 16)
  /-- UMOVHI, UX 0x02, R138: Uniform write of the high half -/
  | umovhi (g : BitVec 4) (d : BitVec 8) (imm : BitVec 16)
  /-- USETP, UX 0x03, R135: Uniform compare into a uniform predicate -/
  | usetp (g : BitVec 4) (a : BitVec 8) (b : BitVec 6) (pd : BitVec 3) (pc : BitVec 3) (pcneg : BitVec 1) (bop : BitVec 2) (u : BitVec 1) (cmp : BitVec 3)
  /-- USEL, UX 0x04, R139: Uniform select by uniform predicate -/
  | usel (g : BitVec 4) (d : BitVec 8) (a : BitVec 8) (b : BitVec 6) (qneg : BitVec 1) (q : BitVec 3)
  /-- UBFX, UX 0x05, R139: Uniform bit-field extract -/
  | ubfx (g : BitVec 4) (d : BitVec 8) (a : BitVec 8) (b : BitVec 6) (s : BitVec 1)
  /-- UBFI, UX 0x06, R139: Uniform bit-field insert -/
  | ubfi (g : BitVec 4) (d : BitVec 8) (a : BitVec 8) (b : BitVec 6) (sb : BitVec 8)
  /-- UMOVS, UX 0x07, R120: Copies a special register into Sd -/
  | umovs (g : BitVec 4) (d : BitVec 8) (sl : BitVec 6)
  /-- V2S, UX 0x08, R140: Copies one thread's vector register into a uniform register -/
  | v2s (g : BitVec 4) (la : BitVec 4) (d : BitVec 8) (a : BitVec 8) (vs : BitVec 7)
  /-- ULD, UX 0x09, R279: Group or stream load -/
  | uld (g : BitVec 4) (la : BitVec 4) (d : BitVec 8) (a : BitVec 8) (size : BitVec 3) (sext : BitVec 1) (ord : BitVec 2) (gr : BitVec 4) (hint : BitVec 2) (scope : BitVec 3) (imm : BitVec 12)
  /-- UST, UX 0x0A, R279: Group or stream store -/
  | ust (g : BitVec 4) (d : BitVec 8) (a : BitVec 8) (size : BitVec 3) (sext : BitVec 1) (ord : BitVec 2) (gr : BitVec 4) (hint : BitVec 2) (scope : BitVec 3) (imm : BitVec 12)
  /-- UATOM, UX 0x0B, R279: Group or stream atomic -/
  | uatom (g : BitVec 4) (la : BitVec 4) (d : BitVec 8) (a : BitVec 8) (size : BitVec 3) (sext : BitVec 1) (ord : BitVec 2) (gr : BitVec 4) (hint : BitVec 2) (scope : BitVec 3) (imm : BitVec 12)
  /-- UFENCE, UX 0x0C, R276: Group or stream fence -/
  | ufence (g : BitVec 4) (kind : BitVec 2) (scope : BitVec 3)
  /-- UBRA, UX 0x10, R182: Uniform relative branch for all participants -/
  | ubra (g : BitVec 4) (off : BitVec 21)
  /-- UJMPI, UX 0x11, R182: Uniform indirect jump -/
  | ujmpi (g : BitVec 4) (a : BitVec 8)
  /-- UCALL, UX 0x12, R182: Uniform call, each participant pushing its slice -/
  | ucall (g : BitVec 4) (off : BitVec 21)
  /-- URET, UX 0x13, R182: Uniform return -/
  | uret (g : BitVec 4)
  /-- UEXIT, UX 0x14, R183: Ends every live thread of the group -/
  | uexit (g : BitVec 4)
  /-- UTRAP, UX 0x15, R397: Uniform USER_TRAP for every participant -/
  | utrap (g : BitVec 4) (imm : BitVec 16)
  /-- GNARROW, UX 0x18, R350: Derives a narrowed grant into G13 or G14 -/
  | gnarrow (g : BitVec 4) (a : BitVec 8) (dst : BitVec 1) (gs : BitVec 4) (sb : BitVec 8) (perms : BitVec 4) (gset : BitVec 1) (gi : BitVec 4)
  /-- GINFO, UX 0x19, R352: Reads a grant's base, length or attributes -/
  | ginfo (g : BitVec 4) (la : BitVec 4) (d : BitVec 8) (sl : BitVec 2) (gs : BitVec 4)
  /-- PINFO, UX 0x1A, R421: Reads partition facts into a uniform register -/
  | pinfo (g : BitVec 4) (la : BitVec 4) (d : BitVec 8) (sl : BitVec 6)
  /-- GDCHK, UX 0x1B, R466: Tests a value against a guard, reads or clears GDFLAG -/
  | gdchk (g : BitVec 4) (d : BitVec 8) (a : BitVec 8) (op : BitVec 2) (n : BitVec 4) (arg : BitVec 16)
  /-- SHAPE, UX 0x20, R284: Checks and writes a shape table entry -/
  | shape (g : BitVec 4) (a : BitVec 8) (n : BitVec 4)
  /-- XCOPY, UX 0x21, R287: Checks and queues a shaped copy in the BTE -/
  | xcopy (g : BitVec 4) (d : BitVec 8) (a : BitVec 8) (dir : BitVec 2) (n : BitVec 4) (gr : BitVec 4) (hint : BitVec 2) (scope : BitVec 3) (k : BitVec 4) (s : BitVec 3) (off64 : BitVec 1) (get : BitVec 1)
  /-- XGATH, UX 0x22, R287: Queues a masked row gather into the pad -/
  | xgath (g : BitVec 4) (d : BitVec 8) (a : BitVec 8) (n : BitVec 4) (gr : BitVec 4) (hint : BitVec 2) (scope : BitVec 3) (k : BitVec 4) (sm : BitVec 8)
  /-- XSCAT, UX 0x23, R287: Queues a masked row scatter from the pad -/
  | xscat (g : BitVec 4) (d : BitVec 8) (a : BitVec 8) (n : BitVec 4) (gr : BitVec 4) (hint : BitVec 2) (scope : BitVec 3) (k : BitVec 4) (sm : BitVec 8)
  /-- XSTAT, UX 0x24, R298: Reads copy progress counts -/
  | xstat (g : BitVec 4) (la : BitVec 4) (d : BitVec 8) (sl : BitVec 2) (k : BitVec 4)
  /-- BINIT, UX 0x28, R306: Initialises a barrier word -/
  | binit (g : BitVec 4) (d : BitVec 8) (a : BitVec 8) (r : BitVec 1) (k : BitVec 4) (n : BitVec 12)
  /-- BARV, UX 0x29, R307: Makes a member arrival as a release -/
  | barv (g : BitVec 4) (a : BitVec 8) (k : BitVec 4) (win : BitVec 1) (s : BitVec 3) (scope : BitVec 3)
  /-- BARD, UX 0x2A, R308: Binds unlanded copies to one deferred arrival -/
  | bard (g : BitVec 4) (a : BitVec 8) (k : BitVec 4) (win : BitVec 1) (s : BitVec 3) (scope : BitVec 3)
  /-- BWAIT, UX 0x2B, R310: Waits for a phase completion and acquires -/
  | bwait (g : BitVec 4) (a : BitVec 8) (k : BitVec 4) (win : BitVec 1) (s : BitVec 3) (par : BitVec 1) (e : BitVec 1)
  /-- BTRY, UX 0x2C, R310: Tests a barrier phase into a uniform predicate -/
  | btry (g : BitVec 4) (la : BitVec 4) (a : BitVec 8) (k : BitVec 4) (win : BitVec 1) (s : BitVec 3) (qd : BitVec 3) (par : BitVec 1) (e : BitVec 1)
  /-- BEXP, UX 0x2D, R309: Adds expected transfers to TX -/
  | bexp (g : BitVec 4) (a : BitVec 8) (k : BitVec 4) (win : BitVec 1) (s : BitVec 3) (n : BitVec 9)
  /-- BDROP, UX 0x2E, R309: Removes the group from a word's members -/
  | bdrop (g : BitVec 4) (a : BitVec 8) (k : BitVec 4) (win : BitVec 1) (s : BitVec 3)
  /-- BLKBAR, UX 0x2F, R312: Block-wide fixed barrier arrival -/
  | blkbar (g : BitVec 4)
  /-- CLUBAR, UX 0x30, R312: Cluster-wide fixed barrier arrival -/
  | clubar (g : BitVec 4)
  /-- DIEBAR, UX 0x31, R312: Die-wide fixed barrier arrival -/
  | diebar (g : BitVec 4)
  /-- GSIG, UX 0x38, R432: Releases bound pages and increments the gate sequence -/
  | gsig (g : BitVec 4) (a : BitVec 8)
  /-- GWAIT, UX 0x39, R432: Parks until the gate sequence reaches a threshold, then acquires -/
  | gwait (g : BitVec 4) (a : BitVec 8) (sb : BitVec 8)
  /-- GTRY, UX 0x3A, R432: Reads the gate sequence and tests a threshold -/
  | gtry (g : BitVec 4) (la : BitVec 4) (d : BitVec 8) (a : BitVec 8) (qd : BitVec 3) (sb : BitVec 8)
  /-- GPOST, UX 0x3B, R432: Writes a payload word, optionally signalling -/
  | gpost (g : BitVec 4) (a : BitVec 8) (sig : BitVec 1) (wd : BitVec 3) (sb : BitVec 8)
  /-- GREAD, UX 0x3C, R432: Reads a gate payload word -/
  | gread (g : BitVec 4) (la : BitVec 4) (d : BitVec 8) (a : BitVec 8) (wd : BitVec 3)
  /-- GQUERY, UX 0x3D, R433: Reads gate state without token or right -/
  | gquery (g : BitVec 4) (la : BitVec 4) (d : BitVec 8) (a : BitVec 8) (sl : BitVec 3)
  /-- LAUNCH, UX 0x40, R219: Commits a launch record from memory into a queue -/
  | launch (g : BitVec 4) (a : BitVec 8) (q : BitVec 4) (gr : BitVec 4)
  /-- QSTAT, UX 0x41, R220: Reads a queue's FREE, STATE and flags -/
  | qstat (g : BitVec 4) (la : BitVec 4) (d : BitVec 8) (q : BitVec 4)
  /-- EVSIG, UX 0x42, R221: Releases and adds to or sets an event counter -/
  | evsig (g : BitVec 4) (a : BitVec 8) (set : BitVec 1) (sb : BitVec 8)
  /-- EVWAIT, UX 0x43, R222: Waits for a counter threshold and acquires -/
  | evwait (g : BitVec 4) (a : BitVec 8) (sb : BitVec 8)
  /-- TZERO, UX 0x48, R332: Queues zeroing of an accumulator tile -/
  | tzero (g : BitVec 4) (a : BitVec 8) (an : BitVec 4) (k : BitVec 4) (e : BitVec 1)
  /-- TMMA, UX 0x49, R333: Queues a dense tile product -/
  | tmma (g : BitVec 4) (d : BitVec 8) (a : BitVec 8) (kc : BitVec 2) (an : BitVec 4) (fa : BitVec 3) (fb : BitVec 3) (ch : BitVec 1) (am : BitVec 4) (k : BitVec 4) (e : BitVec 1) (z : BitVec 1) (ci : BitVec 1)
  /-- TMMAS, UX 0x4A, R333: Queues a 2:4 sparse tile product -/
  | tmmas (g : BitVec 4) (d : BitVec 8) (a : BitVec 8) (kc : BitVec 2) (an : BitVec 4) (fa : BitVec 3) (fb : BitVec 3) (k : BitVec 4) (e : BitVec 1) (z : BitVec 1) (sl : BitVec 2)
  /-- TDRAIN, UX 0x4B, R334: Queues a drain of a tile into the pad -/
  | tdrain (g : BitVec 4) (d : BitVec 8) (a : BitVec 8) (an : BitVec 4) (fd : BitVec 3) (gd : BitVec 4) (ge : BitVec 1) (ci : BitVec 1) (k : BitVec 4) (e : BitVec 1) (z : BitVec 1)
  /-- TFENCE, UX 0x4C, R336: Orders later tile reads after earlier pad writes -/
  | tfence (g : BitVec 4)
  /-- TWAIT, UX 0x4D, R338: Waits for selected tile operations and acquires -/
  | twait (g : BitVec 4) (a : BitVec 8) (all : BitVec 1) (an : BitVec 4)
  /-- TSTAT, UX 0x4E, R339: Reads tile operation progress -/
  | tstat (g : BitVec 4) (la : BitVec 4) (d : BitVec 8) (a : BitVec 8) (all : BitVec 1) (an : BitVec 4)
  /-- JOIN_TIMEOUT, R178: the clocks of a JOIN wait have passed. -/
  | joinTimeout (gid : Nat) (t : Nat)
  /-- YIELD_RELEASE, R179: a yielded thread is ready again. -/
  | yieldRelease (gid : Nat) (t : Nat)
  /-- MWAIT_TIMEOUT, R189: the time of an MWAIT has passed. -/
  | mwaitTimeout (gid : Nat) (t : Nat)
  /-- GROUP_LOADED, R161: a LOADING group starts RUNNING. -/
  | groupLoaded (gid : Nat)
  /-- STAGE_SET_PLACE, R198: the CP places the next stage set of position pos. -/
  | stageSetPlace (kid : Nat) (pos : Nat)
  /-- RESIDENT_DISPATCH, R199: a RESIDENT kernel places its whole grid. -/
  | residentDispatch (kid : Nat)
  /-- BLOCK_RETIRE, R203: a block with no work left retires. -/
  | blockRetire (bid : Nat)
  /-- KERNEL_COMPLETION, R204: the completion record and the counter signal. -/
  | kernelCompletion (kid : Nat)
  /-- PRIORITY_PREEMPTION, R214: a block of lower priority is stopped for a waiting stage set. -/
  | priorityPreemption (kid : Nat)
  /-- HANG_WATCHDOG, R223: the eligible time reaches the interval. -/
  | hangWatchdog (ctx : Nat)
  /-- SNAPSHOT_COMPLETE, R467: the writes of a snapshot image complete. -/
  | snapshotComplete (x : SnapOwner)
  /-- COPY_START, R292: the BTE starts a queued copy. -/
  | copyStart (cid : Nat)
  /-- COPY_SECTOR, R293: the oldest unfinished sector is written or faults. -/
  | copySector (cid : Nat)
  /-- COPY_LAND, R292: the copy lands and makes its arrival. -/
  | copyLand (cid : Nat)
  /-- HALT_DRAIN_DEADLINE, R294: the drain window of a halt ends. -/
  | haltDrainDeadline (ctx : Nat)
  /-- TILE_OP_START, R322: a matrix unit starts its next operation. -/
  | tileOpStart (oid : Nat)
  /-- TILE_CHUNK, R333: one chunk of a product is accumulated. -/
  | tileChunk (oid : Nat)
  /-- TILE_ROW_GROUP, R334: one row group of a drain is written. -/
  | tileRowGroup (oid : Nat)
  /-- TILE_OP_COMPLETE, R337: a tile operation completes. -/
  | tileOpComplete (oid : Nat)
  /-- TLBI_PH1, R361: the translation hardware of a die takes its oldest PH1. -/
  | tlbiPh1 (die : Nat)
  /-- TLBI_ACK, R361: a die finishes its drain and flush and acknowledges. -/
  | tlbiAck (die : Nat)
  /-- TLBI_ACK_COLLECT, R445: an acknowledgement is counted at the endpoint of the owner. -/
  | tlbiAckCollect (die : Nat)
  /-- OWNERSHIP_REQUEST, R369: the home hub takes a page request. -/
  | ownershipRequest (page : Nat × Nat) (dev : Nat) (wr : Bool)
  /-- OWNERSHIP_FLUSH, R369: a device acknowledges its flush of a page. -/
  | ownershipFlush (page : Nat) (dev : Nat)
  /-- COUNTER_WINDOW, R364: the counts of a die restart. -/
  | counterWindow (die : Nat)
  /-- COOLDOWN_END, R364: the cooldown of a region expires. -/
  | cooldownEnd (die : Nat) (region : Nat)
  /-- GROUP_STOP, R383: a group under PREEMPT stops at reconvergence. -/
  | groupStop (gid : Nat)
  /-- RECONVERGENCE_TIMEOUT, R381: RTO passes and a group stops by full save. -/
  | reconvergenceTimeout (gid : Nat)
  /-- HALTING_END, R381: the last engine has written its records. -/
  | haltingEnd (ctx : Nat)
  /-- SAVE_DONE, R389: the save area is written. -/
  | saveDone (ctx : Nat)
  /-- RESTORE_DONE, R393: every image is loaded. -/
  | restoreDone (ctx : Nat)
  /-- RESERVE_RESTORE, R407: a block image in the reserve is restored. -/
  | reserveRestore (bid : Nat)
  /-- AUTORECL, R406: the derailleur takes back a lent cluster. -/
  | autorecl (part : Nat) (kid : Nat)
  /-- SCRUB_COMPLETE, R411: a unit is scrubbed. -/
  | scrubComplete (u : UnitName)
  /-- SHADOW_COPY_DONE, R406: a revoked window is copied and redirected. -/
  | shadowCopyDone (cg : Nat)
  /-- SWEEP_COMPLETE, R413: the rehash sweep of a partition finishes. -/
  | sweepComplete (part : Nat)
  /-- SHIFT_COMMIT, R410: the shift commits. -/
  | shiftCommit (part : Nat)
  /-- GATE_TOKEN, R428: a bucket gains a token. -/
  | gateToken (g : Nat) (e : Nat)
  /-- GATE_STALL_TIMEOUT, R428: a stalled gate operation gives up. -/
  | gateStallTimeout (who : Agent)
  /-- CHANTER_DELIVER, R444: the oldest message held for a die is delivered. -/
  | chanterDeliver (die : Nat)
  /-- HEARTBEAT_TIMEOUT, R451: no heartbeat for HBTO ms. -/
  | heartbeatTimeout (die : Nat)
  /-- FENCE_COMPLETE, R451: the fence steps of a spoke finish. -/
  | fenceComplete (die : Nat)
  /-- ERROR_DETECT, R461: an error is classed and acted on. -/
  | errorDetect (e : ErrorReport)
  /-- ROLLBACK_RESTORE, R469: a protected block is restored from its snapshot. -/
  | rollbackRestore (bid : Nat)
  /-- INSTRUCTION_COMPLETE, R60: the k-th incomplete long-latency result of the agent is written. -/
  | instructionComplete (who : Agent) (k : Nat)
  /-- COLLECTIVE_EXCHANGE, R186: the exchange at pc of the group forms. -/
  | collectiveExchange (gid : Nat) (pc : Word)
  /-- QUEUE_PORT_BEAT, R208: a posted write to the PORT window of queue q. -/
  | queuePortBeat (ctx : Nat) (q : Nat) (off : Nat) (data : List Byte)
  /-- EVENT_COUNTER_WRITE, R217: a write to counter location n. -/
  | eventCounterWrite (ctx : Nat) (n : Nat) (v : BitVec 64)
  /-- PRIVILEGED_REGISTER_WRITE, R5: a write of some bytes to the registers of a window. -/
  | privilegedRegisterWrite (win : Window) (off : Nat) (v : RegWrite)
  /-- KERNEL_ADMIT, R200: the CP chooses and checks one eligible head. -/
  | kernelAdmit
  /-- HUB_WALK, R358: the hub walker finishes a walk. -/
  | hubWalk (die : Nat) (core : Nat) (ctx : Nat) (va : Nat)
  /-- ACCESS_REQUEST_POP, R364: a read of the request register. -/
  | accessRequestPop (die : Nat)
  /-- OCCCLR, R261: the occupancy counters of a slice are zeroed. -/
  | occclr (die : Nat) (slice : Nat)
  /-- CREATE, R374: binds a FREE context. -/
  | create (die : Nat) (ctx : Nat) (arg : Nat)
  /-- ENABLE, R374: moves a BOUND context to READY. -/
  | enable (die : Nat) (ctx : Nat)
  /-- HALT, R381: raises the halt line. -/
  | halt (die : Nat) (ctx : Nat) (arg : Nat)
  /-- RESUME, R386: resumes a stopped context. -/
  | resume (die : Nat) (ctx : Nat)
  /-- SAVE, R389: writes the images of a context. -/
  | save (die : Nat) (ctx : Nat)
  /-- RESTORE, R393: loads the images of a context. -/
  | restore (die : Nat) (ctx : Nat) (arg : Nat)
  /-- KILL, R373: moves a context to DEAD. -/
  | kill (die : Nat) (ctx : Nat)
  /-- DESTROY, R373: frees a context number. -/
  | destroy (die : Nat) (ctx : Nat)
  /-- FORM, R402: forms a partition. -/
  | form (part : Nat)
  /-- ACTIVATE, R402: activates a partition. -/
  | activate (part : Nat)
  /-- PART_GROW, R410: adds a unit. -/
  | partGrow (part : Nat) (u : UnitName) (gear : Bool)
  /-- PART_SHRINK, R410: removes a unit. -/
  | partShrink (part : Nat) (u : UnitName) (arg : Nat)
  /-- LEND, R403: lends a margin unit. -/
  | lend (part : Nat) (peer : Nat) (u : UnitName) (arg : Nat)
  /-- SETMODE, R416: writes the mode word. -/
  | setmode (part : Nat) (force : Bool) (arg : Word)
  /-- SETMAP, R416: writes the die map. -/
  | setmap (part : Nat) (force : Bool) (arg : Word)
  /-- PART_RESET, R417: resets a partition. -/
  | partReset (part : Nat)
  /-- DISSOLVE, R418: dissolves a partition. -/
  | dissolve (part : Nat) (force : Bool)
  /-- MOVE, R419: renumbers a partition. -/
  | move (part : Nat) (peer : Nat)
  /-- QOPEN, R206: opens a queue. -/
  | qopen (part : Nat) (ctx : Nat) (q : Nat) (prio : Nat)
  /-- QCLOSE, R206: closes a queue. -/
  | qclose (part : Nat) (ctx : Nat) (q : Nat)
  /-- CLRREDIR, R408: clears a redirect. -/
  | clrredir (part : Nat) (slot : Nat)
  /-- REVOKE, R406: takes back a lent unit. -/
  | revoke (part : Nat) (u : UnitName)
  /-- GATE_OPEN, R426: opens a gate. -/
  | gateOpen (g : Nat) (part : Nat)
  /-- GATE_CLOSE, R426: frees a gate. -/
  | gateClose (g : Nat)
  /-- SETACL, R429: writes an access-list entry. -/
  | setacl (g : Nat) (e : Nat) (arg : Word)
  /-- SETRESP, R429: sets the response to an empty bucket. -/
  | setresp (g : Nat) (resp : Bool)
  /-- EXPORT, R435: freezes a gate and writes its image. -/
  | exportGate (g : Nat)
  /-- IMPORT, R435: opens a gate from an image. -/
  | importGate (g : Nat)
  /-- PORT_ENABLE, R436: a port is enabled. -/
  | portEnable (link : Nat)
  /-- LINK_TRAINING_DONE, R436: training ends with so many good lanes outward from the hub and inward to it. -/
  | linkTrainingDone (link : Nat) (lanes : Nat × Nat)
  /-- FLIT_RECEIVE, R440: a flit of up to four payload slots arrives and its checks are made; each slot has its payload, its check, whether it is a write, its address and the context and the block of its agent. -/
  | flitReceive (link : Nat) (linkOk : Bool) (payload : List (List Byte)) (crc : List (BitVec 16)) (wr : List Bool) (pa : List Nat) (ctx : List (Nat × Option Nat))
  /-- RETRY_LIMIT, R436: sixteen retries of one flit have failed. -/
  | retryLimit (link : Nat)
  /-- CHTX, R442: the write to CHTX offset 0x038. -/
  | chtx (die : Nat) (v : BitVec 64)
  /-- POP, R446: removes the oldest inbox message. -/
  | popInbox (die : Nat)
  /-- HEARTBEAT, R450: a kernel instance posts a heartbeat. -/
  | heartbeat (die : Nat)
  /-- DIE_FENCE, R451: the FENCE command. -/
  | dieFence (die : Nat)
  /-- REJOIN, R458: the REJOIN command. -/
  | rejoin (die : Nat)
  /-- PACKAGE_RESET, R472: package reset. -/
  | packageReset
  /-- BOOT_STEP_DONE, R472: a boot step completes; item c of ok is the image found for die code c. -/
  | bootStepDone (ok : List (Option BootImage))
  /-- ATTEST, R475: starts an attestation report. -/
  | attest
  /-- ATTEST_DONE, R475: the signed report is written. -/
  | attestDone
  /-- TEMPERATURE_SAMPLE, R477: a die temperature reading in 1/16 of a degree. -/
  | temperatureSample (die : Nat) (temp : BitVec 16)
  /-- SUPPLY_CHANGE, R478: the input voltage in mV changes. -/
  | supplyChange (mv : Nat)
  /-- COPIER_COPY_COMPLETE, R365: a memory-spoke copier finishes a copy. -/
  | copierCopyComplete (job : CopierJob)
  /-- SADDLE_HOST_PEER_ACCESS, R224: an access of an outside agent is performed. -/
  | saddleHostPeerAccess (x : OutsideAccess)
  /-- PAGE_REQUEST_RESPONSE, R448: the host answers a page request. -/
  | pageRequestResponse (ctx : Nat) (page : Nat)
  /-- PACKAGE_POWER_SAMPLE, R477: a package power reading. -/
  | packagePowerSample (watts : Nat)
  /-- SUPPLY_OUT_OF_RANGE_1MS, R478: the input has stayed out of range for 1 ms. -/
  | supplyOutOfRange1ms
  deriving DecidableEq, Repr

end Sys2Proof
end

