-- ==== Sys2Proof/WellFormed.lean ====
section
/-! DEFINITION. Well-formed instructions: the conditions on one instruction's own fields whose breach
raises ILLEGAL_ENCODING (R35, R40, R42, R43, R45, R47 and the entries of the instructions). Conditions
on the group, the launch or the executing core are tested at issue (Machine/Fetch.lean). -/

namespace Sys2Proof

/-- A lane selector is not one of the reserved codes 0xEB to 0xFF (R40). -/
def selOk (b : BitVec 8) : Bool := decide (b.toNat < 0xEB)

/-- A selector read as a pair is even when it names a register (R43, R127). -/
def selPair (b : BitVec 8) : Bool := decide (0xC0 ≤ b.toNat) || decide (b.toNat % 2 = 0)

/-- The V registers that a selector names (R40). -/
def selV (b : BitVec 8) : List Nat := if b.toNat < 0x80 then [b.toNat] else []

/-- The V registers that a pair selector names (R40, R43). -/
def selV2 (b : BitVec 8) : List Nat := if b.toNat < 0x80 then [b.toNat, b.toNat + 1] else []

/-- The half selector of H2F and B2F (R157). -/
def halfOk (b : BitVec 8) : Bool := b == 0xC0 || b == 0xC1

/-- A uniform register code below 192 (R42). -/
def sOk (a : BitVec 8) : Bool := decide (a.toNat < 192)

/-- A uniform pair: even, at most 190 (R42, R43). -/
def sPair (a : BitVec 8) : Bool := decide (a.toNat < 192) && decide (a.toNat % 2 = 0)

/-- The first register of a vector pair is even (R43). -/
def vPair (d : BitVec 7) : Bool := decide (d.toNat % 2 = 0)

/-- A condition that binds only when a bit is set. -/
def wide (w : BitVec 1) (c : Bool) : Bool := w == 0 || c

/-- Registers that are named only when a bit is set. -/
def wideV (w : BitVec 1) (l : List Nat) : List Nat := if w = 1 then l else []

/-- A guard field of a uniform instruction: Q0 to Q3 or QT (R45). -/
def ugOk (g : BitVec 4) : Bool := decide (g.toNat / 2 < 4) || decide (g.toNat / 2 = 7)

/-- A uniform predicate code: 0 to 3, or 7 (R45). -/
def qOk (q : BitVec 3) : Bool := decide (q.toNat < 4) || q == 7

/-- The combining operation is not the reserved code (R135). -/
def bopOk (b : BitVec 2) : Bool := b != 3

/-- The integer comparison is not a reserved code (R135). -/
def icmpOk (c : BitVec 3) : Bool := decide (c.toNat < 6)

/-- FSETP: codes 110 and 111 have no unordered form (R153). -/
def fcmpOk (u : BitVec 1) (c : BitVec 3) : Bool := decide (c.toNat < 6) || u == 0

/-- IADDW: a 16-bit element has k at most 1 (R129). -/
def addwOk (ty k : BitVec 2) : Bool := decide (ty.toNat < 2) || decide (k.toNat < 2)

/-- The VOTE operation is not the reserved code (R187). -/
def voteOk (op : BitVec 2) : Bool := op != 3

/-- The mask field of a collective (R185). -/
def maskOk (all : BitVec 1) (sm : BitVec 8) : Bool := decide (sm.toNat < 192) && (all == 0 || sm == 0)

/-- The access size in bytes of a size code (R46). -/
def sizeBytes (size : BitVec 3) : Nat := 2 ^ size.toNat

/-- The registers that data of a size takes: one, a pair, a group of four (R46). -/
def sizeRegs (size : BitVec 3) : Nat := if size = 4 then 4 else if size = 3 then 2 else 1

/-- Alignment of a vector data register (R43). -/
def dataAl (size : BitVec 3) (d : BitVec 7) : Bool := decide (d.toNat % sizeRegs size = 0)

/-- Alignment of the registers of a compare and swap: twice the data (R273). -/
def casAl (size : BitVec 3) (d : BitVec 7) : Bool := decide (d.toNat % (2 * sizeRegs size) = 0)

/-- The V registers that data of a size names. -/
def dataV (size : BitVec 3) (d : BitVec 7) : List Nat := (List.range (sizeRegs size)).map (d.toNat + ·)

/-- The V registers that a compare and swap names. -/
def casV (size : BitVec 3) (d : BitVec 7) : List Nat := (List.range (2 * sizeRegs size)).map (d.toNat + ·)

/-- Range and alignment of uniform data registers (R42, R43). -/
def sData (size : BitVec 3) (d : BitVec 8) : Bool :=
  decide (d.toNat % sizeRegs size = 0) && decide (d.toNat + sizeRegs size ≤ 192)

/-- Range and alignment of the uniform registers of a compare and swap (R279). -/
def sCas (size : BitVec 3) (d : BitVec 8) : Bool :=
  decide (d.toNat % (2 * sizeRegs size) = 0) && decide (d.toNat + 2 * sizeRegs size ≤ 192)

/-- Scope codes 5 to 7 are reserved (R47). -/
def scopeOk (s : BitVec 3) : Bool := decide (s.toNat < 5)

/-- A pad access names scope BLOCK or CLUSTER only (R262). -/
def padScope (s : BitVec 3) : Bool := decide (s.toNat < 2)

/-- A pad selector with W = 0 has s = 0 (R270). -/
def winOk (gr : BitVec 4) : Bool := decide (8 ≤ gr.toNat) || gr == 0

/-- W and s of a barrier instruction (R304). -/
def winS (win : BitVec 1) (s : BitVec 3) : Bool := win == 1 || s == 0

/-- Sizes of 32 and 64 bits. -/
def size32 (size : BitVec 3) : Bool := size == 2 || size == 3

/-- An order of an instruction that reads memory and does not write it (R47). -/
def ordRd (o : BitVec 2) : Bool := o == 0 || o == 1

/-- An order of an instruction that writes memory and does not read it (R47). -/
def ordWr (o : BitVec 2) : Bool := o == 0 || o == 2

/-- The mode of a plain or acquire load (R46, R47). -/
def loadOk (size : BitVec 3) (sext : BitVec 1) (ord : BitVec 2) (scope : BitVec 3) : Bool :=
  decide (size.toNat < 5) && (sext == 0 || decide (size.toNat < 2)) && ordRd ord && scopeOk scope &&
    (ord == 1 || scope == 0)

/-- The mode of a plain or release store (R46, R47). -/
def storeOk (size : BitVec 3) (sext : BitVec 1) (ord : BitVec 2) (scope : BitVec 3) : Bool :=
  decide (size.toNat < 5) && sext == 0 && ordWr ord && scopeOk scope && (ord == 2 || scope == 0)

/-- The aop field of an atomic names compare and swap (R271). -/
def aopCas (imm : BitVec 12) : Bool := decide (imm.toNat / 256 = 10)

/-- The aop codes: add to fadd, and cas where it is allowed; fadd has 32 bits only (R271). -/
def aopOk (size : BitVec 3) (imm : BitVec 12) (casAllowed : Bool) : Bool :=
  decide (imm.toNat / 256 < 9) || (decide (imm.toNat / 256 = 9) && size == 2) ||
    (decide (imm.toNat / 256 = 10) && casAllowed)

/-- The counter selectors of RDCTR (R396). -/
def ctrOk (sel : BitVec 8) : Bool :=
  decide (sel.toNat < 4) || (decide (0x10 ≤ sel.toNat) && decide (sel.toNat ≤ 0x1B)) ||
    (decide (0x80 ≤ sel.toNat) && decide (sel.toNat ≤ 0x83))

/-- The special registers of UMOVS; CLOCK takes a pair (R120). -/
def umovsOk (sel : BitVec 6) (d : BitVec 8) : Bool :=
  decide (sel.toNat < 0x16) || (sel == 0x16 && sPair d)

/-- The three forms of GDCHK (R466). -/
def gdchkOk (op : BitVec 2) (d a : BitVec 8) (n : BitVec 4) (arg : BitVec 16) : Bool :=
  (op == 0 && d == 0 && sOk a && decide (arg.toNat < 8) &&
      (decide (arg.toNat < 4) || arg == 7)) ||
    (op == 1 && sOk d && a == 0 && n == 0 && arg == 0) ||
    (op == 2 && sOk d && a == 0 && n == 0)

/-- SHAPE reads eight registers from a multiple of 8 up to 184 (R284). -/
def shapeReg (a : BitVec 8) : Bool := decide (a.toNat % 8 = 0) && decide (a.toNat ≤ 184)

/-- The directions of XCOPY and the fields each uses (R287). -/
def xcopyOk (dir : BitVec 2) (gr : BitVec 4) (hint : BitVec 2) (s : BitVec 3) (off64 get : BitVec 1)
    (a : BitVec 8) : Bool :=
  (decide (dir.toNat < 2) && s == 0 && get == 0 && (off64 == 0 || sPair a)) ||
    (dir == 2 && gr == 0 && hint == 0 && off64 == 0)

/-- The two forms of BINIT; on a core Sa is zero, which is tested at issue (R304). -/
def binitOk (r : BitVec 1) (d a : BitVec 8) (n : BitVec 12) : Bool :=
  sOk a && ((r == 1 && n == 0 && sOk d) || (r == 0 && d == 0 && n != 0))

/-- An explicit parity, needed through the window (R304); with E 0 par is a field that the form does not use (R35). (DEDUCED, log
entry 114) -/
def parOk (win par e : BitVec 1) : Bool := e == 1 || (win == 0 && par == 0)

/-- An operand record: even, ending at S191 or below (R326). -/
def recOk (d : BitVec 8) (n : Nat) : Bool := decide (d.toNat % 2 = 0) && decide (d.toNat + n ≤ 192)

/-- The chaining fields of TMMA (R329). -/
def tmmaOk (ch : BitVec 1) (am : BitVec 4) (ci : BitVec 1) (kc : BitVec 2) (an : BitVec 4) : Bool :=
  (ch == 0 && am == 0 && ci == 0) || (ch == 1 && kc != 3 && am != an)

/-- ALL = 1 leaves Sa and An zero (R329). -/
def allOk (all : BitVec 1) (a : BitVec 8) (an : BitVec 4) : Bool := all == 0 || (a == 0 && an == 0)

/-- An event of the machine, which no word encodes. -/
def Instr.isEvent : Instr → Bool
  | .iadd _ _ _ => false
  | .isub _ _ _ => false
  | .imul _ _ _ => false
  | .imulh _ _ _ => false
  | .imulhu _ _ _ => false
  | .imin _ _ _ => false
  | .imax _ _ _ => false
  | .iminu _ _ _ => false
  | .imaxu _ _ _ => false
  | .iabs _ _ => false
  | .iadds _ _ _ => false
  | .isubs _ _ _ => false
  | .iaddsu _ _ _ => false
  | .isubsu _ _ _ => false
  | .and _ _ _ => false
  | .or _ _ _ => false
  | .xor _ _ _ => false
  | .andn _ _ _ => false
  | .orn _ _ _ => false
  | .shl _ _ _ => false
  | .shr _ _ _ => false
  | .sar _ _ _ => false
  | .rotl _ _ _ => false
  | .popc _ _ => false
  | .clz _ _ => false
  | .brev _ _ => false
  | .mov _ _ => false
  | .fadd _ _ _ => false
  | .fsub _ _ _ => false
  | .fmul _ _ _ => false
  | .fmin _ _ _ => false
  | .fmax _ _ _ => false
  | .fabs _ _ => false
  | .ffloor _ _ => false
  | .fceil _ _ => false
  | .ftrunc _ _ => false
  | .frint _ _ => false
  | .hadd2 _ _ _ => false
  | .hmul2 _ _ _ => false
  | .hmin2 _ _ _ => false
  | .hmax2 _ _ _ => false
  | .badd2 _ _ _ => false
  | .bmul2 _ _ _ => false
  | .i2f _ _ => false
  | .u2f _ _ => false
  | .f2i _ _ => false
  | .f2u _ _ => false
  | .f2h _ _ _ => false
  | .h2f _ _ _ => false
  | .f2b _ _ _ => false
  | .b2f _ _ _ => false
  | .nop => false
  | .uadd _ _ _ => false
  | .usub _ _ _ => false
  | .umul _ _ _ => false
  | .umulh _ _ _ => false
  | .umin _ _ _ => false
  | .umax _ _ _ => false
  | .uminu _ _ _ => false
  | .umaxu _ _ _ => false
  | .uand _ _ _ => false
  | .uor _ _ _ => false
  | .uxor _ _ _ => false
  | .uandn _ _ _ => false
  | .ushl _ _ _ => false
  | .ushr _ _ _ => false
  | .usar _ _ _ => false
  | .upopc _ _ => false
  | .uclz _ _ => false
  | .umov _ _ => false
  | .unop => false
  | .imac _ _ _ _ _ => false
  | .imacw _ _ _ _ _ _ => false
  | .isum3 _ _ _ _ _ => false
  | .idot8 _ _ _ _ _ _ _ => false
  | .iabda _ _ _ _ _ _ => false
  | .iaddc _ _ _ _ _ _ => false
  | .isubb _ _ _ _ _ _ => false
  | .iaddw _ _ _ _ _ _ => false
  | .lea _ _ _ _ _ _ _ => false
  | .bfx _ _ _ _ _ => false
  | .bfi _ _ _ _ _ => false
  | .bytex _ _ _ _ _ => false
  | .sel _ _ _ _ _ _ => false
  | .isetp _ _ _ _ _ _ _ _ _ => false
  | .movlo _ _ _ => false
  | .movhi _ _ _ => false
  | .ptab _ _ _ _ _ _ => false
  | .p2v _ _ => false
  | .v2p _ _ _ => false
  | .ffma _ _ _ _ _ _ _ => false
  | .hfma2 _ _ _ _ _ _ _ => false
  | .bfma2 _ _ _ _ _ _ _ => false
  | .fsetp _ _ _ _ _ _ _ _ _ => false
  | .fclass _ _ _ _ => false
  | .fdot2 _ _ _ _ _ _ => false
  | .cvtn _ _ _ _ _ _ => false
  | .cvtw _ _ _ _ _ _ => false
  | .frcp _ _ _ _ => false
  | .frsq _ _ _ _ => false
  | .fsqrt _ _ _ _ => false
  | .fexp2 _ _ _ _ => false
  | .flog2 _ _ _ _ => false
  | .fsint _ _ _ _ => false
  | .fcost _ _ _ _ => false
  | .fldexp _ _ _ _ => false
  | .shfl _ _ _ _ _ _ _ _ _ => false
  | .vote _ _ _ _ _ _ _ _ => false
  | .ballot _ _ _ _ _ _ _ => false
  | .matchv _ _ _ _ _ _ => false
  | .redux _ _ _ _ _ _ _ _ => false
  | .scanx _ _ _ _ _ _ _ _ _ => false
  | .bra _ _ => false
  | .jmpi _ _ => false
  | .call _ _ => false
  | .calli _ _ => false
  | .ret _ => false
  | .exitT _ => false
  | .join _ _ => false
  | .yield _ => false
  | .grow _ _ => false
  | .shrink _ _ => false
  | .monw _ _ _ _ _ _ _ _ _ _ => false
  | .mwait _ _ _ _ => false
  | .trap _ _ => false
  | .bkpt _ _ => false
  | .rdctr _ _ _ _ => false
  | .ld _ _ _ _ _ _ _ _ _ _ _ _ => false
  | .st _ _ _ _ _ _ _ _ _ _ _ => false
  | .ldx _ _ _ _ _ _ _ _ _ _ _ _ => false
  | .pld _ _ _ _ _ _ _ _ _ _ _ _ => false
  | .pst _ _ _ _ _ _ _ _ _ _ _ => false
  | .atom _ _ _ _ _ _ _ _ _ _ _ _ => false
  | .atomc _ _ _ _ _ _ _ _ _ _ _ _ => false
  | .red _ _ _ _ _ _ _ _ _ _ _ => false
  | .patom _ _ _ _ _ _ _ _ _ _ _ _ => false
  | .fence _ _ _ => false
  | .cflush _ _ _ _ _ _ _ _ _ _ => false
  | .cinv _ _ _ _ _ _ _ _ _ _ => false
  | .pref _ _ _ _ _ _ _ _ _ _ => false
  | .pprobe _ _ _ _ _ _ _ _ _ _ _ _ => false
  | .phint _ _ _ _ _ _ _ _ _ _ _ => false
  | .umac _ _ _ _ _ => false
  | .umovlo _ _ _ => false
  | .umovhi _ _ _ => false
  | .usetp _ _ _ _ _ _ _ _ _ => false
  | .usel _ _ _ _ _ _ => false
  | .ubfx _ _ _ _ _ => false
  | .ubfi _ _ _ _ _ => false
  | .umovs _ _ _ => false
  | .v2s _ _ _ _ _ => false
  | .uld _ _ _ _ _ _ _ _ _ _ _ => false
  | .ust _ _ _ _ _ _ _ _ _ _ => false
  | .uatom _ _ _ _ _ _ _ _ _ _ _ => false
  | .ufence _ _ _ => false
  | .ubra _ _ => false
  | .ujmpi _ _ => false
  | .ucall _ _ => false
  | .uret _ => false
  | .uexit _ => false
  | .utrap _ _ => false
  | .gnarrow _ _ _ _ _ _ _ _ => false
  | .ginfo _ _ _ _ _ => false
  | .pinfo _ _ _ _ => false
  | .gdchk _ _ _ _ _ _ => false
  | .shape _ _ _ => false
  | .xcopy _ _ _ _ _ _ _ _ _ _ _ _ => false
  | .xgath _ _ _ _ _ _ _ _ _ => false
  | .xscat _ _ _ _ _ _ _ _ _ => false
  | .xstat _ _ _ _ _ => false
  | .binit _ _ _ _ _ _ => false
  | .barv _ _ _ _ _ _ => false
  | .bard _ _ _ _ _ _ => false
  | .bwait _ _ _ _ _ _ _ => false
  | .btry _ _ _ _ _ _ _ _ _ => false
  | .bexp _ _ _ _ _ _ => false
  | .bdrop _ _ _ _ _ => false
  | .blkbar _ => false
  | .clubar _ => false
  | .diebar _ => false
  | .gsig _ _ => false
  | .gwait _ _ _ => false
  | .gtry _ _ _ _ _ _ => false
  | .gpost _ _ _ _ _ => false
  | .gread _ _ _ _ _ => false
  | .gquery _ _ _ _ _ => false
  | .launch _ _ _ _ => false
  | .qstat _ _ _ _ => false
  | .evsig _ _ _ _ => false
  | .evwait _ _ _ => false
  | .tzero _ _ _ _ _ => false
  | .tmma _ _ _ _ _ _ _ _ _ _ _ _ _ => false
  | .tmmas _ _ _ _ _ _ _ _ _ _ _ => false
  | .tdrain _ _ _ _ _ _ _ _ _ _ _ => false
  | .tfence _ => false
  | .twait _ _ _ _ => false
  | .tstat _ _ _ _ _ _ => false
  | .joinTimeout _ _ => true
  | .yieldRelease _ _ => true
  | .mwaitTimeout _ _ => true
  | .groupLoaded _ => true
  | .stageSetPlace _ _ => true
  | .residentDispatch _ => true
  | .blockRetire _ => true
  | .kernelCompletion _ => true
  | .priorityPreemption _ => true
  | .hangWatchdog _ => true
  | .snapshotComplete _ => true
  | .copyStart _ => true
  | .copySector _ => true
  | .copyLand _ => true
  | .haltDrainDeadline _ => true
  | .tileOpStart _ => true
  | .tileChunk _ => true
  | .tileRowGroup _ => true
  | .tileOpComplete _ => true
  | .tlbiPh1 _ => true
  | .tlbiAck _ => true
  | .tlbiAckCollect _ => true
  | .ownershipRequest _ _ _ => true
  | .ownershipFlush _ _ => true
  | .counterWindow _ => true
  | .cooldownEnd _ _ => true
  | .groupStop _ => true
  | .reconvergenceTimeout _ => true
  | .haltingEnd _ => true
  | .saveDone _ => true
  | .restoreDone _ => true
  | .reserveRestore _ => true
  | .autorecl _ _ => true
  | .scrubComplete _ => true
  | .shadowCopyDone _ => true
  | .sweepComplete _ => true
  | .shiftCommit _ => true
  | .gateToken _ _ => true
  | .gateStallTimeout _ => true
  | .chanterDeliver _ => true
  | .heartbeatTimeout _ => true
  | .fenceComplete _ => true
  | .errorDetect _ => true
  | .rollbackRestore _ => true
  | .instructionComplete _ _ => true
  | .collectiveExchange _ _ => true
  | .queuePortBeat _ _ _ _ => true
  | .eventCounterWrite _ _ _ => true
  | .privilegedRegisterWrite _ _ _ => true
  | .kernelAdmit => true
  | .hubWalk _ _ _ _ => true
  | .accessRequestPop _ => true
  | .occclr _ _ => true
  | .create _ _ _ => true
  | .enable _ _ => true
  | .halt _ _ _ => true
  | .resume _ _ => true
  | .save _ _ => true
  | .restore _ _ _ => true
  | .kill _ _ => true
  | .destroy _ _ => true
  | .form _ => true
  | .activate _ => true
  | .partGrow _ _ _ => true
  | .partShrink _ _ _ => true
  | .lend _ _ _ _ => true
  | .setmode _ _ _ => true
  | .setmap _ _ _ => true
  | .partReset _ => true
  | .dissolve _ _ => true
  | .move _ _ => true
  | .qopen _ _ _ _ => true
  | .qclose _ _ _ => true
  | .clrredir _ _ => true
  | .revoke _ _ => true
  | .gateOpen _ _ => true
  | .gateClose _ => true
  | .setacl _ _ _ => true
  | .setresp _ _ => true
  | .exportGate _ => true
  | .importGate _ => true
  | .portEnable _ => true
  | .linkTrainingDone _ _ => true
  | .flitReceive _ _ _ _ _ _ _ => true
  | .retryLimit _ => true
  | .chtx _ _ => true
  | .popInbox _ => true
  | .heartbeat _ => true
  | .dieFence _ => true
  | .rejoin _ => true
  | .packageReset => true
  | .bootStepDone _ => true
  | .attest => true
  | .attestDone => true
  | .temperatureSample _ _ => true
  | .supplyChange _ => true
  | .copierCopyComplete _ => true
  | .saddleHostPeerAccess _ => true
  | .pageRequestResponse _ _ => true
  | .packagePowerSample _ => true
  | .supplyOutOfRange1ms => true

/-- The static conditions on an instruction's fields; an event has no word and is not well formed. -/
def Instr.wf : Instr → Bool
  | .iadd _ _ b => selOk b
  | .isub _ _ b => selOk b
  | .imul _ _ b => selOk b
  | .imulh _ _ b => selOk b
  | .imulhu _ _ b => selOk b
  | .imin _ _ b => selOk b
  | .imax _ _ b => selOk b
  | .iminu _ _ b => selOk b
  | .imaxu _ _ b => selOk b
  | .iabs _ _ => true
  | .iadds _ _ b => selOk b
  | .isubs _ _ b => selOk b
  | .iaddsu _ _ b => selOk b
  | .isubsu _ _ b => selOk b
  | .and _ _ b => selOk b
  | .or _ _ b => selOk b
  | .xor _ _ b => selOk b
  | .andn _ _ b => selOk b
  | .orn _ _ b => selOk b
  | .shl _ _ b => selOk b
  | .shr _ _ b => selOk b
  | .sar _ _ b => selOk b
  | .rotl _ _ b => selOk b
  | .popc _ _ => true
  | .clz _ _ => true
  | .brev _ _ => true
  | .mov _ b => selOk b
  | .fadd _ _ b => selOk b
  | .fsub _ _ b => selOk b
  | .fmul _ _ b => selOk b
  | .fmin _ _ b => selOk b
  | .fmax _ _ b => selOk b
  | .fabs _ _ => true
  | .ffloor _ _ => true
  | .fceil _ _ => true
  | .ftrunc _ _ => true
  | .frint _ _ => true
  | .hadd2 _ _ b => selOk b
  | .hmul2 _ _ b => selOk b
  | .hmin2 _ _ b => selOk b
  | .hmax2 _ _ b => selOk b
  | .badd2 _ _ b => selOk b
  | .bmul2 _ _ b => selOk b
  | .i2f _ _ => true
  | .u2f _ _ => true
  | .f2i _ _ => true
  | .f2u _ _ => true
  | .f2h _ _ b => selOk b
  | .h2f _ _ b => selOk b && halfOk b
  | .f2b _ _ b => selOk b
  | .b2f _ _ b => selOk b && halfOk b
  | .nop => true
  | .uadd d a _ => sOk d && sOk a
  | .usub d a _ => sOk d && sOk a
  | .umul d a _ => sOk d && sOk a
  | .umulh d a _ => sOk d && sOk a
  | .umin d a _ => sOk d && sOk a
  | .umax d a _ => sOk d && sOk a
  | .uminu d a _ => sOk d && sOk a
  | .umaxu d a _ => sOk d && sOk a
  | .uand d a _ => sOk d && sOk a
  | .uor d a _ => sOk d && sOk a
  | .uxor d a _ => sOk d && sOk a
  | .uandn d a _ => sOk d && sOk a
  | .ushl d a _ => sOk d && sOk a
  | .ushr d a _ => sOk d && sOk a
  | .usar d a _ => sOk d && sOk a
  | .upopc d a => sOk d && sOk a
  | .uclz d a => sOk d && sOk a
  | .umov d _ => sOk d
  | .unop => true
  | .imac _ _ _ b c => selOk b && selOk c
  | .imacw _ d _ b c _ => vPair d && selOk b && selOk c && selPair c
  | .isum3 _ _ _ b c => selOk b && selOk c
  | .idot8 _ _ _ b c _ _ => selOk b && selOk c
  | .iabda _ _ _ b c _ => selOk b && selOk c
  | .iaddc _ _ _ b _ _ => selOk b
  | .isubb _ _ _ b _ _ => selOk b
  | .iaddw _ _ _ b ty k => selOk b && addwOk ty k
  | .lea _ d a b _ w _ => selOk b && wide w (vPair d && vPair a)
  | .bfx _ _ _ b _ => selOk b
  | .bfi _ _ _ b c => selOk b && selOk c
  | .bytex _ _ _ b c => selOk b && selOk c
  | .sel _ _ _ b _ _ => selOk b
  | .isetp _ _ b _ _ _ bop _ cmp => selOk b && bopOk bop && icmpOk cmp
  | .movlo _ _ _ => true
  | .movhi _ _ _ => true
  | .ptab _ _ _ _ _ _ => true
  | .p2v _ _ => true
  | .v2p _ _ b => selOk b
  | .ffma _ _ _ b c _ _ => selOk b && selOk c
  | .hfma2 _ _ _ b c _ _ => selOk b && selOk c
  | .bfma2 _ _ _ b c _ _ => selOk b && selOk c
  | .fsetp _ _ b _ _ _ bop u cmp => selOk b && bopOk bop && fcmpOk u cmp
  | .fclass _ _ _ _ => true
  | .fdot2 _ _ _ b c _ => selOk b && selOk c
  | .cvtn _ _ _ _ _ _ => true
  | .cvtw _ _ _ _ _ _ => true
  | .frcp _ _ _ _ => true
  | .frsq _ _ _ _ => true
  | .fsqrt _ _ _ _ => true
  | .fexp2 _ _ _ _ => true
  | .flog2 _ _ _ _ => true
  | .fsint _ _ _ _ => true
  | .fcost _ _ _ _ => true
  | .fldexp _ _ _ b => selOk b
  | .shfl _ _ _ _ b c _ all sm => selOk b && selOk c && maskOk all sm
  | .vote _ _ _ _ _ op all sm => voteOk op && maskOk all sm
  | .ballot _ _ _ _ _ all sm => maskOk all sm
  | .matchv _ _ _ _ all sm => maskOk all sm
  | .redux _ _ _ _ c _ all sm => selOk c && maskOk all sm
  | .scanx _ _ _ _ c _ _ all sm => selOk c && maskOk all sm
  | .bra _ _ => true
  | .jmpi _ _ => true
  | .call _ _ => true
  | .calli _ _ => true
  | .ret _ => true
  | .exitT _ => true
  | .join _ n => n != 0
  | .yield _ => true
  | .grow g n => n != 0 && g == 14
  | .shrink g n => n != 0 && g == 14
  | .monw _ a size sext ord off64 _ hint scope _ => wide off64 (vPair a) && size == 2 && sext == 0 && ord == 0 && hint == 0 && scope == 0
  | .mwait _ b pd p => selOk b && (p == 1 || pd == 0)
  | .trap _ _ => true
  | .bkpt _ _ => true
  | .rdctr _ _ d sl => vPair d && ctrOk sl
  | .ld _ _ d a size sext ord off64 _ _ scope _ => wide off64 (vPair a) && dataAl size d && loadOk size sext ord scope
  | .st _ d a size sext ord off64 _ _ scope _ => wide off64 (vPair a) && dataAl size d && storeOk size sext ord scope
  | .ldx _ _ d a size sext ord off64 _ hint scope _ => wide off64 (vPair a) && dataAl size d && size32 size && sext == 0 && hint == 0 && ordRd ord && scopeOk scope
  | .pld _ _ d a size sext ord off64 gr hint scope _ => wide off64 (vPair a) && dataAl size d && loadOk size sext ord scope && hint == 0 && padScope scope && winOk gr
  | .pst _ d a size sext ord off64 gr hint scope _ => wide off64 (vPair a) && dataAl size d && storeOk size sext ord scope && hint == 0 && padScope scope && winOk gr
  | .atom _ _ d a size sext ord off64 _ hint scope imm => wide off64 (vPair a) && dataAl size d && size32 size && sext == 0 && ord != 3 && hint == 0 && scopeOk scope && aopOk size imm false
  | .atomc _ _ d a size sext ord off64 _ hint scope _ => wide off64 (vPair a) && casAl size d && size32 size && sext == 0 && ord != 3 && hint == 0 && scopeOk scope
  | .red _ d a size sext ord off64 _ hint scope imm => wide off64 (vPair a) && dataAl size d && size32 size && sext == 0 && ordWr ord && hint == 0 && scopeOk scope && aopOk size imm false
  | .patom _ _ d a size sext ord off64 gr hint scope imm => wide off64 (vPair a) && (if aopCas imm then casAl size d else dataAl size d) && size32 size && sext == 0 && ord != 3 && hint == 0 && padScope scope && winOk gr && aopOk size imm true
  | .fence _ _ scope => scopeOk scope
  | .cflush _ a size sext ord off64 _ hint scope _ => wide off64 (vPair a) && size == 0 && sext == 0 && ord == 0 && hint == 0 && scopeOk scope
  | .cinv _ a size sext ord off64 _ hint scope _ => wide off64 (vPair a) && size == 0 && sext == 0 && ord == 0 && hint == 0 && scopeOk scope
  | .pref _ a size sext ord off64 _ _ scope _ => wide off64 (vPair a) && size == 0 && sext == 0 && ord == 0 && scope == 0
  | .pprobe _ _ _ a size sext ord off64 _ hint scope _ => wide off64 (vPair a) && size == 0 && sext == 0 && ord == 0 && hint == 0 && scope == 0
  | .phint _ kind a size sext ord off64 _ hint scope _ => wide off64 (vPair a) && kind != 3 && size == 0 && sext == 0 && ord == 0 && hint == 0 && scope == 0
  | .umac g d a _ sb => ugOk g && sOk d && sOk a && sOk sb
  | .umovlo g d _ => ugOk g && sOk d
  | .umovhi g d _ => ugOk g && sOk d
  | .usetp g a _ pd pc _ bop _ cmp => ugOk g && sOk a && bopOk bop && icmpOk cmp && qOk pd && qOk pc
  | .usel g d a _ _ q => ugOk g && sOk d && sOk a && qOk q
  | .ubfx g d a _ _ => ugOk g && sOk d && sOk a
  | .ubfi g d a _ sb => ugOk g && sOk d && sOk a && sOk sb
  | .umovs g d sl => ugOk g && sOk d && umovsOk sl d
  | .v2s g _ d a _ => ugOk g && sOk d && sOk a
  | .uld g _ d a size sext ord _ _ scope _ => ugOk g && sOk d && sOk a && sData size d && loadOk size sext ord scope
  | .ust g d a size sext ord _ _ scope _ => ugOk g && sOk d && sOk a && sData size d && storeOk size sext ord scope
  | .uatom g _ d a size sext ord _ hint scope imm => ugOk g && sOk d && sOk a && (if aopCas imm then sCas size d else sData size d) && size32 size && sext == 0 && ord != 3 && hint == 0 && scopeOk scope && aopOk size imm true
  | .ufence g _ scope => ugOk g && scopeOk scope
  | .ubra g _ => ugOk g
  | .ujmpi g a => ugOk g && sOk a
  | .ucall g _ => ugOk g
  | .uret g => ugOk g
  | .uexit g => ugOk g
  | .utrap g _ => ugOk g
  | .gnarrow g a _ _ sb _ gset gi => ugOk g && sPair a && sPair sb && (gset == 1 || gi == 0)
  | .ginfo g _ d sl _ => ugOk g && sPair d && sl != 3
  | .pinfo g _ d sl => ugOk g && sOk d && sl.toNat < 9
  | .gdchk g d a op n arg => ugOk g && gdchkOk op d a n arg
  | .shape g a _ => ugOk g && shapeReg a
  | .xcopy g d a dir _ gr hint scope _ s off64 get => ugOk g && sOk d && sOk a && scopeOk scope && xcopyOk dir gr hint s off64 get a
  | .xgath g d a _ _ _ scope _ sm => ugOk g && sOk d && sOk a && scopeOk scope && sPair sm
  | .xscat g d a _ _ _ scope _ sm => ugOk g && sOk d && sOk a && scopeOk scope && sPair sm
  | .xstat g _ d sl k => ugOk g && sOk d && sl != 3 && (sl == 2 || k == 0)
  | .binit g d a r _ n => ugOk g && binitOk r d a n
  | .barv g a _ win s scope => ugOk g && sOk a && winS win s && scopeOk scope
  | .bard g a _ win s scope => ugOk g && sOk a && winS win s && scopeOk scope
  | .bwait g a _ win s par e => ugOk g && sOk a && winS win s && parOk win par e
  | .btry g _ a _ win s qd par e => ugOk g && sOk a && winS win s && qOk qd && parOk win par e
  | .bexp g a _ win s n => ugOk g && sOk a && winS win s && n != 0
  | .bdrop g a _ win s => ugOk g && sOk a && winS win s
  | .blkbar g => ugOk g
  | .clubar g => ugOk g
  | .diebar g => ugOk g
  | .gsig g a => ugOk g && sOk a
  | .gwait g a sb => ugOk g && sOk a && sPair sb
  | .gtry g _ d a qd sb => ugOk g && sOk a && sPair d && sPair sb && qOk qd
  | .gpost g a _ _ sb => ugOk g && sOk a && sPair sb
  | .gread g _ d a _ => ugOk g && sOk a && sPair d
  | .gquery g _ d a sl => ugOk g && sOk d && sOk a && sl.toNat < 5
  | .launch g a _ _ => ugOk g && sOk a
  | .qstat g _ d _ => ugOk g && sOk d
  | .evsig g a set sb => ugOk g && sOk a && (if set == 1 then sPair sb else sOk sb)
  | .evwait g a sb => ugOk g && sOk a && sPair sb
  | .tzero g a _ k e => ugOk g && sOk a && (e == 1 || k == 0)
  | .tmma g d a kc an _ _ ch am k e _ ci => ugOk g && sOk a && recOk d 4 && (e == 1 || k == 0) && tmmaOk ch am ci kc an
  | .tmmas g d a _ _ _ _ k e _ _ => ugOk g && sOk a && recOk d 6 && (e == 1 || k == 0)
  | .tdrain g d a _ _ gd ge _ k e _ => ugOk g && sOk a && recOk d 2 && (e == 1 || k == 0) && (ge == 1 || gd == 0)
  | .tfence g => ugOk g
  | .twait g a all an => ugOk g && sOk a && allOk all a an
  | .tstat g _ d a all an => ugOk g && sOk d && sOk a && allOk all a an
  | .joinTimeout _ _ => false
  | .yieldRelease _ _ => false
  | .mwaitTimeout _ _ => false
  | .groupLoaded _ => false
  | .stageSetPlace _ _ => false
  | .residentDispatch _ => false
  | .blockRetire _ => false
  | .kernelCompletion _ => false
  | .priorityPreemption _ => false
  | .hangWatchdog _ => false
  | .snapshotComplete _ => false
  | .copyStart _ => false
  | .copySector _ => false
  | .copyLand _ => false
  | .haltDrainDeadline _ => false
  | .tileOpStart _ => false
  | .tileChunk _ => false
  | .tileRowGroup _ => false
  | .tileOpComplete _ => false
  | .tlbiPh1 _ => false
  | .tlbiAck _ => false
  | .tlbiAckCollect _ => false
  | .ownershipRequest _ _ _ => false
  | .ownershipFlush _ _ => false
  | .counterWindow _ => false
  | .cooldownEnd _ _ => false
  | .groupStop _ => false
  | .reconvergenceTimeout _ => false
  | .haltingEnd _ => false
  | .saveDone _ => false
  | .restoreDone _ => false
  | .reserveRestore _ => false
  | .autorecl _ _ => false
  | .scrubComplete _ => false
  | .shadowCopyDone _ => false
  | .sweepComplete _ => false
  | .shiftCommit _ => false
  | .gateToken _ _ => false
  | .gateStallTimeout _ => false
  | .chanterDeliver _ => false
  | .heartbeatTimeout _ => false
  | .fenceComplete _ => false
  | .errorDetect _ => false
  | .rollbackRestore _ => false
  | .instructionComplete _ _ => false
  | .collectiveExchange _ _ => false
  | .queuePortBeat _ _ _ _ => false
  | .eventCounterWrite _ _ _ => false
  | .privilegedRegisterWrite _ _ _ => false
  | .kernelAdmit => false
  | .hubWalk _ _ _ _ => false
  | .accessRequestPop _ => false
  | .occclr _ _ => false
  | .create _ _ _ => false
  | .enable _ _ => false
  | .halt _ _ _ => false
  | .resume _ _ => false
  | .save _ _ => false
  | .restore _ _ _ => false
  | .kill _ _ => false
  | .destroy _ _ => false
  | .form _ => false
  | .activate _ => false
  | .partGrow _ _ _ => false
  | .partShrink _ _ _ => false
  | .lend _ _ _ _ => false
  | .setmode _ _ _ => false
  | .setmap _ _ _ => false
  | .partReset _ => false
  | .dissolve _ _ => false
  | .move _ _ => false
  | .qopen _ _ _ _ => false
  | .qclose _ _ _ => false
  | .clrredir _ _ => false
  | .revoke _ _ => false
  | .gateOpen _ _ => false
  | .gateClose _ => false
  | .setacl _ _ _ => false
  | .setresp _ _ => false
  | .exportGate _ => false
  | .importGate _ => false
  | .portEnable _ => false
  | .linkTrainingDone _ _ => false
  | .flitReceive _ _ _ _ _ _ _ => false
  | .retryLimit _ => false
  | .chtx _ _ => false
  | .popInbox _ => false
  | .heartbeat _ => false
  | .dieFence _ => false
  | .rejoin _ => false
  | .packageReset => false
  | .bootStepDone _ => false
  | .attest => false
  | .attestDone => false
  | .temperatureSample _ _ => false
  | .supplyChange _ => false
  | .copierCopyComplete _ => false
  | .saddleHostPeerAccess _ => false
  | .pageRequestResponse _ _ => false
  | .packagePowerSample _ => false
  | .supplyOutOfRange1ms => false

end Sys2Proof
end

