-- ==== Sys2Proof/Decode.lean ====
section
/-! DEFINITION. Decoding: words to instructions and prefixes, total, refusing by name, and the encoder
beside it (R29 to R65). A word is decoded by extracting the fields of its opcode's format and accepting
the instruction only if its encoding gives back the word, so that every bit a format marks zero is
tested (R35), and only if it is well formed. -/

namespace Sys2Proof

/-- Why a word is no instruction; every one of these raises ILLEGAL_ENCODING (R62). -/
inductive DecodeFault where
  /-- an opcode not listed in R63 (R64) -/
  | unlistedOpcode
  /-- a bit that the format marks zero is 1 (R35) -/
  | zeroField
  /-- an operand or field value that is reserved for the instruction -/
  | reservedOperand
  /-- the word after a first word is no continuation (R31) -/
  | notContinuation
  /-- a continuation word where an instruction is expected (R32) -/
  | strayContinuation
  /-- a word with bit 31 = 0 and LS = 11 (R30, R32) -/
  | reservedWord
  /-- a prefix word where an instruction is expected -/
  | prefixWord
  deriving DecidableEq, Repr

/-- The classes of a word by its three header bits (R30). -/
inductive WordClass where
  | lr | lx | mod | reserved | ur | ux | rep | cont
  deriving DecidableEq, Repr

/-- The class of a word (R30). -/
def wordClass (w : Nat) : WordClass :=
  match w / 2 ^ 29 % 8 with
  | 0 => .lr | 1 => .lx | 2 => .mod | 3 => .reserved | 4 => .ur | 5 => .ux | 6 => .rep | _ => .cont

/-- The n-bit field of a word whose low bit is bit lo. -/
def fld (w lo n : Nat) : BitVec n := BitVec.ofNat n (w / 2 ^ lo)

/-- The words of an instruction, the first at the lowest address (R36 to R39); an event has none. -/
def encode : Instr → List Nat
  | .iadd d a b => [0 + d.toNat * 32768 + a.toNat * 256 + b.toNat]
  | .isub d a b => [4194304 + d.toNat * 32768 + a.toNat * 256 + b.toNat]
  | .imul d a b => [8388608 + d.toNat * 32768 + a.toNat * 256 + b.toNat]
  | .imulh d a b => [12582912 + d.toNat * 32768 + a.toNat * 256 + b.toNat]
  | .imulhu d a b => [16777216 + d.toNat * 32768 + a.toNat * 256 + b.toNat]
  | .imin d a b => [20971520 + d.toNat * 32768 + a.toNat * 256 + b.toNat]
  | .imax d a b => [25165824 + d.toNat * 32768 + a.toNat * 256 + b.toNat]
  | .iminu d a b => [29360128 + d.toNat * 32768 + a.toNat * 256 + b.toNat]
  | .imaxu d a b => [33554432 + d.toNat * 32768 + a.toNat * 256 + b.toNat]
  | .iabs d a => [37748736 + d.toNat * 32768 + a.toNat * 256]
  | .iadds d a b => [41943040 + d.toNat * 32768 + a.toNat * 256 + b.toNat]
  | .isubs d a b => [46137344 + d.toNat * 32768 + a.toNat * 256 + b.toNat]
  | .iaddsu d a b => [50331648 + d.toNat * 32768 + a.toNat * 256 + b.toNat]
  | .isubsu d a b => [54525952 + d.toNat * 32768 + a.toNat * 256 + b.toNat]
  | .and d a b => [67108864 + d.toNat * 32768 + a.toNat * 256 + b.toNat]
  | .or d a b => [71303168 + d.toNat * 32768 + a.toNat * 256 + b.toNat]
  | .xor d a b => [75497472 + d.toNat * 32768 + a.toNat * 256 + b.toNat]
  | .andn d a b => [79691776 + d.toNat * 32768 + a.toNat * 256 + b.toNat]
  | .orn d a b => [83886080 + d.toNat * 32768 + a.toNat * 256 + b.toNat]
  | .shl d a b => [88080384 + d.toNat * 32768 + a.toNat * 256 + b.toNat]
  | .shr d a b => [92274688 + d.toNat * 32768 + a.toNat * 256 + b.toNat]
  | .sar d a b => [96468992 + d.toNat * 32768 + a.toNat * 256 + b.toNat]
  | .rotl d a b => [100663296 + d.toNat * 32768 + a.toNat * 256 + b.toNat]
  | .popc d a => [104857600 + d.toNat * 32768 + a.toNat * 256]
  | .clz d a => [109051904 + d.toNat * 32768 + a.toNat * 256]
  | .brev d a => [113246208 + d.toNat * 32768 + a.toNat * 256]
  | .mov d b => [117440512 + d.toNat * 32768 + b.toNat]
  | .fadd d a b => [134217728 + d.toNat * 32768 + a.toNat * 256 + b.toNat]
  | .fsub d a b => [138412032 + d.toNat * 32768 + a.toNat * 256 + b.toNat]
  | .fmul d a b => [142606336 + d.toNat * 32768 + a.toNat * 256 + b.toNat]
  | .fmin d a b => [146800640 + d.toNat * 32768 + a.toNat * 256 + b.toNat]
  | .fmax d a b => [150994944 + d.toNat * 32768 + a.toNat * 256 + b.toNat]
  | .fabs d a => [155189248 + d.toNat * 32768 + a.toNat * 256]
  | .ffloor d a => [159383552 + d.toNat * 32768 + a.toNat * 256]
  | .fceil d a => [163577856 + d.toNat * 32768 + a.toNat * 256]
  | .ftrunc d a => [167772160 + d.toNat * 32768 + a.toNat * 256]
  | .frint d a => [171966464 + d.toNat * 32768 + a.toNat * 256]
  | .hadd2 d a b => [234881024 + d.toNat * 32768 + a.toNat * 256 + b.toNat]
  | .hmul2 d a b => [239075328 + d.toNat * 32768 + a.toNat * 256 + b.toNat]
  | .hmin2 d a b => [243269632 + d.toNat * 32768 + a.toNat * 256 + b.toNat]
  | .hmax2 d a b => [247463936 + d.toNat * 32768 + a.toNat * 256 + b.toNat]
  | .badd2 d a b => [251658240 + d.toNat * 32768 + a.toNat * 256 + b.toNat]
  | .bmul2 d a b => [255852544 + d.toNat * 32768 + a.toNat * 256 + b.toNat]
  | .i2f d a => [268435456 + d.toNat * 32768 + a.toNat * 256]
  | .u2f d a => [272629760 + d.toNat * 32768 + a.toNat * 256]
  | .f2i d a => [276824064 + d.toNat * 32768 + a.toNat * 256]
  | .f2u d a => [281018368 + d.toNat * 32768 + a.toNat * 256]
  | .f2h d a b => [285212672 + d.toNat * 32768 + a.toNat * 256 + b.toNat]
  | .h2f d a b => [289406976 + d.toNat * 32768 + a.toNat * 256 + b.toNat]
  | .f2b d a b => [293601280 + d.toNat * 32768 + a.toNat * 256 + b.toNat]
  | .b2f d a b => [297795584 + d.toNat * 32768 + a.toNat * 256 + b.toNat]
  | .nop => [532676608]
  | .uadd d a b => [2147483648 + d.toNat * 16384 + a.toNat * 64 + b.toNat]
  | .usub d a b => [2151677952 + d.toNat * 16384 + a.toNat * 64 + b.toNat]
  | .umul d a b => [2155872256 + d.toNat * 16384 + a.toNat * 64 + b.toNat]
  | .umulh d a b => [2160066560 + d.toNat * 16384 + a.toNat * 64 + b.toNat]
  | .umin d a b => [2164260864 + d.toNat * 16384 + a.toNat * 64 + b.toNat]
  | .umax d a b => [2168455168 + d.toNat * 16384 + a.toNat * 64 + b.toNat]
  | .uminu d a b => [2172649472 + d.toNat * 16384 + a.toNat * 64 + b.toNat]
  | .umaxu d a b => [2176843776 + d.toNat * 16384 + a.toNat * 64 + b.toNat]
  | .uand d a b => [2181038080 + d.toNat * 16384 + a.toNat * 64 + b.toNat]
  | .uor d a b => [2185232384 + d.toNat * 16384 + a.toNat * 64 + b.toNat]
  | .uxor d a b => [2189426688 + d.toNat * 16384 + a.toNat * 64 + b.toNat]
  | .uandn d a b => [2193620992 + d.toNat * 16384 + a.toNat * 64 + b.toNat]
  | .ushl d a b => [2197815296 + d.toNat * 16384 + a.toNat * 64 + b.toNat]
  | .ushr d a b => [2202009600 + d.toNat * 16384 + a.toNat * 64 + b.toNat]
  | .usar d a b => [2206203904 + d.toNat * 16384 + a.toNat * 64 + b.toNat]
  | .upopc d a => [2210398208 + d.toNat * 16384 + a.toNat * 64]
  | .uclz d a => [2214592512 + d.toNat * 16384 + a.toNat * 64]
  | .umov d b => [2218786816 + d.toNat * 16384 + b.toNat]
  | .unop => [2680160256]
  | .imac g d a b c =>
    [536870912 + d.toNat * 32768 + a.toNat * 256 + b.toNat,
      3758096384 + g.toNat * 33554432 + c.toNat * 8192]
  | .imacw g d a b c u =>
    [541065216 + d.toNat * 32768 + a.toNat * 256 + b.toNat,
      3758096384 + g.toNat * 33554432 + c.toNat * 8192 + u.toNat]
  | .isum3 g d a b c =>
    [545259520 + d.toNat * 32768 + a.toNat * 256 + b.toNat,
      3758096384 + g.toNat * 33554432 + c.toNat * 8192]
  | .idot8 g d a b c ua ub =>
    [549453824 + d.toNat * 32768 + a.toNat * 256 + b.toNat,
      3758096384 + g.toNat * 33554432 + c.toNat * 8192 + ua.toNat + ub.toNat * 2]
  | .iabda g d a b c u =>
    [553648128 + d.toNat * 32768 + a.toNat * 256 + b.toNat,
      3758096384 + g.toNat * 33554432 + c.toNat * 8192 + u.toNat]
  | .iaddc g d a b cin cout =>
    [557842432 + d.toNat * 32768 + a.toNat * 256 + b.toNat,
      3758096384 + g.toNat * 33554432 + cin.toNat * 1024 + cout.toNat * 128]
  | .isubb g d a b cin cout =>
    [562036736 + d.toNat * 32768 + a.toNat * 256 + b.toNat,
      3758096384 + g.toNat * 33554432 + cin.toNat * 1024 + cout.toNat * 128]
  | .iaddw g d a b ty k =>
    [566231040 + d.toNat * 32768 + a.toNat * 256 + b.toNat,
      3758096384 + g.toNat * 33554432 + ty.toNat * 4 + k.toNat]
  | .lea g d a b s w sh =>
    [570425344 + d.toNat * 32768 + a.toNat * 256 + b.toNat,
      3758096384 + g.toNat * 33554432 + s.toNat * 64 + w.toNat * 32 + sh.toNat]
  | .bfx g d a b s =>
    [574619648 + d.toNat * 32768 + a.toNat * 256 + b.toNat,
      3758096384 + g.toNat * 33554432 + s.toNat]
  | .bfi g d a b c =>
    [578813952 + d.toNat * 32768 + a.toNat * 256 + b.toNat,
      3758096384 + g.toNat * 33554432 + c.toNat * 8192]
  | .bytex g d a b c =>
    [583008256 + d.toNat * 32768 + a.toNat * 256 + b.toNat,
      3758096384 + g.toNat * 33554432 + c.toNat * 8192]
  | .sel g d a b pneg p =>
    [587202560 + d.toNat * 32768 + a.toNat * 256 + b.toNat,
      3758096384 + g.toNat * 33554432 + pneg.toNat * 8 + p.toNat]
  | .isetp g a b pd pc pcneg bop u cmp =>
    [591396864 + a.toNat * 256 + b.toNat,
      3758096384 + g.toNat * 33554432 + pd.toNat * 1024 + pc.toNat * 128 + pcneg.toNat * 64 + bop.toNat * 16 + u.toNat * 8 + cmp.toNat]
  | .movlo g d imm =>
    [595591168 + d.toNat * 32768,
      3758096384 + g.toNat * 33554432 + imm.toNat]
  | .movhi g d imm =>
    [599785472 + d.toNat * 32768,
      3758096384 + g.toNat * 33554432 + imm.toNat]
  | .ptab g pd pa pb pc table =>
    [603979776 + pd.toNat * 32768 + pa.toNat * 256 + pb.toNat,
      3758096384 + g.toNat * 33554432 + pc.toNat * 8192 + table.toNat]
  | .p2v g d =>
    [608174080 + d.toNat * 32768,
      3758096384 + g.toNat * 33554432]
  | .v2p g a b =>
    [612368384 + a.toNat * 256 + b.toNat,
      3758096384 + g.toNat * 33554432]
  | .ffma g d a b c np nc =>
    [637534208 + d.toNat * 32768 + a.toNat * 256 + b.toNat,
      3758096384 + g.toNat * 33554432 + c.toNat * 8192 + np.toNat + nc.toNat * 2]
  | .hfma2 g d a b c np nc =>
    [650117120 + d.toNat * 32768 + a.toNat * 256 + b.toNat,
      3758096384 + g.toNat * 33554432 + c.toNat * 8192 + np.toNat + nc.toNat * 2]
  | .bfma2 g d a b c np nc =>
    [654311424 + d.toNat * 32768 + a.toNat * 256 + b.toNat,
      3758096384 + g.toNat * 33554432 + c.toNat * 8192 + np.toNat + nc.toNat * 2]
  | .fsetp g a b pd pc pcneg bop u cmp =>
    [641728512 + a.toNat * 256 + b.toNat,
      3758096384 + g.toNat * 33554432 + pd.toNat * 1024 + pc.toNat * 128 + pcneg.toNat * 64 + bop.toNat * 16 + u.toNat * 8 + cmp.toNat]
  | .fclass g a pd mask =>
    [645922816 + a.toNat * 256,
      3758096384 + g.toNat * 33554432 + pd.toNat * 1024 + mask.toNat]
  | .fdot2 g d a b c bf =>
    [658505728 + d.toNat * 32768 + a.toNat * 256 + b.toNat,
      3758096384 + g.toNat * 33554432 + c.toNat * 8192 + bf.toNat]
  | .cvtn g d a n k isrc =>
    [662700032 + d.toNat * 32768 + a.toNat * 256,
      3758096384 + g.toNat * 33554432 + n.toNat * 1024 + k.toNat * 256 + isrc.toNat * 128]
  | .cvtw g d a n k idst =>
    [666894336 + d.toNat * 32768 + a.toNat * 256,
      3758096384 + g.toNat * 33554432 + n.toNat * 1024 + k.toNat * 256 + idst.toNat * 128]
  | .frcp g la d a =>
    [671088640 + d.toNat * 32768 + a.toNat * 256,
      3758096384 + g.toNat * 33554432 + la.toNat * 2097152]
  | .frsq g la d a =>
    [675282944 + d.toNat * 32768 + a.toNat * 256,
      3758096384 + g.toNat * 33554432 + la.toNat * 2097152]
  | .fsqrt g la d a =>
    [679477248 + d.toNat * 32768 + a.toNat * 256,
      3758096384 + g.toNat * 33554432 + la.toNat * 2097152]
  | .fexp2 g la d a =>
    [683671552 + d.toNat * 32768 + a.toNat * 256,
      3758096384 + g.toNat * 33554432 + la.toNat * 2097152]
  | .flog2 g la d a =>
    [687865856 + d.toNat * 32768 + a.toNat * 256,
      3758096384 + g.toNat * 33554432 + la.toNat * 2097152]
  | .fsint g la d a =>
    [692060160 + d.toNat * 32768 + a.toNat * 256,
      3758096384 + g.toNat * 33554432 + la.toNat * 2097152]
  | .fcost g la d a =>
    [696254464 + d.toNat * 32768 + a.toNat * 256,
      3758096384 + g.toNat * 33554432 + la.toNat * 2097152]
  | .fldexp g d a b =>
    [700448768 + d.toNat * 32768 + a.toNat * 256 + b.toNat,
      3758096384 + g.toNat * 33554432]
  | .shfl g la d a b c op all sm =>
    [704643072 + d.toNat * 32768 + a.toNat * 256 + b.toNat,
      3758096384 + g.toNat * 33554432 + la.toNat * 2097152 + c.toNat * 8192 + op.toNat * 512 + all.toNat * 256 + sm.toNat]
  | .vote g la pd pneg p op all sm =>
    [708837376 + pd.toNat * 256 + pneg.toNat * 8 + p.toNat,
      3758096384 + g.toNat * 33554432 + la.toNat * 2097152 + op.toNat * 512 + all.toNat * 256 + sm.toNat]
  | .ballot g la d pneg p all sm =>
    [713031680 + d.toNat * 32768 + pneg.toNat * 8 + p.toNat,
      3758096384 + g.toNat * 33554432 + la.toNat * 2097152 + all.toNat * 256 + sm.toNat]
  | .matchv g la d a all sm =>
    [717225984 + d.toNat * 32768 + a.toNat * 256,
      3758096384 + g.toNat * 33554432 + la.toNat * 2097152 + all.toNat * 256 + sm.toNat]
  | .redux g la d a c op all sm =>
    [721420288 + d.toNat * 32768 + a.toNat * 256,
      3758096384 + g.toNat * 33554432 + la.toNat * 2097152 + c.toNat * 8192 + op.toNat * 512 + all.toNat * 256 + sm.toNat]
  | .scanx g la d a c ex op all sm =>
    [725614592 + d.toNat * 32768 + a.toNat * 256,
      3758096384 + g.toNat * 33554432 + la.toNat * 2097152 + c.toNat * 8192 + ex.toNat * 4096 + op.toNat * 512 + all.toNat * 256 + sm.toNat]
  | .bra g off =>
    [738197504,
      3758096384 + g.toNat * 33554432 + off.toNat]
  | .jmpi g a =>
    [742391808 + a.toNat * 256,
      3758096384 + g.toNat * 33554432]
  | .call g off =>
    [746586112,
      3758096384 + g.toNat * 33554432 + off.toNat]
  | .calli g a =>
    [750780416 + a.toNat * 256,
      3758096384 + g.toNat * 33554432]
  | .ret g =>
    [754974720,
      3758096384 + g.toNat * 33554432]
  | .exitT g =>
    [759169024,
      3758096384 + g.toNat * 33554432]
  | .join g n =>
    [763363328,
      3758096384 + g.toNat * 33554432 + n.toNat]
  | .yield g =>
    [767557632,
      3758096384 + g.toNat * 33554432]
  | .grow g n =>
    [771751936,
      3758096384 + g.toNat * 33554432 + n.toNat]
  | .shrink g n =>
    [775946240,
      3758096384 + g.toNat * 33554432 + n.toNat]
  | .monw g a size sext ord off64 gr hint scope imm =>
    [780140544 + a.toNat * 256 + size.toNat * 32 + sext.toNat * 16 + ord.toNat * 4 + off64.toNat * 2,
      3758096384 + g.toNat * 33554432 + gr.toNat * 131072 + hint.toNat * 32768 + scope.toNat * 4096 + imm.toNat]
  | .mwait g b pd p =>
    [784334848 + b.toNat,
      3758096384 + g.toNat * 33554432 + pd.toNat * 262144 + p.toNat * 131072]
  | .trap g imm =>
    [788529152,
      3758096384 + g.toNat * 33554432 + imm.toNat]
  | .bkpt g imm =>
    [792723456,
      3758096384 + g.toNat * 33554432 + imm.toNat]
  | .rdctr g la d sl =>
    [796917760 + d.toNat * 32768,
      3758096384 + g.toNat * 33554432 + la.toNat * 2097152 + sl.toNat]
  | .ld g la d a size sext ord off64 gr hint scope imm =>
    [805306368 + d.toNat * 32768 + a.toNat * 256 + size.toNat * 32 + sext.toNat * 16 + ord.toNat * 4 + off64.toNat * 2,
      3758096384 + g.toNat * 33554432 + la.toNat * 2097152 + gr.toNat * 131072 + hint.toNat * 32768 + scope.toNat * 4096 + imm.toNat]
  | .st g d a size sext ord off64 gr hint scope imm =>
    [809500672 + d.toNat * 32768 + a.toNat * 256 + size.toNat * 32 + sext.toNat * 16 + ord.toNat * 4 + off64.toNat * 2,
      3758096384 + g.toNat * 33554432 + gr.toNat * 131072 + hint.toNat * 32768 + scope.toNat * 4096 + imm.toNat]
  | .ldx g la d a size sext ord off64 gr hint scope imm =>
    [813694976 + d.toNat * 32768 + a.toNat * 256 + size.toNat * 32 + sext.toNat * 16 + ord.toNat * 4 + off64.toNat * 2,
      3758096384 + g.toNat * 33554432 + la.toNat * 2097152 + gr.toNat * 131072 + hint.toNat * 32768 + scope.toNat * 4096 + imm.toNat]
  | .pld g la d a size sext ord off64 gr hint scope imm =>
    [817889280 + d.toNat * 32768 + a.toNat * 256 + size.toNat * 32 + sext.toNat * 16 + ord.toNat * 4 + off64.toNat * 2,
      3758096384 + g.toNat * 33554432 + la.toNat * 2097152 + gr.toNat * 131072 + hint.toNat * 32768 + scope.toNat * 4096 + imm.toNat]
  | .pst g d a size sext ord off64 gr hint scope imm =>
    [822083584 + d.toNat * 32768 + a.toNat * 256 + size.toNat * 32 + sext.toNat * 16 + ord.toNat * 4 + off64.toNat * 2,
      3758096384 + g.toNat * 33554432 + gr.toNat * 131072 + hint.toNat * 32768 + scope.toNat * 4096 + imm.toNat]
  | .atom g la d a size sext ord off64 gr hint scope imm =>
    [826277888 + d.toNat * 32768 + a.toNat * 256 + size.toNat * 32 + sext.toNat * 16 + ord.toNat * 4 + off64.toNat * 2,
      3758096384 + g.toNat * 33554432 + la.toNat * 2097152 + gr.toNat * 131072 + hint.toNat * 32768 + scope.toNat * 4096 + imm.toNat]
  | .atomc g la d a size sext ord off64 gr hint scope imm =>
    [830472192 + d.toNat * 32768 + a.toNat * 256 + size.toNat * 32 + sext.toNat * 16 + ord.toNat * 4 + off64.toNat * 2,
      3758096384 + g.toNat * 33554432 + la.toNat * 2097152 + gr.toNat * 131072 + hint.toNat * 32768 + scope.toNat * 4096 + imm.toNat]
  | .red g d a size sext ord off64 gr hint scope imm =>
    [834666496 + d.toNat * 32768 + a.toNat * 256 + size.toNat * 32 + sext.toNat * 16 + ord.toNat * 4 + off64.toNat * 2,
      3758096384 + g.toNat * 33554432 + gr.toNat * 131072 + hint.toNat * 32768 + scope.toNat * 4096 + imm.toNat]
  | .patom g la d a size sext ord off64 gr hint scope imm =>
    [838860800 + d.toNat * 32768 + a.toNat * 256 + size.toNat * 32 + sext.toNat * 16 + ord.toNat * 4 + off64.toNat * 2,
      3758096384 + g.toNat * 33554432 + la.toNat * 2097152 + gr.toNat * 131072 + hint.toNat * 32768 + scope.toNat * 4096 + imm.toNat]
  | .fence g kind scope =>
    [843055104 + kind.toNat * 32768,
      3758096384 + g.toNat * 33554432 + scope.toNat * 4096]
  | .cflush g a size sext ord off64 gr hint scope imm =>
    [847249408 + a.toNat * 256 + size.toNat * 32 + sext.toNat * 16 + ord.toNat * 4 + off64.toNat * 2,
      3758096384 + g.toNat * 33554432 + gr.toNat * 131072 + hint.toNat * 32768 + scope.toNat * 4096 + imm.toNat]
  | .cinv g a size sext ord off64 gr hint scope imm =>
    [851443712 + a.toNat * 256 + size.toNat * 32 + sext.toNat * 16 + ord.toNat * 4 + off64.toNat * 2,
      3758096384 + g.toNat * 33554432 + gr.toNat * 131072 + hint.toNat * 32768 + scope.toNat * 4096 + imm.toNat]
  | .pref g a size sext ord off64 gr hint scope imm =>
    [855638016 + a.toNat * 256 + size.toNat * 32 + sext.toNat * 16 + ord.toNat * 4 + off64.toNat * 2,
      3758096384 + g.toNat * 33554432 + gr.toNat * 131072 + hint.toNat * 32768 + scope.toNat * 4096 + imm.toNat]
  | .pprobe g la d a size sext ord off64 gr hint scope imm =>
    [859832320 + d.toNat * 32768 + a.toNat * 256 + size.toNat * 32 + sext.toNat * 16 + ord.toNat * 4 + off64.toNat * 2,
      3758096384 + g.toNat * 33554432 + la.toNat * 2097152 + gr.toNat * 131072 + hint.toNat * 32768 + scope.toNat * 4096 + imm.toNat]
  | .phint g kind a size sext ord off64 gr hint scope imm =>
    [864026624 + kind.toNat * 32768 + a.toNat * 256 + size.toNat * 32 + sext.toNat * 16 + ord.toNat * 4 + off64.toNat * 2,
      3758096384 + g.toNat * 33554432 + gr.toNat * 131072 + hint.toNat * 32768 + scope.toNat * 4096 + imm.toNat]
  | .umac g d a b sb =>
    [2684354560 + d.toNat * 16384 + a.toNat * 64 + b.toNat,
      3758096384 + g.toNat * 33554432 + sb.toNat * 8192]
  | .umovlo g d imm =>
    [2688548864 + d.toNat * 16384,
      3758096384 + g.toNat * 33554432 + imm.toNat]
  | .umovhi g d imm =>
    [2692743168 + d.toNat * 16384,
      3758096384 + g.toNat * 33554432 + imm.toNat]
  | .usetp g a b pd pc pcneg bop u cmp =>
    [2696937472 + a.toNat * 64 + b.toNat,
      3758096384 + g.toNat * 33554432 + pd.toNat * 1024 + pc.toNat * 128 + pcneg.toNat * 64 + bop.toNat * 16 + u.toNat * 8 + cmp.toNat]
  | .usel g d a b qneg q =>
    [2701131776 + d.toNat * 16384 + a.toNat * 64 + b.toNat,
      3758096384 + g.toNat * 33554432 + qneg.toNat * 8 + q.toNat]
  | .ubfx g d a b s =>
    [2705326080 + d.toNat * 16384 + a.toNat * 64 + b.toNat,
      3758096384 + g.toNat * 33554432 + s.toNat]
  | .ubfi g d a b sb =>
    [2709520384 + d.toNat * 16384 + a.toNat * 64 + b.toNat,
      3758096384 + g.toNat * 33554432 + sb.toNat * 8192]
  | .umovs g d sl =>
    [2713714688 + d.toNat * 16384 + sl.toNat,
      3758096384 + g.toNat * 33554432]
  | .v2s g la d a vs =>
    [2717908992 + d.toNat * 16384 + a.toNat * 64,
      3758096384 + g.toNat * 33554432 + la.toNat * 2097152 + vs.toNat * 16384]
  | .uld g la d a size sext ord gr hint scope imm =>
    [2722103296 + d.toNat * 16384 + a.toNat * 64 + size.toNat * 8 + sext.toNat * 4 + ord.toNat,
      3758096384 + g.toNat * 33554432 + la.toNat * 2097152 + gr.toNat * 131072 + hint.toNat * 32768 + scope.toNat * 4096 + imm.toNat]
  | .ust g d a size sext ord gr hint scope imm =>
    [2726297600 + d.toNat * 16384 + a.toNat * 64 + size.toNat * 8 + sext.toNat * 4 + ord.toNat,
      3758096384 + g.toNat * 33554432 + gr.toNat * 131072 + hint.toNat * 32768 + scope.toNat * 4096 + imm.toNat]
  | .uatom g la d a size sext ord gr hint scope imm =>
    [2730491904 + d.toNat * 16384 + a.toNat * 64 + size.toNat * 8 + sext.toNat * 4 + ord.toNat,
      3758096384 + g.toNat * 33554432 + la.toNat * 2097152 + gr.toNat * 131072 + hint.toNat * 32768 + scope.toNat * 4096 + imm.toNat]
  | .ufence g kind scope =>
    [2734686208 + kind.toNat,
      3758096384 + g.toNat * 33554432 + scope.toNat * 4096]
  | .ubra g off =>
    [2751463424,
      3758096384 + g.toNat * 33554432 + off.toNat]
  | .ujmpi g a =>
    [2755657728 + a.toNat * 64,
      3758096384 + g.toNat * 33554432]
  | .ucall g off =>
    [2759852032,
      3758096384 + g.toNat * 33554432 + off.toNat]
  | .uret g =>
    [2764046336,
      3758096384 + g.toNat * 33554432]
  | .uexit g =>
    [2768240640,
      3758096384 + g.toNat * 33554432]
  | .utrap g imm =>
    [2772434944,
      3758096384 + g.toNat * 33554432 + imm.toNat]
  | .gnarrow g a dst gs sb perms gset gi =>
    [2785017856 + a.toNat * 64 + dst.toNat * 32 + gs.toNat,
      3758096384 + g.toNat * 33554432 + sb.toNat * 8192 + perms.toNat * 512 + gset.toNat * 256 + gi.toNat * 16]
  | .ginfo g la d sl gs =>
    [2789212160 + d.toNat * 16384 + sl.toNat * 16 + gs.toNat,
      3758096384 + g.toNat * 33554432 + la.toNat * 2097152]
  | .pinfo g la d sl =>
    [2793406464 + d.toNat * 16384 + sl.toNat,
      3758096384 + g.toNat * 33554432 + la.toNat * 2097152]
  | .gdchk g d a op n arg =>
    [2797600768 + d.toNat * 16384 + a.toNat * 64 + op.toNat * 16 + n.toNat,
      3758096384 + g.toNat * 33554432 + arg.toNat]
  | .shape g a n =>
    [2818572288 + a.toNat * 64 + n.toNat,
      3758096384 + g.toNat * 33554432]
  | .xcopy g d a dir n gr hint scope k s off64 get =>
    [2822766592 + d.toNat * 16384 + a.toNat * 64 + dir.toNat * 16 + n.toNat,
      3758096384 + g.toNat * 33554432 + gr.toNat * 131072 + hint.toNat * 32768 + scope.toNat * 4096 + k.toNat * 256 + s.toNat * 32 + off64.toNat * 16 + get.toNat * 8]
  | .xgath g d a n gr hint scope k sm =>
    [2826960896 + d.toNat * 16384 + a.toNat * 64 + n.toNat,
      3758096384 + g.toNat * 33554432 + gr.toNat * 131072 + hint.toNat * 32768 + scope.toNat * 4096 + k.toNat * 256 + sm.toNat]
  | .xscat g d a n gr hint scope k sm =>
    [2831155200 + d.toNat * 16384 + a.toNat * 64 + n.toNat,
      3758096384 + g.toNat * 33554432 + gr.toNat * 131072 + hint.toNat * 32768 + scope.toNat * 4096 + k.toNat * 256 + sm.toNat]
  | .xstat g la d sl k =>
    [2835349504 + d.toNat * 16384 + sl.toNat * 16 + k.toNat,
      3758096384 + g.toNat * 33554432 + la.toNat * 2097152]
  | .binit g d a r k n =>
    [2852126720 + d.toNat * 16384 + a.toNat * 64 + r.toNat * 16 + k.toNat,
      3758096384 + g.toNat * 33554432 + n.toNat]
  | .barv g a k win s scope =>
    [2856321024 + a.toNat * 64 + k.toNat,
      3758096384 + g.toNat * 33554432 + win.toNat * 1048576 + s.toNat * 131072 + scope.toNat * 4096]
  | .bard g a k win s scope =>
    [2860515328 + a.toNat * 64 + k.toNat,
      3758096384 + g.toNat * 33554432 + win.toNat * 1048576 + s.toNat * 131072 + scope.toNat * 4096]
  | .bwait g a k win s par e =>
    [2864709632 + a.toNat * 64 + k.toNat,
      3758096384 + g.toNat * 33554432 + win.toNat * 1048576 + s.toNat * 131072 + par.toNat * 2 + e.toNat]
  | .btry g la a k win s qd par e =>
    [2868903936 + a.toNat * 64 + k.toNat,
      3758096384 + g.toNat * 33554432 + la.toNat * 2097152 + win.toNat * 1048576 + s.toNat * 131072 + qd.toNat * 256 + par.toNat * 2 + e.toNat]
  | .bexp g a k win s n =>
    [2873098240 + a.toNat * 64 + k.toNat,
      3758096384 + g.toNat * 33554432 + win.toNat * 1048576 + s.toNat * 131072 + n.toNat]
  | .bdrop g a k win s =>
    [2877292544 + a.toNat * 64 + k.toNat,
      3758096384 + g.toNat * 33554432 + win.toNat * 1048576 + s.toNat * 131072]
  | .blkbar g =>
    [2881486848,
      3758096384 + g.toNat * 33554432]
  | .clubar g =>
    [2885681152,
      3758096384 + g.toNat * 33554432]
  | .diebar g =>
    [2889875456,
      3758096384 + g.toNat * 33554432]
  | .gsig g a =>
    [2919235584 + a.toNat * 64,
      3758096384 + g.toNat * 33554432]
  | .gwait g a sb =>
    [2923429888 + a.toNat * 64,
      3758096384 + g.toNat * 33554432 + sb.toNat * 8192]
  | .gtry g la d a qd sb =>
    [2927624192 + d.toNat * 16384 + a.toNat * 64 + qd.toNat,
      3758096384 + g.toNat * 33554432 + la.toNat * 2097152 + sb.toNat * 8192]
  | .gpost g a sig wd sb =>
    [2931818496 + a.toNat * 64 + sig.toNat * 8 + wd.toNat,
      3758096384 + g.toNat * 33554432 + sb.toNat * 8192]
  | .gread g la d a wd =>
    [2936012800 + d.toNat * 16384 + a.toNat * 64 + wd.toNat,
      3758096384 + g.toNat * 33554432 + la.toNat * 2097152]
  | .gquery g la d a sl =>
    [2940207104 + d.toNat * 16384 + a.toNat * 64 + sl.toNat,
      3758096384 + g.toNat * 33554432 + la.toNat * 2097152]
  | .launch g a q gr =>
    [2952790016 + a.toNat * 64 + q.toNat,
      3758096384 + g.toNat * 33554432 + gr.toNat * 131072]
  | .qstat g la d q =>
    [2956984320 + d.toNat * 16384 + q.toNat,
      3758096384 + g.toNat * 33554432 + la.toNat * 2097152]
  | .evsig g a set sb =>
    [2961178624 + a.toNat * 64 + set.toNat,
      3758096384 + g.toNat * 33554432 + sb.toNat * 8192]
  | .evwait g a sb =>
    [2965372928 + a.toNat * 64,
      3758096384 + g.toNat * 33554432 + sb.toNat * 8192]
  | .tzero g a an k e =>
    [2986344448 + a.toNat * 64 + an.toNat,
      3758096384 + g.toNat * 33554432 + k.toNat * 64 + e.toNat * 32]
  | .tmma g d a kc an fa fb ch am k e z ci =>
    [2990538752 + d.toNat * 16384 + a.toNat * 64 + kc.toNat * 16 + an.toNat,
      3758096384 + g.toNat * 33554432 + fa.toNat * 262144 + fb.toNat * 32768 + ch.toNat * 16384 + am.toNat * 1024 + k.toNat * 64 + e.toNat * 32 + z.toNat * 16 + ci.toNat * 2]
  | .tmmas g d a kc an fa fb k e z sl =>
    [2994733056 + d.toNat * 16384 + a.toNat * 64 + kc.toNat * 16 + an.toNat,
      3758096384 + g.toNat * 33554432 + fa.toNat * 262144 + fb.toNat * 32768 + k.toNat * 64 + e.toNat * 32 + z.toNat * 16 + sl.toNat * 4]
  | .tdrain g d a an fd gd ge ci k e z =>
    [2998927360 + d.toNat * 16384 + a.toNat * 64 + an.toNat,
      3758096384 + g.toNat * 33554432 + fd.toNat * 262144 + gd.toNat * 16384 + ge.toNat * 8192 + ci.toNat * 4096 + k.toNat * 64 + e.toNat * 32 + z.toNat * 16]
  | .tfence g =>
    [3003121664,
      3758096384 + g.toNat * 33554432]
  | .twait g a all an =>
    [3007315968 + a.toNat * 64 + all.toNat * 16 + an.toNat,
      3758096384 + g.toNat * 33554432]
  | .tstat g la d a all an =>
    [3011510272 + d.toNat * 16384 + a.toNat * 64 + all.toNat * 16 + an.toNat,
      3758096384 + g.toNat * 33554432 + la.toNat * 2097152]
  | .joinTimeout _ _ => []
  | .yieldRelease _ _ => []
  | .mwaitTimeout _ _ => []
  | .groupLoaded _ => []
  | .stageSetPlace _ _ => []
  | .residentDispatch _ => []
  | .blockRetire _ => []
  | .kernelCompletion _ => []
  | .priorityPreemption _ => []
  | .hangWatchdog _ => []
  | .snapshotComplete _ => []
  | .copyStart _ => []
  | .copySector _ => []
  | .copyLand _ => []
  | .haltDrainDeadline _ => []
  | .tileOpStart _ => []
  | .tileChunk _ => []
  | .tileRowGroup _ => []
  | .tileOpComplete _ => []
  | .tlbiPh1 _ => []
  | .tlbiAck _ => []
  | .tlbiAckCollect _ => []
  | .ownershipRequest _ _ _ => []
  | .ownershipFlush _ _ => []
  | .counterWindow _ => []
  | .cooldownEnd _ _ => []
  | .groupStop _ => []
  | .reconvergenceTimeout _ => []
  | .haltingEnd _ => []
  | .saveDone _ => []
  | .restoreDone _ => []
  | .reserveRestore _ => []
  | .autorecl _ _ => []
  | .scrubComplete _ => []
  | .shadowCopyDone _ => []
  | .sweepComplete _ => []
  | .shiftCommit _ => []
  | .gateToken _ _ => []
  | .gateStallTimeout _ => []
  | .chanterDeliver _ => []
  | .heartbeatTimeout _ => []
  | .fenceComplete _ => []
  | .errorDetect _ => []
  | .rollbackRestore _ => []
  | .instructionComplete _ _ => []
  | .collectiveExchange _ _ => []
  | .queuePortBeat _ _ _ _ => []
  | .eventCounterWrite _ _ _ => []
  | .privilegedRegisterWrite _ _ _ => []
  | .kernelAdmit => []
  | .hubWalk _ _ _ _ => []
  | .accessRequestPop _ => []
  | .occclr _ _ => []
  | .create _ _ _ => []
  | .enable _ _ => []
  | .halt _ _ _ => []
  | .resume _ _ => []
  | .save _ _ => []
  | .restore _ _ _ => []
  | .kill _ _ => []
  | .destroy _ _ => []
  | .form _ => []
  | .activate _ => []
  | .partGrow _ _ _ => []
  | .partShrink _ _ _ => []
  | .lend _ _ _ _ => []
  | .setmode _ _ _ => []
  | .setmap _ _ _ => []
  | .partReset _ => []
  | .dissolve _ _ => []
  | .move _ _ => []
  | .qopen _ _ _ _ => []
  | .qclose _ _ _ => []
  | .clrredir _ _ => []
  | .revoke _ _ => []
  | .gateOpen _ _ => []
  | .gateClose _ => []
  | .setacl _ _ _ => []
  | .setresp _ _ => []
  | .exportGate _ => []
  | .importGate _ => []
  | .portEnable _ => []
  | .linkTrainingDone _ _ => []
  | .flitReceive _ _ _ _ _ _ _ => []
  | .retryLimit _ => []
  | .chtx _ _ => []
  | .popInbox _ => []
  | .heartbeat _ => []
  | .dieFence _ => []
  | .rejoin _ => []
  | .packageReset => []
  | .bootStepDone _ => []
  | .attest => []
  | .attestDone => []
  | .temperatureSample _ _ => []
  | .supplyChange _ => []
  | .copierCopyComplete _ => []
  | .saddleHostPeerAccess _ => []
  | .pageRequestResponse _ _ => []
  | .packagePowerSample _ => []
  | .supplyOutOfRange1ms => []

/-- The fields of an opcode of the LR space, unchecked (R63). -/
def fieldsLr (op w : Nat) : Option Instr :=
  match op with
  | 0x00 => some (.iadd (fld w 15 7) (fld w 8 7) (fld w 0 8))
  | 0x01 => some (.isub (fld w 15 7) (fld w 8 7) (fld w 0 8))
  | 0x02 => some (.imul (fld w 15 7) (fld w 8 7) (fld w 0 8))
  | 0x03 => some (.imulh (fld w 15 7) (fld w 8 7) (fld w 0 8))
  | 0x04 => some (.imulhu (fld w 15 7) (fld w 8 7) (fld w 0 8))
  | 0x05 => some (.imin (fld w 15 7) (fld w 8 7) (fld w 0 8))
  | 0x06 => some (.imax (fld w 15 7) (fld w 8 7) (fld w 0 8))
  | 0x07 => some (.iminu (fld w 15 7) (fld w 8 7) (fld w 0 8))
  | 0x08 => some (.imaxu (fld w 15 7) (fld w 8 7) (fld w 0 8))
  | 0x09 => some (.iabs (fld w 15 7) (fld w 8 7))
  | 0x0A => some (.iadds (fld w 15 7) (fld w 8 7) (fld w 0 8))
  | 0x0B => some (.isubs (fld w 15 7) (fld w 8 7) (fld w 0 8))
  | 0x0C => some (.iaddsu (fld w 15 7) (fld w 8 7) (fld w 0 8))
  | 0x0D => some (.isubsu (fld w 15 7) (fld w 8 7) (fld w 0 8))
  | 0x10 => some (.and (fld w 15 7) (fld w 8 7) (fld w 0 8))
  | 0x11 => some (.or (fld w 15 7) (fld w 8 7) (fld w 0 8))
  | 0x12 => some (.xor (fld w 15 7) (fld w 8 7) (fld w 0 8))
  | 0x13 => some (.andn (fld w 15 7) (fld w 8 7) (fld w 0 8))
  | 0x14 => some (.orn (fld w 15 7) (fld w 8 7) (fld w 0 8))
  | 0x15 => some (.shl (fld w 15 7) (fld w 8 7) (fld w 0 8))
  | 0x16 => some (.shr (fld w 15 7) (fld w 8 7) (fld w 0 8))
  | 0x17 => some (.sar (fld w 15 7) (fld w 8 7) (fld w 0 8))
  | 0x18 => some (.rotl (fld w 15 7) (fld w 8 7) (fld w 0 8))
  | 0x19 => some (.popc (fld w 15 7) (fld w 8 7))
  | 0x1A => some (.clz (fld w 15 7) (fld w 8 7))
  | 0x1B => some (.brev (fld w 15 7) (fld w 8 7))
  | 0x1C => some (.mov (fld w 15 7) (fld w 0 8))
  | 0x20 => some (.fadd (fld w 15 7) (fld w 8 7) (fld w 0 8))
  | 0x21 => some (.fsub (fld w 15 7) (fld w 8 7) (fld w 0 8))
  | 0x22 => some (.fmul (fld w 15 7) (fld w 8 7) (fld w 0 8))
  | 0x23 => some (.fmin (fld w 15 7) (fld w 8 7) (fld w 0 8))
  | 0x24 => some (.fmax (fld w 15 7) (fld w 8 7) (fld w 0 8))
  | 0x25 => some (.fabs (fld w 15 7) (fld w 8 7))
  | 0x26 => some (.ffloor (fld w 15 7) (fld w 8 7))
  | 0x27 => some (.fceil (fld w 15 7) (fld w 8 7))
  | 0x28 => some (.ftrunc (fld w 15 7) (fld w 8 7))
  | 0x29 => some (.frint (fld w 15 7) (fld w 8 7))
  | 0x38 => some (.hadd2 (fld w 15 7) (fld w 8 7) (fld w 0 8))
  | 0x39 => some (.hmul2 (fld w 15 7) (fld w 8 7) (fld w 0 8))
  | 0x3A => some (.hmin2 (fld w 15 7) (fld w 8 7) (fld w 0 8))
  | 0x3B => some (.hmax2 (fld w 15 7) (fld w 8 7) (fld w 0 8))
  | 0x3C => some (.badd2 (fld w 15 7) (fld w 8 7) (fld w 0 8))
  | 0x3D => some (.bmul2 (fld w 15 7) (fld w 8 7) (fld w 0 8))
  | 0x40 => some (.i2f (fld w 15 7) (fld w 8 7))
  | 0x41 => some (.u2f (fld w 15 7) (fld w 8 7))
  | 0x42 => some (.f2i (fld w 15 7) (fld w 8 7))
  | 0x43 => some (.f2u (fld w 15 7) (fld w 8 7))
  | 0x44 => some (.f2h (fld w 15 7) (fld w 8 7) (fld w 0 8))
  | 0x45 => some (.h2f (fld w 15 7) (fld w 8 7) (fld w 0 8))
  | 0x46 => some (.f2b (fld w 15 7) (fld w 8 7) (fld w 0 8))
  | 0x47 => some (.b2f (fld w 15 7) (fld w 8 7) (fld w 0 8))
  | 0x7F => some .nop
  | _ => none

/-- The fields of an opcode of the UR space, unchecked (R63). -/
def fieldsUr (op w : Nat) : Option Instr :=
  match op with
  | 0x00 => some (.uadd (fld w 14 8) (fld w 6 8) (fld w 0 6))
  | 0x01 => some (.usub (fld w 14 8) (fld w 6 8) (fld w 0 6))
  | 0x02 => some (.umul (fld w 14 8) (fld w 6 8) (fld w 0 6))
  | 0x03 => some (.umulh (fld w 14 8) (fld w 6 8) (fld w 0 6))
  | 0x04 => some (.umin (fld w 14 8) (fld w 6 8) (fld w 0 6))
  | 0x05 => some (.umax (fld w 14 8) (fld w 6 8) (fld w 0 6))
  | 0x06 => some (.uminu (fld w 14 8) (fld w 6 8) (fld w 0 6))
  | 0x07 => some (.umaxu (fld w 14 8) (fld w 6 8) (fld w 0 6))
  | 0x08 => some (.uand (fld w 14 8) (fld w 6 8) (fld w 0 6))
  | 0x09 => some (.uor (fld w 14 8) (fld w 6 8) (fld w 0 6))
  | 0x0A => some (.uxor (fld w 14 8) (fld w 6 8) (fld w 0 6))
  | 0x0B => some (.uandn (fld w 14 8) (fld w 6 8) (fld w 0 6))
  | 0x0C => some (.ushl (fld w 14 8) (fld w 6 8) (fld w 0 6))
  | 0x0D => some (.ushr (fld w 14 8) (fld w 6 8) (fld w 0 6))
  | 0x0E => some (.usar (fld w 14 8) (fld w 6 8) (fld w 0 6))
  | 0x0F => some (.upopc (fld w 14 8) (fld w 6 8))
  | 0x10 => some (.uclz (fld w 14 8) (fld w 6 8))
  | 0x11 => some (.umov (fld w 14 8) (fld w 0 6))
  | 0x7F => some .unop
  | _ => none

/-- The fields of an opcode of the LX space, unchecked (R63). -/
def fieldsLx (op w c : Nat) : Option Instr :=
  match op with
  | 0x00 => some (.imac (fld c 25 4) (fld w 15 7) (fld w 8 7) (fld w 0 8) (fld c 13 8))
  | 0x01 => some (.imacw (fld c 25 4) (fld w 15 7) (fld w 8 7) (fld w 0 8) (fld c 13 8) (fld c 0 1))
  | 0x02 => some (.isum3 (fld c 25 4) (fld w 15 7) (fld w 8 7) (fld w 0 8) (fld c 13 8))
  | 0x03 => some (.idot8 (fld c 25 4) (fld w 15 7) (fld w 8 7) (fld w 0 8) (fld c 13 8) (fld c 0 1) (fld c 1 1))
  | 0x04 => some (.iabda (fld c 25 4) (fld w 15 7) (fld w 8 7) (fld w 0 8) (fld c 13 8) (fld c 0 1))
  | 0x05 => some (.iaddc (fld c 25 4) (fld w 15 7) (fld w 8 7) (fld w 0 8) (fld c 10 3) (fld c 7 3))
  | 0x06 => some (.isubb (fld c 25 4) (fld w 15 7) (fld w 8 7) (fld w 0 8) (fld c 10 3) (fld c 7 3))
  | 0x07 => some (.iaddw (fld c 25 4) (fld w 15 7) (fld w 8 7) (fld w 0 8) (fld c 2 2) (fld c 0 2))
  | 0x08 => some (.lea (fld c 25 4) (fld w 15 7) (fld w 8 7) (fld w 0 8) (fld c 6 1) (fld c 5 1) (fld c 0 5))
  | 0x09 => some (.bfx (fld c 25 4) (fld w 15 7) (fld w 8 7) (fld w 0 8) (fld c 0 1))
  | 0x0A => some (.bfi (fld c 25 4) (fld w 15 7) (fld w 8 7) (fld w 0 8) (fld c 13 8))
  | 0x0B => some (.bytex (fld c 25 4) (fld w 15 7) (fld w 8 7) (fld w 0 8) (fld c 13 8))
  | 0x0C => some (.sel (fld c 25 4) (fld w 15 7) (fld w 8 7) (fld w 0 8) (fld c 3 1) (fld c 0 3))
  | 0x0D => some (.isetp (fld c 25 4) (fld w 8 7) (fld w 0 8) (fld c 10 3) (fld c 7 3) (fld c 6 1) (fld c 4 2) (fld c 3 1) (fld c 0 3))
  | 0x0E => some (.movlo (fld c 25 4) (fld w 15 7) (fld c 0 16))
  | 0x0F => some (.movhi (fld c 25 4) (fld w 15 7) (fld c 0 16))
  | 0x10 => some (.ptab (fld c 25 4) (fld w 15 3) (fld w 8 3) (fld w 0 3) (fld c 13 3) (fld c 0 8))
  | 0x11 => some (.p2v (fld c 25 4) (fld w 15 7))
  | 0x12 => some (.v2p (fld c 25 4) (fld w 8 7) (fld w 0 8))
  | 0x18 => some (.ffma (fld c 25 4) (fld w 15 7) (fld w 8 7) (fld w 0 8) (fld c 13 8) (fld c 0 1) (fld c 1 1))
  | 0x1B => some (.hfma2 (fld c 25 4) (fld w 15 7) (fld w 8 7) (fld w 0 8) (fld c 13 8) (fld c 0 1) (fld c 1 1))
  | 0x1C => some (.bfma2 (fld c 25 4) (fld w 15 7) (fld w 8 7) (fld w 0 8) (fld c 13 8) (fld c 0 1) (fld c 1 1))
  | 0x19 => some (.fsetp (fld c 25 4) (fld w 8 7) (fld w 0 8) (fld c 10 3) (fld c 7 3) (fld c 6 1) (fld c 4 2) (fld c 3 1) (fld c 0 3))
  | 0x1A => some (.fclass (fld c 25 4) (fld w 8 7) (fld c 10 3) (fld c 0 10))
  | 0x1D => some (.fdot2 (fld c 25 4) (fld w 15 7) (fld w 8 7) (fld w 0 8) (fld c 13 8) (fld c 0 1))
  | 0x1E => some (.cvtn (fld c 25 4) (fld w 15 7) (fld w 8 7) (fld c 10 3) (fld c 8 2) (fld c 7 1))
  | 0x1F => some (.cvtw (fld c 25 4) (fld w 15 7) (fld w 8 7) (fld c 10 3) (fld c 8 2) (fld c 7 1))
  | 0x20 => some (.frcp (fld c 25 4) (fld c 21 4) (fld w 15 7) (fld w 8 7))
  | 0x21 => some (.frsq (fld c 25 4) (fld c 21 4) (fld w 15 7) (fld w 8 7))
  | 0x22 => some (.fsqrt (fld c 25 4) (fld c 21 4) (fld w 15 7) (fld w 8 7))
  | 0x23 => some (.fexp2 (fld c 25 4) (fld c 21 4) (fld w 15 7) (fld w 8 7))
  | 0x24 => some (.flog2 (fld c 25 4) (fld c 21 4) (fld w 15 7) (fld w 8 7))
  | 0x25 => some (.fsint (fld c 25 4) (fld c 21 4) (fld w 15 7) (fld w 8 7))
  | 0x26 => some (.fcost (fld c 25 4) (fld c 21 4) (fld w 15 7) (fld w 8 7))
  | 0x27 => some (.fldexp (fld c 25 4) (fld w 15 7) (fld w 8 7) (fld w 0 8))
  | 0x28 => some (.shfl (fld c 25 4) (fld c 21 4) (fld w 15 7) (fld w 8 7) (fld w 0 8) (fld c 13 8) (fld c 9 2) (fld c 8 1) (fld c 0 8))
  | 0x29 => some (.vote (fld c 25 4) (fld c 21 4) (fld w 8 3) (fld w 3 1) (fld w 0 3) (fld c 9 2) (fld c 8 1) (fld c 0 8))
  | 0x2A => some (.ballot (fld c 25 4) (fld c 21 4) (fld w 15 7) (fld w 3 1) (fld w 0 3) (fld c 8 1) (fld c 0 8))
  | 0x2B => some (.matchv (fld c 25 4) (fld c 21 4) (fld w 15 7) (fld w 8 7) (fld c 8 1) (fld c 0 8))
  | 0x2C => some (.redux (fld c 25 4) (fld c 21 4) (fld w 15 7) (fld w 8 7) (fld c 13 8) (fld c 9 3) (fld c 8 1) (fld c 0 8))
  | 0x2D => some (.scanx (fld c 25 4) (fld c 21 4) (fld w 15 7) (fld w 8 7) (fld c 13 8) (fld c 12 1) (fld c 9 3) (fld c 8 1) (fld c 0 8))
  | 0x30 => some (.bra (fld c 25 4) (fld c 0 21))
  | 0x31 => some (.jmpi (fld c 25 4) (fld w 8 7))
  | 0x32 => some (.call (fld c 25 4) (fld c 0 21))
  | 0x33 => some (.calli (fld c 25 4) (fld w 8 7))
  | 0x34 => some (.ret (fld c 25 4))
  | 0x35 => some (.exitT (fld c 25 4))
  | 0x36 => some (.join (fld c 25 4) (fld c 0 16))
  | 0x37 => some (.yield (fld c 25 4))
  | 0x38 => some (.grow (fld c 25 4) (fld c 0 4))
  | 0x39 => some (.shrink (fld c 25 4) (fld c 0 4))
  | 0x3A => some (.monw (fld c 25 4) (fld w 8 7) (fld w 5 3) (fld w 4 1) (fld w 2 2) (fld w 1 1) (fld c 17 4) (fld c 15 2) (fld c 12 3) (fld c 0 12))
  | 0x3B => some (.mwait (fld c 25 4) (fld w 0 8) (fld c 18 3) (fld c 17 1))
  | 0x3C => some (.trap (fld c 25 4) (fld c 0 16))
  | 0x3D => some (.bkpt (fld c 25 4) (fld c 0 16))
  | 0x3E => some (.rdctr (fld c 25 4) (fld c 21 4) (fld w 15 7) (fld c 0 8))
  | 0x40 => some (.ld (fld c 25 4) (fld c 21 4) (fld w 15 7) (fld w 8 7) (fld w 5 3) (fld w 4 1) (fld w 2 2) (fld w 1 1) (fld c 17 4) (fld c 15 2) (fld c 12 3) (fld c 0 12))
  | 0x41 => some (.st (fld c 25 4) (fld w 15 7) (fld w 8 7) (fld w 5 3) (fld w 4 1) (fld w 2 2) (fld w 1 1) (fld c 17 4) (fld c 15 2) (fld c 12 3) (fld c 0 12))
  | 0x42 => some (.ldx (fld c 25 4) (fld c 21 4) (fld w 15 7) (fld w 8 7) (fld w 5 3) (fld w 4 1) (fld w 2 2) (fld w 1 1) (fld c 17 4) (fld c 15 2) (fld c 12 3) (fld c 0 12))
  | 0x43 => some (.pld (fld c 25 4) (fld c 21 4) (fld w 15 7) (fld w 8 7) (fld w 5 3) (fld w 4 1) (fld w 2 2) (fld w 1 1) (fld c 17 4) (fld c 15 2) (fld c 12 3) (fld c 0 12))
  | 0x44 => some (.pst (fld c 25 4) (fld w 15 7) (fld w 8 7) (fld w 5 3) (fld w 4 1) (fld w 2 2) (fld w 1 1) (fld c 17 4) (fld c 15 2) (fld c 12 3) (fld c 0 12))
  | 0x45 => some (.atom (fld c 25 4) (fld c 21 4) (fld w 15 7) (fld w 8 7) (fld w 5 3) (fld w 4 1) (fld w 2 2) (fld w 1 1) (fld c 17 4) (fld c 15 2) (fld c 12 3) (fld c 0 12))
  | 0x46 => some (.atomc (fld c 25 4) (fld c 21 4) (fld w 15 7) (fld w 8 7) (fld w 5 3) (fld w 4 1) (fld w 2 2) (fld w 1 1) (fld c 17 4) (fld c 15 2) (fld c 12 3) (fld c 0 12))
  | 0x47 => some (.red (fld c 25 4) (fld w 15 7) (fld w 8 7) (fld w 5 3) (fld w 4 1) (fld w 2 2) (fld w 1 1) (fld c 17 4) (fld c 15 2) (fld c 12 3) (fld c 0 12))
  | 0x48 => some (.patom (fld c 25 4) (fld c 21 4) (fld w 15 7) (fld w 8 7) (fld w 5 3) (fld w 4 1) (fld w 2 2) (fld w 1 1) (fld c 17 4) (fld c 15 2) (fld c 12 3) (fld c 0 12))
  | 0x49 => some (.fence (fld c 25 4) (fld w 15 2) (fld c 12 3))
  | 0x4A => some (.cflush (fld c 25 4) (fld w 8 7) (fld w 5 3) (fld w 4 1) (fld w 2 2) (fld w 1 1) (fld c 17 4) (fld c 15 2) (fld c 12 3) (fld c 0 12))
  | 0x4B => some (.cinv (fld c 25 4) (fld w 8 7) (fld w 5 3) (fld w 4 1) (fld w 2 2) (fld w 1 1) (fld c 17 4) (fld c 15 2) (fld c 12 3) (fld c 0 12))
  | 0x4C => some (.pref (fld c 25 4) (fld w 8 7) (fld w 5 3) (fld w 4 1) (fld w 2 2) (fld w 1 1) (fld c 17 4) (fld c 15 2) (fld c 12 3) (fld c 0 12))
  | 0x4D => some (.pprobe (fld c 25 4) (fld c 21 4) (fld w 15 7) (fld w 8 7) (fld w 5 3) (fld w 4 1) (fld w 2 2) (fld w 1 1) (fld c 17 4) (fld c 15 2) (fld c 12 3) (fld c 0 12))
  | 0x4E => some (.phint (fld c 25 4) (fld w 15 2) (fld w 8 7) (fld w 5 3) (fld w 4 1) (fld w 2 2) (fld w 1 1) (fld c 17 4) (fld c 15 2) (fld c 12 3) (fld c 0 12))
  | _ => none

/-- The fields of an opcode of the UX space, unchecked (R63). -/
def fieldsUx (op w c : Nat) : Option Instr :=
  match op with
  | 0x00 => some (.umac (fld c 25 4) (fld w 14 8) (fld w 6 8) (fld w 0 6) (fld c 13 8))
  | 0x01 => some (.umovlo (fld c 25 4) (fld w 14 8) (fld c 0 16))
  | 0x02 => some (.umovhi (fld c 25 4) (fld w 14 8) (fld c 0 16))
  | 0x03 => some (.usetp (fld c 25 4) (fld w 6 8) (fld w 0 6) (fld c 10 3) (fld c 7 3) (fld c 6 1) (fld c 4 2) (fld c 3 1) (fld c 0 3))
  | 0x04 => some (.usel (fld c 25 4) (fld w 14 8) (fld w 6 8) (fld w 0 6) (fld c 3 1) (fld c 0 3))
  | 0x05 => some (.ubfx (fld c 25 4) (fld w 14 8) (fld w 6 8) (fld w 0 6) (fld c 0 1))
  | 0x06 => some (.ubfi (fld c 25 4) (fld w 14 8) (fld w 6 8) (fld w 0 6) (fld c 13 8))
  | 0x07 => some (.umovs (fld c 25 4) (fld w 14 8) (fld w 0 6))
  | 0x08 => some (.v2s (fld c 25 4) (fld c 21 4) (fld w 14 8) (fld w 6 8) (fld c 14 7))
  | 0x09 => some (.uld (fld c 25 4) (fld c 21 4) (fld w 14 8) (fld w 6 8) (fld w 3 3) (fld w 2 1) (fld w 0 2) (fld c 17 4) (fld c 15 2) (fld c 12 3) (fld c 0 12))
  | 0x0A => some (.ust (fld c 25 4) (fld w 14 8) (fld w 6 8) (fld w 3 3) (fld w 2 1) (fld w 0 2) (fld c 17 4) (fld c 15 2) (fld c 12 3) (fld c 0 12))
  | 0x0B => some (.uatom (fld c 25 4) (fld c 21 4) (fld w 14 8) (fld w 6 8) (fld w 3 3) (fld w 2 1) (fld w 0 2) (fld c 17 4) (fld c 15 2) (fld c 12 3) (fld c 0 12))
  | 0x0C => some (.ufence (fld c 25 4) (fld w 0 2) (fld c 12 3))
  | 0x10 => some (.ubra (fld c 25 4) (fld c 0 21))
  | 0x11 => some (.ujmpi (fld c 25 4) (fld w 6 8))
  | 0x12 => some (.ucall (fld c 25 4) (fld c 0 21))
  | 0x13 => some (.uret (fld c 25 4))
  | 0x14 => some (.uexit (fld c 25 4))
  | 0x15 => some (.utrap (fld c 25 4) (fld c 0 16))
  | 0x18 => some (.gnarrow (fld c 25 4) (fld w 6 8) (fld w 5 1) (fld w 0 4) (fld c 13 8) (fld c 9 4) (fld c 8 1) (fld c 4 4))
  | 0x19 => some (.ginfo (fld c 25 4) (fld c 21 4) (fld w 14 8) (fld w 4 2) (fld w 0 4))
  | 0x1A => some (.pinfo (fld c 25 4) (fld c 21 4) (fld w 14 8) (fld w 0 6))
  | 0x1B => some (.gdchk (fld c 25 4) (fld w 14 8) (fld w 6 8) (fld w 4 2) (fld w 0 4) (fld c 0 16))
  | 0x20 => some (.shape (fld c 25 4) (fld w 6 8) (fld w 0 4))
  | 0x21 => some (.xcopy (fld c 25 4) (fld w 14 8) (fld w 6 8) (fld w 4 2) (fld w 0 4) (fld c 17 4) (fld c 15 2) (fld c 12 3) (fld c 8 4) (fld c 5 3) (fld c 4 1) (fld c 3 1))
  | 0x22 => some (.xgath (fld c 25 4) (fld w 14 8) (fld w 6 8) (fld w 0 4) (fld c 17 4) (fld c 15 2) (fld c 12 3) (fld c 8 4) (fld c 0 8))
  | 0x23 => some (.xscat (fld c 25 4) (fld w 14 8) (fld w 6 8) (fld w 0 4) (fld c 17 4) (fld c 15 2) (fld c 12 3) (fld c 8 4) (fld c 0 8))
  | 0x24 => some (.xstat (fld c 25 4) (fld c 21 4) (fld w 14 8) (fld w 4 2) (fld w 0 4))
  | 0x28 => some (.binit (fld c 25 4) (fld w 14 8) (fld w 6 8) (fld w 4 1) (fld w 0 4) (fld c 0 12))
  | 0x29 => some (.barv (fld c 25 4) (fld w 6 8) (fld w 0 4) (fld c 20 1) (fld c 17 3) (fld c 12 3))
  | 0x2A => some (.bard (fld c 25 4) (fld w 6 8) (fld w 0 4) (fld c 20 1) (fld c 17 3) (fld c 12 3))
  | 0x2B => some (.bwait (fld c 25 4) (fld w 6 8) (fld w 0 4) (fld c 20 1) (fld c 17 3) (fld c 1 1) (fld c 0 1))
  | 0x2C => some (.btry (fld c 25 4) (fld c 21 4) (fld w 6 8) (fld w 0 4) (fld c 20 1) (fld c 17 3) (fld c 8 3) (fld c 1 1) (fld c 0 1))
  | 0x2D => some (.bexp (fld c 25 4) (fld w 6 8) (fld w 0 4) (fld c 20 1) (fld c 17 3) (fld c 0 9))
  | 0x2E => some (.bdrop (fld c 25 4) (fld w 6 8) (fld w 0 4) (fld c 20 1) (fld c 17 3))
  | 0x2F => some (.blkbar (fld c 25 4))
  | 0x30 => some (.clubar (fld c 25 4))
  | 0x31 => some (.diebar (fld c 25 4))
  | 0x38 => some (.gsig (fld c 25 4) (fld w 6 8))
  | 0x39 => some (.gwait (fld c 25 4) (fld w 6 8) (fld c 13 8))
  | 0x3A => some (.gtry (fld c 25 4) (fld c 21 4) (fld w 14 8) (fld w 6 8) (fld w 0 3) (fld c 13 8))
  | 0x3B => some (.gpost (fld c 25 4) (fld w 6 8) (fld w 3 1) (fld w 0 3) (fld c 13 8))
  | 0x3C => some (.gread (fld c 25 4) (fld c 21 4) (fld w 14 8) (fld w 6 8) (fld w 0 3))
  | 0x3D => some (.gquery (fld c 25 4) (fld c 21 4) (fld w 14 8) (fld w 6 8) (fld w 0 3))
  | 0x40 => some (.launch (fld c 25 4) (fld w 6 8) (fld w 0 4) (fld c 17 4))
  | 0x41 => some (.qstat (fld c 25 4) (fld c 21 4) (fld w 14 8) (fld w 0 4))
  | 0x42 => some (.evsig (fld c 25 4) (fld w 6 8) (fld w 0 1) (fld c 13 8))
  | 0x43 => some (.evwait (fld c 25 4) (fld w 6 8) (fld c 13 8))
  | 0x48 => some (.tzero (fld c 25 4) (fld w 6 8) (fld w 0 4) (fld c 6 4) (fld c 5 1))
  | 0x49 => some (.tmma (fld c 25 4) (fld w 14 8) (fld w 6 8) (fld w 4 2) (fld w 0 4) (fld c 18 3) (fld c 15 3) (fld c 14 1) (fld c 10 4) (fld c 6 4) (fld c 5 1) (fld c 4 1) (fld c 1 1))
  | 0x4A => some (.tmmas (fld c 25 4) (fld w 14 8) (fld w 6 8) (fld w 4 2) (fld w 0 4) (fld c 18 3) (fld c 15 3) (fld c 6 4) (fld c 5 1) (fld c 4 1) (fld c 2 2))
  | 0x4B => some (.tdrain (fld c 25 4) (fld w 14 8) (fld w 6 8) (fld w 0 4) (fld c 18 3) (fld c 14 4) (fld c 13 1) (fld c 12 1) (fld c 6 4) (fld c 5 1) (fld c 4 1))
  | 0x4C => some (.tfence (fld c 25 4))
  | 0x4D => some (.twait (fld c 25 4) (fld w 6 8) (fld w 4 1) (fld w 0 4))
  | 0x4E => some (.tstat (fld c 25 4) (fld c 21 4) (fld w 14 8) (fld w 6 8) (fld w 4 1) (fld w 0 4))
  | _ => none

/-- Accept a candidate if its encoding is the words read and it is well formed (R35, R62). -/
def acceptInstr (ws : List Nat) : Option Instr → Except DecodeFault Instr
  | none => .error .unlistedOpcode
  | some i =>
    if encode i = ws then (if i.wf then .ok i else .error .reservedOperand) else .error .zeroField

/-- The instruction at the head of a list of words (R30 to R32). -/
def decode : List Nat → Except DecodeFault Instr
  | [] => .error .notContinuation
  | w :: rest =>
    let op := w / 2 ^ 22 % 128
    match wordClass w with
    | .lr => acceptInstr [w] (fieldsLr op w)
    | .ur => acceptInstr [w] (fieldsUr op w)
    | .lx =>
      match rest with
      | c :: _ => if wordClass c = .cont then acceptInstr [w, c] (fieldsLx op w c) else .error .notContinuation
      | [] => .error .notContinuation
    | .ux =>
      match rest with
      | c :: _ => if wordClass c = .cont then acceptInstr [w, c] (fieldsUx op w c) else .error .notContinuation
      | [] => .error .notContinuation
    | .mod | .rep => .error .prefixWord
    | .reserved => .error .reservedWord
    | .cont => .error .strayContinuation

/-- The number of words that an instruction starting with a word of this class takes (R30). -/
def unitWords (w : Nat) : Nat :=
  match wordClass w with
  | .lx | .ux => 2
  | _ => 1

/-- The MOD prefix (R51). -/
structure ModP where
  rnd : BitVec 3
  sat : BitVec 2
  ftz : BitVec 1
  deriving DecidableEq, Repr

/-- The REP prefix (R53). -/
structure RepP where
  cnt : BitVec 6
  dstep : BitVec 3
  astep : BitVec 3
  bstep : BitVec 3
  deriving DecidableEq, Repr

/-- The word of a MOD prefix (R51). -/
def encodeMod (m : ModP) : Nat :=
  1073741824 + m.rnd.toNat * 67108864 + m.sat.toNat * 16777216 + m.ftz.toNat * 8388608

/-- The word of a REP prefix (R53). -/
def encodeRep (r : RepP) : Nat :=
  3221225472 + r.cnt.toNat * 8388608 + r.dstep.toNat * 1048576 + r.astep.toNat * 131072 +
    r.bstep.toNat * 16384

/-- A MOD word whose own fields keep R51 and R52: zero bits zero, rnd not 110 or 111. -/
def decodeMod (w : Nat) : Option ModP :=
  let m : ModP := { rnd := fld w 26 3, sat := fld w 24 2, ftz := fld w 23 1 }
  if encodeMod m = w ∧ m.rnd.toNat < 6 then some m else none

/-- A REP word whose own fields keep R53. -/
def decodeRep (w : Nat) : Option RepP :=
  let r : RepP := { cnt := fld w 23 6, dstep := fld w 20 3, astep := fld w 17 3, bstep := fld w 14 3 }
  if encodeRep r = w then some r else none

/-- How an opcode accepts MOD (R52). -/
inductive ModMark where
  | all | sat | ftz | none
  deriving DecidableEq, Repr

/-- The MOD column of R63. -/
def Instr.modMark : Instr → ModMark
  | .iadd _ _ _ => .sat
  | .isub _ _ _ => .sat
  | .imul _ _ _ => .sat
  | .imulh _ _ _ => .sat
  | .imulhu _ _ _ => .sat
  | .imin _ _ _ => .sat
  | .imax _ _ _ => .sat
  | .iminu _ _ _ => .sat
  | .imaxu _ _ _ => .sat
  | .iabs _ _ => .sat
  | .iadds _ _ _ => .sat
  | .isubs _ _ _ => .sat
  | .iaddsu _ _ _ => .sat
  | .isubsu _ _ _ => .sat
  | .fadd _ _ _ => .all
  | .fsub _ _ _ => .all
  | .fmul _ _ _ => .all
  | .fmin _ _ _ => .all
  | .fmax _ _ _ => .all
  | .fabs _ _ => .all
  | .ffloor _ _ => .all
  | .fceil _ _ => .all
  | .ftrunc _ _ => .all
  | .frint _ _ => .all
  | .hadd2 _ _ _ => .all
  | .hmul2 _ _ _ => .all
  | .hmin2 _ _ _ => .all
  | .hmax2 _ _ _ => .all
  | .badd2 _ _ _ => .all
  | .bmul2 _ _ _ => .all
  | .i2f _ _ => .all
  | .u2f _ _ => .all
  | .f2i _ _ => .all
  | .f2u _ _ => .all
  | .f2h _ _ _ => .all
  | .h2f _ _ _ => .all
  | .f2b _ _ _ => .all
  | .b2f _ _ _ => .all
  | .uadd _ _ _ => .sat
  | .usub _ _ _ => .sat
  | .umul _ _ _ => .sat
  | .umulh _ _ _ => .sat
  | .umin _ _ _ => .sat
  | .umax _ _ _ => .sat
  | .uminu _ _ _ => .sat
  | .umaxu _ _ _ => .sat
  | .imac _ _ _ _ _ => .sat
  | .imacw _ _ _ _ _ _ => .sat
  | .isum3 _ _ _ _ _ => .sat
  | .idot8 _ _ _ _ _ _ _ => .sat
  | .iabda _ _ _ _ _ _ => .sat
  | .iaddw _ _ _ _ _ _ => .sat
  | .ffma _ _ _ _ _ _ _ => .all
  | .hfma2 _ _ _ _ _ _ _ => .all
  | .bfma2 _ _ _ _ _ _ _ => .all
  | .fsetp _ _ _ _ _ _ _ _ _ => .ftz
  | .fclass _ _ _ _ => .ftz
  | .fdot2 _ _ _ _ _ _ => .all
  | .cvtn _ _ _ _ _ _ => .all
  | .cvtw _ _ _ _ _ _ => .all
  | .frcp _ _ _ _ => .all
  | .frsq _ _ _ _ => .all
  | .fsqrt _ _ _ _ => .all
  | .fexp2 _ _ _ _ => .all
  | .flog2 _ _ _ _ => .all
  | .fsint _ _ _ _ => .all
  | .fcost _ _ _ _ => .all
  | .fldexp _ _ _ _ => .all
  | .umac _ _ _ _ _ => .sat
  | _ => .none

/-- The MOD fields that a mark accepts (R52). -/
def ModP.okFor (m : ModP) : ModMark → Bool
  | .all => true
  | .sat => m.rnd == 0 && m.ftz == 0 && (m.sat == 0 || m.sat == 1)
  | .ftz => m.rnd == 0 && m.sat == 0
  | .none => false

/-- The REP column of R63. -/
def Instr.acceptsRep : Instr → Bool
  | .iadd _ _ _ => true
  | .isub _ _ _ => true
  | .imul _ _ _ => true
  | .imulh _ _ _ => true
  | .imulhu _ _ _ => true
  | .imin _ _ _ => true
  | .imax _ _ _ => true
  | .iminu _ _ _ => true
  | .imaxu _ _ _ => true
  | .iabs _ _ => true
  | .iadds _ _ _ => true
  | .isubs _ _ _ => true
  | .iaddsu _ _ _ => true
  | .isubsu _ _ _ => true
  | .and _ _ _ => true
  | .or _ _ _ => true
  | .xor _ _ _ => true
  | .andn _ _ _ => true
  | .orn _ _ _ => true
  | .shl _ _ _ => true
  | .shr _ _ _ => true
  | .sar _ _ _ => true
  | .rotl _ _ _ => true
  | .popc _ _ => true
  | .clz _ _ => true
  | .brev _ _ => true
  | .mov _ _ => true
  | .fadd _ _ _ => true
  | .fsub _ _ _ => true
  | .fmul _ _ _ => true
  | .fmin _ _ _ => true
  | .fmax _ _ _ => true
  | .fabs _ _ => true
  | .ffloor _ _ => true
  | .fceil _ _ => true
  | .ftrunc _ _ => true
  | .frint _ _ => true
  | .hadd2 _ _ _ => true
  | .hmul2 _ _ _ => true
  | .hmin2 _ _ _ => true
  | .hmax2 _ _ _ => true
  | .badd2 _ _ _ => true
  | .bmul2 _ _ _ => true
  | .i2f _ _ => true
  | .u2f _ _ => true
  | .f2i _ _ => true
  | .f2u _ _ => true
  | .f2h _ _ _ => true
  | .h2f _ _ _ => true
  | .f2b _ _ _ => true
  | .b2f _ _ _ => true
  | .uadd _ _ _ => true
  | .usub _ _ _ => true
  | .umul _ _ _ => true
  | .umulh _ _ _ => true
  | .umin _ _ _ => true
  | .umax _ _ _ => true
  | .uminu _ _ _ => true
  | .umaxu _ _ _ => true
  | .uand _ _ _ => true
  | .uor _ _ _ => true
  | .uxor _ _ _ => true
  | .uandn _ _ _ => true
  | .ushl _ _ _ => true
  | .ushr _ _ _ => true
  | .usar _ _ _ => true
  | .upopc _ _ => true
  | .uclz _ _ => true
  | .umov _ _ => true
  | .imac _ _ _ _ _ => true
  | .imacw _ _ _ _ _ _ => true
  | .isum3 _ _ _ _ _ => true
  | .idot8 _ _ _ _ _ _ _ => true
  | .iabda _ _ _ _ _ _ => true
  | .iaddc _ _ _ _ _ _ => true
  | .isubb _ _ _ _ _ _ => true
  | .iaddw _ _ _ _ _ _ => true
  | .lea _ _ _ _ _ _ _ => true
  | .bfx _ _ _ _ _ => true
  | .bfi _ _ _ _ _ => true
  | .bytex _ _ _ _ _ => true
  | .sel _ _ _ _ _ _ => true
  | .movlo _ _ _ => true
  | .movhi _ _ _ => true
  | .ffma _ _ _ _ _ _ _ => true
  | .hfma2 _ _ _ _ _ _ _ => true
  | .bfma2 _ _ _ _ _ _ _ => true
  | .fdot2 _ _ _ _ _ _ => true
  | .cvtn _ _ _ _ _ _ => true
  | .cvtw _ _ _ _ _ _ => true
  | .frcp _ _ _ _ => true
  | .frsq _ _ _ _ => true
  | .fsqrt _ _ _ _ => true
  | .fexp2 _ _ _ _ => true
  | .flog2 _ _ _ _ => true
  | .fsint _ _ _ _ => true
  | .fcost _ _ _ _ => true
  | .fldexp _ _ _ _ => true
  | .umac _ _ _ _ _ => true
  | .umovlo _ _ _ => true
  | .umovhi _ _ _ => true
  | .usel _ _ _ _ _ _ => true
  | .ubfx _ _ _ _ _ => true
  | .ubfi _ _ _ _ _ => true
  | _ => false

/-- A stepped 7-bit register number, none past V127 (R54, R55). -/
def stepV (r : BitVec 7) (k : Nat) : Option (BitVec 7) :=
  if r.toNat + k < 128 then some (BitVec.ofNat 7 (r.toNat + k)) else none

/-- A stepped uniform register number, none past S191 (R54, R55). -/
def stepS (r : BitVec 8) (k : Nat) : Option (BitVec 8) :=
  if r.toNat + k < 192 then some (BitVec.ofNat 8 (r.toNat + k)) else none

/-- A stepped lane selector: V stays V, S0 to S63 stays there, inline codes are not stepped (R54, R55). -/
def stepSel (b : BitVec 8) (k : Nat) : Option (BitVec 8) :=
  if b.toNat < 0x80 then (if b.toNat + k < 0x80 then some (BitVec.ofNat 8 (b.toNat + k)) else none)
  else if b.toNat < 0xC0 then (if b.toNat + k < 0xC0 then some (BitVec.ofNat 8 (b.toNat + k)) else none)
  else some b

/-- A stepped Bu6 code: S0 to S31 stays there, integers are not stepped (R54, R55). -/
def stepB6 (b : BitVec 6) (k : Nat) : Option (BitVec 6) :=
  if b.toNat < 0x20 then (if b.toNat + k < 0x20 then some (BitVec.ofNat 6 (b.toNat + k)) else none)
  else some b

/-- A step of a field that the entry marks zero must be 0 (R114). -/
def noStep (step : BitVec 3) (x : Option Instr) : Option Instr := if step = 0 then x else none

/-- Iteration it of an instruction under REP: its register fields stepped, none where R55 or R114
rejects it (R54). -/
def Instr.stepRep (rp : RepP) (it : Nat) : Instr → Option Instr
  | .iadd d a b =>
    (stepV d (rp.dstep.toNat * it)).bind fun d' => (stepV a (rp.astep.toNat * it)).bind fun a' => (stepSel b (rp.bstep.toNat * it)).bind fun b' => some (.iadd d' a' b')
  | .isub d a b =>
    (stepV d (rp.dstep.toNat * it)).bind fun d' => (stepV a (rp.astep.toNat * it)).bind fun a' => (stepSel b (rp.bstep.toNat * it)).bind fun b' => some (.isub d' a' b')
  | .imul d a b =>
    (stepV d (rp.dstep.toNat * it)).bind fun d' => (stepV a (rp.astep.toNat * it)).bind fun a' => (stepSel b (rp.bstep.toNat * it)).bind fun b' => some (.imul d' a' b')
  | .imulh d a b =>
    (stepV d (rp.dstep.toNat * it)).bind fun d' => (stepV a (rp.astep.toNat * it)).bind fun a' => (stepSel b (rp.bstep.toNat * it)).bind fun b' => some (.imulh d' a' b')
  | .imulhu d a b =>
    (stepV d (rp.dstep.toNat * it)).bind fun d' => (stepV a (rp.astep.toNat * it)).bind fun a' => (stepSel b (rp.bstep.toNat * it)).bind fun b' => some (.imulhu d' a' b')
  | .imin d a b =>
    (stepV d (rp.dstep.toNat * it)).bind fun d' => (stepV a (rp.astep.toNat * it)).bind fun a' => (stepSel b (rp.bstep.toNat * it)).bind fun b' => some (.imin d' a' b')
  | .imax d a b =>
    (stepV d (rp.dstep.toNat * it)).bind fun d' => (stepV a (rp.astep.toNat * it)).bind fun a' => (stepSel b (rp.bstep.toNat * it)).bind fun b' => some (.imax d' a' b')
  | .iminu d a b =>
    (stepV d (rp.dstep.toNat * it)).bind fun d' => (stepV a (rp.astep.toNat * it)).bind fun a' => (stepSel b (rp.bstep.toNat * it)).bind fun b' => some (.iminu d' a' b')
  | .imaxu d a b =>
    (stepV d (rp.dstep.toNat * it)).bind fun d' => (stepV a (rp.astep.toNat * it)).bind fun a' => (stepSel b (rp.bstep.toNat * it)).bind fun b' => some (.imaxu d' a' b')
  | .iabs d a =>
    noStep rp.bstep <| (stepV d (rp.dstep.toNat * it)).bind fun d' => (stepV a (rp.astep.toNat * it)).bind fun a' => some (.iabs d' a')
  | .iadds d a b =>
    (stepV d (rp.dstep.toNat * it)).bind fun d' => (stepV a (rp.astep.toNat * it)).bind fun a' => (stepSel b (rp.bstep.toNat * it)).bind fun b' => some (.iadds d' a' b')
  | .isubs d a b =>
    (stepV d (rp.dstep.toNat * it)).bind fun d' => (stepV a (rp.astep.toNat * it)).bind fun a' => (stepSel b (rp.bstep.toNat * it)).bind fun b' => some (.isubs d' a' b')
  | .iaddsu d a b =>
    (stepV d (rp.dstep.toNat * it)).bind fun d' => (stepV a (rp.astep.toNat * it)).bind fun a' => (stepSel b (rp.bstep.toNat * it)).bind fun b' => some (.iaddsu d' a' b')
  | .isubsu d a b =>
    (stepV d (rp.dstep.toNat * it)).bind fun d' => (stepV a (rp.astep.toNat * it)).bind fun a' => (stepSel b (rp.bstep.toNat * it)).bind fun b' => some (.isubsu d' a' b')
  | .and d a b =>
    (stepV d (rp.dstep.toNat * it)).bind fun d' => (stepV a (rp.astep.toNat * it)).bind fun a' => (stepSel b (rp.bstep.toNat * it)).bind fun b' => some (.and d' a' b')
  | .or d a b =>
    (stepV d (rp.dstep.toNat * it)).bind fun d' => (stepV a (rp.astep.toNat * it)).bind fun a' => (stepSel b (rp.bstep.toNat * it)).bind fun b' => some (.or d' a' b')
  | .xor d a b =>
    (stepV d (rp.dstep.toNat * it)).bind fun d' => (stepV a (rp.astep.toNat * it)).bind fun a' => (stepSel b (rp.bstep.toNat * it)).bind fun b' => some (.xor d' a' b')
  | .andn d a b =>
    (stepV d (rp.dstep.toNat * it)).bind fun d' => (stepV a (rp.astep.toNat * it)).bind fun a' => (stepSel b (rp.bstep.toNat * it)).bind fun b' => some (.andn d' a' b')
  | .orn d a b =>
    (stepV d (rp.dstep.toNat * it)).bind fun d' => (stepV a (rp.astep.toNat * it)).bind fun a' => (stepSel b (rp.bstep.toNat * it)).bind fun b' => some (.orn d' a' b')
  | .shl d a b =>
    (stepV d (rp.dstep.toNat * it)).bind fun d' => (stepV a (rp.astep.toNat * it)).bind fun a' => (stepSel b (rp.bstep.toNat * it)).bind fun b' => some (.shl d' a' b')
  | .shr d a b =>
    (stepV d (rp.dstep.toNat * it)).bind fun d' => (stepV a (rp.astep.toNat * it)).bind fun a' => (stepSel b (rp.bstep.toNat * it)).bind fun b' => some (.shr d' a' b')
  | .sar d a b =>
    (stepV d (rp.dstep.toNat * it)).bind fun d' => (stepV a (rp.astep.toNat * it)).bind fun a' => (stepSel b (rp.bstep.toNat * it)).bind fun b' => some (.sar d' a' b')
  | .rotl d a b =>
    (stepV d (rp.dstep.toNat * it)).bind fun d' => (stepV a (rp.astep.toNat * it)).bind fun a' => (stepSel b (rp.bstep.toNat * it)).bind fun b' => some (.rotl d' a' b')
  | .popc d a =>
    noStep rp.bstep <| (stepV d (rp.dstep.toNat * it)).bind fun d' => (stepV a (rp.astep.toNat * it)).bind fun a' => some (.popc d' a')
  | .clz d a =>
    noStep rp.bstep <| (stepV d (rp.dstep.toNat * it)).bind fun d' => (stepV a (rp.astep.toNat * it)).bind fun a' => some (.clz d' a')
  | .brev d a =>
    noStep rp.bstep <| (stepV d (rp.dstep.toNat * it)).bind fun d' => (stepV a (rp.astep.toNat * it)).bind fun a' => some (.brev d' a')
  | .mov d b =>
    noStep rp.astep <| (stepV d (rp.dstep.toNat * it)).bind fun d' => (stepSel b (rp.bstep.toNat * it)).bind fun b' => some (.mov d' b')
  | .fadd d a b =>
    (stepV d (rp.dstep.toNat * it)).bind fun d' => (stepV a (rp.astep.toNat * it)).bind fun a' => (stepSel b (rp.bstep.toNat * it)).bind fun b' => some (.fadd d' a' b')
  | .fsub d a b =>
    (stepV d (rp.dstep.toNat * it)).bind fun d' => (stepV a (rp.astep.toNat * it)).bind fun a' => (stepSel b (rp.bstep.toNat * it)).bind fun b' => some (.fsub d' a' b')
  | .fmul d a b =>
    (stepV d (rp.dstep.toNat * it)).bind fun d' => (stepV a (rp.astep.toNat * it)).bind fun a' => (stepSel b (rp.bstep.toNat * it)).bind fun b' => some (.fmul d' a' b')
  | .fmin d a b =>
    (stepV d (rp.dstep.toNat * it)).bind fun d' => (stepV a (rp.astep.toNat * it)).bind fun a' => (stepSel b (rp.bstep.toNat * it)).bind fun b' => some (.fmin d' a' b')
  | .fmax d a b =>
    (stepV d (rp.dstep.toNat * it)).bind fun d' => (stepV a (rp.astep.toNat * it)).bind fun a' => (stepSel b (rp.bstep.toNat * it)).bind fun b' => some (.fmax d' a' b')
  | .fabs d a =>
    noStep rp.bstep <| (stepV d (rp.dstep.toNat * it)).bind fun d' => (stepV a (rp.astep.toNat * it)).bind fun a' => some (.fabs d' a')
  | .ffloor d a =>
    noStep rp.bstep <| (stepV d (rp.dstep.toNat * it)).bind fun d' => (stepV a (rp.astep.toNat * it)).bind fun a' => some (.ffloor d' a')
  | .fceil d a =>
    noStep rp.bstep <| (stepV d (rp.dstep.toNat * it)).bind fun d' => (stepV a (rp.astep.toNat * it)).bind fun a' => some (.fceil d' a')
  | .ftrunc d a =>
    noStep rp.bstep <| (stepV d (rp.dstep.toNat * it)).bind fun d' => (stepV a (rp.astep.toNat * it)).bind fun a' => some (.ftrunc d' a')
  | .frint d a =>
    noStep rp.bstep <| (stepV d (rp.dstep.toNat * it)).bind fun d' => (stepV a (rp.astep.toNat * it)).bind fun a' => some (.frint d' a')
  | .hadd2 d a b =>
    (stepV d (rp.dstep.toNat * it)).bind fun d' => (stepV a (rp.astep.toNat * it)).bind fun a' => (stepSel b (rp.bstep.toNat * it)).bind fun b' => some (.hadd2 d' a' b')
  | .hmul2 d a b =>
    (stepV d (rp.dstep.toNat * it)).bind fun d' => (stepV a (rp.astep.toNat * it)).bind fun a' => (stepSel b (rp.bstep.toNat * it)).bind fun b' => some (.hmul2 d' a' b')
  | .hmin2 d a b =>
    (stepV d (rp.dstep.toNat * it)).bind fun d' => (stepV a (rp.astep.toNat * it)).bind fun a' => (stepSel b (rp.bstep.toNat * it)).bind fun b' => some (.hmin2 d' a' b')
  | .hmax2 d a b =>
    (stepV d (rp.dstep.toNat * it)).bind fun d' => (stepV a (rp.astep.toNat * it)).bind fun a' => (stepSel b (rp.bstep.toNat * it)).bind fun b' => some (.hmax2 d' a' b')
  | .badd2 d a b =>
    (stepV d (rp.dstep.toNat * it)).bind fun d' => (stepV a (rp.astep.toNat * it)).bind fun a' => (stepSel b (rp.bstep.toNat * it)).bind fun b' => some (.badd2 d' a' b')
  | .bmul2 d a b =>
    (stepV d (rp.dstep.toNat * it)).bind fun d' => (stepV a (rp.astep.toNat * it)).bind fun a' => (stepSel b (rp.bstep.toNat * it)).bind fun b' => some (.bmul2 d' a' b')
  | .i2f d a =>
    noStep rp.bstep <| (stepV d (rp.dstep.toNat * it)).bind fun d' => (stepV a (rp.astep.toNat * it)).bind fun a' => some (.i2f d' a')
  | .u2f d a =>
    noStep rp.bstep <| (stepV d (rp.dstep.toNat * it)).bind fun d' => (stepV a (rp.astep.toNat * it)).bind fun a' => some (.u2f d' a')
  | .f2i d a =>
    noStep rp.bstep <| (stepV d (rp.dstep.toNat * it)).bind fun d' => (stepV a (rp.astep.toNat * it)).bind fun a' => some (.f2i d' a')
  | .f2u d a =>
    noStep rp.bstep <| (stepV d (rp.dstep.toNat * it)).bind fun d' => (stepV a (rp.astep.toNat * it)).bind fun a' => some (.f2u d' a')
  | .f2h d a b =>
    (stepV d (rp.dstep.toNat * it)).bind fun d' => (stepV a (rp.astep.toNat * it)).bind fun a' => (stepSel b (rp.bstep.toNat * it)).bind fun b' => some (.f2h d' a' b')
  | .h2f d a b =>
    (stepV d (rp.dstep.toNat * it)).bind fun d' => (stepV a (rp.astep.toNat * it)).bind fun a' => some (.h2f d' a' b)
  | .f2b d a b =>
    (stepV d (rp.dstep.toNat * it)).bind fun d' => (stepV a (rp.astep.toNat * it)).bind fun a' => (stepSel b (rp.bstep.toNat * it)).bind fun b' => some (.f2b d' a' b')
  | .b2f d a b =>
    (stepV d (rp.dstep.toNat * it)).bind fun d' => (stepV a (rp.astep.toNat * it)).bind fun a' => some (.b2f d' a' b)
  | .uadd d a b =>
    (stepS d (rp.dstep.toNat * it)).bind fun d' => (stepS a (rp.astep.toNat * it)).bind fun a' => (stepB6 b (rp.bstep.toNat * it)).bind fun b' => some (.uadd d' a' b')
  | .usub d a b =>
    (stepS d (rp.dstep.toNat * it)).bind fun d' => (stepS a (rp.astep.toNat * it)).bind fun a' => (stepB6 b (rp.bstep.toNat * it)).bind fun b' => some (.usub d' a' b')
  | .umul d a b =>
    (stepS d (rp.dstep.toNat * it)).bind fun d' => (stepS a (rp.astep.toNat * it)).bind fun a' => (stepB6 b (rp.bstep.toNat * it)).bind fun b' => some (.umul d' a' b')
  | .umulh d a b =>
    (stepS d (rp.dstep.toNat * it)).bind fun d' => (stepS a (rp.astep.toNat * it)).bind fun a' => (stepB6 b (rp.bstep.toNat * it)).bind fun b' => some (.umulh d' a' b')
  | .umin d a b =>
    (stepS d (rp.dstep.toNat * it)).bind fun d' => (stepS a (rp.astep.toNat * it)).bind fun a' => (stepB6 b (rp.bstep.toNat * it)).bind fun b' => some (.umin d' a' b')
  | .umax d a b =>
    (stepS d (rp.dstep.toNat * it)).bind fun d' => (stepS a (rp.astep.toNat * it)).bind fun a' => (stepB6 b (rp.bstep.toNat * it)).bind fun b' => some (.umax d' a' b')
  | .uminu d a b =>
    (stepS d (rp.dstep.toNat * it)).bind fun d' => (stepS a (rp.astep.toNat * it)).bind fun a' => (stepB6 b (rp.bstep.toNat * it)).bind fun b' => some (.uminu d' a' b')
  | .umaxu d a b =>
    (stepS d (rp.dstep.toNat * it)).bind fun d' => (stepS a (rp.astep.toNat * it)).bind fun a' => (stepB6 b (rp.bstep.toNat * it)).bind fun b' => some (.umaxu d' a' b')
  | .uand d a b =>
    (stepS d (rp.dstep.toNat * it)).bind fun d' => (stepS a (rp.astep.toNat * it)).bind fun a' => (stepB6 b (rp.bstep.toNat * it)).bind fun b' => some (.uand d' a' b')
  | .uor d a b =>
    (stepS d (rp.dstep.toNat * it)).bind fun d' => (stepS a (rp.astep.toNat * it)).bind fun a' => (stepB6 b (rp.bstep.toNat * it)).bind fun b' => some (.uor d' a' b')
  | .uxor d a b =>
    (stepS d (rp.dstep.toNat * it)).bind fun d' => (stepS a (rp.astep.toNat * it)).bind fun a' => (stepB6 b (rp.bstep.toNat * it)).bind fun b' => some (.uxor d' a' b')
  | .uandn d a b =>
    (stepS d (rp.dstep.toNat * it)).bind fun d' => (stepS a (rp.astep.toNat * it)).bind fun a' => (stepB6 b (rp.bstep.toNat * it)).bind fun b' => some (.uandn d' a' b')
  | .ushl d a b =>
    (stepS d (rp.dstep.toNat * it)).bind fun d' => (stepS a (rp.astep.toNat * it)).bind fun a' => (stepB6 b (rp.bstep.toNat * it)).bind fun b' => some (.ushl d' a' b')
  | .ushr d a b =>
    (stepS d (rp.dstep.toNat * it)).bind fun d' => (stepS a (rp.astep.toNat * it)).bind fun a' => (stepB6 b (rp.bstep.toNat * it)).bind fun b' => some (.ushr d' a' b')
  | .usar d a b =>
    (stepS d (rp.dstep.toNat * it)).bind fun d' => (stepS a (rp.astep.toNat * it)).bind fun a' => (stepB6 b (rp.bstep.toNat * it)).bind fun b' => some (.usar d' a' b')
  | .upopc d a =>
    noStep rp.bstep <| (stepS d (rp.dstep.toNat * it)).bind fun d' => (stepS a (rp.astep.toNat * it)).bind fun a' => some (.upopc d' a')
  | .uclz d a =>
    noStep rp.bstep <| (stepS d (rp.dstep.toNat * it)).bind fun d' => (stepS a (rp.astep.toNat * it)).bind fun a' => some (.uclz d' a')
  | .umov d b =>
    noStep rp.astep <| (stepS d (rp.dstep.toNat * it)).bind fun d' => (stepB6 b (rp.bstep.toNat * it)).bind fun b' => some (.umov d' b')
  | .imac g d a b c =>
    (stepV d (rp.dstep.toNat * it)).bind fun d' => (stepV a (rp.astep.toNat * it)).bind fun a' => (stepSel b (rp.bstep.toNat * it)).bind fun b' => some (.imac g d' a' b' c)
  | .imacw g d a b c u =>
    (stepV d (rp.dstep.toNat * it)).bind fun d' => (stepV a (rp.astep.toNat * it)).bind fun a' => (stepSel b (rp.bstep.toNat * it)).bind fun b' => some (.imacw g d' a' b' c u)
  | .isum3 g d a b c =>
    (stepV d (rp.dstep.toNat * it)).bind fun d' => (stepV a (rp.astep.toNat * it)).bind fun a' => (stepSel b (rp.bstep.toNat * it)).bind fun b' => some (.isum3 g d' a' b' c)
  | .idot8 g d a b c ua ub =>
    (stepV d (rp.dstep.toNat * it)).bind fun d' => (stepV a (rp.astep.toNat * it)).bind fun a' => (stepSel b (rp.bstep.toNat * it)).bind fun b' => some (.idot8 g d' a' b' c ua ub)
  | .iabda g d a b c u =>
    (stepV d (rp.dstep.toNat * it)).bind fun d' => (stepV a (rp.astep.toNat * it)).bind fun a' => (stepSel b (rp.bstep.toNat * it)).bind fun b' => some (.iabda g d' a' b' c u)
  | .iaddc g d a b cin cout =>
    (stepV d (rp.dstep.toNat * it)).bind fun d' => (stepV a (rp.astep.toNat * it)).bind fun a' => (stepSel b (rp.bstep.toNat * it)).bind fun b' => some (.iaddc g d' a' b' cin cout)
  | .isubb g d a b cin cout =>
    (stepV d (rp.dstep.toNat * it)).bind fun d' => (stepV a (rp.astep.toNat * it)).bind fun a' => (stepSel b (rp.bstep.toNat * it)).bind fun b' => some (.isubb g d' a' b' cin cout)
  | .iaddw g d a b ty k =>
    (stepV d (rp.dstep.toNat * it)).bind fun d' => (stepV a (rp.astep.toNat * it)).bind fun a' => (stepSel b (rp.bstep.toNat * it)).bind fun b' => some (.iaddw g d' a' b' ty k)
  | .lea g d a b s w sh =>
    (stepV d (rp.dstep.toNat * it)).bind fun d' => (stepV a (rp.astep.toNat * it)).bind fun a' => (stepSel b (rp.bstep.toNat * it)).bind fun b' => some (.lea g d' a' b' s w sh)
  | .bfx g d a b s =>
    (stepV d (rp.dstep.toNat * it)).bind fun d' => (stepV a (rp.astep.toNat * it)).bind fun a' => (stepSel b (rp.bstep.toNat * it)).bind fun b' => some (.bfx g d' a' b' s)
  | .bfi g d a b c =>
    (stepV d (rp.dstep.toNat * it)).bind fun d' => (stepV a (rp.astep.toNat * it)).bind fun a' => (stepSel b (rp.bstep.toNat * it)).bind fun b' => some (.bfi g d' a' b' c)
  | .bytex g d a b c =>
    (stepV d (rp.dstep.toNat * it)).bind fun d' => (stepV a (rp.astep.toNat * it)).bind fun a' => (stepSel b (rp.bstep.toNat * it)).bind fun b' => some (.bytex g d' a' b' c)
  | .sel g d a b pneg p =>
    (stepV d (rp.dstep.toNat * it)).bind fun d' => (stepV a (rp.astep.toNat * it)).bind fun a' => (stepSel b (rp.bstep.toNat * it)).bind fun b' => some (.sel g d' a' b' pneg p)
  | .movlo g d imm =>
    noStep rp.astep <| noStep rp.bstep <| (stepV d (rp.dstep.toNat * it)).bind fun d' => some (.movlo g d' imm)
  | .movhi g d imm =>
    noStep rp.astep <| noStep rp.bstep <| (stepV d (rp.dstep.toNat * it)).bind fun d' => some (.movhi g d' imm)
  | .ffma g d a b c np nc =>
    (stepV d (rp.dstep.toNat * it)).bind fun d' => (stepV a (rp.astep.toNat * it)).bind fun a' => (stepSel b (rp.bstep.toNat * it)).bind fun b' => some (.ffma g d' a' b' c np nc)
  | .hfma2 g d a b c np nc =>
    (stepV d (rp.dstep.toNat * it)).bind fun d' => (stepV a (rp.astep.toNat * it)).bind fun a' => (stepSel b (rp.bstep.toNat * it)).bind fun b' => some (.hfma2 g d' a' b' c np nc)
  | .bfma2 g d a b c np nc =>
    (stepV d (rp.dstep.toNat * it)).bind fun d' => (stepV a (rp.astep.toNat * it)).bind fun a' => (stepSel b (rp.bstep.toNat * it)).bind fun b' => some (.bfma2 g d' a' b' c np nc)
  | .fdot2 g d a b c bf =>
    (stepV d (rp.dstep.toNat * it)).bind fun d' => (stepV a (rp.astep.toNat * it)).bind fun a' => (stepSel b (rp.bstep.toNat * it)).bind fun b' => some (.fdot2 g d' a' b' c bf)
  | .cvtn g d a n k isrc =>
    noStep rp.bstep <| (stepV d (rp.dstep.toNat * it)).bind fun d' => (stepV a (rp.astep.toNat * it)).bind fun a' => some (.cvtn g d' a' n k isrc)
  | .cvtw g d a n k idst =>
    noStep rp.bstep <| (stepV d (rp.dstep.toNat * it)).bind fun d' => (stepV a (rp.astep.toNat * it)).bind fun a' => some (.cvtw g d' a' n k idst)
  | .frcp g la d a =>
    noStep rp.bstep <| (stepV d (rp.dstep.toNat * it)).bind fun d' => (stepV a (rp.astep.toNat * it)).bind fun a' => some (.frcp g la d' a')
  | .frsq g la d a =>
    noStep rp.bstep <| (stepV d (rp.dstep.toNat * it)).bind fun d' => (stepV a (rp.astep.toNat * it)).bind fun a' => some (.frsq g la d' a')
  | .fsqrt g la d a =>
    noStep rp.bstep <| (stepV d (rp.dstep.toNat * it)).bind fun d' => (stepV a (rp.astep.toNat * it)).bind fun a' => some (.fsqrt g la d' a')
  | .fexp2 g la d a =>
    noStep rp.bstep <| (stepV d (rp.dstep.toNat * it)).bind fun d' => (stepV a (rp.astep.toNat * it)).bind fun a' => some (.fexp2 g la d' a')
  | .flog2 g la d a =>
    noStep rp.bstep <| (stepV d (rp.dstep.toNat * it)).bind fun d' => (stepV a (rp.astep.toNat * it)).bind fun a' => some (.flog2 g la d' a')
  | .fsint g la d a =>
    noStep rp.bstep <| (stepV d (rp.dstep.toNat * it)).bind fun d' => (stepV a (rp.astep.toNat * it)).bind fun a' => some (.fsint g la d' a')
  | .fcost g la d a =>
    noStep rp.bstep <| (stepV d (rp.dstep.toNat * it)).bind fun d' => (stepV a (rp.astep.toNat * it)).bind fun a' => some (.fcost g la d' a')
  | .fldexp g d a b =>
    (stepV d (rp.dstep.toNat * it)).bind fun d' => (stepV a (rp.astep.toNat * it)).bind fun a' => (stepSel b (rp.bstep.toNat * it)).bind fun b' => some (.fldexp g d' a' b')
  | .umac g d a b sb =>
    (stepS d (rp.dstep.toNat * it)).bind fun d' => (stepS a (rp.astep.toNat * it)).bind fun a' => (stepB6 b (rp.bstep.toNat * it)).bind fun b' => some (.umac g d' a' b' sb)
  | .umovlo g d imm =>
    noStep rp.astep <| noStep rp.bstep <| (stepS d (rp.dstep.toNat * it)).bind fun d' => some (.umovlo g d' imm)
  | .umovhi g d imm =>
    noStep rp.astep <| noStep rp.bstep <| (stepS d (rp.dstep.toNat * it)).bind fun d' => some (.umovhi g d' imm)
  | .usel g d a b qneg q =>
    (stepS d (rp.dstep.toNat * it)).bind fun d' => (stepS a (rp.astep.toNat * it)).bind fun a' => (stepB6 b (rp.bstep.toNat * it)).bind fun b' => some (.usel g d' a' b' qneg q)
  | .ubfx g d a b s =>
    (stepS d (rp.dstep.toNat * it)).bind fun d' => (stepS a (rp.astep.toNat * it)).bind fun a' => (stepB6 b (rp.bstep.toNat * it)).bind fun b' => some (.ubfx g d' a' b' s)
  | .ubfi g d a b sb =>
    (stepS d (rp.dstep.toNat * it)).bind fun d' => (stepS a (rp.astep.toNat * it)).bind fun a' => (stepB6 b (rp.bstep.toNat * it)).bind fun b' => some (.ubfi g d' a' b' sb)
  | _ => none

/-- A control-transfer instruction (R65). -/
def Instr.isControl : Instr → Bool
  | .bra _ _ => true
  | .jmpi _ _ => true
  | .call _ _ => true
  | .calli _ _ => true
  | .ret _ => true
  | .exitT _ => true
  | .ubra _ _ => true
  | .ujmpi _ _ => true
  | .ucall _ _ => true
  | .uret _ => true
  | .uexit _ => true
  | .utrap _ _ => true
  | _ => false

/-- The V registers that an instruction names, for the ceiling check of R44. -/
def Instr.vregs : Instr → List Nat
  | .iadd d a b => [d.toNat, a.toNat] ++ selV b
  | .isub d a b => [d.toNat, a.toNat] ++ selV b
  | .imul d a b => [d.toNat, a.toNat] ++ selV b
  | .imulh d a b => [d.toNat, a.toNat] ++ selV b
  | .imulhu d a b => [d.toNat, a.toNat] ++ selV b
  | .imin d a b => [d.toNat, a.toNat] ++ selV b
  | .imax d a b => [d.toNat, a.toNat] ++ selV b
  | .iminu d a b => [d.toNat, a.toNat] ++ selV b
  | .imaxu d a b => [d.toNat, a.toNat] ++ selV b
  | .iabs d a => [d.toNat, a.toNat]
  | .iadds d a b => [d.toNat, a.toNat] ++ selV b
  | .isubs d a b => [d.toNat, a.toNat] ++ selV b
  | .iaddsu d a b => [d.toNat, a.toNat] ++ selV b
  | .isubsu d a b => [d.toNat, a.toNat] ++ selV b
  | .and d a b => [d.toNat, a.toNat] ++ selV b
  | .or d a b => [d.toNat, a.toNat] ++ selV b
  | .xor d a b => [d.toNat, a.toNat] ++ selV b
  | .andn d a b => [d.toNat, a.toNat] ++ selV b
  | .orn d a b => [d.toNat, a.toNat] ++ selV b
  | .shl d a b => [d.toNat, a.toNat] ++ selV b
  | .shr d a b => [d.toNat, a.toNat] ++ selV b
  | .sar d a b => [d.toNat, a.toNat] ++ selV b
  | .rotl d a b => [d.toNat, a.toNat] ++ selV b
  | .popc d a => [d.toNat, a.toNat]
  | .clz d a => [d.toNat, a.toNat]
  | .brev d a => [d.toNat, a.toNat]
  | .mov d b => [d.toNat] ++ selV b
  | .fadd d a b => [d.toNat, a.toNat] ++ selV b
  | .fsub d a b => [d.toNat, a.toNat] ++ selV b
  | .fmul d a b => [d.toNat, a.toNat] ++ selV b
  | .fmin d a b => [d.toNat, a.toNat] ++ selV b
  | .fmax d a b => [d.toNat, a.toNat] ++ selV b
  | .fabs d a => [d.toNat, a.toNat]
  | .ffloor d a => [d.toNat, a.toNat]
  | .fceil d a => [d.toNat, a.toNat]
  | .ftrunc d a => [d.toNat, a.toNat]
  | .frint d a => [d.toNat, a.toNat]
  | .hadd2 d a b => [d.toNat, a.toNat] ++ selV b
  | .hmul2 d a b => [d.toNat, a.toNat] ++ selV b
  | .hmin2 d a b => [d.toNat, a.toNat] ++ selV b
  | .hmax2 d a b => [d.toNat, a.toNat] ++ selV b
  | .badd2 d a b => [d.toNat, a.toNat] ++ selV b
  | .bmul2 d a b => [d.toNat, a.toNat] ++ selV b
  | .i2f d a => [d.toNat, a.toNat]
  | .u2f d a => [d.toNat, a.toNat]
  | .f2i d a => [d.toNat, a.toNat]
  | .f2u d a => [d.toNat, a.toNat]
  | .f2h d a b => [d.toNat, a.toNat] ++ selV b
  | .h2f d a b => [d.toNat, a.toNat] ++ selV b
  | .f2b d a b => [d.toNat, a.toNat] ++ selV b
  | .b2f d a b => [d.toNat, a.toNat] ++ selV b
  | .imac _ d a b c => [d.toNat, a.toNat] ++ selV b ++ selV c
  | .imacw _ d a b c _ => [d.toNat, d.toNat + 1, a.toNat] ++ selV b ++ selV2 c
  | .isum3 _ d a b c => [d.toNat, a.toNat] ++ selV b ++ selV c
  | .idot8 _ d a b c _ _ => [d.toNat, a.toNat] ++ selV b ++ selV c
  | .iabda _ d a b c _ => [d.toNat, a.toNat] ++ selV b ++ selV c
  | .iaddc _ d a b _ _ => [d.toNat, a.toNat] ++ selV b
  | .isubb _ d a b _ _ => [d.toNat, a.toNat] ++ selV b
  | .iaddw _ d a b _ _ => [d.toNat, a.toNat] ++ selV b
  | .lea _ d a b _ w _ => [d.toNat, a.toNat] ++ wideV w [d.toNat + 1, a.toNat + 1] ++ selV b
  | .bfx _ d a b _ => [d.toNat, a.toNat] ++ selV b
  | .bfi _ d a b c => [d.toNat, a.toNat] ++ selV b ++ selV c
  | .bytex _ d a b c => [d.toNat, a.toNat] ++ selV b ++ selV c
  | .sel _ d a b _ _ => [d.toNat, a.toNat] ++ selV b
  | .isetp _ a b _ _ _ _ _ _ => [a.toNat] ++ selV b
  | .movlo _ d _ => [d.toNat]
  | .movhi _ d _ => [d.toNat]
  | .p2v _ d => [d.toNat]
  | .v2p _ a b => [a.toNat] ++ selV b
  | .ffma _ d a b c _ _ => [d.toNat, a.toNat] ++ selV b ++ selV c
  | .hfma2 _ d a b c _ _ => [d.toNat, a.toNat] ++ selV b ++ selV c
  | .bfma2 _ d a b c _ _ => [d.toNat, a.toNat] ++ selV b ++ selV c
  | .fsetp _ a b _ _ _ _ _ _ => [a.toNat] ++ selV b
  | .fclass _ a _ _ => [a.toNat]
  | .fdot2 _ d a b c _ => [d.toNat, a.toNat] ++ selV b ++ selV c
  | .cvtn _ d a _ _ _ => [d.toNat, a.toNat]
  | .cvtw _ d a _ _ _ => [d.toNat, a.toNat]
  | .frcp _ _ d a => [d.toNat, a.toNat]
  | .frsq _ _ d a => [d.toNat, a.toNat]
  | .fsqrt _ _ d a => [d.toNat, a.toNat]
  | .fexp2 _ _ d a => [d.toNat, a.toNat]
  | .flog2 _ _ d a => [d.toNat, a.toNat]
  | .fsint _ _ d a => [d.toNat, a.toNat]
  | .fcost _ _ d a => [d.toNat, a.toNat]
  | .fldexp _ d a b => [d.toNat, a.toNat] ++ selV b
  | .shfl _ _ d a b c _ _ _ => [d.toNat, a.toNat] ++ selV b ++ selV c
  | .ballot _ _ d _ _ _ _ => [d.toNat]
  | .matchv _ _ d a _ _ => [d.toNat, a.toNat]
  | .redux _ _ d a c _ _ _ => [d.toNat, a.toNat] ++ selV c
  | .scanx _ _ d a c _ _ _ _ => [d.toNat, a.toNat] ++ selV c
  | .jmpi _ a => [a.toNat]
  | .calli _ a => [a.toNat]
  | .monw _ a _ _ _ off64 _ _ _ _ => [a.toNat] ++ wideV off64 [a.toNat + 1]
  | .mwait _ b _ _ => selV b
  | .rdctr _ _ d _ => [d.toNat, d.toNat + 1]
  | .ld _ _ d a size _ _ off64 _ _ _ _ => dataV size d ++ [a.toNat] ++ wideV off64 [a.toNat + 1]
  | .st _ d a size _ _ off64 _ _ _ _ => dataV size d ++ [a.toNat] ++ wideV off64 [a.toNat + 1]
  | .ldx _ _ d a size _ _ off64 _ _ _ _ => dataV size d ++ [a.toNat] ++ wideV off64 [a.toNat + 1]
  | .pld _ _ d a size _ _ off64 _ _ _ _ => dataV size d ++ [a.toNat] ++ wideV off64 [a.toNat + 1]
  | .pst _ d a size _ _ off64 _ _ _ _ => dataV size d ++ [a.toNat] ++ wideV off64 [a.toNat + 1]
  | .atom _ _ d a size _ _ off64 _ _ _ _ => dataV size d ++ [a.toNat] ++ wideV off64 [a.toNat + 1]
  | .atomc _ _ d a size _ _ off64 _ _ _ _ => casV size d ++ [a.toNat] ++ wideV off64 [a.toNat + 1]
  | .red _ d a size _ _ off64 _ _ _ _ => dataV size d ++ [a.toNat] ++ wideV off64 [a.toNat + 1]
  | .patom _ _ d a size _ _ off64 _ _ _ imm => (if aopCas imm then casV size d else dataV size d) ++ [a.toNat] ++ wideV off64 [a.toNat + 1]
  | .cflush _ a _ _ _ off64 _ _ _ _ => [a.toNat] ++ wideV off64 [a.toNat + 1]
  | .cinv _ a _ _ _ off64 _ _ _ _ => [a.toNat] ++ wideV off64 [a.toNat + 1]
  | .pref _ a _ _ _ off64 _ _ _ _ => [a.toNat] ++ wideV off64 [a.toNat + 1]
  | .pprobe _ _ d a _ _ _ off64 _ _ _ _ => [d.toNat] ++ [a.toNat] ++ wideV off64 [a.toNat + 1]
  | .phint _ _ a _ _ _ off64 _ _ _ _ => [a.toNat] ++ wideV off64 [a.toNat + 1]
  | .v2s _ _ _ _ vs => [vs.toNat]
  | _ => []

/-- A uniform instruction: bit 31 of its first word is 1 (R30). -/
def Instr.isUniform : Instr → Bool
  | .uadd _ _ _ => true
  | .usub _ _ _ => true
  | .umul _ _ _ => true
  | .umulh _ _ _ => true
  | .umin _ _ _ => true
  | .umax _ _ _ => true
  | .uminu _ _ _ => true
  | .umaxu _ _ _ => true
  | .uand _ _ _ => true
  | .uor _ _ _ => true
  | .uxor _ _ _ => true
  | .uandn _ _ _ => true
  | .ushl _ _ _ => true
  | .ushr _ _ _ => true
  | .usar _ _ _ => true
  | .upopc _ _ => true
  | .uclz _ _ => true
  | .umov _ _ => true
  | .unop => true
  | .umac _ _ _ _ _ => true
  | .umovlo _ _ _ => true
  | .umovhi _ _ _ => true
  | .usetp _ _ _ _ _ _ _ _ _ => true
  | .usel _ _ _ _ _ _ => true
  | .ubfx _ _ _ _ _ => true
  | .ubfi _ _ _ _ _ => true
  | .umovs _ _ _ => true
  | .v2s _ _ _ _ _ => true
  | .uld _ _ _ _ _ _ _ _ _ _ _ => true
  | .ust _ _ _ _ _ _ _ _ _ _ => true
  | .uatom _ _ _ _ _ _ _ _ _ _ _ => true
  | .ufence _ _ _ => true
  | .ubra _ _ => true
  | .ujmpi _ _ => true
  | .ucall _ _ => true
  | .uret _ => true
  | .uexit _ => true
  | .utrap _ _ => true
  | .gnarrow _ _ _ _ _ _ _ _ => true
  | .ginfo _ _ _ _ _ => true
  | .pinfo _ _ _ _ => true
  | .gdchk _ _ _ _ _ _ => true
  | .shape _ _ _ => true
  | .xcopy _ _ _ _ _ _ _ _ _ _ _ _ => true
  | .xgath _ _ _ _ _ _ _ _ _ => true
  | .xscat _ _ _ _ _ _ _ _ _ => true
  | .xstat _ _ _ _ _ => true
  | .binit _ _ _ _ _ _ => true
  | .barv _ _ _ _ _ _ => true
  | .bard _ _ _ _ _ _ => true
  | .bwait _ _ _ _ _ _ _ => true
  | .btry _ _ _ _ _ _ _ _ _ => true
  | .bexp _ _ _ _ _ _ => true
  | .bdrop _ _ _ _ _ => true
  | .blkbar _ => true
  | .clubar _ => true
  | .diebar _ => true
  | .gsig _ _ => true
  | .gwait _ _ _ => true
  | .gtry _ _ _ _ _ _ => true
  | .gpost _ _ _ _ _ => true
  | .gread _ _ _ _ _ => true
  | .gquery _ _ _ _ _ => true
  | .launch _ _ _ _ => true
  | .qstat _ _ _ _ => true
  | .evsig _ _ _ _ => true
  | .evwait _ _ _ => true
  | .tzero _ _ _ _ _ => true
  | .tmma _ _ _ _ _ _ _ _ _ _ _ _ _ => true
  | .tmmas _ _ _ _ _ _ _ _ _ _ _ => true
  | .tdrain _ _ _ _ _ _ _ _ _ _ _ => true
  | .tfence _ => true
  | .twait _ _ _ _ => true
  | .tstat _ _ _ _ _ _ => true
  | _ => false

/-- The guard field of an instruction, PT or QT for a 32-bit form (R45). -/
def Instr.guardOf : Instr → BitVec 4
  | .imac g _ _ _ _ => g
  | .imacw g _ _ _ _ _ => g
  | .isum3 g _ _ _ _ => g
  | .idot8 g _ _ _ _ _ _ => g
  | .iabda g _ _ _ _ _ => g
  | .iaddc g _ _ _ _ _ => g
  | .isubb g _ _ _ _ _ => g
  | .iaddw g _ _ _ _ _ => g
  | .lea g _ _ _ _ _ _ => g
  | .bfx g _ _ _ _ => g
  | .bfi g _ _ _ _ => g
  | .bytex g _ _ _ _ => g
  | .sel g _ _ _ _ _ => g
  | .isetp g _ _ _ _ _ _ _ _ => g
  | .movlo g _ _ => g
  | .movhi g _ _ => g
  | .ptab g _ _ _ _ _ => g
  | .p2v g _ => g
  | .v2p g _ _ => g
  | .ffma g _ _ _ _ _ _ => g
  | .hfma2 g _ _ _ _ _ _ => g
  | .bfma2 g _ _ _ _ _ _ => g
  | .fsetp g _ _ _ _ _ _ _ _ => g
  | .fclass g _ _ _ => g
  | .fdot2 g _ _ _ _ _ => g
  | .cvtn g _ _ _ _ _ => g
  | .cvtw g _ _ _ _ _ => g
  | .frcp g _ _ _ => g
  | .frsq g _ _ _ => g
  | .fsqrt g _ _ _ => g
  | .fexp2 g _ _ _ => g
  | .flog2 g _ _ _ => g
  | .fsint g _ _ _ => g
  | .fcost g _ _ _ => g
  | .fldexp g _ _ _ => g
  | .shfl g _ _ _ _ _ _ _ _ => g
  | .vote g _ _ _ _ _ _ _ => g
  | .ballot g _ _ _ _ _ _ => g
  | .matchv g _ _ _ _ _ => g
  | .redux g _ _ _ _ _ _ _ => g
  | .scanx g _ _ _ _ _ _ _ _ => g
  | .bra g _ => g
  | .jmpi g _ => g
  | .call g _ => g
  | .calli g _ => g
  | .ret g => g
  | .exitT g => g
  | .join g _ => g
  | .yield g => g
  | .grow g _ => g
  | .shrink g _ => g
  | .monw g _ _ _ _ _ _ _ _ _ => g
  | .mwait g _ _ _ => g
  | .trap g _ => g
  | .bkpt g _ => g
  | .rdctr g _ _ _ => g
  | .ld g _ _ _ _ _ _ _ _ _ _ _ => g
  | .st g _ _ _ _ _ _ _ _ _ _ => g
  | .ldx g _ _ _ _ _ _ _ _ _ _ _ => g
  | .pld g _ _ _ _ _ _ _ _ _ _ _ => g
  | .pst g _ _ _ _ _ _ _ _ _ _ => g
  | .atom g _ _ _ _ _ _ _ _ _ _ _ => g
  | .atomc g _ _ _ _ _ _ _ _ _ _ _ => g
  | .red g _ _ _ _ _ _ _ _ _ _ => g
  | .patom g _ _ _ _ _ _ _ _ _ _ _ => g
  | .fence g _ _ => g
  | .cflush g _ _ _ _ _ _ _ _ _ => g
  | .cinv g _ _ _ _ _ _ _ _ _ => g
  | .pref g _ _ _ _ _ _ _ _ _ => g
  | .pprobe g _ _ _ _ _ _ _ _ _ _ _ => g
  | .phint g _ _ _ _ _ _ _ _ _ _ => g
  | .umac g _ _ _ _ => g
  | .umovlo g _ _ => g
  | .umovhi g _ _ => g
  | .usetp g _ _ _ _ _ _ _ _ => g
  | .usel g _ _ _ _ _ => g
  | .ubfx g _ _ _ _ => g
  | .ubfi g _ _ _ _ => g
  | .umovs g _ _ => g
  | .v2s g _ _ _ _ => g
  | .uld g _ _ _ _ _ _ _ _ _ _ => g
  | .ust g _ _ _ _ _ _ _ _ _ => g
  | .uatom g _ _ _ _ _ _ _ _ _ _ => g
  | .ufence g _ _ => g
  | .ubra g _ => g
  | .ujmpi g _ => g
  | .ucall g _ => g
  | .uret g => g
  | .uexit g => g
  | .utrap g _ => g
  | .gnarrow g _ _ _ _ _ _ _ => g
  | .ginfo g _ _ _ _ => g
  | .pinfo g _ _ _ => g
  | .gdchk g _ _ _ _ _ => g
  | .shape g _ _ => g
  | .xcopy g _ _ _ _ _ _ _ _ _ _ _ => g
  | .xgath g _ _ _ _ _ _ _ _ => g
  | .xscat g _ _ _ _ _ _ _ _ => g
  | .xstat g _ _ _ _ => g
  | .binit g _ _ _ _ _ => g
  | .barv g _ _ _ _ _ => g
  | .bard g _ _ _ _ _ => g
  | .bwait g _ _ _ _ _ _ => g
  | .btry g _ _ _ _ _ _ _ _ => g
  | .bexp g _ _ _ _ _ => g
  | .bdrop g _ _ _ _ => g
  | .blkbar g => g
  | .clubar g => g
  | .diebar g => g
  | .gsig g _ => g
  | .gwait g _ _ => g
  | .gtry g _ _ _ _ _ => g
  | .gpost g _ _ _ _ => g
  | .gread g _ _ _ _ => g
  | .gquery g _ _ _ _ => g
  | .launch g _ _ _ => g
  | .qstat g _ _ _ => g
  | .evsig g _ _ _ => g
  | .evwait g _ _ => g
  | .tzero g _ _ _ _ => g
  | .tmma g _ _ _ _ _ _ _ _ _ _ _ _ => g
  | .tmmas g _ _ _ _ _ _ _ _ _ _ => g
  | .tdrain g _ _ _ _ _ _ _ _ _ _ => g
  | .tfence g => g
  | .twait g _ _ _ => g
  | .tstat g _ _ _ _ _ => g
  | _ => 14

/-- The selector fields that an instruction reads through Bsel and Csel (R40). -/
def Instr.selectors : Instr → List (BitVec 8)
  | .iadd _ _ b => [b]
  | .isub _ _ b => [b]
  | .imul _ _ b => [b]
  | .imulh _ _ b => [b]
  | .imulhu _ _ b => [b]
  | .imin _ _ b => [b]
  | .imax _ _ b => [b]
  | .iminu _ _ b => [b]
  | .imaxu _ _ b => [b]
  | .iadds _ _ b => [b]
  | .isubs _ _ b => [b]
  | .iaddsu _ _ b => [b]
  | .isubsu _ _ b => [b]
  | .and _ _ b => [b]
  | .or _ _ b => [b]
  | .xor _ _ b => [b]
  | .andn _ _ b => [b]
  | .orn _ _ b => [b]
  | .shl _ _ b => [b]
  | .shr _ _ b => [b]
  | .sar _ _ b => [b]
  | .rotl _ _ b => [b]
  | .mov _ b => [b]
  | .fadd _ _ b => [b]
  | .fsub _ _ b => [b]
  | .fmul _ _ b => [b]
  | .fmin _ _ b => [b]
  | .fmax _ _ b => [b]
  | .hadd2 _ _ b => [b]
  | .hmul2 _ _ b => [b]
  | .hmin2 _ _ b => [b]
  | .hmax2 _ _ b => [b]
  | .badd2 _ _ b => [b]
  | .bmul2 _ _ b => [b]
  | .f2h _ _ b => [b]
  | .h2f _ _ b => [b]
  | .f2b _ _ b => [b]
  | .b2f _ _ b => [b]
  | .imac _ _ _ b c => [b, c]
  | .imacw _ _ _ b c _ => [b, c]
  | .isum3 _ _ _ b c => [b, c]
  | .idot8 _ _ _ b c _ _ => [b, c]
  | .iabda _ _ _ b c _ => [b, c]
  | .iaddc _ _ _ b _ _ => [b]
  | .isubb _ _ _ b _ _ => [b]
  | .iaddw _ _ _ b _ _ => [b]
  | .lea _ _ _ b _ _ _ => [b]
  | .bfx _ _ _ b _ => [b]
  | .bfi _ _ _ b c => [b, c]
  | .bytex _ _ _ b c => [b, c]
  | .sel _ _ _ b _ _ => [b]
  | .isetp _ _ b _ _ _ _ _ _ => [b]
  | .v2p _ _ b => [b]
  | .ffma _ _ _ b c _ _ => [b, c]
  | .hfma2 _ _ _ b c _ _ => [b, c]
  | .bfma2 _ _ _ b c _ _ => [b, c]
  | .fsetp _ _ b _ _ _ _ _ _ => [b]
  | .fdot2 _ _ _ b c _ => [b, c]
  | .fldexp _ _ _ b => [b]
  | .shfl _ _ _ _ b c _ _ _ => [b, c]
  | .redux _ _ _ _ c _ _ _ => [c]
  | .scanx _ _ _ _ c _ _ _ _ => [c]
  | .mwait _ b _ _ => [b]
  | _ => []

/-- The grant field of a lane memory instruction (R37). -/
def Instr.laneGrant : Instr → Option (BitVec 4)
  | .monw _ _ _ _ _ _ gr _ _ _ => some gr
  | .ld _ _ _ _ _ _ _ _ gr _ _ _ => some gr
  | .st _ _ _ _ _ _ _ gr _ _ _ => some gr
  | .ldx _ _ _ _ _ _ _ _ gr _ _ _ => some gr
  | .atom _ _ _ _ _ _ _ _ gr _ _ _ => some gr
  | .atomc _ _ _ _ _ _ _ _ gr _ _ _ => some gr
  | .red _ _ _ _ _ _ _ gr _ _ _ => some gr
  | .cflush _ _ _ _ _ _ gr _ _ _ => some gr
  | .cinv _ _ _ _ _ _ gr _ _ _ => some gr
  | .pref _ _ _ _ _ _ gr _ _ _ => some gr
  | .pprobe _ _ _ _ _ _ _ _ gr _ _ _ => some gr
  | .phint _ _ _ _ _ _ _ gr _ _ _ => some gr
  | _ => none

/-- A collective (R185). -/
def Instr.isCollective : Instr → Bool
  | .shfl _ _ _ _ _ _ _ _ _ => true
  | .vote _ _ _ _ _ _ _ _ => true
  | .ballot _ _ _ _ _ _ _ => true
  | .matchv _ _ _ _ _ _ => true
  | .redux _ _ _ _ _ _ _ _ => true
  | .scanx _ _ _ _ _ _ _ _ _ => true
  | _ => false

/-- A lane instruction that threads of other groups may join (R169). -/
def Instr.packable (i : Instr) : Bool :=
  !(i.selectors.any fun b => decide (0x80 ≤ b.toNat) && decide (b.toNat < 0xC0)) &&
    !(i.laneGrant == some 13 || i.laneGrant == some 14) && !i.isCollective &&
    match i with
    | .grow _ _ | .shrink _ _ | .join _ _ => false
    | _ => true

/-- The instruction that the host's table word of nbits bits stands for: the first word in its low 32
bits, the second above it, bits above nbits zero. -/
def decodeTableWord (nbits w : Nat) : Option Instr :=
  match decode [w % 2 ^ nbits % 2 ^ 32, w % 2 ^ nbits / 2 ^ 32 % 2 ^ 32] with
  | .ok i => some i
  | .error _ => none

end Sys2Proof
end

