-- ==== Sys2Proof/Machine/Number.lean ====
section
/-! DEFINITION. The numbers of chapters 04 and 06: exact reals of the form m × 2^e, the IEEE formats, the
rounding of an exact real into them, the tapered formats T8 and T6, saturation and flushing. -/

namespace Sys2Proof.Machine

/-! ## Exact values -/

/-- The rounding modes of R87. -/
inductive Rm where
  | rne | rz | rup | rdn | rna
  deriving DecidableEq, Repr

/-- The mode that a 3-bit code names; code 000 is the default d (R87). -/
def rmode (rnd : BitVec 3) (d : Rm) : Rm :=
  match rnd.toNat with
  | 1 => .rne | 2 => .rz | 3 => .rup | 4 => .rdn | 5 => .rna | _ => d

/-- What a floating encoding stands for: NaN (or NaR), a signed infinity, a signed zero, or
(−1)^neg × m × 2^e with m positive. -/
inductive Num where
  | nan
  | inf (neg : Bool)
  | zero (neg : Bool)
  | fin (neg : Bool) (m : Nat) (e : Int)
  deriving DecidableEq, Repr

/-- (−1)^neg × m × 2^e, a zero of that sign when m is 0. -/
def Num.mk' (neg : Bool) (m : Nat) (e : Int) : Num := if m = 0 then .zero neg else .fin neg m e

/-- An integer as an exact value; 0 is +0. -/
def Num.ofInt (i : Int) : Num := Num.mk' (decide (i < 0)) i.natAbs 0

/-- The sign bit; a NaN has none. -/
def Num.neg? : Num → Bool
  | .nan => false
  | .inf n => n
  | .zero n => n
  | .fin n _ _ => n

/-- The value with its sign inverted. -/
def Num.flip : Num → Num
  | .nan => .nan
  | .inf n => .inf !n
  | .zero n => .zero !n
  | .fin n m e => .fin (!n) m e

/-- The signed mantissas of two exact values over their common (lower) exponent. -/
def alignPair (n1 : Bool) (m1 : Nat) (e1 : Int) (n2 : Bool) (m2 : Nat) (e2 : Int) : Int × Int × Int :=
  let e := min e1 e2
  let a : Int := (m1 * 2 ^ (e1 - e).toNat : Nat)
  let b : Int := (m2 * 2 ^ (e2 - e).toNat : Nat)
  (if n1 then -a else a, if n2 then -b else b, e)

/-- The exact sum (R87: the sign of a zero sum depends on the mode). -/
def Num.add (rm : Rm) : Num → Num → Num
  | .nan, _ => .nan
  | _, .nan => .nan
  | .inf a, .inf b => if a = b then .inf a else .nan
  | .inf a, _ => .inf a
  | _, .inf b => .inf b
  | .zero a, .zero b => if a = b then .zero a else .zero (rm == .rdn)
  | .zero _, y => y
  | x, .zero _ => x
  | .fin n1 m1 e1, .fin n2 m2 e2 =>
    let (a, b, e) := alignPair n1 m1 e1 n2 m2 e2
    if a + b = 0 then .zero (rm == .rdn) else .fin (decide (a + b < 0)) (a + b).natAbs e

/-- The exact product. -/
def Num.mul : Num → Num → Num
  | .nan, _ => .nan
  | _, .nan => .nan
  | .inf a, .inf b => .inf (a != b)
  | .inf _, .zero _ => .nan
  | .zero _, .inf _ => .nan
  | .inf a, .fin b _ _ => .inf (a != b)
  | .fin a _ _, .inf b => .inf (a != b)
  | .zero a, .zero b => .zero (a != b)
  | .zero a, .fin b _ _ => .zero (a != b)
  | .fin a _ _, .zero b => .zero (a != b)
  | .fin a m1 e1, .fin b m2 e2 => .fin (a != b) (m1 * m2) (e1 + e2)

/-- The order of two values that are no NaN; the zeros are equal. -/
def Num.cmp : Num → Num → Ordering
  | .inf a, .inf b => if a = b then .eq else if a then .lt else .gt
  | .inf a, _ => if a then .lt else .gt
  | _, .inf b => if b then .gt else .lt
  | .fin n1 m1 e1, .fin n2 m2 e2 => let (a, b, _) := alignPair n1 m1 e1 n2 m2 e2; compare a b
  | .fin n _ _, _ => if n then .lt else .gt
  | _, .fin n _ _ => if n then .gt else .lt
  | _, _ => .eq

/-- Whether a magnitude with quotient q and remainder r of half (0 below, 1 at, 2 above the tie, r the
remainder's being non-zero) is rounded up in magnitude (R87). -/
def roundsUp (rm : Rm) (neg : Bool) (q : Nat) (inexact : Bool) (tie : Ordering) : Bool :=
  match rm with
  | .rne => tie == .gt || (tie == .eq && decide (q % 2 = 1))
  | .rna => tie != .lt
  | .rz => false
  | .rup => inexact && !neg
  | .rdn => inexact && neg

/-- The magnitude m × 2^e rounded to a multiple of 2^s, as that multiple (R87). -/
def roundAt (rm : Rm) (neg : Bool) (m : Nat) (e s : Int) : Nat :=
  if s ≤ e then m * 2 ^ (e - s).toNat
  else
    let d := (s - e).toNat
    if Nat.log2 m + 2 < d then
      if roundsUp rm neg 0 (decide (m ≠ 0)) .lt then 1 else 0
    else
      let q := m / 2 ^ d
      let r := m % 2 ^ d
      if roundsUp rm neg q (decide (r ≠ 0)) (compare r (2 ^ (d - 1))) then q + 1 else q

/-- A value rounded to an integer; none for NaN and the infinities. -/
def Num.toInt (rm : Rm) : Num → Option Int
  | .zero _ => some 0
  | .fin n m e => let q : Int := roundAt rm n m e 0; some (if n then -q else q)
  | _ => none

/-- An integer clamped to a range. -/
def clampInt (lo hi x : Int) : Int := if x < lo then lo else if hi < x then hi else x

/-- Conversion to an integer range (R90). -/
def Num.toRange (rm : Rm) (lo hi : Int) : Num → Int
  | .nan => clampInt lo hi 0
  | .inf n => if n then lo else hi
  | x => clampInt lo hi ((x.toInt rm).getD 0)

/-! ## The IEEE formats -/

/-- An IEEE format: exponent and fraction widths (R82). -/
structure Fmt where
  eb : Nat
  fb : Nat
  deriving DecidableEq, Repr

/-- binary32 (R82). -/
def fp32 : Fmt := { eb := 8, fb := 23 }
/-- binary16 (R82). -/
def fp16 : Fmt := { eb := 5, fb := 10 }
/-- The upper half of a binary32 (R82). -/
def bf16 : Fmt := { eb := 8, fb := 7 }

/-- The exponent of the smallest subnormal: 1 − bias − fb. -/
def Fmt.emin (f : Fmt) : Int := 2 - 2 ^ (f.eb - 1) - f.fb
/-- The bit pattern of +∞. -/
def Fmt.infBits (f : Fmt) : Nat := (2 ^ f.eb - 1) * 2 ^ f.fb
/-- The canonical NaN (R82, R83). -/
def Fmt.nanBits (f : Fmt) : Nat := f.infBits + 2 ^ (f.fb - 1)
/-- The sign bit's weight. -/
def Fmt.signBit (f : Fmt) : Nat := 2 ^ (f.eb + f.fb)
/-- The bit pattern without its sign. -/
def Fmt.magOf (f : Fmt) (x : Nat) : Nat := x % f.signBit
/-- The sign of a bit pattern. -/
def Fmt.signOf (f : Fmt) (x : Nat) : Bool := decide (x / f.signBit % 2 = 1)

/-- What a bit pattern of the format stands for (R82). -/
def Fmt.dec (f : Fmt) (x : Nat) : Num :=
  let n := f.signOf x
  let g := f.magOf x
  if f.infBits < g then .nan
  else if g = f.infBits then .inf n
  else
    let ex := g / 2 ^ f.fb
    let fr := g % 2 ^ f.fb
    if ex = 0 then Num.mk' n fr f.emin else .fin n (2 ^ f.fb + fr) (f.emin + (ex - 1 : Nat))

/-- A magnitude with its sign. -/
def Fmt.signed (f : Fmt) (neg : Bool) (g : Nat) : Nat := if neg then f.signBit + g else g

/-- Whether overflow gives ∞ in a mode (R87). -/
def overflowsToInf (rm : Rm) (neg : Bool) : Bool :=
  match rm with
  | .rne => true | .rna => true | .rz => false | .rup => !neg | .rdn => neg

/-- The bit pattern of a value rounded into the format (R83, R87): rnd(x, f, m). -/
def Fmt.rnd (f : Fmt) (rm : Rm) : Num → Nat
  | .nan => f.nanBits
  | .inf n => f.signed n f.infBits
  | .zero n => f.signed n 0
  | .fin n m e =>
    let s := max (e + Nat.log2 m - f.fb) f.emin
    let g := (s - f.emin).toNat * 2 ^ f.fb + roundAt rm n m e s
    if g < f.infBits then f.signed n g
    else if overflowsToInf rm n then f.signed n f.infBits
    else f.signed n (f.infBits - 1)

/-- A subnormal becomes a zero of its sign (R89). -/
def Fmt.flush (f : Fmt) (x : Nat) : Nat := if f.magOf x < 2 ^ f.fb then f.signed (f.signOf x) 0 else x

/-- A flush that only an ftz bit makes (R89). -/
def Fmt.ftz (f : Fmt) (on : Bool) (x : Nat) : Nat := if on then f.flush x else x

/-- 1.0 in the format. -/
def Fmt.one (f : Fmt) : Nat := f.rnd .rne (.fin false 1 0)

/-- MOD saturation of a rounded result (R88): clamp(y, f). -/
def Fmt.clamp (f : Fmt) (sat : BitVec 2) (y : Nat) : Nat :=
  match sat.toNat with
  | 0 => y
  | 1 => if f.magOf y = f.infBits then f.signed (f.signOf y) (f.infBits - 1) else y
  | k =>
    if f.infBits < f.magOf y then 0
    else if f.signOf y then
      if k = 2 then 0 else if f.one < f.magOf y then f.signed true f.one else y
    else if f.one < f.magOf y then f.one else y

/-- The modifiers that act on a floating instruction (R51, R142). -/
structure FMod where
  rnd : BitVec 3
  sat : BitVec 2
  ftz : Bool
  deriving DecidableEq, Repr

/-- No MOD prefix. -/
def FMod.none : FMod := { rnd := 0, sat := 0, ftz := false }

/-- A floating operand of R142 step 1. -/
def Fmt.operand (f : Fmt) (md : FMod) (x : Nat) : Num := f.dec (f.ftz md.ftz x)

/-- The result path, steps 3 to 5 of R142. -/
def Fmt.result (f : Fmt) (md : FMod) (rm : Rm) (x : Num) : Nat := f.clamp md.sat (f.ftz md.ftz (f.rnd rm x))

/-- The result path of an instruction that is exact by construction (R142). -/
def Fmt.exactResult (f : Fmt) (md : FMod) (y : Nat) : Nat := f.clamp md.sat (f.ftz md.ftz y)

/-- Minimum and maximum (R147); operands and result as bit patterns. -/
def Fmt.minmax (f : Fmt) (max : Bool) (a b : Nat) : Nat :=
  match f.dec a, f.dec b with
  | .nan, .nan => f.nanBits
  | .nan, _ => b
  | _, .nan => a
  | x, y =>
    let less := match x.cmp y with
      | .lt => true
      | .gt => false
      | .eq => f.signOf a
    if less = max then b else a

/-- An integral value of the format with the sign kept in a zero (R148). -/
def Fmt.integral (f : Fmt) (rm : Rm) (a : Nat) : Num :=
  match f.dec a with
  | .fin n m e => if 0 ≤ e then .fin n m e else Num.mk' n (roundAt rm n m e 0) 0
  | x => x

/-- The class bit of a binary32 (R154). -/
def classBit (a : Nat) : Nat :=
  let n := fp32.signOf a
  let g := fp32.magOf a
  if fp32.infBits < g then (if g / 2 ^ 22 % 2 = 1 then 9 else 8)
  else if g = fp32.infBits then (if n then 0 else 7)
  else if g = 0 then (if n then 3 else 4)
  else if g < 2 ^ 23 then (if n then 2 else 5)
  else if n then 1 else 6

/-- The floating comparisons of R153: the ordered outcome, or true on a NaN in the unordered forms. -/
def fcmp (c : Nat) (u : Bool) (x y : Num) : Bool :=
  if x = .nan ∨ y = .nan then (if c = 6 then false else if c = 7 then true else u)
  else
    match c with
    | 0 => x.cmp y == .eq
    | 1 => x.cmp y != .eq
    | 2 => x.cmp y == .lt
    | 3 => x.cmp y != .gt
    | 4 => x.cmp y == .gt
    | 5 => x.cmp y != .lt
    | 6 => true
    | _ => false

/-! ## The tapered formats -/

/-- The length of the leading run of a body of which the lowest i bits are unread (R92). -/
def taperRun (body : Nat) (lead : Bool) : Nat → Nat
  | 0 => 0
  | i + 1 => if (body / 2 ^ i % 2 == 1) = lead then taperRun body lead i + 1 else 0

/-- The magnitude of a non-zero body of n bits, as m × 2^e (R92). -/
def taperMag (n body : Nat) : Nat × Int :=
  let lead := body / 2 ^ (n - 1) % 2 == 1
  let k := taperRun body lead n
  let r : Int := if lead then (k : Int) - 1 else -(k : Int)
  let i := n - k
  let e : Int := if 2 ≤ i then body / 2 ^ (i - 2) % 2 else 0
  let w := i - 2
  let f := body % 2 ^ w
  (2 ^ w + f, 2 * r + e - w)

/-- What a tapered encoding with an n-bit body stands for (R92, R93). -/
def taperDec (n x : Nat) : Num :=
  let s := x / 2 ^ n % 2 == 1
  let body := x % 2 ^ n
  if body = 0 then (if s then .nan else .zero false) else .fin s (taperMag n body).1 (taperMag n body).2

/-- Whether m × 2^e is at least the magnitude of a body. -/
def taperLe (n body m : Nat) (e : Int) : Bool :=
  let (a, b, _) := alignPair false (taperMag n body).1 (taperMag n body).2 false m e
  decide (a ≤ b)

/-- The greatest body, from at most i downwards, whose magnitude does not exceed m × 2^e; 0 if none. -/
def taperFloor (n m : Nat) (e : Int) : Nat → Nat
  | 0 => 0
  | i + 1 => if taperLe n (i + 1) m e then i + 1 else taperFloor n m e i

/-- Rounding of a magnitude into a body (R96 rules 2 to 4). -/
def taperRound (n : Nat) (rm : Rm) (neg : Bool) (m : Nat) (e : Int) : Nat :=
  let b := taperFloor n m e (2 ^ n - 1)
  if b = 0 then 1
  else if b = 2 ^ n - 1 then b
  else
    let (mb, eb) := taperMag n b
    let (mc, ec) := taperMag n (b + 1)
    let (x, y, _) := alignPair false m e false mb eb
    if x = y then b
    else
      let (lo, hi, el) := alignPair false mb eb false mc ec
      let (mid, v, _) := alignPair false (lo + hi).toNat (el - 1) false m e
      if roundsUp rm neg b true (compare v mid) then b + 1 else b

/-- The encoding with an n-bit body of an exact value (R96). -/
def taperRnd (n : Nat) (rm : Rm) : Num → Nat
  | .nan => 2 ^ n
  | .inf _ => 2 ^ n
  | .zero _ => 0
  | .fin s m e => (if s then 2 ^ n else 0) + taperRound n rm s m e

/-- MOD saturation in a tapered format (R88, R96). -/
def taperClamp (n : Nat) (sat : BitVec 2) (y : Nat) : Nat :=
  let one := 2 ^ (n - 1)
  match sat.toNat with
  | 2 => if 2 ^ n ≤ y then 0 else if one < y then one else y
  | 3 => if y = 2 ^ n then 0 else if one < y % 2 ^ n then y / 2 ^ n * 2 ^ n + one else y
  | _ => y

/-! ## Integers -/

/-- The signed value of a word: s(x). -/
abbrev sv (x : Word) : Int := x.toInt
/-- The unsigned value of a word: u(x). -/
abbrev uv (x : Word) : Int := x.toNat
/-- The range of INT32. -/
def clampS32 (x : Int) : Int := clampInt (-2147483648) 2147483647 x
/-- The range of UINT32. -/
def clampU32 (x : Int) : Int := clampInt 0 4294967295 x
/-- The low 32 bits of an exact result. -/
def low32 (x : Int) : Word := BitVec.ofInt 32 x

/-- Two words as one 64-bit value, the second in the upper half (R43). -/
def pair (lo hi : Word) : BitVec 64 := hi ++ lo
/-- The low word of a pair. -/
def pairLo (x : BitVec 64) : Word := x.extractLsb' 0 32
/-- The high word of a pair. -/
def pairHi (x : BitVec 64) : Word := x.extractLsb' 32 32
/-- Half h of a word (R98). -/
def half (x : Word) (h : Nat) : Nat := x.toNat / 2 ^ (16 * h) % 65536
/-- A word of two halves. -/
def ofHalves (lo hi : Nat) : Word := BitVec.ofNat 32 (hi % 65536 * 65536 + lo % 65536)
/-- Byte k of a word. -/
def byteOf (x : Word) (k : Nat) : Nat := x.toNat / 2 ^ (8 * k) % 256
/-- An n-bit pattern as a signed integer. -/
def sextNat (n x : Nat) : Int := if x % 2 ^ n < 2 ^ (n - 1) then (x % 2 ^ n : Nat) else (x % 2 ^ n : Nat) - (2 ^ n : Nat)

/-- The number of 1 bits of a word. -/
def popcount (x : Word) : Nat := (List.range 32).foldl (fun n i => n + (if x.getLsbD i then 1 else 0)) 0
/-- The number of leading zero bits, 0 to 32. -/
def clzWord (x : Word) : Nat := if x = 0 then 32 else 31 - Nat.log2 x.toNat
/-- Bit i moved to bit 31 − i. -/
def bitReverse (x : Word) : Word :=
  BitVec.ofNat 32 ((List.range 32).foldl (fun n i => 2 * n + (if x.getLsbD i then 1 else 0)) 0)

/-! ## Square roots -/

/-- The integer square root by trial bits, from bit i − 1 of the root down. -/
def isqrtAux (x : Nat) : Nat → Nat → Nat
  | 0, r => r
  | i + 1, r => let t := r + 2 ^ i; if t * t ≤ x then isqrtAux x i t else isqrtAux x i r

/-- The integer square root. -/
def isqrt (x : Nat) : Nat := isqrtAux x (Nat.log2 x / 2 + 1) 0

/-- An exact value on the same side of every rounding boundary of FP32 as √(m × 2^e): the floor of the root
at 32 further bits, and a sticky bit below it. -/
def sqrtSticky (m : Nat) (e : Int) : Num :=
  let odd := e % 2 != 0
  let m' := (if odd then 2 * m else m) * 2 ^ 64
  let e' := (if odd then e - 1 else e) - 64
  let r := isqrt m'
  Num.mk' false (2 * r + (if r * r = m' then 0 else 1)) (e' / 2 - 1)

end Sys2Proof.Machine
end

