-- ==== Sys2Proof/Config.lean ====
section
/-! DEFINITION. The free values: what the spec leaves open and every program must bear. Each is an opaque
constant without a body, applied to the operands it depends on or to the counter `free` of the state. -/

namespace Sys2Proof.Config

/-- The bits that special function `fn` returns for an input under the sat and ftz fields of a MOD, where R155 publishes only
a bound: a fixed function of the three; the rnd field has no effect (R144). (DESIGN CHOICE, log entry 4) -/
opaque specialBits (fn : Nat) (a : Word) (md : Nat) : Word

/-- The n-th free word: a value that the spec calls undefined (R246, R296, R328, R340). (DESIGN CHOICE, log entry 4) -/
opaque freeWord : Nat → Word

/-- The fused minimum security version of a die code as the part is made (R473). (DESIGN CHOICE, log entry 4) (DEDUCED, log entry 66) -/
opaque fusedMinimum (die : Nat) : Word

/-- SHAKE256 with a 64-byte output (R473). (DESIGN CHOICE, log entry 4) -/
opaque shake256 (bytes : List Byte) : List Byte

/-- The fused 96-byte seed of the device identity key (R474). (DESIGN CHOICE, log entry 4) -/
opaque identitySeed : List Byte

/-- The private key of the SLH-DSA-SHAKE-256f key pair of a seed (R474). (DESIGN CHOICE, log entry 4) -/
opaque privateKey (seed : List Byte) : List Byte

/-- The public key of the SLH-DSA-SHAKE-256f key pair of a seed, 64 bytes (R474). (DESIGN CHOICE, log entry 4) -/
opaque publicKey (seed : List Byte) : List Byte

/-- The SLH-DSA-SHAKE-256f signature of bytes under a private key (R475). (DESIGN CHOICE, log entry 4) -/
opaque signature (key bytes : List Byte) : List Byte

end Sys2Proof.Config
end

