-- ==== Sys2Proof/Machine/State.lean ====
section
/-! DEFINITION. The state of the package as plain data, and the state right after reset. Objects that are
made during a run (kernels, blocks, groups, streams, copies, tile operations) are held in lists and named
by their position; sparse tables are lists of (key, value) pairs in one canonical form. -/

namespace Sys2Proof.Machine

/-- Why the machine stops. -/
inductive Fault where
  /-- Raised by an outside agent's access to a physical address that R354 reserves, where no memory
  exists. Safe: the machine stops where the hardware's answer is not described. -/
  | reservedAddress (pa : Nat)
  deriving DecidableEq, Repr

/-- Why a step has no meaning. -/
inductive Refusal where
  /-- Raised by the dispatch for an instruction that has no meaning in this model yet. Safe. -/
  | notModelled (mnemonic : String)
  deriving DecidableEq, Repr

/-- Memory contents: (address, byte) pairs, addresses strictly rising, no byte equal to zero. -/
abbrev Memory := List Host.Cell

/-! ## Threads and groups -/

/-- A grant: 128 bits and the validity tag outside them (R344). -/
structure Grant where
  tag : Bool
  bits : BitVec 128
  deriving DecidableEq, Repr

/-- The null grant (R118, R345). -/
def Grant.null : Grant := { tag := false, bits := 0 }

/-- An armed monitor on a 128-byte line (R188, R189). -/
structure Monitor where
  line : Nat
  written : Bool
  lost : Bool
  deriving DecidableEq, Repr

/-- What a thread waits for. `join`, `yield` and `mwait` hold the tick, the issue count or the
time in ns on its die that ends the wait (R178, R179, R189, R477), `mwait` also its p and pd fields and its timeout in µs; `resize` a GROW or SHRINK with the clock in
which the group's last thread arrived, none before, and the registers of each thread that a GROW asks for (R180, R181);
`held` the thread whose lane faulted below this one (R265); `lane` a lane that waits for a migration or a hand-over (R365,
R370) and `uni` a uniform instruction that waits (R190), with its arrival stamp, both with the word that the wait is over;
`due` a class U trap that awaits the thread's incomplete instructions, with its code, TVAL and return address (R61, R378). -/
inductive Wait where
  | none
  | join (limit : Nat)
  | yield (limit : Nat)
  | mwait (limit : Option Nat) (p : Bool) (pd us : Nat)
  | resize (at_ : Option Nat) (n : Nat)
  | held (gid t : Nat)
  | lane (woken : Bool)
  | uni (stamp : Nat) (woken : Bool)
  | due (c val : Nat) (ret : Word)
  deriving DecidableEq, Repr

/-- A thread's arrival at a collective, with the operands it supplied (R186, R383). -/
structure CollArr where
  pc : Word
  ins : Instr
  val : Word
  sel : Word
  fill : Word
  mask : Nat
  deriving DecidableEq, Repr

/-- An incomplete long-latency instruction: how many later instructions may still issue, whether its
result is known, and the registers and predicates it will write, which an unknown result lists with values that do not
count (R60, R61). -/
structure Pend where
  left : Nat
  known : Bool
  regs : List (Nat × Word)
  preds : List (Nat × Bool)
  deriving DecidableEq, Repr

/-- The trap record that a handler reads (R378, R396). -/
structure TrapRec where
  cause : BitVec 8
  pc : Word
  val : BitVec 64
  prog : Nat
  deriving DecidableEq, Repr

/-- The empty trap record. (DESIGN CHOICE, log entry 2) -/
def TrapRec.zero : TrapRec := { cause := 0, pc := 0, val := 0, prog := 0 }

/-- A class H cause that stands at its instruction (R376, R385). -/
structure Standing where
  cause : BitVec 8
  esc : Bool
  val : BitVec 64
  at_ : Nat
  deriving DecidableEq, Repr

/-- A decoded instruction with its prefixes, its own address and the address after it. -/
structure Run where
  ins : Instr
  pre : Option ModP
  rep : Option RepP
  ipc : Word
  next : Word
  deriving DecidableEq, Repr

/-- One thread (R162). `v` holds V0 up to the ceiling of its group, `p` P0 to P6, `going` the repeated instruction that has
started and goes on from its PROG (R56). -/
structure Thread where
  v : List Word
  p : BitVec 7
  pc : Word
  csp : Nat
  prog : Nat
  going : Option Run
  hcsp : Option Nat
  launched : Bool
  live : Bool
  monitor : Option Monitor
  wait : Wait
  coll : Option CollArr
  pend : List Pend
  trap : TrapRec
  standing : Option Standing
  tinsn : Nat
  tpack : Nat
  ready : Nat
  deriving DecidableEq, Repr

/-- What a group and a cadence stream have in common: the S, Q and G files, GDFLAG and the incomplete
uniform results (R110, R465, R60). -/
structure UFile where
  s : List Word
  q : BitVec 4
  g : List Grant
  gdflag : BitVec 16
  pend : List Pend
  deriving DecidableEq, Repr

/-- A pending BARD: its word, its scope and the copies it binds (R308). -/
structure Bard where
  k : Nat
  win : Bool
  stage : Nat
  scope : Nat
  copies : List Nat
  deriving DecidableEq, Repr

/-- The states of a group (R161); PARKED is RUNNING with every live thread waiting. -/
inductive GroupSt where
  | loading | running | stopped | saved | ended
  deriving DecidableEq, Repr

/-- One group (R161, R17). -/
structure Group where
  bid : Nat
  grpix : Nat
  width : Nat
  slot : Nat
  lane0 : Nat
  gst : GroupSt
  full : Bool
  vregs : Nat
  u : UFile
  tp : BitVec 16
  arrBlk : Bool
  arrClu : Bool
  arrDie : Bool
  bards : List Bard
  threads : List Thread
  deriving DecidableEq, Repr

/-! ## Blocks, kernels, streams, copies and tile operations -/

/-- One record of the replay log: the agent (a thread, or the group when `t` is none, or a stream), the
kind, the address or gate, and the returned words (R468). -/
structure LogRec where
  who : Agent
  t : Option Nat
  kind : Nat
  addr : Nat
  vals : List Word
  deriving DecidableEq, Repr

/-- A snapshot of a block for rollback (R467); `logAt` is the length of the replay log when it was taken, `at_` where its image lies in
the reserve once it is complete. -/
structure Snapshot where
  groups : List Group
  pad : Memory
  words : List (BitVec 64)
  held : List (List Nat)
  shapes : List (Option (List Word))
  tiles : List (List (Nat × Word))
  logAt : Nat
  at_ : Option Nat
  deriving DecidableEq, Repr

/-- What triggered a rollback: a consumed POISON, or a ROLLBACK guard of a thread (R469). -/
inductive Trigger where
  | poison (e : ErrorReport)
  | guard (who : Agent) (t gi : Nat)
  deriving DecidableEq, Repr

/-- Where a block stands (R198, R203, R394); `lost` is a block whose spoke has failed, which ends FAULTED when the hub
writes its record (R452). -/
inductive BlockSt where
  | placed | reserve | saved | retired | faulted | discarded | lost
  deriving DecidableEq, Repr

/-- One block (R27, R281, R300, R321): `phases` counts the phases that each barrier word has completed (R246, R302); `halt` holds, for a block that is being stopped alone, the clock of the stop and
the clock at which its reconvergence timeout ends (R214, R407), `resAt` where its image lies in the reserve (R394), `trigger` a rollback awaiting its restore, `replaying` the trigger of the rollback
whose log is being replayed (R469), `rebuilt` says that it was rebuilt from its snapshot when its spoke failed (R452). -/
structure Block where
  kid : Nat
  coord : Nat
  stage : Nat
  pos : Nat
  die : Nat
  clu : Nat
  core : Nat
  bst : BlockSt
  halt : Option (Nat × Nat)
  resAt : Option Nat
  padsz : Nat
  pad : Memory
  words : List (BitVec 64)
  held : List (List Nat)
  phases : List Nat
  shapes : List (Option (List Word))
  tiles : List (List (Nat × Word))
  padPoison : List Nat
  tilePoison : List Nat
  snapLatest : Option Snapshot
  snapWriting : Option Snapshot
  log : List LogRec
  replay : List LogRec
  rollbacks : Nat
  covered : Bool
  trigger : Option Trigger
  replaying : Option Trigger
  rebuilt : Bool
  deriving DecidableEq, Repr

/-- The states of a kernel (R191); `held` keeps the state to return to. -/
inductive KernelSt where
  | queued | admitting | rejected | dispatching | draining | complete | discarded
  deriving DecidableEq, Repr

/-- A cluster position: its physical cluster when bound, the next stage set to place, the clock since which that set has waited for
space (R197, R198, R214), and whether a block of the position has retired in that wait, whose space goes first to the set (R198). -/
structure Pos where
  bound : Option (Nat × Nat)
  next : Nat
  since : Option Nat
  freed : Bool
  deriving DecidableEq, Repr

/-- One kernel: its launch record of 512 bytes and its progress, with the priority that its queue had when it was admitted
(R191, R192, R206). -/
structure Kernel where
  ctx : Nat
  queue : Nat
  inQueue : Bool
  record : List Byte
  kst : KernelSt
  parent : Option Nat
  parentGrants : Option (List Grant)
  positions : List Pos
  code : Nat
  retired : Nat
  faulted : Nat
  prio : Nat
  deriving DecidableEq, Repr

/-- The states of a cadence stream (R320). -/
inductive StreamSt where
  | running | stopped | saved | ended
  deriving DecidableEq, Repr

/-- The image of a stream taken at a TWAIT.all of a ROLLBACK launch (R467); `logAt` is the length of the stream's replay log when
it was taken, `at_` where it lies in the reserve once it is complete. -/
structure StreamSnap where
  pc : Word
  u : UFile
  rstack : List Word
  hcsp : Option Nat
  tps : List (Nat × BitVec 16)
  tileSeq : Nat
  logAt : Nat
  at_ : Option Nat
  deriving DecidableEq, Repr

/-- One cadence stream (R317, R392), with its two images and its own replay log (R467, R468). -/
structure Stream where
  kid : Nat
  pos : Nat
  die : Nat
  clu : Nat
  sst : StreamSt
  pc : Word
  u : UFile
  rstack : List Word
  hcsp : Option Nat
  tps : List (Nat × BitVec 16)
  tileSeq : Nat
  rgWait : Option Nat
  wait : Wait
  trap : TrapRec
  standing : Option Standing
  snapLatest : Option StreamSnap
  snapWriting : Option StreamSnap
  log : List LogRec
  replay : List LogRec
  deriving DecidableEq, Repr

/-- The states of a copy (R292). -/
inductive CopySt where
  | queued | running | landed | stopped | discarded
  deriving DecidableEq, Repr

/-- One copy: what its stop record holds, the grant read at issue and the recipients (R286, R292, R294); `slot` is the place of its
own record in the stop area once it has stopped (R388). -/
structure Copy where
  gid : Nat
  bid : Nat
  kind : Nat
  dir : Nat
  k : Nat
  gix : Nat
  grant : Grant
  scope : Nat
  hint : Nat
  stage : Nat
  get : Bool
  off64 : Bool
  far : Nat
  pbase : Nat
  mask : Nat
  shape : List Word
  cst : CopySt
  prog : Nat
  cause : BitVec 8
  tval : BitVec 64
  recips : List Nat
  ctx : Nat
  slot : Option Nat
  deriving DecidableEq, Repr

/-- The states of a tile operation (R322, R337). -/
inductive TileSt where
  | queued | running | complete | stopped | discarded
  deriving DecidableEq, Repr

/-- One tile operation (R326, R331, R342): `rgHit` is the guard whose TRAP action its drain has met (R335), `tainted`
says that another agent has touched its operands or destination before it completed, `acquired` that an agent has acquired its
completion (R246, R340), `scales` holds the scale vectors as it read them when it started (R328), `phase` is the phase of its word to which its arrival belongs (R246, R302), and `slot` is the place of its own
record in the stop area once it has stopped (R388). -/
structure TileOp where
  sid : Nat
  bid : Nat
  ins : Instr
  handle : Word
  rec_ : List Word
  prog : Nat
  ost : TileSt
  cause : BitVec 8
  started : Bool
  rgHit : Option Nat
  tainted : Bool
  acquired : Bool
  scales : List Byte
  seq : Nat
  phase : Option Nat
  slot : Option Nat
  deriving DecidableEq, Repr

/-! ## Contexts and queues -/

/-- A launch queue (R206, R207): the beats gathered since the last commit or discard are in `beats`, the stamps of the
LAUNCHes that wait for a free entry, oldest first, in `waiting` (R219). -/
structure Queue where
  opened : Bool
  prio : Nat
  torn : Bool
  qovf : Bool
  beats : List (Nat × List Byte)
  waiting : List Nat
  deriving DecidableEq, Repr

/-- The states of a context (R373). -/
inductive CtxSt where
  | free | bound | ready | running | halting | halted | saved | migrating | faulted | dead
  deriving DecidableEq, Repr

/-- The kinds of the halt line, from lowest to highest (R381). -/
inductive HaltKind where
  | stop | preempt | fault | watchdog
  deriving DecidableEq, Repr

/-- The halt line of a context: its kind, the clock at which it was raised, the reconvergence timeout in ns that held then, and
whether the drain window of the copies has ended (R372, R381, R294). -/
structure HaltLine where
  kind : HaltKind
  at_ : Nat
  rto : Nat
  drained : Bool
  deriving DecidableEq, Repr

/-- An EVWAIT that waits on an event counter: its agent, the stamp of its wait and its threshold (R221, R222). -/
structure EvWait where
  who : Agent
  stamp : Nat
  ev : Nat
  t : BitVec 48
  deriving DecidableEq, Repr

/-- A context: its record (R371), its owner, its halt line, counters and queues; `dog` is the watchdog's count, `rung` says that it
has reached its interval since it restarted (R223). `fn` is the PCI Express function that it is bound to, 257 × its port + 0 for that
port's PF1 or 1 to 256 for one of its VFs, `pasid` its PASID and `port` the port through which it reaches host memory (R448). -/
structure Ctx where
  asid : BitVec 16
  st : CtxSt
  weight : BitVec 8
  waycl : BitVec 4
  part : Nat
  priv : Bool
  strict : Bool
  bken : Bool
  root : BitVec 64
  savepa : BitVec 64
  savesz : BitVec 64
  stoppa : BitVec 64
  uvec : Word
  rto : BitVec 14
  wdog : BitVec 16
  owner : Nat
  line : Option HaltLine
  elig : Nat
  dog : Nat
  rung : Bool
  perf : List Nat
  clampN : Nat
  clampPc : Option Word
  queues : List Queue
  events : List (Nat × BitVec 48)
  evwaits : List EvWait
  irq : Bool
  fn : Option Nat
  pasid : BitVec 20
  port : Nat
  deriving DecidableEq, Repr

/-- A queue as it stands before it is opened (R206, R207). -/
def Queue.closed : Queue := { opened := false, prio := 0, torn := false, qovf := false, beats := [], waiting := [] }

/-- A FREE context: the reset values of R371, sixteen closed queues, counters 0 (R217, R395). (DESIGN CHOICE, log entry 2) -/
def Ctx.free : Ctx :=
  { asid := 0, st := .free, weight := 1, waycl := 0, part := 0, priv := false, strict := false,
    bken := false, root := 0, savepa := 0, savesz := 0, stoppa := 0, uvec := 0xFFFFFFFF, rto := 40,
    wdog := 2000, owner := 0, line := none, elig := 0, dog := 0, rung := false, perf := List.replicate 12 0,
    clampN := 0, clampPc := none, queues := List.replicate 16 Queue.closed, events := [], evwaits := [], irq := false,
    fn := none, pasid := 0, port := 0 }

/-! ## Caches and translation -/

/-- One byte of an L1: its value and whether the core owns its word (R253). -/
structure L1Byte where
  val : Byte
  owned : Bool
  deriving DecidableEq, Repr

/-- One line of an L1 (R252, R253, R257): the stamp of its last use, its keep mark, the context of its last writer or, before
any write, of the access that brought it in, and its valid bytes by offset. -/
structure L1Line where
  age : Nat
  keep : Bool
  tag : Nat
  cells : List (Nat × L1Byte)
  deriving DecidableEq, Repr

/-- One byte of an L2 or rim line: its value and whether it is dirty (R252). -/
structure Cell where
  val : Byte
  dirty : Bool
  deriving DecidableEq, Repr

/-- One line of a die L2 or of the rim cache (R252, R254, R255): `cells` are its valid bytes by offset,
`owned` the directory's OWNED, `slice` and `way` its place, `age` the stamp of its last use, `counted` whether the occupancy
counter of its slice counts it (R261). -/
structure L2Line where
  cls : BitVec 2
  part : Nat
  tag : Nat
  slice : Nat
  way : Nat
  age : Nat
  keep : Bool
  owned : Bool
  poison : Bool
  counted : Bool
  cells : List (Nat × Cell)
  deriving DecidableEq, Repr

/-- A page that a leaf binds to a gate: its frame address, its size and the gate (R430). -/
structure Binding where
  pa : Nat
  size : Nat
  gate : Nat
  deriving DecidableEq, Repr

/-- A translation held in a first-level (`core` is some) or second-level cache (R358). -/
structure TlbEntry where
  die : Nat
  core : Option Nat
  asid : BitVec 16
  base : Nat
  lvl : Nat
  leaf : BitVec 64
  deriving DecidableEq, Repr

/-! ## Dies, links and messages -/

/-- A chanter message (R442); `credit` says that its sender spent a send credit for it (R444). -/
structure Msg where
  hdr : BitVec 64
  body : List (BitVec 64)
  credit : Bool
  deriving DecidableEq, Repr

/-- A request of the access counters (R364). -/
structure AccReq where
  region : Nat
  count : Nat
  hint : Bool
  deriving DecidableEq, Repr

/-- A region of the access-counter table (R364). -/
structure Region where
  region : Nat
  count : Nat
  cool : Option Nat
  deriving DecidableEq, Repr

/-- A shoot-down at its owner's endpoint, from its TLBI_PH1 to its TLBI_COMMIT (R361, R445). -/
structure Shoot where
  seq : Word
  asid : BitVec 16
  need : BitVec 13
  got : BitVec 13
  deriving DecidableEq, Repr

/-- The states of a spoke (R449). -/
inductive DieSt where
  | booting | serving | fenced | failed | rejoining
  deriving DecidableEq, Repr

/-- One die: its status register (R450), access counters (R364), chanter registers (R446), translation
hardware (R361; `later` holds the TLBI_PH1s that wait for a COMMIT), context command status with the command in progress (operation, context, argument) (R374), duty and temperature (R476), measurement with whether its images have been accepted since
its reset (R473) and its spare cluster (R12). `lag` counts, in eighths of a tick, by how much throttling has lengthened the times that
are stated in ns, µs and ms on the die (R477). Die code 12 is the hub. -/
structure Die where
  st : DieSt
  hbto : BitVec 16
  hb : Word
  why : BitVec 4
  hbAt : Nat
  thr : BitVec 16
  win : BitVec 16
  cool : BitVec 16
  near : BitVec 96
  ovf : Bool
  reqs : List AccReq
  popped : BitVec 64
  regions : List Region
  chtx : List (BitVec 64)
  txcr : Nat
  txovf : Bool
  inbox : List Msg
  heldMsgs : List Msg
  ph1Work : List Msg
  shoots : List Shoot
  later : List Msg
  cmdSts : BitVec 4
  cmd : Option (Nat × Nat × Nat)
  duty : Nat
  temp : BitVec 16
  meas : List Byte
  imaged : Bool
  lag : Nat
  spareUsed : Bool
  exposed : Nat
  irq : Bool
  deriving DecidableEq, Repr

/-- A die at reset (R450, R364, R446, R374, R476). (DESIGN CHOICE, log entry 2) -/
def Die.reset : Die :=
  { st := .booting, hbto := 100, hb := 0, why := 0, hbAt := 0, thr := 4096, win := 1000, cool := 10000,
    near := 0, ovf := false, reqs := [], popped := 0, regions := [], chtx := List.replicate 8 0,
    txcr := 64, txovf := false, inbox := [], heldMsgs := [], ph1Work := [], shoots := [], later := [],
    cmdSts := 0, cmd := none, duty := 8, temp := 0, meas := List.replicate 64 0, imaged := false, lag := 0, spareUsed := false, exposed := 9,
    irq := false }

/-- The states of a link (R436). -/
inductive LinkSt where
  | down | training | up | degraded | failed
  deriving DecidableEq, Repr

/-- A link: 0 to 11 the hub links by die code, 12 to 27 the tandem ports, 28 and 29 PCI Express (R436). Its spare lanes and its lanes
in use are counted for each direction, outward from the hub and inward to it. -/
structure Link where
  lst : LinkSt
  spares : Nat × Nat
  lanes : Nat × Nat
  full : Nat
  least : Nat
  retries : Nat
  deriving DecidableEq, Repr

/-! ## Partitions and units -/

/-- A unit's entry of the unit tables (R424): COND 0 FREE, 1 OWNED, 2 LENT, 3 RECLAIMING, 4 SCRUBBING;
`after` is what it becomes when its scrub ends: 0 FREE, 1 OWNED as a unit that a shift adds, 2 LENT, 3 OWNED as a unit
that comes back from its borrower, 5 OWNED as it was before a partition reset. `taken` says that the borrower of a lent unit has
committed it (R410, R421). -/
structure UnitRec where
  cond : Nat
  gear : Bool
  owner : Nat
  borrower : Nat
  window : Nat
  redir : Bool
  usable : Bool
  after : Nat
  taken : Bool
  deriving DecidableEq, Repr

/-- A FREE unit (R399, R424). -/
def UnitRec.free : UnitRec :=
  { cond := 0, gear := false, owner := 0, borrower := 0, window := 0, redir := false, usable := true,
    after := 0, taken := false }

/-- A shadow slot in use: the borrowed group, its window, and whether a redirect stands (R405, R408). -/
structure Shadow where
  cg : Nat
  window : Nat
  redir : Bool
  deriving DecidableEq, Repr

/-- The shift in progress: its step, the unit it moves and what it does: 0 grow, 1 shrink, 2 lend out, 3 take a loan,
5 take a slice that has come back into the tables (R410). -/
structure Shift where
  step : Nat
  what : Nat
  unit_ : UnitName
  deriving DecidableEq, Repr

/-- One partition (R402, R423): `loans` are the shifts that wait for the one in progress (R410). `slt` and `sltOld` are its slice tables, 64 entries for each spoke. -/
structure Part where
  formed : Bool
  active : Bool
  dissolved : Bool
  resetting : Bool
  quiescing : Bool
  epoch : BitVec 16
  mode : BitVec 4
  map : BitVec 32
  respa : BitVec 64
  ressz : BitVec 64
  shadowpa : BitVec 64
  shadows : List (Option Shadow)
  shift : Option Shift
  loans : List Shift
  slt : List (List (BitVec 8))
  sltOld : List (List (BitVec 8))
  deriving DecidableEq, Repr

/-- A partition that was never formed (R402, R423, R424). (DESIGN CHOICE, log entry 18) -/
def Part.unformed : Part :=
  { formed := false, active := false, dissolved := false, resetting := false, quiescing := false,
    epoch := 0, mode := 0, map := 0, respa := 0, ressz := 0, shadowpa := 0,
    shadows := List.replicate 4 none, shift := none, loans := [], slt := List.replicate 8 (List.replicate 64 0),
    sltOld := List.replicate 8 (List.replicate 64 0xFF) }

/-- A revocation outstanding: the unit, its lender and its borrower (R406, R422). -/
structure Revocation where
  unit_ : UnitName
  lender : Nat
  borrower : Nat
  deriving DecidableEq, Repr

/-! ## Gates -/

/-- One access-list entry of a gate (R425). -/
structure GateEntry where
  valid : Bool
  part : Nat
  rights : BitVec 4
  burst : BitVec 8
  rate : BitVec 14
  tokens : Nat
  faults : Nat
  stalls : Nat
  deriving DecidableEq, Repr

/-- An unused entry. -/
def GateEntry.zero : GateEntry :=
  { valid := false, part := 0, rights := 0, burst := 0, rate := 0, tokens := 0, faults := 0, stalls := 0 }

/-- The states of a gate (R426). -/
inductive GateSt where
  | free | opened | frozen
  deriving DecidableEq, Repr

/-- A GWAIT parked on a gate: its agent, the stamp of its wait, its entry and its threshold (R432). -/
structure Parked where
  who : Agent
  stamp : Nat
  entry : Nat
  t : BitVec 64
  deriving DecidableEq, Repr

/-- A gate operation stalled for a token: its agent, the stamp of its wait, its entry and the clock since which it
waits (R428). -/
structure Stalled where
  who : Agent
  stamp : Nat
  entry : Nat
  since : Nat
  deriving DecidableEq, Repr

/-- One gate (R425), with its parked waiters and its stalled operations, oldest first; `waiting` are the agents, with the stamps of
their waits, whose operations wait for it to be OPEN again (R426). -/
structure Gate where
  gst : GateSt
  resp : Bool
  owner : Nat
  seq : BitVec 64
  pay : List (BitVec 64)
  entries : List GateEntry
  parked : List Parked
  stalled : List Stalled
  waiting : List (Agent × Nat)
  deriving DecidableEq, Repr

/-- A FREE gate (R426). -/
def Gate.free : Gate :=
  { gst := .free, resp := false, owner := 0, seq := 0, pay := List.replicate 8 0,
    entries := List.replicate 8 GateEntry.zero, parked := [], stalled := [], waiting := [] }

/-- The ownership of a page shared between devices: its holder, or its readers; a hand-over in progress
and the requests behind it (R369). A page is one leaf (R360), `lvl` the level of its leaf. Device 0 is this device, d + 1 the peer on port d. -/
structure PageOwn where
  excl : Option Nat
  readers : List Nat
  flushing : List Nat
  grantTo : Option (Nat × Bool)
  waiting : List (Nat × Bool)
  lvl : Nat
  deriving DecidableEq, Repr

/-- A page is EXCLUSIVE to its home device at first (R369). -/
def PageOwn.home : PageOwn := { excl := some 0, readers := [], flushing := [], grantTo := none, waiting := [], lvl := 0 }

/-- The replicas of a frame, 0xFF_FFFF for none (R359). -/
structure Replicas where
  rep1 : BitVec 24
  rep2 : BitVec 24
  rep3 : BitVec 24
  moved : Option (BitVec 24)
  deriving DecidableEq, Repr

/-- No replica. -/
def Replicas.none : Replicas := { rep1 := 0xFFFFFF, rep2 := 0xFFFFFF, rep3 := 0xFFFFFF, moved := Option.none }

/-! ## The current issue and the schedule -/

/-- The issue in progress: its agent, the threads that take part (group and GLANE, in ascending home
lane), the address of the run and of the instruction, the address after it, the iteration of a REP, the
prefixes, whether it goes on with an instruction that has been issued before, and after how many of its lanes this step leaves a
lane memory instruction, whose other lanes are performed in a later one (R54, R57, R168, R362). -/
structure Issue where
  who : Agent
  lanes : List (Nat × Nat)
  pc : Word
  ipc : Word
  next : Word
  iter : Nat
  pre : Option ModP
  rep : Option RepP
  again : Bool
  cut : Option Nat
  deriving DecidableEq, Repr

/-- A derailleur command that goes on over several steps (R416 to R419, R422); `gates` are the gates that a MOVE has made FROZEN
(R426, R435). -/
inductive DrCmd where
  | setmode (part : Nat) (force : Bool) (arg : Word)
  | setmap (part : Nat) (force : Bool) (arg : Word)
  | reset (part : Nat)
  | dissolve (part : Nat) (force : Bool)
  | move (part peer : Nat) (gates : List Nat)
  deriving DecidableEq, Repr

/-- Whose turn it is: an event, the picker of a quadrant of a core (cores are numbered 36 × die + 4 ×
cluster + core), with the number of lanes after which it leaves a lane memory instruction for a later step, the cadence stream of
an index, or the derailleur with a command in progress. -/
inductive Turn where
  | event (e : Instr)
  | quadrant (core q : Nat) (cut : Option Nat)
  | stream (sid : Nat)
  | derailleur (c : DrCmd)
  deriving DecidableEq, Repr

/-- A picker: the issues its quadrant has made and the slot served last at age 4,096 (R166, R179). -/
structure Picker where
  issues : Nat
  last : Nat
  deriving DecidableEq, Repr

/-- The registers and tables of the hub (R422, R429, R460, R462, R476); `drPend` is the derailleur
command in progress and `drCtxs` the contexts it stops, each with whether it ran (R416 to R419, R422), `errors` are the errors reported and not yet acted on, oldest first (R461), `stamp` numbers arrivals. The CP's round-robin (R212): `rrPart` is the partition served
last, `rrCtx` by 8 × partition + priority the context served last and its turns, `rrQueue` by 8 × context + priority the
queue served last. `errTimes` keeps the times of the last two correctable errors of each unit, `disabled` the rim ways, `rows` and `pcs`
the HBM4E rows and pseudo-channels that are retired, `retired` the clusters and slices that are (R463); `powDuty` is the duty that the power cap sets, `supplyMv` the input voltage, `supplyAt` the
clock at which it left its range and `supplyBad` that it has stayed outside for 1 ms (R477, R478). `fused` are the minimum
versions that have been fused for the hub, the compute spokes and the memory spokes since manufacture, `hubVer` the version of the accepted hub image (R473, R476), `privKey` and
`pubKey` the identity key pair that the boot has derived (R474), `asids` the address spaces with the die whose instance created each
(R353, R455), `pageReqs` the page requests raised, by context and page, and `absent` the host pages that the host has unmapped
(R448). -/
structure Hub where
  drSts : BitVec 4
  drStep : BitVec 4
  drPend : Option DrCmd
  drCtxs : List (Nat × Bool)
  rovf : Bool
  revs : List Revocation
  gatepa : BitVec 64
  gateSts : BitVec 4
  sev : List (BitVec 64)
  elogpa : BitVec 64
  elogn : BitVec 64
  elogwr : Word
  elogovf : Bool
  elogrd : Word
  errTimes : List (Nat × List Nat)
  disabled : List (Nat × Nat)
  rows : List (Nat × Nat × Nat × Nat)
  pcs : List (Nat × Nat)
  retired : List UnitName
  stage : Nat
  attSts : BitVec 4
  attpa : BitVec 64
  pcap : BitVec 12
  powDuty : Nat
  supplyMv : Nat
  supplyAt : Nat
  supplyBad : Bool
  mseq : Nat
  ucnt : List (Nat × Nat)
  rrPart : Nat
  rrCtx : List (Nat × Nat × Nat)
  rrQueue : List (Nat × Nat)
  pageReqs : List (Nat × Nat)
  absent : List Nat
  fused : Word × Word × Word
  hubVer : Word
  privKey : List Byte
  pubKey : List Byte
  asids : List (BitVec 16 × Nat)
  errors : List ErrorReport
  stamp : Nat
  deriving DecidableEq, Repr

/-- The package. `l1` is keyed by core × 2^45 + line number, with the atomic unit of cluster c of die d as core
288 + 9 × d + c (R274), `l2` by die × 2^45 + line number with the rim
cache of memory spoke m as die 8 + m; `poison` lists the home lines that are poisoned, `ways` the way masks
of the L2 slices by 32 × die + slice (R261), `binds` the pages that GATED leaves have been seen to bind (R430; DEDUCED, log
entry 22). `tick` counts twelfths of a nanosecond; `free` numbers the free values drawn.
(DESIGN CHOICE, log entry 7) -/
structure State where
  mem : Memory
  l1 : List (Nat × L1Line)
  l2 : List (Nat × L2Line)
  tlb : List TlbEntry
  poison : List Nat
  ways : List (Nat × List (BitVec 16))
  binds : List Binding
  ctxs : List (Nat × Ctx)
  kernels : List Kernel
  blocks : List Block
  groups : List Group
  streams : List Stream
  copies : List Copy
  tileOps : List TileOp
  dies : List Die
  links : List Link
  parts : List Part
  clusters : List UnitRec
  slices : List UnitRec
  cgs : List UnitRec
  gates : List (Nat × Gate)
  replicas : List (Nat × Replicas)
  owns : List (Nat × PageOwn)
  pickers : List (Nat × Picker)
  hub : Hub
  tick : Nat
  agenda : List Turn
  issue : Issue
  free : Nat
  deriving DecidableEq, Repr

/-- The action nibbles of a severity register, the same for the twelve sources (R460). -/
def sevAll (a : Nat) : BitVec 64 := BitVec.ofNat 64 ((List.range 12).foldl (fun n j => n + a * 16 ^ j) 0)

/-- The class defaults of SEV0 to SEV15 (R460). -/
def sevReset : List (BitVec 64) :=
  [1, 2, 1, 2, 1, 2, 3, 1, 2, 1, 5, 2, 1, 2, 1, 0].map sevAll

/-- The hub's registers at reset (R422, R429, R460, R476). (DESIGN CHOICE, log entry 2) (DESIGN CHOICE, log entry 45) -/
def Hub.reset : Hub :=
  { drSts := 0, drStep := 0, drPend := none, drCtxs := [], rovf := false, revs := [], gatepa := 0, gateSts := 0, sev := sevReset,
    elogpa := 0, elogn := 0, elogwr := 0, elogovf := false, elogrd := 0, errTimes := [], disabled := [], rows := [], pcs := [], retired := [],
    stage := 0, attSts := 0, attpa := 0, pcap := 3400, powDuty := 8, supplyMv := 54000, supplyAt := 0, supplyBad := false, mseq := 0, ucnt := [], rrPart := 23, rrCtx := [],
    rrQueue := [], pageReqs := [], absent := [],
    fused := (0, 0, 0), hubVer := 0, privKey := [], pubKey := [], asids := [], errors := [], stamp := 0 }

/-- No issue in progress. -/
def Issue.idle : Issue :=
  { who := .group 0, lanes := [], pc := 0, ipc := 0, next := 0, iter := 0, pre := none, rep := none, again := false, cut := none }

/-- A hub link: 2 spare lanes per direction, at least half its lanes; the lane count of a hub link is the
model's (R436). (DESIGN CHOICE, log entry 17) -/
def Link.hubReset : Link := { lst := .training, spares := (2, 2), lanes := (16, 16), full := 16, least := 8, retries := 0 }

/-- A tandem port: 8 lanes, 1 spare, at least 4 (R436, R2). -/
def Link.tandemReset : Link := { lst := .down, spares := (1, 1), lanes := (8, 8), full := 8, least := 4, retries := 0 }

/-- A PCI Express port: 16 lanes (R448). -/
def Link.pcieReset : Link := { lst := .down, spares := (0, 0), lanes := (16, 16), full := 16, least := 1, retries := 0 }

/-- The package right after reset: hub links in training (R436), spokes BOOTING (R449), every context FREE
and every partition UNFORMED (R472), memory with nothing listed. (DESIGN CHOICE, log entry 2) -/
def State.reset : State :=
  { mem := [], l1 := [], l2 := [], tlb := [], poison := [], ways := [], binds := [], ctxs := [],
    kernels := [], blocks := [], groups := [], streams := [], copies := [], tileOps := [],
    dies := List.replicate 13 Die.reset,
    links := List.replicate 12 Link.hubReset ++ List.replicate 16 Link.tandemReset ++
      List.replicate 2 Link.pcieReset,
    parts := List.replicate 24 Part.unformed, clusters := List.replicate 72 UnitRec.free,
    slices := List.replicate 256 UnitRec.free, cgs := List.replicate 96 UnitRec.free, gates := [],
    replicas := [], owns := [], pickers := [], hub := Hub.reset, tick := 0, agenda := [],
    issue := Issue.idle, free := 0 }

end Sys2Proof.Machine
end

