-- ==== Sys2Proof/Machine/Table.lean ====
section
/-! DEFINITION. Tables as lists of (key, value) pairs with strictly rising keys, memory bytes over them, and
the accessors of State's objects and registers windows' records. -/

namespace Sys2Proof.Machine

/-! ## Tables -/

/-- The value stored under a key. -/
def tfind {β : Type} : List (Nat × β) → Nat → Option β
  | [], _ => none
  | (j, v) :: r, k => if k = j then some v else tfind r k

/-- The table with a key set to a value. -/
def tset {β : Type} : List (Nat × β) → Nat → β → List (Nat × β)
  | [], k, v => [(k, v)]
  | (j, w) :: r, k, v =>
    if k < j then (k, v) :: (j, w) :: r
    else if k = j then (k, v) :: r
    else (j, w) :: tset r k v

/-- The table without a key. -/
def tdel {β : Type} (t : List (Nat × β)) (k : Nat) : List (Nat × β) := t.filter fun e => e.1 != k

/-- Keys strictly rising. -/
def tsorted {β : Type} : List (Nat × β) → Bool
  | [] => true
  | [_] => true
  | (j, _) :: (k, w) :: r => decide (j < k) && tsorted ((k, w) :: r)

/-- What an unlisted byte of memory or of a pad reads as (DESIGN CHOICE, log entry 1). -/
def Memory.blank : Byte := 0

/-- One byte of memory. (DESIGN CHOICE, log entry 1) -/
def Memory.read (m : Memory) (a : Nat) : Byte := (tfind m a).getD Memory.blank

/-- Memory with one byte written; a byte that reads as blank is not listed. -/
def Memory.write (m : Memory) (a : Nat) (v : Byte) : Memory :=
  if v = Memory.blank then tdel m a else tset m a v

/-- The canonical form: addresses strictly rising, no blank byte listed. -/
def Memory.wf (m : Memory) : Bool := tsorted m && m.all fun c => c.2 != Memory.blank

/-- n bytes from an address. -/
def Memory.readN (m : Memory) (a n : Nat) : List Byte := (List.range n).map fun i => m.read (a + i)

/-- Bytes written at rising addresses. -/
def Memory.writeN (m : Memory) (a : Nat) : List Byte → Memory
  | [] => m
  | v :: r => (m.write a v).writeN (a + 1) r

/-- The little-endian value of bytes (R4). -/
def leNat : List Byte → Nat
  | [] => 0
  | b :: r => b.toNat + 256 * leNat r

/-- n little-endian bytes of a value (R4). -/
def leBytes : Nat → Nat → List Byte
  | 0, _ => []
  | n + 1, x => BitVec.ofNat 8 x :: leBytes n (x / 256)

/-- Bits lo to lo + n − 1 of a number. -/
def bitsOf (x lo n : Nat) : Nat := x / 2 ^ lo % 2 ^ n

/-- Bit i of a number. -/
def bitAt (x i : Nat) : Bool := x / 2 ^ i % 2 == 1

/-- A Boolean as a number. -/
def b2n (b : Bool) : Nat := if b then 1 else 0

/-- The indices below n that satisfy a test, in rising order. -/
def indices (n : Nat) (p : Nat → Bool) : List Nat := (List.range n).filter p

/-! ## Objects -/

/-- A context (R371). -/
def State.ctx (s : State) (c : Nat) : Ctx := (tfind s.ctxs c).getD Ctx.free

/-- The reconvergence timeout of a context in ns; values out of range are taken as 40 µs (R371). -/
def Ctx.timeout (c : Ctx) : Nat := (if 1 ≤ c.rto.toNat ∧ c.rto.toNat ≤ 10000 then c.rto.toNat else 40) * 1000

/-- The reconvergence timeout of a context of a number in ns (R371). -/
def State.rto (s : State) (ctx : Nat) : Nat := (s.ctx ctx).timeout

/-- A context changed; a context that is as at reset is not listed. -/
def State.modCtx (s : State) (c : Nat) (f : Ctx → Ctx) : State :=
  let x := f (s.ctx c)
  { s with ctxs := if x = Ctx.free then tdel s.ctxs c else tset s.ctxs c x }

/-- A group changed. -/
def State.modGroup (s : State) (gid : Nat) (f : Group → Group) : State := { s with groups := s.groups.modify gid f }

/-- A stream changed. -/
def State.modStream (s : State) (sid : Nat) (f : Stream → Stream) : State := { s with streams := s.streams.modify sid f }

/-- A block changed. -/
def State.modBlock (s : State) (bid : Nat) (f : Block → Block) : State := { s with blocks := s.blocks.modify bid f }

/-- A kernel changed. -/
def State.modKernel (s : State) (kid : Nat) (f : Kernel → Kernel) : State := { s with kernels := s.kernels.modify kid f }

/-- A copy changed. -/
def State.modCopy (s : State) (cid : Nat) (f : Copy → Copy) : State := { s with copies := s.copies.modify cid f }

/-- A tile operation changed. -/
def State.modTile (s : State) (oid : Nat) (f : TileOp → TileOp) : State := { s with tileOps := s.tileOps.modify oid f }

/-- A partition changed. -/
def State.modPart (s : State) (p : Nat) (f : Part → Part) : State := { s with parts := s.parts.modify p f }

/-- A die changed. -/
def State.modDie (s : State) (d : Nat) (f : Die → Die) : State := { s with dies := s.dies.modify d f }

/-- A link changed. -/
def State.modLink (s : State) (l : Nat) (f : Link → Link) : State := { s with links := s.links.modify l f }

/-- The hub changed. -/
def State.modHub (s : State) (f : Hub → Hub) : State := { s with hub := f s.hub }

/-- A gate (R425). -/
def State.gate (s : State) (g : Nat) : Gate := (tfind s.gates g).getD Gate.free

/-- A gate changed; a FREE gate with nothing in it is not listed. -/
def State.modGate (s : State) (g : Nat) (f : Gate → Gate) : State :=
  let x := f (s.gate g)
  { s with gates := if x = Gate.free then tdel s.gates g else tset s.gates g x }

/-- One thread of a group changed. -/
def Group.modThread (g : Group) (t : Nat) (f : Thread → Thread) : Group := { g with threads := g.threads.modify t f }

/-- One thread changed. -/
def State.modThread (s : State) (gid t : Nat) (f : Thread → Thread) : State := s.modGroup gid (·.modThread t f)

/-- A thread, by its group and its GLANE. -/
def State.thread? (s : State) (gid t : Nat) : Option Thread := (s.groups[gid]?).bind (·.threads[t]?)

/-- Global time base in ns (R2). -/
def State.clock (s : State) : Nat := s.tick / 12

/-- The next arrival stamp. -/
def State.nextStamp (s : State) : State := s.modHub fun h => { h with stamp := h.stamp + 1 }

/-- The next free value of the run, as its number. (DESIGN CHOICE, log entry 4) -/
def State.drawFree (s : State) : State := { s with free := s.free + 1 }

/-! ## Launch records -/

/-- A field of a launch record: n bytes at an offset, little-endian (R192). -/
def Kernel.fld (k : Kernel) (off n : Nat) : Nat := leNat ((k.record.drop off).take n)

/-- FLAGS (R193). -/
def Kernel.flags (k : Kernel) : Nat := k.fld 0x002 2
/-- The RESIDENT flag (R193). -/
def Kernel.resident (k : Kernel) : Bool := bitAt k.flags 0
/-- The ROLLBACK flag (R193). -/
def Kernel.rollback (k : Kernel) : Bool := bitAt k.flags 1
/-- The STRICT flag (R193). -/
def Kernel.strict (k : Kernel) : Bool := bitAt k.flags 2
/-- The TAIL flag (R193). -/
def Kernel.tail (k : Kernel) : Bool := bitAt k.flags 3
/-- The pool word (R19). -/
def Kernel.pool (k : Kernel) : Nat := k.fld 0x004 4
/-- VRU of the pool word (R19). -/
def Kernel.vru (k : Kernel) : Nat := bitsOf k.pool 16 6
/-- PADU of the pool word (R19). -/
def Kernel.padu (k : Kernel) : Nat := bitsOf k.pool 10 6
/-- ACCN of the pool word (R19). -/
def Kernel.accn (k : Kernel) : Nat := bitsOf k.pool 5 5
/-- GENTRY (R192). -/
def Kernel.gentry (k : Kernel) : Word := BitVec.ofNat 32 (k.fld 0x008 4)
/-- CENTRY (R192). -/
def Kernel.centry (k : Kernel) : Word := BitVec.ofNat 32 (k.fld 0x00C 4)
/-- DIESET (R192). -/
def Kernel.dieset (k : Kernel) : Nat := k.fld 0x010 1
/-- NCLU (R192). -/
def Kernel.nclu (k : Kernel) : Nat := k.fld 0x011 1
/-- NSTAGE (R192). -/
def Kernel.nstage (k : Kernel) : Nat := k.fld 0x012 1
/-- WIDTH (R192). -/
def Kernel.width (k : Kernel) : Nat := k.fld 0x013 1
/-- NGRP (R192). -/
def Kernel.ngrp (k : Kernel) : Nat := k.fld 0x014 2
/-- VREGS0 (R192). -/
def Kernel.vregs0 (k : Kernel) : Nat := k.fld 0x016 1
/-- NBLK.X, .Y and .Z (R192). -/
def Kernel.nblk (k : Kernel) (i : Nat) : Nat := k.fld (0x018 + 2 * i) 2
/-- Spatial coordinates in each cluster position (R196). -/
def Kernel.ncoord (k : Kernel) : Nat := k.nblk 0 * k.nblk 1 * k.nblk 2
/-- The coordinate X, Y or Z of a block, X fastest (R198). -/
def Kernel.coordOf (k : Kernel) (c i : Nat) : Nat :=
  match i with
  | 0 => c % k.nblk 0
  | 1 => c / k.nblk 0 % k.nblk 1
  | _ => c / (k.nblk 0 * k.nblk 1)
/-- BRES (R192). -/
def Kernel.bres (k : Kernel) : Nat := k.fld 0x01E 2
/-- GMASK (R192). -/
def Kernel.gmask (k : Kernel) : Nat := k.fld 0x020 2
/-- GDMASK (R192). -/
def Kernel.gdmask (k : Kernel) : Nat := k.fld 0x022 2
/-- The core mask of multicast group m (R192). -/
def Kernel.mcast (k : Kernel) (m : Nat) : Nat := bitsOf (k.fld 0x024 2) (4 * m) 4
/-- SIGNAL (R192). -/
def Kernel.signal (k : Kernel) : Nat := k.fld 0x026 2
/-- CVA (R192). -/
def Kernel.cva (k : Kernel) : Nat := k.fld 0x028 8
/-- WAITn (R194). -/
def Kernel.waitCond (k : Kernel) (n : Nat) : Nat := k.fld (0x030 + 8 * n) 8
/-- The format slot Fn (R102). -/
def Kernel.slot (k : Kernel) (n : Nat) : Nat := k.fld (0x050 + 4 * n) 4
/-- The lo bound of guard n (R192). -/
def Kernel.gdlo (k : Kernel) (n : Nat) : Nat := k.fld (0x070 + 8 * n) 4
/-- The hi bound of guard n (R192). -/
def Kernel.gdhi (k : Kernel) (n : Nat) : Nat := k.fld (0x074 + 8 * n) 4
/-- The action of guard n: 0 FLAG, 1 CLAMP, 2 TRAP, 3 ROLLBACK (R192). -/
def Kernel.gdact (k : Kernel) (n : Nat) : Nat := bitsOf (k.fld 0x0F0 8) (4 * n) 4
/-- The CODE grant: present in every record (R345). -/
def Kernel.codeGrant (k : Kernel) : Grant := { tag := true, bits := BitVec.ofNat 128 (k.fld 0x100 16) }
/-- The grant of a G register as the record gives it (R118, R345). -/
def Kernel.grant (k : Kernel) (n : Nat) : Grant :=
  if n = 13 ∨ n = 14 ∨ 15 < n then Grant.null
  else if bitAt k.gmask n then
    { tag := true, bits := BitVec.ofNat 128 (k.fld (if n = 15 then 0x1E0 else 0x110 + 16 * n) 16) }
  else Grant.null
/-- The logical dies of DIESET in ascending order (R196). -/
def Kernel.dieList (k : Kernel) : List Nat := indices 8 (bitAt k.dieset)

/-- NDIE, the number of dies of DIESET (R196). -/
def Kernel.ndie (k : Kernel) : Nat := k.dieList.length
/-- DIEIX and CLUIX of a cluster position (R196). -/
def Kernel.dieIx (k : Kernel) (pos : Nat) : Nat := pos / k.nclu
/-- CLUIX of a cluster position (R196). -/
def Kernel.cluIx (k : Kernel) (pos : Nat) : Nat := pos % k.nclu

/-! ## Grants -/

/-- BASE (R344). -/
def Grant.base (g : Grant) : Nat := bitsOf g.bits.toNat 0 57
/-- The length, LENM1 + 1 (R344). -/
def Grant.len (g : Grant) : Nat := bitsOf g.bits.toNat 57 40 + 1
/-- RD, W, A and X in bits 0 to 3 (R344). -/
def Grant.perms (g : Grant) : Nat := bitsOf g.bits.toNat 97 4
/-- RD (R344). -/
def Grant.rd (g : Grant) : Bool := bitAt g.bits.toNat 97
/-- W (R344). -/
def Grant.wr (g : Grant) : Bool := bitAt g.bits.toNat 98
/-- A (R344). -/
def Grant.at' (g : Grant) : Bool := bitAt g.bits.toNat 99
/-- X (R344). -/
def Grant.ex (g : Grant) : Bool := bitAt g.bits.toNat 100
/-- GI (R344). -/
def Grant.gi (g : Grant) : Nat := bitsOf g.bits.toNat 101 4
/-- GE (R344). -/
def Grant.ge (g : Grant) : Bool := bitAt g.bits.toNat 105
/-- PART (R344). -/
def Grant.part (g : Grant) : Nat := bitsOf g.bits.toNat 106 5
/-- CTX (R344). -/
def Grant.ctxNo (g : Grant) : Nat := bitsOf g.bits.toNat 111 12
/-- A grant of given fields (R344). -/
def Grant.make (base len perms gi ge part ctx : Nat) : Grant :=
  { tag := true,
    bits := BitVec.ofNat 128 (base + (len - 1) * 2 ^ 57 + perms * 2 ^ 97 + gi * 2 ^ 101 + ge * 2 ^ 105 +
      part * 2 ^ 106 + ctx * 2 ^ 111) }

/-! ## Where an agent runs -/

/-- The kernel of a block. -/
def State.kernelOf (s : State) (bid : Nat) : Option Kernel := (s.blocks[bid]?).bind fun b => s.kernels[b.kid]?

/-- The context of a kernel index. -/
def State.ctxOfKernel (s : State) (kid : Nat) : Nat := ((s.kernels[kid]?).map (·.ctx)).getD 0

/-- The context of an agent. -/
def State.ctxOf (s : State) : Agent → Nat
  | .group gid => (((s.groups[gid]?).bind fun g => s.blocks[g.bid]?).map fun b => s.ctxOfKernel b.kid).getD 0
  | .stream sid => ((s.streams[sid]?).map fun x => s.ctxOfKernel x.kid).getD 0

/-- The kernel index of an agent. -/
def State.kidOf (s : State) : Agent → Nat
  | .group gid => (((s.groups[gid]?).bind fun g => s.blocks[g.bid]?).map (·.kid)).getD 0
  | .stream sid => ((s.streams[sid]?).map (·.kid)).getD 0

/-- The uniform registers of an agent. -/
def State.ufile (s : State) : Agent → Option UFile
  | .group gid => (s.groups[gid]?).map (·.u)
  | .stream sid => (s.streams[sid]?).map (·.u)

/-- The uniform registers of an agent changed. -/
def State.modU (s : State) (who : Agent) (f : UFile → UFile) : State :=
  match who with
  | .group gid => s.modGroup gid fun g => { g with u := f g.u }
  | .stream sid => s.modStream sid fun x => { x with u := f x.u }

/-- The number of a core in the package: 36 × die + 4 × cluster + core. -/
def coreNo (die clu core : Nat) : Nat := 36 * die + 4 * clu + core

/-- The core on which a block is placed. -/
def Block.coreNo (b : Block) : Nat := Machine.coreNo b.die b.clu b.core

/-- The threads of a group, by GLANE, that are live. -/
def Group.liveLanes (g : Group) : List Nat :=
  indices g.threads.length fun t => ((g.threads[t]?).map (·.live)).getD false

/-- The home lane of a thread within its slot (R17). -/
def Group.homeLane (g : Group) (t : Nat) : Nat := (g.lane0 + t) % 32

/-- The slot of a thread; a group of width 64 holds two (R17). -/
def Group.slotOf (g : Group) (t : Nat) : Nat := g.slot + (g.lane0 + t) / 32

/-- THRIX, the index of a thread in its block (R40). -/
def Group.thrix (g : Group) (t : Nat) : Nat := g.grpix * g.width + t

/-- The size of a call-stack slice: floor(length(G15) / (16 × T)) × 16 (R164). -/
def Kernel.slice (k : Kernel) (g15 : Grant) : Nat :=
  if g15.tag ∧ 0 < k.ngrp * k.width then g15.len / (16 * (k.ngrp * k.width)) * 16 else 0

/-! ## Die maps -/

/-- The spoke of logical die i (R423: MAP). -/
def Part.spoke (p : Part) (i : Nat) : Option Nat :=
  let e := bitsOf p.map.toNat (4 * i) 4
  if i < 8 ∧ 8 ≤ e then some (e % 8) else none

/-- The logical die that a spoke is. -/
def Part.logical (p : Part) (d : Nat) : Option Nat := (indices 8 fun i => p.spoke i == some d).head?

/-- The partition of a number, unformed where there is none. -/
def State.part (s : State) (p : Nat) : Part := (s.parts[p]?).getD Part.unformed

/-- A die of a code. -/
def State.die (s : State) (d : Nat) : Die := (s.dies[d]?).getD Die.reset

/-- The time in ns by which a die measures the times that are stated in ns, µs and ms: the global time base, less what throttling has
held back (R477). (DEDUCED, log entry 75) -/
def State.clockOn (s : State) (d : Nat) : Nat := (8 * s.tick - (s.die d).lag) / 96

end Sys2Proof.Machine
end

