-- ==== Sys2Proof/Machine/Cache.lean ====
section
/-! DEFINITION. The caches of chapter 11 and the coherence rules of chapter 10: the L1 of a core, the L2 of a
die, the rim cache of a memory spoke and memory behind them, at the granularity of one byte. An L2 line always
holds the latest value of the words that L1s of its die own, so that the slice can serve the owner's value. -/

namespace Sys2Proof.Machine

/-! ## Addresses -/

/-- The regions of the physical address space (R354). -/
inductive PaKind where
  | device
  | peer (port : Nat)
  | host
  | reserved
  deriving DecidableEq, Repr

/-- 768 GiB (R354). -/
def deviceTop : Nat := 0xC000000000

/-- The region that holds an address (R354). -/
def paKind (pa : Nat) : PaKind :=
  if pa < deviceTop then .device
  else if 2 ^ 51 ≤ pa ∧ pa < 2 ^ 52 then .host
  else if 2 ^ 48 ≤ pa ∧ pa < 2 ^ 48 + 16 * 2 ^ 40 ∧ (pa - 2 ^ 48) % 2 ^ 40 < deviceTop then .peer ((pa - 2 ^ 48) / 2 ^ 40)
  else .reserved

/-- The line number (R259). -/
def lineOf (pa : Nat) : Nat := pa / 128
/-- The channel group of a device address (R260). -/
def groupOf (pa : Nat) : Nat := pa / 2 ^ 33
/-- The HBM4E stack of a device address (R260). -/
def stackOf (pa : Nat) : Nat := groupOf pa / 8
/-- The pseudo-channel of a device address inside its channel group (R260). -/
def pseudoChannel (pa : Nat) : Nat := bitsOf pa 8 3 ^^^ bitsOf pa 14 3 ^^^ bitsOf pa 20 3
/-- Folding of a number by exclusive or of n-bit pieces (R259). -/
def xorFold (n : Nat) : Nat → Nat → Nat
  | 0, _ => 0
  | k + 1, x => (x % 2 ^ n) ^^^ xorFold n k (x / 2 ^ n)
/-- h6, the index into the slice table (R259). -/
def sliceHash (line : Nat) : Nat := xorFold 6 9 line
/-- The set in the slice (R259). -/
def setHash (line : Nat) : Nat := xorFold 10 5 (line / 64) % 768

/-- The memory spoke whose rim cache holds a line, as a die code 8 to 11 (R13, R260); a line of host memory is
placed by its line number (DESIGN CHOICE, log entry 5), a peer's line is in no rim (R369). -/
def rimDie (pa : Nat) : Option Nat :=
  match paKind pa with
  | .device => some (8 + groupOf pa / 24)
  | .host => some (8 + lineOf pa % 4)
  | _ => none

/-- Who makes an access: the context and its partition, tag and way class, the die, the cluster (9 × die + number) and the
core whose L1 it goes through, if any (R224, R252). -/
structure Acc where
  ctx : Nat
  part : Nat
  waycl : Nat
  die : Nat
  clu : Nat
  core : Option Nat
  deriving DecidableEq, Repr

/-- The tag of an access that no context makes. -/
def noCtx : Nat := 4096

/-- A performance counter of the context advanced (R396); the index is the selector minus 0x10. An access that no context
makes counts nowhere (R395). -/
def State.bump (s : State) (ctx ix n : Nat) : State :=
  if noCtx ≤ ctx ∨ n = 0 then s else s.modCtx ctx fun c => { c with perf := c.perf.modify ix fun x => (x + n) % 2 ^ 64 }

/-- An error reported, to be acted on by ERROR_DETECT (R459, R461). -/
def State.report (s : State) (e : ErrorReport) : State := s.modHub fun h => { h with errors := h.errors ++ [e] }

/-- A report of a class from a source, with its unit, charged to a context, with an address (R459, R462). (DESIGN CHOICE, log
entry 101) (DESIGN CHOICE, log entry 101) -/
def mkError (cls src die unit_ : Nat) (ctx : Option Nat) (addr : Nat) : ErrorReport :=
  { cls := cls, src := src, die := die, unitNo := unit_, ctx := ctx.filter fun c => decide (c < noCtx), bid := none, addr := BitVec.ofNat 64 addr, place := .nowhere }

/-- The sectors of a line in which some of its bytes lie. -/
def sectorsOf (offs : List Nat) : Nat := (indices 4 fun k => offs.any fun o => o / 32 == k).length

/-- Bytes that cross the hub links, and for an address of a peer a tandem link, counted for a context (R396).
(DEDUCED, log entry 78) -/
def State.countLink (s : State) (ctx pa n : Nat) : State :=
  let s := s.bump ctx 6 n
  match paKind pa with
  | .peer _ => s.bump ctx 7 n
  | _ => s

/-! ## Lines -/

/-- The key of a line in a die's cache. -/
def lineKey (die line : Nat) : Nat := die * 2 ^ 45 + line

/-- A cached line. -/
def State.line? (s : State) (die line : Nat) : Option L2Line := tfind s.l2 (lineKey die line)

/-- A cached line replaced; one without cells and poison is dropped (INVALID, R254). -/
def State.putLine (s : State) (die line : Nat) (l : L2Line) : State :=
  { s with l2 := if l.cells = [] ∧ l.poison = false then tdel s.l2 (lineKey die line) else tset s.l2 (lineKey die line) l }

/-- A cached line dropped. -/
def State.dropLine (s : State) (die line : Nat) : State := { s with l2 := tdel s.l2 (lineKey die line) }

/-- The valid byte of a line at an offset. -/
def L2Line.byte? (l : L2Line) (off : Nat) : Option Byte := (tfind l.cells off).map (·.val)

/-- Some byte of the line is dirty: the line is DIRTY (R254). -/
def L2Line.dirty (l : L2Line) : Bool := l.cells.any (·.2.dirty)

/-- The line with every byte clean. -/
def L2Line.clean (l : L2Line) : L2Line := { l with cells := l.cells.map fun c => (c.1, { c.2 with dirty := false }) }

/-! ## The L1s and the cluster atomic units -/

/-- The number under which the atomic unit of a cluster holds its words (R274). (DEDUCED, log entry 16) -/
def unitCore (clu : Nat) : Nat := 288 + clu

/-- The die of a core, or of a cluster atomic unit. -/
def coreDie (core : Nat) : Nat := if core < 288 then core / 36 else (core - 288) / 9

/-- A line of an L1. -/
def State.l1Line? (s : State) (core line : Nat) : Option L1Line := tfind s.l1 (lineKey core line)

/-- The L1 byte of a core. -/
def State.l1Byte? (s : State) (core pa : Nat) : Option L1Byte :=
  (s.l1Line? core (lineOf pa)).bind fun l => tfind l.cells (pa % 128)

/-- Monitors of a core's threads on lines that leave its L1 are lost (R189). (DEDUCED, log entry 14) -/
def State.loseMonitors (s : State) (gone : Nat → Nat → Bool) : State :=
  { s with groups := s.groups.map fun g =>
      let core := ((s.blocks[g.bid]?).map (·.coreNo)).getD 0
      { g with threads := g.threads.map fun t =>
          match t.monitor with
          | some m => if gone core m.line then { t with monitor := some { m with lost := true } } else t
          | none => t } }

/-- The bytes of the L1s that a test of core, line, offset and byte does not keep leave them; the monitors on lines that leave
an L1 altogether are lost (R189). (DEDUCED, log entry 14) -/
def State.filterL1 (s : State) (keep : Nat → Nat → Nat → L1Byte → Bool) : State :=
  let rest (e : Nat × L1Line) := e.2.cells.filter fun c => keep (e.1 / 2 ^ 45) (e.1 % 2 ^ 45) c.1 c.2
  let l1 := s.l1.filterMap fun e => if rest e = [] then none else some (e.1, { e.2 with cells := rest e })
  ({ s with l1 := l1 } : State).loseMonitors fun core line =>
    (tfind s.l1 (lineKey core line)).isSome && (tfind l1 (lineKey core line)).isNone

/-- The L1 words of a die's cores in a line become CLEAN (R253). -/
def State.unown (s : State) (die line : Nat) (keepCore : Option Nat) (lo hi : Nat) : State :=
  { s with l1 := s.l1.map fun e =>
      if coreDie (e.1 / 2 ^ 45) = die ∧ e.1 % 2 ^ 45 = line ∧ some (e.1 / 2 ^ 45) ≠ keepCore then
        (e.1, { e.2 with cells := e.2.cells.map fun c => if lo ≤ c.1 ∧ c.1 < hi then (c.1, { c.2 with owned := false }) else c })
      else e }

/-- The bytes of a line leave every L1 of a die. -/
def State.dropL1 (s : State) (die line : Nat) : State := s.filterL1 fun core l _ _ => !(coreDie core == die && l == line)

/-- The bytes of a line leave the atomic units of a die's clusters, which a wider site recalls (R274). -/
def State.dropUnits (s : State) (die line : Nat) : State :=
  s.filterL1 fun core l _ _ => !(decide (288 ≤ core) && coreDie core == die && l == line)

/-- The line of an L1 that a fill replaces: the oldest without a keep mark, else the oldest marked (R257). -/
def oldestL1 : List (Nat × L1Line) → Option (Nat × L1Line)
  | [] => none
  | e :: r =>
    match oldestL1 r with
    | none => some e
    | some b =>
      if e.2.keep = b.2.keep then (if e.2.age ≤ b.2.age then some e else some b)
      else if e.2.keep then some b else some e

/-- A line of an L1 for a fill: 16 ways in 128 sets, the set the line number modulo 128 (R252). The words that a
replaced line owns are in the slice already (R253). (DESIGN CHOICE, log entry 5) -/
def State.l1Alloc (s : State) (a : Acc) (core line : Nat) (keep : Bool) : State :=
  match s.l1Line? core line with
  | some _ => s
  | none =>
    let ls := s.l1.filter fun e => e.1 / 2 ^ 45 == core && e.1 % 2 ^ 45 % 128 == line % 128
    let s := if ls.length < 16 then s
      else match oldestL1 ls with
        | some v => s.filterL1 fun c l _ _ => !(c == core && l == v.1 % 2 ^ 45)
        | none => s
    ({ s with l1 := tset s.l1 (lineKey core line) { age := s.hub.stamp + 1, keep := keep, tag := a.ctx, cells := [] } }).nextStamp

/-- A hit's effect on the age and the keep mark of an L1 line by its hint (R257, R258). -/
def State.touchL1 (s : State) (core line hint : Nat) : State :=
  match s.l1Line? core line with
  | none => s
  | some l => if hint = 0 ∨ hint = 2 then
      ({ s with l1 := tset s.l1 (lineKey core line) { l with age := s.hub.stamp + 1, keep := (hint == 2) } }).nextStamp else s

/-- The bytes of a line of an L1 computed from those it holds; a line without bytes is not listed. -/
def State.setL1 (s : State) (core line : Nat) (f : List (Nat × L1Byte) → List (Nat × L1Byte)) : State :=
  match s.l1Line? core line with
  | none => s
  | some l => { s with l1 := if f l.cells = [] then tdel s.l1 (lineKey core line) else tset s.l1 (lineKey core line) { l with cells := f l.cells } }

/-- A line of an L1 tagged with its last writer (R252). -/
def State.tagL1 (s : State) (core line ctx : Nat) : State :=
  match s.l1Line? core line with
  | none => s
  | some l => { s with l1 := tset s.l1 (lineKey core line) { l with tag := ctx } }

/-- The core owns the word of an offset among the bytes of a line (R253). -/
def ownsWord (cs : List (Nat × L1Byte)) (off : Nat) : Bool := cs.any fun c => c.1 / 4 == off / 4 && c.2.owned

/-- A sector that the slice has served: bytes that the core does not own take the served value; `all` fills, else only bytes
that are present are renewed (R232, R253). -/
def fillCells (all : Bool) (served : List (Nat × Byte)) (cs : List (Nat × L1Byte)) : List (Nat × L1Byte) :=
  served.foldl (fun t x => match tfind t x.1 with
    | some c => if c.owned then t else tset t x.1 { val := x.2, owned := ownsWord cs x.1 }
    | none => if all then tset t x.1 { val := x.2, owned := ownsWord cs x.1 } else t) cs

/-- A store into the bytes of a line: each word that it touches takes the bytes written and, where the slice serves them, its
other bytes, and is owned; `all` writes every such word, else only words of which a byte is present. The other words of the
sector that are present and not owned take the value that the slice serves with it, so that no load of 64 bits mixes two states
of the slice (R225, R240, R253, R258). -/
def storeCells (all : Bool) (off : Nat) (data : List Byte) (slice : Nat → Option Byte) (cs : List (Nat × L1Byte)) : List (Nat × L1Byte) :=
  let last := off + data.length
  let put (t : List (Nat × L1Byte)) (i : Nat) (own : Bool) (v : Option Byte) : List (Nat × L1Byte) := match v with
    | some v => tset t i { val := v, owned := own }
    | none => tdel t i
  (List.range 128).foldl (fun t i =>
    if off / 4 ≤ i / 4 ∧ i / 4 < (last + 3) / 4 then
      if all || cs.any fun c => c.1 / 4 == i / 4 then put t i true (if off ≤ i ∧ i < last then data[i - off]? else slice i) else t
    else match tfind cs i with
      | some c => if c.owned ∨ i / 32 ≠ off / 32 then t else put t i false (slice i)
      | none => t) cs

/-- A write to a line marks every monitor armed on it (R188). -/
def State.markWritten (s : State) (line : Nat) : State :=
  { s with groups := s.groups.map fun g =>
      { g with threads := g.threads.map fun t =>
          match t.monitor with
          | some m => if m.line = line then { t with monitor := some { m with written := true } } else t
          | none => t } }

/-! ## Replacement -/

/-- The lines of one set of a cache. -/
def State.setLines (s : State) (die slice set : Nat) : List (Nat × L2Line) :=
  s.l2.filter fun e => decide (e.1 / 2 ^ 45 = die) && decide (e.2.slice = slice) &&
    decide ((if die < 8 then setHash (e.1 % 2 ^ 45) else e.1 % 2 ^ 45 % 65536) = set)

/-- The victim among lines: the oldest without a keep mark, else the oldest marked (R257). -/
def oldest : List (Nat × L2Line) → Option (Nat × L2Line)
  | [] => none
  | e :: r =>
    match oldest r with
    | none => some e
    | some b =>
      if e.2.keep = b.2.keep then (if e.2.age ≤ b.2.age then some e else some b)
      else if e.2.keep then some b else some e

/-- The way a fill takes under a way mask, and the line it replaces; none if the mask names no way (R261). -/
def State.victim (s : State) (die slice set : Nat) (mask : BitVec 16) : Option (Nat × Option (Nat × L2Line)) :=
  let ls := s.setLines die slice set
  let ways := indices 16 fun w => mask.getLsbD w
  match ways.filter fun w => !(ls.any fun e => e.2.way == w) with
  | w :: _ => some (w, none)
  | [] => (oldest (ls.filter fun e => ways.contains e.2.way)).map fun e => (e.2.way, some e)

/-- Dirty bytes of a line written to memory, counted as HBM writes of its tag (R252, R396). -/
def State.toMemory (s : State) (line : Nat) (l : L2Line) : State :=
  let d := l.cells.filter (·.2.dirty)
  if d = [] then s
  else
    let s := { s with mem := d.foldl (fun m c => m.write (line * 128 + c.1) c.2.val) s.mem }
    if line * 128 < deviceTop then s.bump l.tag 5 (32 * sectorsOf (d.map (·.1))) else s

/-- A new empty line in the rim cache, its victim written back (R13, R252); no line of the rim has a keep mark (R257). The set
index of the rim is the line number modulo 65,536 (DESIGN CHOICE, log entry 5). -/
def State.rimAlloc (s : State) (rim line : Nat) (a : Acc) : State :=
  match s.line? rim line with
  | some _ => s
  | none =>
    -- a way retired from a set is no longer used (R463)
    let mask := (List.range 16).foldl (fun m w =>
      if s.hub.disabled.contains (rim * 65536 + line % 65536, w) then m else m + 2 ^ w) 0
    match s.victim rim 0 (line % 65536) (BitVec.ofNat 16 mask) with
    | none => s
    | some (w, v) =>
      let s := match v with
        | some (k, l) => (s.toMemory (k % 2 ^ 45) l).dropLine rim (k % 2 ^ 45)
        | none => s
      ({ s with l2 := tset s.l2 (lineKey rim line) { cls := 0, part := a.part, tag := a.ctx, slice := 0, way := w, age := s.hub.stamp + 1, keep := false, owned := false, poison := false, counted := false, cells := [] } }).nextStamp

/-- A spoke that the hub routes nothing to: FENCED or FAILED (R449, R451). -/
def State.deadDie (s : State) (d : Nat) : Bool := (s.die d).st == .fenced || (s.die d).st == .failed

/-- A device address whose memory spoke is FENCED or FAILED (R454). -/
def State.deadPa (s : State) (pa : Nat) : Bool := decide (pa < deviceTop) && s.deadDie (8 + groupOf pa / 24)

/-- The port of a device carries no traffic, 1 to 16 the tandem ports' peers, 17 and 18 the hosts on the PCI Express ports: FAILED, DOWN, or in training before it is UP again; a retrain after
failed retries holds its flits and loses none (R436, R437). (DEDUCED, log entry 50) (DESIGN CHOICE, log entry 51) -/
def State.portDead (s : State) (dev : Nat) : Bool :=
  match s.links[11 + dev]? with
  | some l => !(l.lst == .up || l.lst == .degraded || (l.lst == .training && decide (16 ≤ l.retries)))
  | none => true

/-- No home is reached at an address by a context: its memory spoke is FENCED or FAILED, or its peer's port, or the port that the
context reaches host memory through, carries no traffic (R437, R448, R454). (DEDUCED, log entry 50) (DEDUCED, log entry 52) -/
def State.homeDead (s : State) (ctx pa : Nat) : Bool := match paKind pa with
  | .peer d => s.portDead (d + 1)
  | .host => s.portDead (17 + (s.ctx ctx).port)
  | _ => s.deadPa pa

/-- The link on which an access to an address is lost: the source and the unit of its report (R459, R462). (DEDUCED, log
entry 46) (DESIGN CHOICE, log entry 101) (DEDUCED, log entry 46) -/
def State.lostSource (s : State) (ctx pa : Nat) : Nat × Nat := match paKind pa with
  | .peer d => (8, d)
  | .host => (9, (s.ctx ctx).port)
  | _ => (7, 8 + groupOf pa / 24)

/-- A write that reaches no home is dropped and logged (R437, R454). (DEDUCED, log entry 46) -/
def State.dropWrite (s : State) (a : Acc) (pa : Nat) : State :=
  s.report (mkError 5 (s.lostSource a.ctx pa).1 a.die (s.lostSource a.ctx pa).2 (some a.ctx) pa)

/-- A byte that the spec leaves undefined. -/
def freeByte (n : Nat) : Byte := BitVec.ofNat 8 (Config.freeWord n).toNat

/-- The value of one byte at its home: the rim cache, or memory behind it. -/
def State.homeByte (s : State) (pa : Nat) : Byte :=
  match (rimDie pa).bind fun r => (s.line? r (lineOf pa)).bind fun l => l.byte? (pa % 128) with
  | some v => v
  | none => s.mem.read pa

/-- A hit's effect on age and keep mark by its hint (R257, R258): a stream or bypass hit changes neither, on a CLEAN line either.
(DESIGN CHOICE, log entry 104) -/
def State.touch (s : State) (die line hint : Nat) : State :=
  match s.line? die line with
  | none => s
  | some l =>
    match hint with
    | 0 => (s.putLine die line { l with age := s.hub.stamp + 1, keep := false }).nextStamp
    | 2 => (s.putLine die line { l with age := s.hub.stamp + 1, keep := (decide (die < 8)) }).nextStamp
    | _ => s

/-- A sector brought into the rim cache for a read, unless the hint is bypass, with the counters of the miss (R257, R396). -/
def State.rimFill (s : State) (a : Acc) (pa : Nat) (hint : Nat) : State :=
  match rimDie pa with
  | none => s
  | some r =>
    let s := s.touch r (lineOf pa) hint
    let sec := pa / 32 * 32
    let missing := (List.range 32).filter fun i => ((s.line? r (lineOf pa)).bind fun l => l.byte? ((sec + i) % 128)).isNone
    if missing = [] then s
    else
      let s := s.bump a.ctx 3 1
      let s := if pa < deviceTop then s.bump a.ctx 4 32 else s
      if hint = 3 then s
      else
        let s := s.rimAlloc r (lineOf pa) a
        match s.line? r (lineOf pa) with
        | none => s
        | some l => s.putLine r (lineOf pa) { l with cells := missing.foldl (fun cs i => tset cs ((sec + i) % 128) { val := s.mem.read (sec + i), dirty := false }) l.cells }

/-- A read of a sector at its rim home, counted (R396). -/
def State.rimTouch (s : State) (a : Acc) (pa : Nat) (hint : Nat) : State :=
  (if (rimDie pa).isSome then s.bump a.ctx 2 1 else s).rimFill a pa hint

/-- Bytes of one line written at its home: merged into the rim line, or into memory where no rim holds the line
(R254, R369); host memory is written through (R234); a write that reaches no home is dropped and logged (R437, R454). -/
def State.homePut (s : State) (a : Acc) (line : Nat) (cells : List (Nat × Byte)) (hint : Nat) : State :=
  let pa := line * 128
  let inMem (s : State) : State := { s with mem := cells.foldl (fun m c => m.write (pa + c.1) c.2) s.mem }
  if cells = [] then s
  else if s.homeDead a.ctx pa then s.dropWrite a pa
  else match rimDie pa with
  | none => inMem s
  | some r =>
    let dev := decide (pa < deviceTop)
    let s := s.touch r line hint
    let s := if dev && hint != 3 then s.rimAlloc r line a else s
    match s.line? r line with
    | none => if dev then (inMem s).bump a.ctx 5 (32 * sectorsOf (cells.map (·.1))) else inMem s
    | some l =>
      let s := s.putLine r line { l with tag := a.ctx, part := a.part, cells := cells.foldl (fun cs c => tset cs c.1 { val := c.2, dirty := dev }) l.cells }
      if dev then s else inMem s

/-- Bytes of one line written at its home, with the counters: each sector is an access, and a miss where the rim holds none of
its bytes (R396). -/
def State.homeWrite (s : State) (a : Acc) (line : Nat) (cells : List (Nat × Byte)) (hint : Nat) : State :=
  let n := sectorsOf (cells.map (·.1))
  let s := s.countLink a.ctx (line * 128) (32 * n)
  (match rimDie (line * 128) with
   | none => s
   | some r =>
     let held (o : Nat) : Bool := match s.line? r line with
       | some l => l.cells.any fun (c : Nat × Cell) => c.1 / 32 == o / 32
       | none => false
     (s.bump a.ctx 2 n).bump a.ctx 3 (sectorsOf ((cells.map fun (c : Nat × Byte) => c.1).filter fun o => !held o))).homePut a line cells hint

/-- Bytes from an address on by the lines that hold them. -/
def byLines (pa : Nat) (data : List Byte) : List (Nat × List (Nat × Byte)) :=
  ((List.range (data.length / 128 + 2)).map fun k =>
    let first := 128 * k - pa % 128
    let off := (pa + first) % 128
    (lineOf pa + k, ((data.drop first).take (128 - off)).zipIdx.map fun x => (off + x.2, x.1))).filter fun l => l.2 != []

/-- Bytes written at their home (R254). -/
def State.homeBytes (s : State) (a : Acc) (pa : Nat) (data : List Byte) (hint : Nat) : State :=
  (byLines pa data).foldl (fun s l => s.homeWrite a l.1 l.2 hint) s

/-! ## Write-back and invalidation of die L2 lines -/

/-- The dirty bytes of a die L2 line written back to its home, the line CLEAN; the L1 words that own its bytes go on to own
them (R234, R254, R256); nothing leaves a fenced die (R451). -/
def State.writeBack (s : State) (die line : Nat) : State :=
  match (if s.deadDie die then none else s.line? die line) with
  | none => s
  | some l =>
    let a : Acc := { ctx := l.tag, part := l.part, waycl := 0, die := die, clu := 0, core := none }
    let d := (l.cells.filter (·.2.dirty)).map fun c => (c.1, c.2.val)
    let s := if d = [] then s else s.homeWrite a line d 0
    let s := if l.dirty ∧ l.poison then { s with poison := if s.poison.contains line then s.poison else line :: s.poison } else s
    s.putLine die line l.clean

/-- The L1 words of a line on a die written to the slice, and the line written back: every copy is CLEAN (R254, R255). -/
def State.cleanLine (s : State) (die line : Nat) : State := (s.writeBack die line).unown die line none 0 128

/-- A die L2 line written back and dropped, and the L1 words of the line CLEAN, its L2 holding it or not; a fenced die keeps what
it has until its fence is complete (R451, R453). -/
def State.flushLine (s : State) (die line : Nat) : State :=
  if s.deadDie die then s else (s.cleanLine die line).dropLine die line

/-- The slice-table entry of a partition for a line on a spoke (R259, R412). -/
def State.sliceOf (s : State) (part die line : Nat) : Nat :=
  (((((s.part part).slt)[die]?).bind fun t => t[sliceHash line]?).map (·.toNat)).getD 0

/-- The way mask of a class in a slice (R261); an entry of a spoke on which the partition has no slice names none. -/
def State.wayMask (s : State) (die slice cls : Nat) : BitVec 16 :=
  if 32 ≤ slice then 0 else (((tfind s.ways (32 * die + slice)).bind fun l => l[cls]?)).getD 0xFFFF

/-- A new empty line in a die L2, the line it replaces written back; nothing where the way class allocates
nothing (R254, R257, R261). -/
def State.l2Alloc (s : State) (a : Acc) (die line : Nat) (cls : BitVec 2) (keep : Bool) : State :=
  match s.line? die line with
  | some _ => s
  | none =>
    let slice := s.sliceOf a.part die line
    match s.victim die slice (setHash line) (s.wayMask die slice a.waycl) with
    | none => s
    | some (w, v) =>
      let s := match v with
        | some (k, _) => s.flushLine die (k % 2 ^ 45)
        | none => s
      ({ s with l2 := tset s.l2 (lineKey die line) { cls := cls, part := a.part, tag := a.ctx, slice := slice, way := w, age := s.hub.stamp + 1, keep := keep, owned := false, poison := false, counted := true, cells := [] } }).nextStamp

/-- The compute spokes other than one. -/
def otherDies (d : Nat) : List Nat := (List.range 8).filter (· != d)

/-- A COH line before a read by a die: an owner elsewhere writes it back and holds it SHARED (R255); a fenced owner keeps it,
so that it becomes POISON when its fence is complete (R453). -/
def State.cohShare (s : State) (die line : Nat) : State :=
  (otherDies die).foldl (fun s d =>
    match s.line? d line with
    | some l => if l.owned ∧ s.deadDie d = false then
        let s := s.cleanLine d line
        match s.line? d line with
        | some l' => s.putLine d line { l' with owned := false }
        | none => s
      else s
    | none => s) s

/-- A COH line before a read from outside the spokes: an owner writes it back and holds it SHARED (R25, R255). -/
def State.cohShareAll (s : State) (line : Nat) : State := s.cohShare 8 line

/-- A COH line before a write by a die: every other copy is recalled or invalidated (R255). -/
def State.cohOwn (s : State) (die line : Nat) : State :=
  (otherDies die).foldl (fun s d => s.flushLine d line) s

/-- The way class of the context that a line is tagged with; class 0 where the tag names none (R252, R261). -/
def State.classOf (s : State) (l : L2Line) : Nat := if l.tag < noCtx then (s.ctx l.tag).waycl.toNat else 0

/-- A line of a partition whose slice-table entry has changed moves to its new home slice with all it holds, into the ways of the
class of its tag's context (R412, R490). -/
def State.rehome (s : State) (a : Acc) (die line : Nat) : State :=
  match s.line? die line with
  | none => s
  | some l =>
    let slice := s.sliceOf a.part die line
    if l.slice = slice ∨ l.part ≠ a.part then s
    else match s.victim die slice (setHash line) (s.wayMask die slice (s.classOf l)) with
      | none => s.flushLine die line
      | some (w, v) =>
        let s := match v with
          | some (k, _) => s.flushLine die (k % 2 ^ 45)
          | none => s
        s.putLine die line { l with slice := slice, way := w }

/-- A SYN line dirty under another context's tag is written back first, then retagged (R242), at its present home slice
(R412). -/
def State.retag (s0 : State) (a : Acc) (die line : Nat) : State :=
  let s := s0.rehome a die line
  match s.line? die line with
  | some l =>
    if l.cls = 1 ∧ l.dirty ∧ l.tag ≠ a.ctx then
      let s := s.writeBack die line
      match s.line? die line with
      | some l' => s.putLine die line { l' with tag := a.ctx, part := a.part, counted := true }
      | none => s
    else s
  | none => s

/-! ## Accesses by an agent of a compute spoke -/

/-- The spoke whose L2 serves an access: for RUC the home die, else the accessing die (R255). -/
def l2Die (a : Acc) (cls : BitVec 2) (home : Nat) : Nat := if cls = 2 then home else a.die

/-- One access is remote: its address lies outside the near set of the die (R364). -/
def State.remote (s : State) (d pa : Nat) : Bool :=
  !(decide (pa < deviceTop) && ((s.die d).near.getLsbD (groupOf pa)))

/-- An entry of a region put into the access-counter table: in a full table a new region replaces the one with the lowest
count, a region in cooldown, which is not counted, only where no other is left (R364). (DEDUCED, log entry 79) -/
def Die.putRegion (x : Die) (e : Region) : Die :=
  let rest := x.regions.filter fun g => g.region != e.region
  let weight (g : Region) : Nat := if g.cool.isSome then 65536 else g.count
  let low := rest.foldl (fun m g => min m (weight g)) 65536
  { x with regions := e :: (if 4096 ≤ rest.length then rest.erase ((rest.find? fun g => weight g == low).getD e) else rest) }

/-- A remote access counted by the die's access counters; a count that reaches THR posts a request and starts
the cooldown (R364). -/
def State.countRemote (s : State) (d pa : Nat) : State :=
  let x := s.die d
  if x.thr = 0 ∨ s.remote d pa = false then s
  else
    let r := pa / 2 ^ 21
    let old := x.regions.find? fun g => g.region == r
    match old with
    | some { cool := some _, .. } => s
    | _ =>
      let n := min (((old.map (·.count)).getD 0) + 1) 65535
      let hit := decide (x.thr.toNat ≤ n)
      let entry : Region := { region := r, count := if hit then 0 else n, cool := if hit then some (s.clockOn d + x.cool.toNat * 1000) else none }
      s.modDie d fun (y : Die) =>
        let x := y.putRegion entry
        if hit then
          if x.reqs.length < 64 then { x with reqs := x.reqs ++ [{ region := r, count := n, hint := false }] }
          else { x with ovf := true }
        else x

/-- The bytes of a location as a die L2 slice serves them. Where one is missing, the sector is fetched from the home: its bytes
that are not dirty take the home's value together, so that no load of 64 bits mixes two states of the home (R225, R253, R254,
R255). -/
def State.l2Read (s : State) (a : Acc) (cls : BitVec 2) (home pa n hint : Nat) : State × List Byte :=
  let d := l2Die a cls home
  let line := lineOf pa
  let s := s.bump a.ctx 0 1
  let s := if cls = 0 then s.cohShare d line else s
  let s := s.retag a d line
  let s := s.touch d line hint
  -- a RUC line is served across the hub (R255)
  let s := if d = a.die then s else s.countLink a.ctx 0 n
  let sec := pa / 32 * 32
  let have' (s : State) (i : Nat) := ((s.line? d line).bind fun l => l.byte? ((sec + i) % 128))
  let need := (List.range n).any fun i => (have' s (pa - sec + i)).isNone
  let s :=
    if need then
      let s := (s.bump a.ctx 1 1).rimTouch a pa hint
      let s := (s.countRemote d pa).countLink a.ctx pa 32
      let s := if hint = 1 ∨ hint = 3 then s else s.l2Alloc a d line cls (hint == 2)
      match s.line? d line with
      | some l => s.putLine d line { l with cells := (List.range 32).foldl (fun cs i =>
          if ((tfind cs ((sec + i) % 128)).map (·.dirty)).getD false then cs
          else tset cs ((sec + i) % 128) { val := s.homeByte (sec + i), dirty := false }) l.cells }
      | none => s
    else s
  (s, (List.range n).map fun i => (have' s (pa - sec + i)).getD (s.homeByte (pa + i)))

/-- The sector of an address in the L1 of a core renewed from what the die L2 holds: with `all` every byte of it, else those whose
words the core holds (R253, R257). -/
def State.l1Fill (s : State) (a : Acc) (core pa hint : Nat) (all : Bool) : State :=
  let s := if all then (s.l1Alloc a core (lineOf pa) (hint == 2)).touchL1 core (lineOf pa) hint else s
  let sec := pa / 32 * 32
  let served := (List.range 32).map fun i =>
    ((sec + i) % 128, (((s.line? a.die (lineOf pa)).bind fun l => l.byte? ((sec + i) % 128))).getD (s.homeByte (sec + i)))
  s.setL1 core (lineOf pa) (fillCells all served)

/-- A plain or acquire load of n bytes (R253): an L1 hit returns the L1 value; a miss is served by the slice, fills the
sector as CLEAN words where the hint allocates, and renews the words that the core holds and does not own (R232). `fresh`
skips the L1 (LDX, R269). An access of a die that is not the home of a RUC line fills neither cache (R255).
(DESIGN CHOICE, log entry 10) -/
def State.loadBytes (s : State) (a : Acc) (cls : BitVec 2) (home pa n hint : Nat) (fresh : Bool) : State × List Byte :=
  match (if cls = 2 ∧ home ≠ a.die then none else a.core) with
  | none => s.l2Read a cls home pa n hint
  | some core =>
    let hit := (List.range n).map fun i => s.l1Byte? core (pa + i)
    if !fresh && hit.all Option.isSome then
      ((if cls = 1 then s.retag a a.die (lineOf pa) else s).touchL1 core (lineOf pa) hint, hit.map fun x => (x.map (·.val)).getD 0)
    else
      let (s, v) := s.l2Read a cls home pa n hint
      (s.l1Fill a core pa hint !(fresh || hint == 1 || hint == 3), v)

/-- A sector fetched whole into the die L2 and, for an L1 of its die, into it (R278). -/
def State.prefetch (s : State) (a : Acc) (cls : BitVec 2) (home pa hint : Nat) : State :=
  let s := (s.l2Read a cls home (pa / 32 * 32) 32 hint).1
  match (if cls = 2 ∧ home ≠ a.die then none else a.core) with
  | none => s
  | some core => s.l1Fill a core pa hint true

/-- Bytes stored into a die L2 line, or to the home where no line can be allocated (R240, R254, R257, R258). -/
def State.l2Put (s : State) (a : Acc) (cls : BitVec 2) (home pa hint : Nat) (data : List Byte) : State :=
  let d := l2Die a cls home
  let line := lineOf pa
  let s := if cls = 0 then s.cohOwn d line else s
  let s := s.retag a d line
  let s := s.touch d line hint
  let s := if d = a.die then s else s.countLink a.ctx 0 data.length
  let s := if (s.line? d line).isSome then s
    else
      let s := (s.bump a.ctx 1 1).countRemote d pa
      if hint = 1 ∨ hint = 3 then s else s.l2Alloc a d line cls (hint == 2)
  let written := data.zipIdx.map fun x => ((pa + x.2) % 128, x.1)
  let s := match s.line? d line with
    | some l =>
      let cells := written.foldl (fun cs (c : Nat × Byte) => tset cs c.1 (Cell.mk c.2 true)) l.cells
      let l : L2Line := { l with cls := cls, tag := a.ctx, part := a.part, owned := (cls == 0), counted := l.counted || l.tag != a.ctx, cells := cells }
      let s := s.putLine d line l
      if hint = 3 then
        -- a bypass store writes the merged sector through, with the byte enables of its dirty bytes, and does not clean it (R254, R258)
        s.homeWrite a line ((l.cells.filter fun (c : Nat × Cell) => c.1 / 32 == pa % 128 / 32 && c.2.dirty).map fun (c : Nat × Cell) => (c.1, c.2.val)) 3
      else s
    | none => s.homeWrite a line written hint
  s.markWritten line

/-- A store at a die L2, counted (R396). -/
def State.l2Write (s : State) (a : Acc) (cls : BitVec 2) (home pa hint : Nat) (data : List Byte) : State :=
  (s.bump a.ctx 0 1).l2Put a cls home pa hint data

/-- After the slice has taken a store: the words become OWNED in the L1 of a core, its line tagged with the writer, and the
previous owners' copies become CLEAN; without an L1 the store acts on the slice alone. Where the way class allocates no line of
the L2, the home has taken the store and serves the other bytes (R240, R252, R253, R261). -/
def State.ownWords (s : State) (a : Acc) (cls : BitVec 2) (home pa hint : Nat) (core : Option Nat) (data : List Byte) : State :=
  let d := l2Die a cls home
  let line := lineOf pa
  let s := s.unown d line core (pa % 128 / 4 * 4) ((pa % 128 + data.length + 3) / 4 * 4)
  match core with
  | none => s
  | some c =>
    let all := hint == 0 || hint == 2
    let s := if all then (s.l1Alloc a c line (hint == 2)).touchL1 c line hint else s
    (s.setL1 c line (storeCells all (pa % 128) data fun i => match s.line? d line with
      | some l => l.byte? i
      | none => some (s.homeByte (line * 128 + i)))).tagL1 c line a.ctx

/-- A store of bytes by an agent (R240, R253). -/
def State.storeBytes (s : State) (a : Acc) (cls : BitVec 2) (home pa hint : Nat) (data : List Byte) : State :=
  (s.l2Write a cls home pa hint data).ownWords a cls home pa hint (if cls = 2 ∧ home ≠ a.die then none else a.core) data

/-- The words of a location leave the issuing core's L1, after an atomic on them (R274). -/
def State.dropWord (s : State) (core pa n : Nat) : State :=
  s.filterL1 fun c l off _ => !(c == core && l == lineOf pa && decide (pa % 128 / 4 ≤ off / 4) && decide (off / 4 < (pa % 128 + n + 3) / 4))

/-- The sites that perform atomics (R274). -/
inductive Site where
  | unit
  | slice
  | rim
  | fabric
  deriving DecidableEq, Repr

/-- Where an atomic is performed (R239, R255, R274, R275). (DEDUCED, log entry 16) -/
def atomicSite (cls : BitVec 2) (die home scope pa : Nat) : Site :=
  if paKind pa = .host then .fabric
  else if cls = 2 then (if scope < 2 ∧ home = die then .unit else .slice)
  else if scope < 2 then .unit
  else if scope = 2 then .slice
  else if scope = 3 then .rim
  else .fabric

/-- The line recalled from the sites of a die that are narrower than the rim home, and from the home die of a RUC line
(R255, R274). -/
def State.recallSites (s : State) (a : Acc) (cls : BitVec 2) (home line : Nat) : State :=
  let s := if cls = 0 then s.cohOwn a.die line else s
  let s := (s.dropUnits a.die line).flushLine a.die line
  if cls = 2 then (s.dropUnits home line).flushLine home line else s

/-- The line recalled from the rim cache to memory, for the fabric port (R274). -/
def State.recallRim (s : State) (pa : Nat) : State :=
  match rimDie pa with
  | none => s
  | some r => match s.line? r (lineOf pa) with
    | some l => (s.toMemory (lineOf pa) l).dropLine r (lineOf pa)
    | none => s

/-- What a core's L1 holds of a location renewed with the value that an LDX has read at its site, so that no later load of the
core returns an older one (R232, R269). -/
def State.renewWord (s : State) (core pa : Nat) (v : List Byte) : State :=
  s.setL1 core (lineOf pa) (fillCells false (v.zipIdx.map fun x => ((pa + x.2) % 128, x.1)))

/-- The value of a location at a site, the line recalled from the narrower sites (R274). The atomic unit serves the words
that it owns, the slice the others. -/
def State.siteRead (s : State) (a : Acc) (cls : BitVec 2) (home pa n : Nat) (site : Site) : State × List Byte :=
  let line := lineOf pa
  match site with
  | .unit =>
    let hit := (List.range n).map fun i => (s.l1Byte? (unitCore a.clu) (pa + i)).filter (·.owned)
    if hit.all Option.isSome then ((if cls = 1 then s.retag a a.die line else s).touchL1 (unitCore a.clu) line 0, hit.map fun x => (x.map (·.val)).getD 0)
    else s.l2Read a cls home pa n 0
  | .slice => (s.dropUnits (l2Die a cls home) line).l2Read a cls home pa n 0
  | .rim =>
    let s := ((s.recallSites a cls home line).rimTouch a pa 0).countLink a.ctx pa 32
    (s, (List.range n).map fun i => s.homeByte (pa + i))
  | .fabric =>
    let s := ((s.recallSites a cls home line).recallRim pa).countLink a.ctx pa 32
    let s := if pa < deviceTop then s.bump a.ctx 4 32 else s
    (s, (List.range n).map fun i => s.mem.read (pa + i))

/-- The new value of an atomic written at the site that siteRead read (R274). -/
def State.siteWrite (s : State) (a : Acc) (cls : BitVec 2) (home pa : Nat) (site : Site) (data : List Byte) : State :=
  match site with
  | .unit => (s.l2Put a cls home pa 0 data).ownWords a cls home pa 0 (some (unitCore a.clu)) data
  | .slice => (s.l2Put a cls home pa 0 data).ownWords a cls home pa 0 none data
  | .rim => ((byLines pa data).foldl (fun s l => s.homePut a l.1 l.2 0) s).markWritten (lineOf pa)
  | .fabric =>
    let s := if s.deadPa pa then s else { s with mem := s.mem.writeN pa data }
    (if pa < deviceTop then s.bump a.ctx 5 32 else s).markWritten (lineOf pa)

/-! ## Release, acquire and maintenance -/

/-- The lines that a release writes back: at PART the dirty SYN lines of its partition in the die L2, those of another tag
too, since the agent may have acquired their writes (R234, R237); at SYS also the dirty lines of host and peer pages in every
die. (DEDUCED, log entry 80) -/
def State.carried (s : State) (a : Acc) (scope : Nat) : List (Nat × L2Line) :=
  s.l2.filter fun e => e.2.dirty &&
    ((decide (e.1 / 2 ^ 45 = a.die) && e.2.cls == 1 && e.2.part == a.part) ||
     (decide (4 ≤ scope) && decide (e.1 / 2 ^ 45 < 8) && decide (deviceTop ≤ e.1 % 2 ^ 45 * 128) && e.2.part == a.part))

/-- The PART release of a context that is saved: the dirty SYN lines of a die that are tagged with it (R250, R256).
(DEDUCED, log entry 80) -/
def State.releaseTagged (s : State) (a : Acc) : State :=
  ((s.carried a 3).filter fun e => e.2.tag == a.ctx).foldl (fun s e => s.writeBack (e.1 / 2 ^ 45) (e.1 % 2 ^ 45)) s

/-- A release at a scope (R234). -/
def State.release (s : State) (a : Acc) (scope : Nat) : State :=
  if scope < 3 then s
  else (s.carried a scope).foldl (fun s e => s.writeBack (e.1 / 2 ^ 45) (e.1 % 2 ^ 45)) s

/-- A GATED leaf is known to bind the page of a line to a gate (R430). (DEDUCED, log entry 22) -/
def State.lineBound (s : State) (g line : Nat) : Bool :=
  s.binds.any fun b => b.gate == g && decide (b.pa ≤ line * 128) && decide (line * 128 < b.pa + b.size)

/-- A page bound to a gate noted (R430). (DEDUCED, log entry 22) -/
def State.bindPage (s : State) (b : Binding) : State := if s.binds.contains b then s else { s with binds := b :: s.binds }

/-- The release of a GSIG: that of SYS scope on the lines of pages bound to the gate that the context has written (R248,
R430 item 3). (DEDUCED, log entry 22) -/
def State.releaseGate (s : State) (a : Acc) (g : Nat) : State :=
  ((s.carried a 4).filter fun e => s.lineBound g (e.1 % 2 ^ 45) && e.2.tag == a.ctx).foldl (fun s e => s.writeBack (e.1 / 2 ^ 45) (e.1 % 2 ^ 45)) s

/-- The clean bytes of selected lines of a cache dropped. -/
def State.dropClean (s : State) (p : Nat → L2Line → Bool) : State :=
  (s.l2.filter fun e => p e.1 e.2).foldl (fun s e =>
    s.putLine (e.1 / 2 ^ 45) (e.1 % 2 ^ 45) { e.2 with cells := e.2.cells.filter (·.2.dirty) }) s

/-- The self-invalidations of an acquire at a scope, on the lines that a test names (R235): at CLUSTER or wider the words of the
core's L1 that it does not own leave it; at PART or SYS also the bytes of SYN lines of the die L2 that are not dirty and, with
them, what the core's L1 holds of the bytes that its slice holds no dirty value of, since such a byte may have been written on
another die (R236); at SYS also the lines of host memory in the die L2 and the rim cache. (DEDUCED, log entry 102) -/
def State.acquireOf (s : State) (a : Acc) (scope : Nat) (mine : Nat → Bool) : State :=
  if scope = 0 then s
  else
    let dirty (line off : Nat) : Bool := ((s.line? a.die line).bind fun l => (tfind l.cells off).map (·.dirty)).getD false
    let s := match a.core with
      | some core => s.filterL1 fun c l off b => c != core || !mine l || (b.owned && (decide (scope < 3) || dirty l off))
      | none => s
    let s := if 3 ≤ scope then s.dropClean fun k l => k / 2 ^ 45 == a.die && l.cls == 1 && mine (k % 2 ^ 45) else s
    if 4 ≤ scope then
      s.dropClean fun k _ => decide (k / 2 ^ 45 = a.die ∨ 8 ≤ k / 2 ^ 45) && decide (2 ^ 51 ≤ k % 2 ^ 45 * 128) && mine (k % 2 ^ 45)
    else s

/-- An acquire at a scope (R235). -/
def State.acquire (s : State) (a : Acc) (scope : Nat) : State := s.acquireOf a scope fun _ => true

/-- The acquire of a successful GWAIT or GTRY: that of SYS scope on the lines of pages bound to the gate (R248, R430 item 4).
(DEDUCED, log entry 22) -/
def State.acquireGate (s : State) (a : Acc) (g : Nat) : State := s.acquireOf a 4 (s.lineBound g)

/-- CFLUSH and CINV on one line (R277): 0 no point, CLUSTER and DIE the L2 slice, PART the home, SYS the home
and the fabric port; the slice is that of the die that serves the line. CINV drops the words that L1s of that die own and have
written back, and every word of the issuing core's L1. (DEDUCED, log entry 81) -/
def State.maintain (s : State) (a : Acc) (cls : BitVec 2) (home pa scope : Nat) (inv : Bool) : State :=
  if scope = 0 then s
  else
    let line := lineOf pa
    let d := l2Die a cls home
    let s1 := if 3 ≤ scope then s.cleanLine d line else s.unown d line none 0 128
    if inv then
      let owned (core off : Nat) : Bool := ((s.l1Line? core line).map fun l => ownsWord l.cells off).getD false
      let s := s1.filterL1 fun c l off _ => !(l == line && (some c == a.core || (coreDie c == d && owned c off)))
      if 3 ≤ scope then
        let s := s.dropLine d line
        -- host lines in the rim hold nothing that memory lacks (R234)
        match (if 4 ≤ scope ∧ paKind pa = .host then rimDie pa else none) with
        | some r => s.dropLine r line
        | none => s
      else s
    else s1

/-- A line's lines in every cache of a die written back and dropped, for a shoot-down or a hand-over (R361,
R369). -/
def State.recallLine (s : State) (die line : Nat) : State := (s.flushLine die line).dropL1 die line

/-- Every line of an address range recalled on a die. -/
def State.recallRange (s : State) (die lo hi : Nat) : State :=
  let ls := (s.l2.filter fun e => decide (e.1 / 2 ^ 45 = die) && decide (lo ≤ e.1 % 2 ^ 45 * 128) && decide (e.1 % 2 ^ 45 * 128 < hi)).map fun e => e.1 % 2 ^ 45
  let s := ls.foldl (fun s l => s.flushLine die l) s
  let in' (pa : Nat) := decide (lo ≤ pa) && decide (pa < hi)
  -- a monitor on the range is lost, its line being in the L1 or not (R189)
  (s.filterL1 fun c l _ _ => !(coreDie c == die && in' (l * 128))).loseMonitors fun core line => decide (core / 36 = die) && in' (line * 128)

/-! ## Coherent accesses by agents outside the compute spokes -/

/-- The coherent value of a byte: a spoke that holds the COH line OWNED, or the home die of a RUC line, serves it, else the home
(R25, R255, R358); nothing defined comes from a spoke that is FENCED or FAILED (R451, R454). -/
def State.cohByte (s : State) (pa : Nat) : Byte :=
  let lost := freeByte (s.free + pa % 128)
  if s.deadPa pa then lost
  else match (List.range 8).findSome? fun d => (s.line? d (lineOf pa)).bind fun l =>
      if l.owned || l.cls == 2 then (if s.deadDie d then some lost else l.byte? (pa % 128)) else none with
  | some v => v
  | none => s.homeByte pa

/-- n coherent bytes. -/
def State.cohBytes (s : State) (pa n : Nat) : List Byte := (List.range n).map fun i => s.cohByte (pa + i)

/-- A 64-bit word read coherently. -/
def State.coh64 (s : State) (pa : Nat) : Nat := leNat (s.cohBytes pa 8)

/-- The agent of the hub's own accesses. -/
def hubAcc (ctx part : Nat) : Acc := { ctx := ctx, part := part, waycl := 0, die := 12, clu := 0, core := none }

/-- Bytes written coherently from outside the spokes: copies in the die L2s are recalled first (R255), and the
home takes the bytes. -/
def State.cohWrite (s : State) (a : Acc) (pa : Nat) (data : List Byte) : State :=
  let lines := (indices (data.length / 128 + 2) fun i => decide ((lineOf pa + i) * 128 < pa + data.length)).map (lineOf pa + ·)
  let s := lines.foldl (fun s l => (List.range 8).foldl (fun s d =>
    match s.line? d l with
    | some x => if x.cls = 1 ∨ x.cls = 3 then s else s.flushLine d l
    | none => s.flushLine d l) s) s
  lines.foldl (fun s l => s.markWritten l) (s.homeBytes a pa data 0)

end Sys2Proof.Machine
end

