-- ==== Sys2Proof/Machine/Translate.lean ====
section
/-! DEFINITION. Grants, page tables, translation caches, and the checks of one access after translation
(R347, R353 to R358, R401, R427, R430), with the data accesses of a translated address. -/

namespace Sys2Proof.Machine

/-! ## Trap causes (R375) -/

/-- The codes of the trap causes (R375). -/
inductive Cause where
  | illegalEncoding | orphanPrefix | priv | regCeiling | grantBounds | grantPerm | grantStale | misalign
  | pageAbsent | pageProt | pageClass | padBounds | shapeInvalid | scope | gateDenied | gateRate
  | gateAbsent | rangeGuard | mwaitTimeout | userTrap | breakpoint | stackLimit | barrierMisuse | watchdog
  | poison
  deriving DecidableEq, Repr

/-- The code of a cause (R375). -/
def Cause.code : Cause → BitVec 8
  | .illegalEncoding => 0x01 | .orphanPrefix => 0x02 | .priv => 0x03 | .regCeiling => 0x04
  | .grantBounds => 0x05 | .grantPerm => 0x06 | .grantStale => 0x07 | .misalign => 0x08
  | .pageAbsent => 0x09 | .pageProt => 0x0A | .pageClass => 0x0B | .padBounds => 0x0C
  | .shapeInvalid => 0x0D | .scope => 0x0E | .gateDenied => 0x0F | .gateRate => 0x10
  | .gateAbsent => 0x11 | .rangeGuard => 0x12 | .mwaitTimeout => 0x13 | .userTrap => 0x14
  | .breakpoint => 0x15 | .stackLimit => 0x16 | .barrierMisuse => 0x17 | .watchdog => 0x18
  | .poison => 0x19

/-- Class U causes (R375, R376). -/
def Cause.isUser : Cause → Bool
  | .rangeGuard | .mwaitTimeout | .userTrap => true
  | _ => false

/-! ## Leaves -/

/-- V (R356). -/
def leafV (e : BitVec 64) : Bool := e.getLsbD 63
/-- LEAF (R356). -/
def leafLeaf (e : BitVec 64) : Bool := e.getLsbD 62
/-- CLS (R356). -/
def leafCls (e : BitVec 64) : BitVec 2 := e.extractLsb' 60 2
/-- GATED (R356). -/
def leafGated (e : BitVec 64) : Bool := e.getLsbD 59
/-- MIG (R356). -/
def leafMig (e : BitVec 64) : Bool := e.getLsbD 58
/-- RD (R356). -/
def leafRd (e : BitVec 64) : Bool := e.getLsbD 57
/-- W (R356). -/
def leafW (e : BitVec 64) : Bool := e.getLsbD 56
/-- X (R356). -/
def leafX (e : BitVec 64) : Bool := e.getLsbD 55
/-- XD (R356). -/
def leafXd (e : BitVec 64) : Bool := e.getLsbD 54
/-- The frame address (R356). -/
def leafPa (e : BitVec 64) : Nat := bitsOf e.toNat 16 36 * 2 ^ 16
/-- GATE (R356). -/
def leafGate (e : BitVec 64) : Nat := bitsOf e.toNat 0 16

/-- The page size of a leaf at a level (R355). -/
def levelSize (lvl : Nat) : Nat := match lvl with
  | 2 => 2 ^ 30 | 1 => 2 ^ 21 | _ => 2 ^ 16

/-! ## The memory that a partition reaches -/

/-- A channel group (R424). -/
def State.cg (s : State) (n : Nat) : UnitRec := (s.cgs[n]?).getD UnitRec.free

/-- The channel groups that a partition owns and has not lent (R401). -/
def State.ownsGroup (s : State) (part n : Nat) : Bool := (s.cg n).cond == 1 && (s.cg n).owner == part

/-- The window of a borrowed or revoked group holds an address (R405). -/
def inWindow (cg window pa : Nat) : Bool :=
  decide (cg * 2 ^ 33 + window * 2 ^ 26 ≤ pa) && decide (pa < cg * 2 ^ 33 + (window + 1) * 2 ^ 26)

/-- The shadow slot to which an address of a revoked window is redirected (R408). -/
def State.redirectSlot (s : State) (part pa : Nat) : Option Nat :=
  (indices 4 fun i => match ((s.part part).shadows[i]?).join with
    | some sh => sh.redir && inWindow sh.cg sh.window pa
    | none => false).head?

/-- The address that the hub uses for an access of a partition (R408). -/
def State.redirect (s : State) (part pa : Nat) : Nat :=
  match s.redirectSlot part pa with
  | some i => (s.part part).shadowpa.toNat + i * 2 ^ 26 + pa % 2 ^ 26
  | none => pa

/-- A device address lies in the window of a channel group that the partition borrows (R405). -/
def State.borrows (s : State) (part pa : Nat) : Bool :=
  let u := s.cg (groupOf pa)
  (u.cond == 2 || u.cond == 3) && u.borrower == part && inWindow (groupOf pa) u.window pa

/-- The n bytes from a device address on, aligned to n, lie in memory that the partition's tables may reach (R401): in a group
of its own, or all of them in one window. -/
def State.reaches (s : State) (part pa n : Nat) : Bool :=
  s.ownsGroup part (groupOf pa) || (s.borrows part pa && s.borrows part (pa + n - 1)) ||
    ((s.redirectSlot part pa).isSome && s.redirectSlot part pa == s.redirectSlot part (pa + n - 1))

/-- The entry of a gate's access list that a partition holds (R427). -/
def Gate.entryOf (g : Gate) (part : Nat) : Option Nat :=
  (indices 8 fun i => match g.entries[i]? with
    | some e => e.valid && e.part == part
    | none => false).head?

/-- The rights of a partition on a gate: SIG 8, WAIT 4, POST 2, READ 1 (R425). -/
def Gate.rightsOf (g : Gate) (part : Nat) : Nat :=
  (((g.entryOf part).bind fun i => g.entries[i]?).map (·.rights.toNat)).getD 0

/-- A GATED leaf into memory of the gate's owner is accepted (R430 item 1). -/
def State.gateReaches (s : State) (part g pa : Nat) : Bool :=
  (s.gate g).gst != .free && s.ownsGroup (s.gate g).owner (groupOf pa) && ((s.gate g).entryOf part).isSome

/-! ## The walk -/

/-- What a walk ends at (R357). -/
inductive Walk where
  | absent
  | malformed
  | leaf (lvl : Nat) (e : BitVec 64)
  deriving DecidableEq, Repr

/-- A table entry at an address is poisoned: marked at its home, on a failed memory spoke, or in a line that the L2 of its owner, or
of the home die of a RUC page, holds poisoned or holds on a fenced spoke (R254, R451, R454). (DEDUCED, log entry 56) -/
def State.badEntry (s : State) (pa : Nat) : Bool :=
  s.poison.contains (lineOf pa) || s.deadPa pa || (List.range 8).any fun d => match s.line? d (lineOf pa) with
    | some l => (l.owned || l.cls == 2) && (l.poison || s.deadDie d)
    | none => false

/-- A pointer entry keeps R356, R357 and R401. -/
def State.pointerOk (s : State) (part lvl : Nat) (e : BitVec 64) : Bool :=
  let pa := bitsOf e.toNat 8 44 * 256
  lvl != 0 && bitsOf e.toNat 52 11 == 0 && bitsOf e.toNat 0 8 == 0 &&
    decide (pa % (if lvl = 1 then 256 else 4096) = 0) && decide (pa < deviceTop) && s.reaches part pa (if lvl = 1 then 256 else 4096)

/-- A leaf entry keeps R356, R357, R401 and R430. -/
def State.leafOk (s : State) (part lvl : Nat) (e : BitVec 64) : Bool :=
  let pa := leafPa e
  let kind := paKind pa
  decide (lvl ≤ 2) && bitsOf e.toNat 52 2 == 0 &&
    (leafGated e || leafCls e == 2 || leafGate e == 0) &&
    kind != .reserved && decide (pa % levelSize lvl = 0) &&
    !(leafGated e && (leafCls e == 2 || leafCls e == 3)) &&
    !(leafCls e == 2 && (decide (8 ≤ leafGate e) || ((s.part part).spoke (leafGate e)).isNone)) &&
    (match kind with
     | .peer _ => leafXd e
     | .device => s.reaches part pa (levelSize lvl) || (leafGated e && s.gateReaches part (leafGate e) pa)
     | _ => true)

/-- The walk from a table at an address over the remaining levels: (level, lowest VA bit, index bits) (R355). -/
def State.walkFrom (s : State) (part va : Nat) : List (Nat × Nat × Nat) → Nat → Walk
  | [], _ => .malformed
  | (lvl, lo, n) :: rest, table =>
    let e := BitVec.ofNat 64 (s.coh64 (s.redirect part (table + 8 * bitsOf va lo n)))
    if !leafV e then .absent
    else if leafLeaf e then (if s.leafOk part lvl e then .leaf lvl e else .malformed)
    else if s.pointerOk part lvl e then s.walkFrom part va rest (bitsOf e.toNat 8 44 * 256)
    else .malformed

/-- The addresses of the entries that a walk reads, in order (R355). -/
def State.walkReads (s : State) (part va : Nat) : List (Nat × Nat × Nat) → Nat → List Nat
  | [], _ => []
  | (lvl, lo, n) :: rest, table =>
    let at_ := s.redirect part (table + 8 * bitsOf va lo n)
    let e := BitVec.ofNat 64 (s.coh64 at_)
    at_ :: (if leafV e && !leafLeaf e && s.pointerOk part lvl e then s.walkReads part va rest (bitsOf e.toNat 8 44 * 256) else [])

/-- The levels of a walk: (level, lowest VA bit, index bits) (R355). -/
def walkLevels : List (Nat × Nat × Nat) := [(4, 48, 9), (3, 39, 9), (2, 30, 9), (1, 21, 9), (0, 16, 5)]

/-- The root of a context's tables may be walked (R355, R401). -/
def State.rootOk (s : State) (part root : Nat) : Bool := root % 4096 == 0 && decide (root < deviceTop) && s.reaches part root 4096

/-- A walk of a context's tables (R355, R358). -/
def State.walk (s : State) (ctx part va : Nat) : Walk :=
  let root := (s.ctx ctx).root.toNat
  if s.rootOk part root then
    s.walkFrom part va walkLevels root
  else .malformed

/-! ## Translation caches -/

/-- A held translation matches (R358). -/
def TlbEntry.matches (t : TlbEntry) (die : Nat) (core : Option Nat) (asid : BitVec 16) (va : Nat) : Bool :=
  t.die == die && t.core == core && t.asid == asid && decide (t.base ≤ va) && decide (va < t.base + levelSize t.lvl)

/-- A translation put into a cache; a first-level cache keeps the 64 newest, a second-level cache the 8,192
newest (R358; the replacement is a DESIGN CHOICE, log entry 6). -/
def State.tlbFill (s : State) (t : TlbEntry) : State :=
  let mine := s.tlb.filter fun x => x.die == t.die && x.core == t.core
  let cap := if t.core.isSome then 64 else 8192
  let tlb := if cap ≤ mine.length then s.tlb.erase ((mine.getLast?).getD t) else s.tlb
  { s with tlb := t :: tlb }

/-- The translation of an address by an agent (R358, R362): from the first-level cache, the second-level cache or
a walk, the caches filled; a malformed entry is logged as a walk error (R357). (DEDUCED, log entry 56) -/
def State.translate (s : State) (a : Acc) (va : Nat) : State × Walk :=
  let asid := (s.ctx a.ctx).asid
  let hit (core : Option Nat) := s.tlb.find? fun t => t.matches a.die core asid va
  match (if a.core.isSome then hit a.core else none) with
  | some t => (s, .leaf t.lvl t.leaf)
  | none =>
    match hit none with
    | some t => (if a.core.isSome then s.tlbFill { t with core := a.core } else s, .leaf t.lvl t.leaf)
    | none =>
      -- each entry is read as a COH read; a walk that reads a poisoned one consumes it (R454)
      let root := (s.ctx a.ctx).root.toNat
      let read := if s.rootOk a.part root then s.walkReads a.part va walkLevels root else []
      let bad := read.filter s.badEntry
      let w := s.walk a.ctx a.part va
      let s := read.foldl (fun s pa => s.cohShareAll (lineOf pa)) s
      let s := bad.foldl (fun s pa => s.report { mkError 6 10 a.die 0 (some a.ctx) pa with place := .line pa }) s
      match w with
      | .leaf lvl e =>
        let t : TlbEntry := { die := a.die, core := none, asid := asid, base := va / levelSize lvl * levelSize lvl, lvl := lvl, leaf := e }
        let s := s.tlbFill t
        (if a.core.isSome then s.tlbFill { t with core := a.core } else s, .leaf lvl e)
      | .malformed => (s.report (mkError 7 10 a.die 0 (some a.ctx) va), .malformed)
      | .absent => (s, .absent)

/-! ## The checks of an access -/

/-- The kinds of access (R357); `oddAtomic` is an atomic that no PCI Express AtomicOp performs (R275). -/
inductive AccKind where
  | read | write | atomic | oddAtomic | fetch | flush
  deriving DecidableEq, Repr

/-- The access writes. -/
def AccKind.writes : AccKind → Bool
  | .write | .atomic | .oddAtomic => true
  | _ => false

/-- The outcome of translating and checking an access: a trap, a wait for a migration or a hand-over, poison whose consumption
ends what its agent does, or the physical address with its leaf. -/
inductive Look where
  | fault (c : Cause)
  | wait
  | poison
  | ok (pa : Nat) (leaf : BitVec 64)
  deriving DecidableEq, Repr

/-- PAGE_PROT and PAGE_CLASS (R357). -/
def protCheck (kind : AccKind) (e : BitVec 64) : Option Cause :=
  let prot := match kind with
    | .read | .flush => leafRd e
    | .write => leafW e
    | .atomic | .oddAtomic => leafRd e && leafW e
    | .fetch => leafX e
  if !prot then some .pageProt
  else if leafCls e = 3 ∧ kind.writes = true then some .pageClass
  else if kind = .oddAtomic ∧ paKind (leafPa e) = .host then some .pageClass
  else none

/-- The gate checks of a GATED page (R357, R427). -/
def State.gatedCheck (s : State) (part : Nat) (kind : AccKind) (e : BitVec 64) : Option Cause :=
  if !leafGated e then none
  else
    let g := s.gate (leafGate e)
    let r := g.rightsOf part
    let ok := match kind with
      | .read | .fetch | .flush => bitAt r 2 || bitAt r 0
      | .write => bitAt r 3
      | .atomic | .oddAtomic => bitAt r 3 && bitAt r 2
    if g.gst = .free then some .gateAbsent else if ok then none else some .gateDenied

/-- The home device of a frame: 0 this device, d + 1 the peer on port d (R369). -/
def homeDevice (pa : Nat) : Nat := match paKind pa with
  | .peer d => d + 1
  | _ => 0

/-- The number of the page of shared memory that holds an address: the page of the ownership table that holds it, else the leaf
of a level (R360, R369). -/
def State.ownPage (s : State) (pa lvl : Nat) : Nat :=
  match s.owns.find? fun x => decide (x.1 * 2 ^ 16 ≤ pa) && decide (pa < x.1 * 2 ^ 16 + levelSize x.2.lvl) with
  | some x => x.1
  | none => pa / levelSize lvl * levelSize lvl / 2 ^ 16

/-- The ownership of a page shared between devices; at first EXCLUSIVE to its home device (R369). -/
def State.pageOwn (s : State) (page : Nat) : PageOwn :=
  (tfind s.owns page).getD { PageOwn.home with excl := some (homeDevice (page * 2 ^ 16)) }

/-- This device may read or write a shared page now (R369). -/
def PageOwn.allows (o : PageOwn) (dev : Nat) (wr : Bool) : Bool :=
  o.grantTo.isNone && (o.excl == some dev || (!wr && o.readers.contains dev))

/-- A request for a shared page of a leaf of a level, queued once (R369). -/
def State.requestPage (s : State) (page lvl dev : Nat) (wr : Bool) : State :=
  let o := s.pageOwn page
  let o := if (tfind s.owns page).isSome then o else { o with lvl := lvl }
  if o.waiting.contains (dev, wr) then s
  else { s with owns := tset s.owns page { o with waiting := o.waiting ++ [(dev, wr)] } }

/-- The hand-over of a shared page waits on a port that carries no traffic (R437). -/
def State.pageDead (s : State) (page : Nat) : Bool :=
  let o := s.pageOwn page
  let home := homeDevice (page * 2 ^ 16)
  (if home ≠ 0 then [home] else (o.excl.toList ++ o.readers ++ o.flushing).filter (· != 0)).any s.portDead

/-- A page of shared memory that this device uses, with the level of its leaf (R360, R369). -/
def State.notePage (s : State) (page lvl : Nat) : State :=
  if (tfind s.owns page).isSome then s else { s with owns := tset s.owns page { s.pageOwn page with lvl := lvl } }

/-- A page request raised to the host for a context, once (R448). (DESIGN CHOICE, log entry 103) -/
def State.askHost (s : State) (ctx page : Nat) : State :=
  if s.hub.pageReqs.contains (ctx, page) then s else s.modHub fun h => { h with pageReqs := h.pageReqs ++ [(ctx, page)] }

/-- The host page of an address that the host has unmapped, if it has (R448). (DESIGN CHOICE, log entry 103) -/
def State.absentPage (s : State) (pa : Nat) : Option Nat :=
  if paKind pa = .host ∧ s.hub.absent.contains (pa / 4096) = true then some (pa / 4096) else none

/-- A leaf checked for an access at an address of its page (R357, R365, R370); an access to a host page that the host has unmapped
raises a page request and waits (R448). (DEDUCED, log entry 70) -/
def State.lookLeaf (s : State) (a : Acc) (kind : AccKind) (va lvl : Nat) (e : BitVec 64) : State × Look :=
  match protCheck kind e with
  | some c => (s, .fault c)
  | none =>
    match s.gatedCheck a.part kind e with
    | some c => (s, .fault c)
    | none =>
      let wr := kind.writes
      if wr && leafMig e then (s, .wait)
      else
        let pa := s.redirect a.part (leafPa e + va % levelSize lvl)
        let page := s.ownPage pa lvl
        match s.absentPage pa with
        | some p => (s.askHost a.ctx p, .wait)
        | none =>
        if leafXd e && kind != .flush && !((s.pageOwn page).allows 0 wr) && !s.pageDead page then (s.requestPage page lvl 0 wr, .wait)
        else
          let s := if leafXd e then s.notePage page lvl else s
          (if leafGated e then s.bindPage { pa := leafPa e, size := levelSize lvl, gate := leafGate e } else s, .ok pa e)

/-- An access translated and checked (R265, R357). -/
def State.look (s : State) (a : Acc) (kind : AccKind) (va : Nat) : State × Look :=
  match s.translate a va with
  | (s, .leaf lvl e) => s.lookLeaf a kind va lvl e
  | (s, _) => (s, .fault .pageAbsent)

/-- The checks of an access through a grant before translation: GRANT_STALE, GRANT_PERM, GRANT_BOUNDS (R347). -/
def grantCheck (a : Acc) (g : Grant) (perm : Bool) (off : Int) (n : Nat) : Option Cause :=
  if g.tag ∧ (g.part ≠ a.part ∨ g.ctxNo ≠ a.ctx) then some .grantStale
  else if g.tag ∧ perm = false then some .grantPerm
  else if g.tag = false ∨ off < 0 ∨ (g.len : Int) < off + n then some .grantBounds
  else none

/-! ## Data at a translated address -/

/-- An access of another partition to a bound page is served at the rim home (R430 item 2). -/
def State.atGateHome (s : State) (a : Acc) (e : BitVec 64) : Bool :=
  leafGated e && (s.gate (leafGate e)).owner != a.part

/-- The spoke that is the home die of a RUC page (R255, R356). -/
def State.rucHome (s : State) (a : Acc) (e : BitVec 64) : Nat :=
  if leafCls e = 2 then ((s.part a.part).spoke (leafGate e)).getD a.die else a.die

/-- The address that serves an RSH read: the replica that has taken the place of a lost primary frame (R359, R454). -/
def State.replicaPa (s : State) (e : BitVec 64) (pa : Nat) : Nat :=
  if leafCls e = 3 then
    match (tfind s.replicas (pa / 2 ^ 16)).bind (·.moved) with
    | some f => f.toNat * 2 ^ 16 + pa % 2 ^ 16
    | none => pa
  else pa

/-- The caches that serve an access of n bytes hold what it needs: a store the line in the die L2, a read every byte there or in
the core's L1 (R253, R254). -/
def State.heldHere (s : State) (a : Acc) (e : BitVec 64) (pa n : Nat) (wr : Bool) : Bool :=
  let inSlice := match s.line? (s.rucHome a e) (lineOf pa) with
    | some l => wr || (List.range n).all fun i => (l.byte? ((pa + i) % 128)).isSome
    | none => false
  let inCore := match a.core with
    | some core => (List.range n).all fun i => (s.l1Byte? core (pa + i)).isSome
    | none => false
  inSlice || (!wr && inCore)

/-- An access of n bytes that reaches no home: its memory spoke, the home die of a RUC line or the owner of a COH line is fenced
or failed, its port carries no traffic, or its hand-over waits on such a port; `near` says that the caches of the die may serve
it (R437, R451, R454). (DEDUCED, log entry 50) (DEDUCED, log entry 52) -/
def State.lost (s : State) (a : Acc) (e : BitVec 64) (pa n : Nat) (wr near : Bool) : Bool :=
  let line := lineOf pa
  let held := near && s.heldHere a e pa n wr
  let ruc := leafCls e == 2 && s.rucHome a e != a.die && s.deadDie (s.rucHome a e)
  let owner := (otherDies a.die).any fun d => s.deadDie d && ((s.line? d line).map (·.owned)).getD false
  ruc || (!held && (s.homeDead a.ctx pa || owner)) || (leafXd e && !((s.pageOwn (s.ownPage pa 0)).allows 0 wr))

/-- A request whose partition is not the user of the channel group that it reaches, which the hub drops (R415, R439); an access
to a bound page goes by its gate (R430). -/
def State.foreign (s : State) (a : Acc) (e : BitVec 64) (pa : Nat) : Bool :=
  decide (pa < deviceTop) && !(s.ownsGroup a.part (groupOf pa)) && !(s.borrows a.part pa) && !(leafGated e && s.gateReaches a.part (leafGate e) pa)

/-- The severity matrix's action for an error (R460): the codes 6 and 7 act as LOG, class 15 does nothing. -/
def State.action (s : State) (e : ErrorReport) : Nat :=
  let a := bitsOf ((s.hub.sev[e.cls]?).getD 0).toNat (4 * e.src) 3
  if 15 ≤ e.cls ∨ 12 ≤ e.src then 0 else if 6 ≤ a then 1 else a

/-- The agent's block is protected: a ROLLBACK launch whose interval is covered (R467, R468). -/
def State.protects (s : State) (bid : Nat) : Bool :=
  match s.blocks[bid]?, s.kernelOf bid with
  | some b, some k => k.rollback && b.covered && b.snapLatest.isSome
  | _, _ => false

/-- Consumption of an error ends what its agent does: the matrix's action ends the context, or a rollback begins; an action
that only logs or interrupts lets the access complete (R376, R469). -/
def State.ends (s : State) (e : ErrorReport) : Bool := decide (3 ≤ s.action e) || (e.bid.map s.protects).getD false

/-- A read of n bytes meets poison: a line marked at its home, in the die L2 that serves it or in the L2 that owns it, or no
home at all; a hit in the core's L1 meets none (R254, R255, R454). -/
def State.poisoned (s : State) (a : Acc) (e : BitVec 64) (pa n : Nat) (fresh : Bool) : Bool :=
  let line := lineOf pa
  let bad (d : Nat) : Bool := ((s.line? d line).map (·.poison)).getD false
  let hit := match a.core with
    | some core => !fresh && (List.range n).all fun i => (s.l1Byte? core (pa + i)).isSome
    | none => false
  !hit && (s.poison.contains line || bad (s.rucHome a e) || bad a.die ||
    (List.range 8).any fun d => bad d && ((s.line? d line).map (·.owned)).getD false) || s.lost a e pa n false true

/-- The slice of a die's L2 that serves an address for an agent (R259, R412); 0 outside the compute spokes. -/
def State.sliceUnit (s : State) (a : Acc) (pa : Nat) : Nat :=
  if 8 ≤ a.die then 0 else ((s.line? a.die (lineOf pa)).map (·.slice)).getD (s.sliceOf a.part a.die (lineOf pa))

/-- What the consumption of poison at an address reports, from the slice of the die's L2 (R254, R376, R454). (DESIGN CHOICE, log
entry 101) -/
def State.poisonError (s : State) (a : Acc) (pa : Nat) (bid : Option Nat) : ErrorReport :=
  { mkError 6 4 a.die (s.sliceUnit a pa) (some a.ctx) pa with bid := bid, place := .line pa }

/-- Consumption of poison reported (R376). -/
def State.consume (s : State) (a : Acc) (e : BitVec 64) (pa n : Nat) (fresh : Bool) (bid : Option Nat) : State :=
  if s.poisoned a e pa n fresh then s.report (s.poisonError a pa bid) else s

/-- An access that reads n bytes, translated and checked; poison whose consumption ends what its agent does stops it (R265,
R357, R376). -/
def State.lookRead (s : State) (a : Acc) (kind : AccKind) (va n : Nat) (fresh : Bool) (bid : Option Nat) : State × Look :=
  match s.look a kind va with
  | (s, .ok pa e) =>
    let at_ := s.replicaPa e pa
    if s.poisoned a e at_ n fresh && s.ends (s.poisonError a at_ bid) then (s.report (s.poisonError a at_ bid), .poison) else (s, .ok pa e)
  | r => r

/-- n bytes that nothing defines: the data of a read that reaches no home. (DEDUCED, log entry 49) -/
def State.freeBytes (s : State) (n : Nat) : State × List Byte :=
  ({ s with free := s.free + n }, (List.range n).map fun i => freeByte (s.free + i))

/-- A request dropped for its partition tag, logged as an isolation error (R415). (DESIGN CHOICE, log entry 82) -/
def State.dropForeign (s : State) (a : Acc) (pa : Nat) : State := s.report (mkError 8 10 a.die 0 (some a.ctx) pa)

/-- A load at a translated address. A read that reaches no home, or that the hub drops, returns bytes that nothing defines
(R415, R454; DESIGN CHOICE, log entry 82). -/
def State.readPa (s : State) (a : Acc) (e : BitVec 64) (pa n hint : Nat) (fresh : Bool) (bid : Option Nat) : State × List Byte :=
  let pa := s.replicaPa e pa
  let gone := s.lost a e pa n false true
  let s := s.consume a e pa n fresh bid
  if gone then s.freeBytes n
  else if s.foreign a e pa then (s.dropForeign a pa).freeBytes n
  else if s.atGateHome a e then
    let s := (s.rimTouch a pa hint).countLink a.ctx pa 32
    let s := if leafCls e = 0 then s.cohShareAll (lineOf pa) else s
    (s, (List.range n).map fun i => s.homeByte (pa + i))
  else s.loadBytes a (leafCls e) (s.rucHome a e) pa n hint fresh

/-- A write by the hub for a context: one to a channel group that its partition does not use is dropped, as is one that reaches no home,
and both are logged (R404, R415, R454). -/
def State.hubWrite (s : State) (a : Acc) (e : BitVec 64) (pa : Nat) (data : List Byte) : State :=
  if s.homeDead a.ctx pa then s.dropWrite a pa else if s.foreign a e pa then s.dropForeign a pa else s.cohWrite a pa data

/-- A store at a translated address. -/
def State.writePa (s : State) (a : Acc) (e : BitVec 64) (pa hint : Nat) (data : List Byte) : State :=
  if s.lost a e pa data.length true true then s.dropWrite a pa
  else if s.foreign a e pa then s.dropForeign a pa
  else if s.atGateHome a e then
    if leafCls e = 0 then s.cohWrite a pa data else (s.homeBytes a pa data hint).markWritten (lineOf pa)
  else s.storeBytes a (leafCls e) (s.rucHome a e) pa hint data

/-- An atomic operation at a translated address (R272 to R275): f gives the new bytes, none where nothing is written, and `wr`
says whether the operation may write; an LDX may not, and what the core's L1 holds takes the value that it reads (R232, R269). -/
def State.atomicPa (s : State) (a : Acc) (e : BitVec 64) (pa n scope : Nat) (bid : Option Nat) (wr : Bool)
    (f : List Byte → Option (List Byte)) : State × List Byte :=
  let pa := s.replicaPa e pa
  let bound := s.atGateHome a e
  -- at the rim home no copy of this die is recalled for a SYN page (R430 item 2)
  let who : Acc := if bound then { a with die := 12, core := none } else a
  let cls := if bound ∧ leafCls e ≠ 0 then (3 : BitVec 2) else leafCls e
  let home := s.rucHome a e
  let site := if bound then .rim else atomicSite cls a.die home scope pa
  let gone := s.lost a e pa n wr (site == .unit || site == .slice)
  let s := s.consume a e pa n true bid
  if gone then
    let (s, old) := s.freeBytes n
    ((f old).elim s fun _ => s.dropWrite a pa, old)
  else if s.foreign a e pa then (s.dropForeign a pa).freeBytes n
  else
    let (s, old) := s.siteRead who cls home pa n site
    let s := match f old with
      | some new => s.siteWrite who cls home pa site new
      | none => s
    (match who.core with
     | some core => if wr then s.dropWord core pa n else s.renewWord core pa old
     | none => s, old)

end Sys2Proof.Machine
end

