-- ==== Sys2Proof/Machine/Ops.lean ====
section
/-! DEFINITION. The named operations over the registers of threads, groups and streams, the end of an
instruction, halting a context, and taking a trap: the handler entry of R378 and R380 and the return of R379. -/

namespace Sys2Proof.Machine

/-! ## Registers -/

/-- Incomplete results lose a register that a later instruction writes (R61). -/
def pendDropReg (l : List Pend) (d : Nat) : List Pend := l.map fun p => { p with regs := p.regs.filter fun r => r.1 != d }

/-- Incomplete results lose a predicate that a later instruction writes (R61). -/
def pendDropPred (l : List Pend) (d : Nat) : List Pend := l.map fun p => { p with preds := p.preds.filter fun r => r.1 != d }

/-- A V register (R110). -/
def Thread.getV (t : Thread) (r : Nat) : Word := (t.v[r]?).getD 0

/-- A V register pair, the low word in the even register (R43). -/
def Thread.getV2 (t : Thread) (r : Nat) : BitVec 64 := pair (t.getV r) (t.getV (r + 1))

/-- A V register written (R110). -/
def Thread.putV (t : Thread) (d : Nat) (x : Word) : Thread := { t with v := t.v.set d x, pend := pendDropReg t.pend d }

/-- A V register pair written (R43). -/
def Thread.putV2 (t : Thread) (d : Nat) (x : BitVec 64) : Thread := (t.putV d (pairLo x)).putV (d + 1) (pairHi x)

/-- A predicate; code 7 is PT (R45, R110). -/
def Thread.getP (t : Thread) (p : Nat) : Bool := if p < 7 then t.p.getLsbD p else true

/-- Bit i of a vector of w bits replaced. -/
def setBit {w : Nat} (x : BitVec w) (i : Nat) (b : Bool) : BitVec w :=
  (x &&& ~~~(BitVec.ofNat w (2 ^ i))) ||| BitVec.ofNat w (if b then 2 ^ i else 0)

/-- A predicate written; a write to PT is discarded (R110). -/
def Thread.putP (t : Thread) (p : Nat) (b : Bool) : Thread :=
  if p < 7 then { t with p := setBit t.p p b, pend := pendDropPred t.pend p } else t

/-- An S register (R110). -/
def UFile.getS (u : UFile) (r : Nat) : Word := (u.s[r]?).getD 0

/-- An S register pair (R43). -/
def UFile.getS2 (u : UFile) (r : Nat) : BitVec 64 := pair (u.getS r) (u.getS (r + 1))

/-- An S register written. -/
def UFile.putS (u : UFile) (d : Nat) (x : Word) : UFile := { u with s := u.s.set d x, pend := pendDropReg u.pend d }

/-- An S register pair written (R43). -/
def UFile.putS2 (u : UFile) (d : Nat) (x : BitVec 64) : UFile := (u.putS d (pairLo x)).putS (d + 1) (pairHi x)

/-- A uniform predicate; code 7 is QT (R45, R110). -/
def UFile.getQ (u : UFile) (q : Nat) : Bool := if q < 4 then u.q.getLsbD q else true

/-- A uniform predicate written; a write to QT is discarded (R110). -/
def UFile.putQ (u : UFile) (q : Nat) (b : Bool) : UFile :=
  if q < 4 then { u with q := setBit u.q q b, pend := pendDropPred u.pend q } else u

/-- A grant register (R110). -/
def UFile.getG (u : UFile) (r : Nat) : Grant := (u.g[r]?).getD Grant.null

/-! ## Incomplete results (R60, R61) -/

/-- The oldest writes of an incomplete result of a thread take effect. -/
def Thread.complete1 (t : Thread) (p : Pend) : Thread :=
  let t := p.regs.foldl (fun t r => { t with v := t.v.set r.1 r.2 }) t
  p.preds.foldl (fun t r => { t with p := if r.1 < 7 then setBit t.p r.1 r.2 else t.p }) t

/-- Older incomplete results lose what a younger one has written (R61). -/
def pendLose (l : List Pend) (p : Pend) : List Pend :=
  p.preds.foldl (fun l r => pendDropPred l r.1) (p.regs.foldl (fun l r => pendDropReg l r.1) l)

/-- What stays incomplete when the results that satisfy a test are written: the others, without what a younger written result
has given (R61). -/
def pendRest (c : Pend → Bool) : List Pend → List Pend
  | [] => []
  | p :: r => if c p then pendRest c r else (r.filter c).foldl pendLose [p] ++ pendRest c r

/-- The known results of a thread that satisfy a test are written, oldest first. -/
def Thread.completeIf (t : Thread) (c : Pend → Bool) : Thread :=
  (t.pend.filter fun p => p.known && c p).foldl (fun t p => t.complete1 p) { t with pend := pendRest (fun p => p.known && c p) t.pend }

/-- The k-th incomplete result of a thread is written, if it is known (R60, R61). -/
def Thread.completeAt (t : Thread) (k : Nat) : Thread :=
  match t.pend[k]? with
  | some p => if p.known then { t.complete1 p with pend := pendLose (t.pend.take k) p ++ t.pend.drop (k + 1) } else t
  | none => t

/-- Every known result of a thread written. -/
def Thread.completeAll (t : Thread) : Thread := t.completeIf fun _ => true

/-- One incomplete uniform result written. -/
def UFile.complete1 (u : UFile) (p : Pend) : UFile :=
  let u := p.regs.foldl (fun u r => { u with s := u.s.set r.1 r.2 }) u
  p.preds.foldl (fun u r => { u with q := if r.1 < 4 then setBit u.q r.1 r.2 else u.q }) u

/-- The known uniform results that satisfy a test are written, oldest first. -/
def UFile.completeIf (u : UFile) (c : Pend → Bool) : UFile :=
  (u.pend.filter fun p => p.known && c p).foldl (fun u p => u.complete1 p) { u with pend := pendRest (fun p => p.known && c p) u.pend }

/-- The k-th incomplete uniform result is written, if it is known (R60, R61). -/
def UFile.completeAt (u : UFile) (k : Nat) : UFile :=
  match u.pend[k]? with
  | some p => if p.known then { u.complete1 p with pend := pendLose (u.pend.take k) p ++ u.pend.drop (k + 1) } else u
  | none => u

/-- Every known uniform result written. -/
def UFile.completeAll (u : UFile) : UFile := u.completeIf fun _ => true

/-- The result of a long-latency lane instruction: written at once with LA = 0, since the next instruction
waits for it, else left incomplete for its window (R60). (DESIGN CHOICE, log entry 21) -/
def Thread.late (t : Thread) (la : Nat) (regs : List (Nat × Word)) (preds : List (Nat × Bool)) : Thread :=
  if la = 0 then preds.foldl (fun t r => t.putP r.1 r.2) (regs.foldl (fun t r => t.putV r.1 r.2) t)
  else { t with pend := t.pend ++ [{ left := la, known := true, regs := regs, preds := preds }] }

/-- The result of a long-latency uniform instruction (R60). -/
def UFile.late (u : UFile) (la : Nat) (regs : List (Nat × Word)) (preds : List (Nat × Bool)) : UFile :=
  if la = 0 then preds.foldl (fun u r => u.putQ r.1 r.2) (regs.foldl (fun u r => u.putS r.1 r.2) u)
  else { u with pend := u.pend ++ [{ left := la, known := true, regs := regs, preds := preds }] }

/-- One instruction of the stream issues: windows that are used up complete, the others shrink by one (R60).
(DESIGN CHOICE, log entry 21) -/
def windowStep (l : List Pend) : List Pend := l.map fun p => { p with left := p.left - 1 }

/-! ## The agent of an access -/

/-- The agent of a context's accesses on a die, in a cluster of it, through the L1 of a core if it has one. -/
def State.accAt (s : State) (ctx die clu : Nat) (core : Option Nat) : Acc :=
  let c := s.ctx ctx
  { ctx := ctx, part := c.part, waycl := c.waycl.toNat, die := die, clu := 9 * die + clu, core := core }

/-- The agent of a thread or group, or of a cadence stream, which has no L1 (R16, R224). -/
def State.accOf (s : State) (who : Agent) : Acc :=
  match who with
  | .group gid =>
    match (s.groups[gid]?).bind fun g => s.blocks[g.bid]? with
    | some b => s.accAt (s.ctxOfKernel b.kid) b.die b.clu (some b.coreNo)
    | none => s.accAt 0 0 0 none
  | .stream sid =>
    match s.streams[sid]? with
    | some x => s.accAt (s.ctxOfKernel x.kid) x.die x.clu none
    | none => s.accAt 0 0 0 none

/-- The block of an agent, if it has one. -/
def State.bidOf (s : State) : Agent → Option Nat
  | .group gid => (s.groups[gid]?).map (·.bid)
  | .stream _ => none

/-! ## The end of an instruction -/

/-- A thread after the current iteration of its instruction: the next iteration of a REP, or the next
instruction (R54, R56). -/
def Issue.advance (i : Issue) (t : Thread) : Thread :=
  match i.rep with
  | some r => if i.iter < r.cnt.toNat then { t with prog := i.iter + 1 }
      else { t with pc := i.next, prog := 0, tinsn := t.tinsn + 1 }
  | none => { t with pc := i.next, prog := 0, tinsn := t.tinsn + 1 }

/-- A thread after a control transfer to npc (R175). -/
def Thread.goto (t : Thread) (npc : Word) : Thread := { t with pc := npc, prog := 0, tinsn := t.tinsn + 1 }

/-- A function applied to every thread of the current issue: each is computed from its group and itself as they stood
before the instruction (R113). -/
def State.onLanes (s : State) (f : Nat → Nat → Group → Thread → Thread) : State :=
  { s with groups := s.groups.mapIdx fun gid g =>
      if s.issue.lanes.any (fun l => l.1 == gid) then
        { g with threads := g.threads.mapIdx fun t th => if s.issue.lanes.contains (gid, t) then f gid t g th else th }
      else g }

/-- The agent of the current uniform instruction goes on: every participant, or the stream (R168). -/
def State.advanceU (s : State) : State :=
  match s.issue.who with
  | .group _ => s.onLanes fun _ _ _ t => s.issue.advance t
  | .stream sid => s.modStream sid fun x =>
      match s.issue.rep with
      | some r => if s.issue.iter < r.cnt.toNat then x else { x with pc := s.issue.next }
      | none => { x with pc := s.issue.next }

/-- The agent of the current uniform instruction goes to another PC (R182). -/
def State.gotoU (s : State) (npc : Word) : State :=
  match s.issue.who with
  | .group _ => s.onLanes fun _ _ _ t => t.goto npc
  | .stream sid => s.modStream sid fun x => { x with pc := npc }

/-- The agent of the current uniform instruction waits at it, under the stamp of its arrival (R190). -/
def State.waitU (s : State) : State :=
  let stamp := s.hub.stamp
  let hold (w : Wait) : Wait := match w with
    | .uni k _ => .uni k false
    | _ => .uni stamp false
  (match s.issue.who with
   | .group _ => s.onLanes fun _ _ _ t => { t with wait := hold t.wait }
   | .stream sid => s.modStream sid fun x => { x with wait := hold x.wait }).nextStamp

/-- The agent's wait ends. -/
def State.unwaitU (s : State) : State :=
  match s.issue.who with
  | .group _ => s.onLanes fun _ _ _ t => { t with wait := .none }
  | .stream sid => s.modStream sid fun x => { x with wait := .none }

/-! ## Waits that are withdrawn -/

/-- The gate operations of some agents withdrawn: a parked GWAIT returns its token (R428, R431). -/
def State.withdrawGates (s : State) (mine : Agent → Bool) : State :=
  s.gates.foldl (fun s x =>
    let back (n : Nat) (y : GateEntry) : Nat := if y.rate = 0 then y.tokens else min y.burst.toNat (y.tokens + n)
    s.modGate x.1 fun g =>
      let gone := g.parked.filter fun q => mine q.who
      { g with entries := g.entries.mapIdx fun e y => { y with tokens := back ((gone.filter (·.entry == e)).length) y },
               parked := g.parked.filter fun q => !mine q.who, stalled := g.stalled.filter fun q => !mine q.who,
               waiting := g.waiting.filter fun q => !mine q.1 }) s

/-- The stamp of a uniform wait. -/
def Wait.stamp : Wait → Option Nat
  | .uni k _ => Option.some k
  | _ => Option.none

/-- The stamps under which an agent waits in uniform instructions (R190). -/
def State.stampsOf (s : State) : Agent → List Nat
  | .group gid => (((s.groups[gid]?).map (·.threads)).getD []).filterMap (·.wait.stamp)
  | .stream sid => ((s.streams[sid]?).bind (·.wait.stamp)).toList

/-- A thread that waits in a uniform instruction of two words without prefixes goes on after it (R190). -/
def Thread.leave (t : Thread) (tick : Nat) : Thread :=
  { t with wait := .none, pc := t.pc + 8, prog := 0, tinsn := t.tinsn + 1, ready := tick }

/-- The wait of an agent in an EVWAIT or a parked GWAIT ends in the step that satisfies it, and the agent stands after the
instruction (R222, R432). -/
def State.leaveWait (s : State) (who : Agent) (stamp : Nat) : State :=
  match who with
  | .group gid => s.modGroup gid fun g =>
      { g with threads := g.threads.map fun t => if t.wait.stamp = some stamp then t.leave s.tick else t }
  | .stream sid => s.modStream sid fun x => if x.wait.stamp = some stamp then { x with wait := .none, pc := x.pc + 8 } else x

/-- The waits of an agent held outside it withdrawn: its gate operations, its LAUNCHes and its EVWAITs (R183, R381). -/
def State.withdraw (s : State) (who : Agent) : State :=
  let ks := s.stampsOf who
  (s.withdrawGates (· == who)).modCtx (s.ctxOf who) fun c =>
    { c with queues := c.queues.map fun q => { q with waiting := q.waiting.filter fun k => !ks.contains k },
             evwaits := c.evwaits.filter fun w => w.who != who }

/-! ## Halting -/

/-- The rank of a halt kind (R381). -/
def HaltKind.rank : HaltKind → Nat
  | .stop => 0 | .preempt => 1 | .fault => 2 | .watchdog => 3

/-- The halt line of a context raised with a kind; raised again it takes the higher kind (R373, R381).
(DEDUCED, log entry 68) -/
def State.halt (s : State) (ctx : Nat) (k : HaltKind) : State :=
  s.modCtx ctx fun c =>
    match c.st with
    | .ready | .running => { c with st := .halting, line := some { kind := k, at_ := s.clock, rto := c.timeout, drained := false } }
    | .halting => { c with line := c.line.map fun l => if l.kind.rank < k.rank then { l with kind := k } else l }
    | _ => c

/-- A block has retired or ended (R203). -/
def Block.gone (b : Block) : Bool := b.bst == .retired || b.bst == .faulted || b.bst == .discarded || b.bst == .lost

/-- The last block and stream of a context have ended: it is READY again (R373). -/
def State.settleCtx (s : State) (ctx : Nat) : State :=
  let mine (kid : Nat) : Bool := s.ctxOfKernel kid == ctx
  if (s.ctx ctx).st = .running ∧ (s.blocks.all fun b => b.gone || !mine b.kid) ∧ (s.streams.all fun x => x.sst == .ended || !mine x.kid) then
    s.modCtx ctx fun c => { c with st := .ready }
  else s

/-! ## Taking a trap -/

/-- A cause of class H stands at a thread's instruction and the context halts (R376, R385). (DEDUCED, log entry 26) -/
def State.standAt (s : State) (gid t : Nat) (c : Cause) (esc : Bool) (val : Nat) : State :=
  (s.modThread gid t fun th =>
    { th with standing := some { cause := c.code, esc := esc, val := BitVec.ofNat 64 val, at_ := s.clock }, wait := .none }).halt
      (s.ctxOf (.group gid)) .fault

/-- A cause of class H stands at a stream's instruction and the context halts. -/
def State.standStream (s : State) (sid : Nat) (c : Cause) (esc : Bool) (val : Nat) : State :=
  (s.modStream sid fun x =>
    { x with standing := some { cause := c.code, esc := esc, val := BitVec.ofNat 64 val, at_ := s.clock }, wait := .none }).halt
      (s.ctxOf (.stream sid)) .fault

/-- A checked access by a thread to its call stack: the checks of a 32-bit store or load at a G15 offset (R175,
R264, R265). -/
def State.stackLook (s : State) (gid : Nat) (kind : AccKind) (off : Nat) : State × Look × Nat :=
  match s.groups[gid]? with
  | none => (s, .fault .grantBounds, 0)
  | some g =>
    let a := s.accOf (.group gid)
    let g15 := g.u.getG 15
    let va := g15.base + off
    match grantCheck a g15 (if kind = .write then g15.wr else g15.rd) off 4 with
    | some c => (s, .fault c, va)
    | none =>
      if va % 4 ≠ 0 then (s, .fault .misalign, va)
      else let (s, l) := if kind = .read then s.lookRead a kind va 4 false (some g.bid) else s.look a kind va; (s, l, va)

/-- The slice of a group's threads (R164). -/
def State.sliceSize (s : State) (g : Group) : Nat :=
  ((s.kernelOf g.bid).map fun k => k.slice (g.u.getG 15)).getD 0

/-- What a push or a pop meets; `poison` is a read that ends what its agent does (R376). -/
inductive StackRes where
  | ok (v : Word)
  | trap (c : Cause) (va : Nat)
  | wait
  | poison
  deriving DecidableEq, Repr

/-- The virtual address of a stack slot at an offset of G15, which may lie below it by four. -/
def Group.stackVa (g : Group) (off : Int) : Nat := (((g.u.getG 15).base + off) % 2 ^ 64).toNat

/-- A return address pushed onto a thread's call stack (R175); a fault changes nothing. -/
def State.push (s : State) (gid t : Nat) (v : Word) : State × StackRes :=
  match s.groups[gid]?, s.thread? gid t with
  | some g, some th =>
    if th.csp < 4 then (s, .trap .stackLimit (g.stackVa ((g.thrix t * s.sliceSize g + th.csp : Nat) - 4)))
    else
      match s.stackLook gid .write (g.thrix t * s.sliceSize g + th.csp - 4) with
      | (s, .fault c, va) => (s, .trap c va)
      | (s, .wait, _) => (s, .wait)
      | (s, .poison, _) => (s, .poison)
      | (s, .ok pa e, _) =>
        ((s.writePa (s.accOf (.group gid)) e pa 0 (leBytes 4 v.toNat)).modThread gid t fun th => { th with csp := th.csp - 4 }, .ok v)
  | _, _ => (s, .trap .stackLimit 0)

/-- A return address popped from a thread's call stack (R175); a fault changes nothing. A CSP at or above hcsp
after it ends the handler (R379). -/
def State.pop (s : State) (gid t : Nat) : State × StackRes :=
  match s.groups[gid]?, s.thread? gid t with
  | some g, some th =>
    if s.sliceSize g < th.csp + 4 then (s, .trap .stackLimit (g.stackVa (g.thrix t * s.sliceSize g + th.csp : Nat)))
    else
      match s.stackLook gid .read (g.thrix t * s.sliceSize g + th.csp) with
      | (s, .fault c, va) => (s, .trap c va)
      | (s, .wait, _) => (s, .wait)
      | (s, .poison, _) => (s, .poison)
      | (s, .ok pa e, _) =>
        let (s, b) := s.readPa (s.accOf (.group gid)) e pa 4 0 false (some g.bid)
        (s.modThread gid t fun th =>
          { th with csp := th.csp + 4,
                    hcsp := match th.hcsp with
                      | some h => if h ≤ th.csp + 4 then none else some h
                      | none => none }, .ok (BitVec.ofNat 32 (leNat b)))
  | _, _ => (s, .trap .stackLimit 0)

/-- A class U cause is taken by a thread after its instruction: the entry of the user trap handler (R376, R378).
Without a handler, inside one, or when the push fails, a cause of class H stands at the instruction. The entry waits for the
incomplete instructions of the thread (R61); a monitor that has timed out is dropped by it, so that an MWAIT whose entry
fails raises its cause again (R189). -/
def State.userTrap (s : State) (gid t : Nat) (c : Cause) (val : Nat) (ret : Word) : State :=
  let uvec := (s.ctx (s.ctxOf (.group gid))).uvec
  let later (s : State) : State := s.modThread gid t fun th => { th with wait := .due c.code.toNat val ret }
  match s.thread? gid t with
  | none => s
  | some th =>
    if uvec = 0xFFFFFFFF ∨ th.hcsp.isSome then s.standAt gid t c true val
    else if th.pend.any fun p => !p.known then later s
    else
      let s := (s.modThread gid t fun th => th.completeAll).modU (.group gid) (·.completeAll)
      match s.push gid t ret with
      | (s, .trap c' va) => s.standAt gid t c' true va
      | (s, .wait) => later s
      | (s, .poison) => s
      | (s, .ok _) =>
        s.modThread gid t fun th =>
          { th with hcsp := some (th.csp + 4), trap := { cause := c.code, pc := th.pc, val := BitVec.ofNat 64 val, prog := th.prog },
                    monitor := if c = .mwaitTimeout then none else th.monitor,
                    wait := .none, pc := uvec, prog := 0, tinsn := th.tinsn + 1 }

/-- The class U cause of a code (R375). -/
def userCause (code : Nat) : Cause := if code = 0x12 then .rangeGuard else if code = 0x13 then .mwaitTimeout else .userTrap

/-- A class U trap that has waited for a thread's incomplete instructions is taken (R61, R382). -/
def State.deliverDue (s : State) (gid t : Nat) : State :=
  match s.thread? gid t with
  | none => s
  | some th => match th.wait with
    | .due c val ret => if th.live ∧ th.standing = none then s.userTrap gid t (userCause c) val ret else s
    | _ => s

/-- A cause raised for one lane: class U enters the handler with ret the next instruction, class H stands at the
instruction (R171, R376). -/
def State.trapLane (s : State) (gid t : Nat) (c : Cause) (val : Nat) : State :=
  if c.isUser then s.userTrap gid t c val s.issue.next else s.standAt gid t c false val

/-- A class U cause is taken by a cadence stream (R380): ret is pushed onto its return stack. -/
def State.userTrapStream (s : State) (sid : Nat) (c : Cause) (val : Nat) (ret : Word) : State :=
  let uvec := (s.ctx (s.ctxOf (.stream sid))).uvec
  match s.streams[sid]? with
  | none => s
  | some x =>
    if uvec = 0xFFFFFFFF ∨ x.hcsp.isSome then s.standStream sid c true val
    else if 32 ≤ x.rstack.length then s.standStream sid .stackLimit true 0
    else
      s.modStream sid fun x =>
        { x with u := x.u.completeAll, rstack := ret :: x.rstack, hcsp := some x.rstack.length,
                 trap := { cause := c.code, pc := x.pc, val := BitVec.ofNat 64 val, prog := 0 }, pc := uvec }

/-- A cause raised for the agent of a uniform instruction: every participant of the group, or the stream (R168,
R279, R397). -/
def State.trapU (s : State) (c : Cause) (val : Nat) : State :=
  match s.issue.who with
  | .group _ => s.issue.lanes.foldl (fun s l => s.trapLane l.1 l.2 c val) s
  | .stream sid => if c.isUser then s.userTrapStream sid c val s.issue.next else s.standStream sid c false val

end Sys2Proof.Machine
end

