-- ==== Sys2Proof/Machine/Operands.lean ====
section
/-! DEFINITION. The operand forms of chapter 02: the lane selector in its three kinds (R40, R41), Bu6 (R42),
guards (R45), the MOD fields of an issue, and the two shapes in which register instructions act: on each lane
of the issue, and once for a group or stream. -/

namespace Sys2Proof.Machine

/-- The kinds in which an operand is delivered (R41); a pair is of FP16 or BF16 elements. -/
inductive Kind where
  | int | f32 | pair (f : Fmt)
  deriving DecidableEq, Repr

/-- An integer delivered in a kind (R41). -/
def Kind.ofInt (k : Kind) (x : Int) : Word :=
  match k with
  | .int => BitVec.ofInt 32 x
  | .f32 => BitVec.ofNat 32 (fp32.rnd .rne (Num.ofInt x))
  | .pair f => let h := f.rnd .rne (Num.ofInt x); ofHalves h h

/-- An inline FP32 constant delivered in a kind (R41): codes 0xE0 to 0xE7 (R40). -/
def Kind.ofConst (k : Kind) (i : Nat) : Word :=
  let v : Num := .fin (decide (4 ≤ i)) 1 ((i % 4 : Nat) - 1)
  match k with
  | .int => BitVec.ofNat 32 (fp32.rnd .rne v)
  | .f32 => BitVec.ofNat 32 (fp32.rnd .rne v)
  | .pair f => let h := f.rnd .rne v; ofHalves h h

/-- Where a lane runs: its group, its thread index and the thread before the instruction (R113). -/
structure Lane where
  g : Group
  ti : Nat
  t : Thread
  deriving DecidableEq, Repr

/-- A lane selector read in a kind (R40, R41). -/
def Lane.sel (l : Lane) (b : BitVec 8) (k : Kind) : Word :=
  let c := b.toNat
  if c < 0x80 then l.t.getV c
  else if c < 0xC0 then l.g.u.getS (c - 0x80)
  else if c < 0xD0 then k.ofInt (c - 0xC0 : Nat)
  else if c < 0xE0 then k.ofInt ((c : Int) - 0xE0)
  else if c < 0xE8 then k.ofConst (c - 0xE0)
  else if c = 0xE8 then k.ofInt (l.g.homeLane l.ti : Nat)
  else if c = 0xE9 then k.ofInt (l.g.thrix l.ti : Nat)
  else k.ofInt (l.ti : Nat)

/-- A selector read as a 64-bit value: a register pair, else the sign-extended 32-bit value (R41). -/
def Lane.sel2 (l : Lane) (b : BitVec 8) (signed : Bool) : Int :=
  if b.toNat < 0x80 then (if signed then (l.t.getV2 b.toNat).toInt else (l.t.getV2 b.toNat).toNat)
  else if b.toNat < 0xC0 then
    (if signed then (l.g.u.getS2 (b.toNat - 0x80)).toInt else (l.g.u.getS2 (b.toNat - 0x80)).toNat)
  else (l.sel b .int).toInt

/-- A guard field: predicate code and neg (R45). -/
def Lane.guard (l : Lane) (g : BitVec 4) : Bool := l.t.getP (g.toNat / 2) ^^ decide (g.toNat % 2 = 1)

/-- A uniform guard field (R45). -/
def UFile.guard (u : UFile) (g : BitVec 4) : Bool := u.getQ (g.toNat / 2) ^^ decide (g.toNat % 2 = 1)

/-- The guard field of the 32-bit formats: PT, always true (R45). -/
def always : BitVec 4 := 14

/-- A Bu6 operand: S0 to S31 or an integer 0 to 31 (R42). -/
def UFile.bu (u : UFile) (b : BitVec 6) : Word :=
  if b.toNat < 32 then u.getS b.toNat else BitVec.ofNat 32 (b.toNat - 32)

/-- The MOD fields of the issue (R51). -/
def Issue.md (i : Issue) : FMod :=
  match i.pre with
  | some m => { rnd := m.rnd, sat := m.sat, ftz := m.ftz == 1 }
  | none => FMod.none

/-- The issue carries MOD sat = 01 (R81). -/
def Issue.sat (i : Issue) : Bool := i.md.sat == 1

/-- A lane instruction that acts on registers only: each lane of the issue whose guard is true takes the effect
f, computed from the thread before the instruction (R113); every lane then goes on (R45, R168). -/
def State.laneOp (s : State) (g : BitVec 4) (f : Issue → Lane → Thread → Thread) : State :=
  s.onLanes fun _ ti grp t =>
    let l : Lane := { g := grp, ti := ti, t := t }
    s.issue.advance (if l.guard g then f s.issue l t else t)

/-- A lane instruction that writes V[d] (R110). -/
def State.laneV (s : State) (g : BitVec 4) (d : BitVec 7) (f : Issue → Lane → Word) : State :=
  s.laneOp g fun i l t => t.putV d.toNat (f i l)

/-- A uniform instruction that acts on the uniform registers only (R168). -/
def State.uniOp (s : State) (g : BitVec 4) (f : Issue → UFile → UFile) : State :=
  (s.modU s.issue.who fun u => if u.guard g then f s.issue u else u).advanceU

/-- A uniform instruction that writes S[d] (R110). -/
def State.uniS (s : State) (g : BitVec 4) (d : BitVec 8) (f : Issue → UFile → Word) : State :=
  s.uniOp g fun i u => u.putS d.toNat (f i u)

end Sys2Proof.Machine
end

