-- ==== Sys2Proof/Machine/Flags.lean ====
section
/-! DEFINITION. The computations of predicates and of carries, and the clamps of integer results: comparison and
combination (R135, R153), truth tables (R136), carry and borrow chains (R134), saturation (R80, R122). -/

namespace Sys2Proof.Machine

/-- An integer comparison of R135, signed or unsigned by u. -/
def icmp (c : Nat) (u : Bool) (a b : Word) : Bool :=
  let x : Int := if u then uv a else sv a
  let y : Int := if u then uv b else sv b
  match c with
  | 0 => x == y
  | 1 => x != y
  | 2 => decide (x < y)
  | 3 => decide (x ≤ y)
  | 4 => decide (y < x)
  | _ => decide (y ≤ x)

/-- The combining operation of R135: 0 AND, 1 OR, 2 XOR. -/
def combine (bop : Nat) (c k : Bool) : Bool :=
  match bop with
  | 0 => c && k
  | 1 => c || k
  | _ => c ^^ k

/-- The carry or borrow in of R134; code 7 supplies 0. -/
def carryIn (t : Thread) (cin : Nat) : Int := if cin < 7 then (if t.getP cin then 1 else 0) else 0

/-- A truth table over three predicates (R136). -/
def tableBit (table : Nat) (a b c : Bool) : Bool := bitAt table (b2n a + 2 * b2n b + 4 * b2n c)

/-- An exact integer result kept or clamped under MOD sat (R81). -/
def satS (sat : Bool) (x : Int) : Word := low32 (if sat then clampS32 x else x)

/-- An exact unsigned result kept or clamped under MOD sat (R81). -/
def satU (sat : Bool) (x : Int) : Word := low32 (if sat then clampU32 x else x)

/-- A guard of the launch passes a value (R464): lo ≤ v ≤ hi, a NaN fails. -/
def Kernel.guardPass (k : Kernel) (n : Nat) (v : Num) : Bool :=
  let lo := fp32.dec (k.gdlo n)
  let hi := fp32.dec (k.gdhi n)
  v != .nan && lo != .nan && hi != .nan && lo.cmp v != .gt && v.cmp hi != .gt

/-- A value clamped to a guard (R465): lo if below or NaN, hi if above; as FP32 bits of lo or hi, none if it passes. -/
def Kernel.guardClamp (k : Kernel) (n : Nat) (v : Num) : Option Nat :=
  if k.guardPass n v then none
  else if v = .nan ∨ v.cmp (fp32.dec (k.gdlo n)) = .lt then some (k.gdlo n)
  else some (k.gdhi n)

end Sys2Proof.Machine
end

