-- ==== Sys2Proof/Machine/Integer.lean ====
section
/-! DEFINITION. The integer, logic, bit-field, predicate and move instructions of chapter 05 and NOP (R122 to R139),
lane and uniform forms, one meaning each. -/

namespace Sys2Proof.Machine

/-- What every meaning answers. -/
abbrev Out := Host.Outcome State Fault Refusal

/-! ## Shared results -/

/-- min or max of two integers. -/
def pick (max : Bool) (x y : Int) : Int := if decide (x < y) = max then y else x

/-- floor(x / 2^32). -/
def high32 (x : Int) : Int := x / 4294967296

/-- Shift left, 0 from 32 on (R123). -/
def shlW (a b : Word) : Word := if b.toNat < 32 then a <<< b.toNat else 0
/-- Logical shift right, 0 from 32 on (R123). -/
def shrW (a b : Word) : Word := if b.toNat < 32 then a >>> b.toNat else 0
/-- Arithmetic shift right by at most 31 (R123). -/
def sarW (a b : Word) : Word := a.sshiftRight (min b.toNat 31)
/-- Rotate left by n mod 32 (R123). -/
def rotlW (a b : Word) : Word := a.rotateLeft (b.toNat % 32)

/-- BFX (R131). -/
def bfxW (signed : Bool) (a b : Word) : Word :=
  let pos := b.toNat % 256
  let len := b.toNat / 256 % 256
  if 32 ≤ pos ∨ len = 0 then 0
  else
    let n := min len (32 - pos)
    let f := bitsOf a.toNat pos n
    if signed then BitVec.ofInt 32 (sextNat n f) else BitVec.ofNat 32 f

/-- BFI (R131). -/
def bfiW (a b c : Word) : Word :=
  let pos := b.toNat % 256
  let len := b.toNat / 256 % 256
  if 32 ≤ pos ∨ len = 0 then c
  else
    let n := min len (32 - pos)
    BitVec.ofNat 32 (c.toNat - bitsOf c.toNat pos n * 2 ^ pos + a.toNat % 2 ^ n * 2 ^ pos)

/-- One result byte of BYTEX by its selector byte (R132). -/
def bytexByte (a b : Word) (s : Nat) : Nat :=
  let j := s % 8
  let x := if j < 4 then byteOf a j else byteOf b (j - 4)
  match s / 8 % 4 with
  | 0 => x
  | 1 => if 128 ≤ x then 255 else 0
  | 2 => 0
  | _ => 255

/-- BYTEX (R132). -/
def bytexW (a b c : Word) : Word :=
  BitVec.ofNat 32 ((List.range 4).foldl (fun n i => n + bytexByte a b (byteOf c i) * 256 ^ i) 0)

/-- The exact sum of IDOT8 (R128). -/
def idot8 (ua ub : Bool) (a b c : Word) : Int :=
  (List.range 4).foldl (fun x k =>
    let p : Int := if ua then (byteOf a k : Int) else sextNat 8 (byteOf a k)
    let q : Int := if ub then (byteOf b k : Int) else sextNat 8 (byteOf b k)
    x + p * q) (sv c)

/-- The widened element of IADDW (R129). -/
def addwElement (ty k : Nat) (b : Word) : Int :=
  match ty with
  | 0 => byteOf b k
  | 1 => sextNat 8 (byteOf b k)
  | 2 => half b (k % 2)
  | _ => sextNat 16 (half b (k % 2))

/-- A 64-bit result clamped to its type under MOD sat (R127). -/
def sat64 (sat unsigned : Bool) (x : Int) : BitVec 64 :=
  BitVec.ofInt 64 (if sat then (if unsigned then clampInt 0 18446744073709551615 x
    else clampInt (-9223372036854775808) 9223372036854775807 x) else x)

/-- A lane form of R122 and R123 over A and B. -/
def State.alu (s : State) (d a : BitVec 7) (b : BitVec 8) (f : Bool → Word → Word → Word) : State :=
  s.laneV always d fun i l => f i.sat (l.t.getV a.toNat) (l.sel b .int)

/-- A uniform form of R122 and R123 over A and B. -/
def State.ualu (s : State) (d a : BitVec 8) (b : BitVec 6) (f : Bool → Word → Word → Word) : State :=
  s.uniS always d fun i u => f i.sat (u.getS a.toNat) (u.bu b)

/-- A three-source lane form over A, B and C (R125). -/
def State.alu3 (s : State) (g : BitVec 4) (d a : BitVec 7) (b c : BitVec 8) (f : Bool → Word → Word → Word → Word) : State :=
  s.laneV g d fun i l => f i.sat (l.t.getV a.toNat) (l.sel b .int) (l.sel c .int)

/-! ## The LR forms -/

/-- IADD: exact sum (R122). -/
def execIadd (d a : BitVec 7) (b : BitVec 8) (s : State) : Out :=
  .next (s.alu d a b fun t x y => satS t (sv x + sv y))

/-- ISUB: exact difference (R122). -/
def execIsub (d a : BitVec 7) (b : BitVec 8) (s : State) : Out :=
  .next (s.alu d a b fun t x y => satS t (sv x - sv y))

/-- IMUL: low word of the product (R122). -/
def execImul (d a : BitVec 7) (b : BitVec 8) (s : State) : Out :=
  .next (s.alu d a b fun t x y => satS t (sv x * sv y))

/-- IMULH: high word of the signed product (R122). -/
def execImulh (d a : BitVec 7) (b : BitVec 8) (s : State) : Out :=
  .next (s.alu d a b fun t x y => satS t (high32 (sv x * sv y)))

/-- IMULHU: high word of the unsigned product (R122). -/
def execImulhu (d a : BitVec 7) (b : BitVec 8) (s : State) : Out :=
  .next (s.alu d a b fun t x y => satU t (high32 (uv x * uv y)))

/-- IMIN: signed minimum (R122). -/
def execImin (d a : BitVec 7) (b : BitVec 8) (s : State) : Out :=
  .next (s.alu d a b fun t x y => satS t (pick false (sv x) (sv y)))

/-- IMAX: signed maximum (R122). -/
def execImax (d a : BitVec 7) (b : BitVec 8) (s : State) : Out :=
  .next (s.alu d a b fun t x y => satS t (pick true (sv x) (sv y)))

/-- IMINU: unsigned minimum (R122). -/
def execIminu (d a : BitVec 7) (b : BitVec 8) (s : State) : Out :=
  .next (s.alu d a b fun t x y => satU t (pick false (uv x) (uv y)))

/-- IMAXU: unsigned maximum (R122). -/
def execImaxu (d a : BitVec 7) (b : BitVec 8) (s : State) : Out :=
  .next (s.alu d a b fun t x y => satU t (pick true (uv x) (uv y)))

/-- IADDS: sum clamped to INT32 (R122). -/
def execIadds (d a : BitVec 7) (b : BitVec 8) (s : State) : Out :=
  .next (s.alu d a b fun _ x y => low32 (clampS32 (sv x + sv y)))

/-- ISUBS: difference clamped to INT32 (R122). -/
def execIsubs (d a : BitVec 7) (b : BitVec 8) (s : State) : Out :=
  .next (s.alu d a b fun _ x y => low32 (clampS32 (sv x - sv y)))

/-- IADDSU: sum clamped to UINT32 (R122). -/
def execIaddsu (d a : BitVec 7) (b : BitVec 8) (s : State) : Out :=
  .next (s.alu d a b fun _ x y => low32 (clampU32 (uv x + uv y)))

/-- ISUBSU: difference clamped to UINT32 (R122). -/
def execIsubsu (d a : BitVec 7) (b : BitVec 8) (s : State) : Out :=
  .next (s.alu d a b fun _ x y => low32 (clampU32 (uv x - uv y)))

/-- AND: bitwise AND (R123). -/
def execAnd (d a : BitVec 7) (b : BitVec 8) (s : State) : Out :=
  .next (s.alu d a b fun _ x y => x &&& y)

/-- OR: bitwise OR (R123). -/
def execOr (d a : BitVec 7) (b : BitVec 8) (s : State) : Out :=
  .next (s.alu d a b fun _ x y => x ||| y)

/-- XOR: bitwise XOR (R123). -/
def execXor (d a : BitVec 7) (b : BitVec 8) (s : State) : Out :=
  .next (s.alu d a b fun _ x y => x ^^^ y)

/-- ANDN: A and not B (R123). -/
def execAndn (d a : BitVec 7) (b : BitVec 8) (s : State) : Out :=
  .next (s.alu d a b fun _ x y => x &&& ~~~y)

/-- ORN: A or not B (R123). -/
def execOrn (d a : BitVec 7) (b : BitVec 8) (s : State) : Out :=
  .next (s.alu d a b fun _ x y => x ||| ~~~y)

/-- SHL: shift left (R123). -/
def execShl (d a : BitVec 7) (b : BitVec 8) (s : State) : Out :=
  .next (s.alu d a b fun _ x y => shlW x y)

/-- SHR: logical shift right (R123). -/
def execShr (d a : BitVec 7) (b : BitVec 8) (s : State) : Out :=
  .next (s.alu d a b fun _ x y => shrW x y)

/-- SAR: arithmetic shift right (R123). -/
def execSar (d a : BitVec 7) (b : BitVec 8) (s : State) : Out :=
  .next (s.alu d a b fun _ x y => sarW x y)

/-- ROTL: rotate left (R123). -/
def execRotl (d a : BitVec 7) (b : BitVec 8) (s : State) : Out :=
  .next (s.alu d a b fun _ x y => rotlW x y)

/-- IABS: absolute value (R122). -/
def execIabs (d a : BitVec 7) (s : State) : Out := .next (s.laneV always d fun i l => satS i.sat (sv (l.t.getV a.toNat)).natAbs)

/-- POPC: number of 1 bits (R123). -/
def execPopc (d a : BitVec 7) (s : State) : Out := .next (s.laneV always d fun _ l => BitVec.ofNat 32 (popcount (l.t.getV a.toNat)))

/-- CLZ: leading zero bits (R123). -/
def execClz (d a : BitVec 7) (s : State) : Out := .next (s.laneV always d fun _ l => BitVec.ofNat 32 (clzWord (l.t.getV a.toNat)))

/-- BREV: bits reversed (R123). -/
def execBrev (d a : BitVec 7) (s : State) : Out := .next (s.laneV always d fun _ l => bitReverse (l.t.getV a.toNat))

/-- MOV: the B operand (R123). -/
def execMov (d : BitVec 7) (b : BitVec 8) (s : State) : Out := .next (s.laneV always d fun _ l => l.sel b .int)

/-- NOP: the lanes go on (R63). -/
def execNop (s : State) : Out := .next (s.laneOp always fun _ _ t => t)

/-! ## The UR forms -/

/-- UADD: exact sum (R122). -/
def execUadd (d a : BitVec 8) (b : BitVec 6) (s : State) : Out :=
  .next (s.ualu d a b fun t x y => satS t (sv x + sv y))

/-- USUB: exact difference (R122). -/
def execUsub (d a : BitVec 8) (b : BitVec 6) (s : State) : Out :=
  .next (s.ualu d a b fun t x y => satS t (sv x - sv y))

/-- UMUL: low word of the product (R122). -/
def execUmul (d a : BitVec 8) (b : BitVec 6) (s : State) : Out :=
  .next (s.ualu d a b fun t x y => satS t (sv x * sv y))

/-- UMULH: high word of the signed product (R122). -/
def execUmulh (d a : BitVec 8) (b : BitVec 6) (s : State) : Out :=
  .next (s.ualu d a b fun t x y => satS t (high32 (sv x * sv y)))

/-- UMIN: signed minimum (R122). -/
def execUmin (d a : BitVec 8) (b : BitVec 6) (s : State) : Out :=
  .next (s.ualu d a b fun t x y => satS t (pick false (sv x) (sv y)))

/-- UMAX: signed maximum (R122). -/
def execUmax (d a : BitVec 8) (b : BitVec 6) (s : State) : Out :=
  .next (s.ualu d a b fun t x y => satS t (pick true (sv x) (sv y)))

/-- UMINU: unsigned minimum (R122). -/
def execUminu (d a : BitVec 8) (b : BitVec 6) (s : State) : Out :=
  .next (s.ualu d a b fun t x y => satU t (pick false (uv x) (uv y)))

/-- UMAXU: unsigned maximum (R122). -/
def execUmaxu (d a : BitVec 8) (b : BitVec 6) (s : State) : Out :=
  .next (s.ualu d a b fun t x y => satU t (pick true (uv x) (uv y)))

/-- UAND: bitwise AND (R123). -/
def execUand (d a : BitVec 8) (b : BitVec 6) (s : State) : Out :=
  .next (s.ualu d a b fun _ x y => x &&& y)

/-- UOR: bitwise OR (R123). -/
def execUor (d a : BitVec 8) (b : BitVec 6) (s : State) : Out :=
  .next (s.ualu d a b fun _ x y => x ||| y)

/-- UXOR: bitwise XOR (R123). -/
def execUxor (d a : BitVec 8) (b : BitVec 6) (s : State) : Out :=
  .next (s.ualu d a b fun _ x y => x ^^^ y)

/-- UANDN: A and not B (R123). -/
def execUandn (d a : BitVec 8) (b : BitVec 6) (s : State) : Out :=
  .next (s.ualu d a b fun _ x y => x &&& ~~~y)

/-- USHL: shift left (R123). -/
def execUshl (d a : BitVec 8) (b : BitVec 6) (s : State) : Out :=
  .next (s.ualu d a b fun _ x y => shlW x y)

/-- USHR: logical shift right (R123). -/
def execUshr (d a : BitVec 8) (b : BitVec 6) (s : State) : Out :=
  .next (s.ualu d a b fun _ x y => shrW x y)

/-- USAR: arithmetic shift right (R123). -/
def execUsar (d a : BitVec 8) (b : BitVec 6) (s : State) : Out :=
  .next (s.ualu d a b fun _ x y => sarW x y)

/-- UPOPC: number of 1 bits (R123). -/
def execUpopc (d a : BitVec 8) (s : State) : Out :=
  .next (s.uniS always d fun _ u => BitVec.ofNat 32 (popcount (u.getS a.toNat)))

/-- UCLZ: leading zero bits (R123). -/
def execUclz (d a : BitVec 8) (s : State) : Out :=
  .next (s.uniS always d fun _ u => BitVec.ofNat 32 (clzWord (u.getS a.toNat)))

/-- UMOV: the Bu6 operand (R123). -/
def execUmov (d : BitVec 8) (b : BitVec 6) (s : State) : Out := .next (s.uniS always d fun _ u => u.bu b)

/-- UNOP: the group goes on (R63). -/
def execUnop (s : State) : Out := .next (s.uniOp always fun _ u => u)

/-! ## The LX integer forms -/

/-- IMAC: multiply-add (R126). -/
def execImac (g : BitVec 4) (d a : BitVec 7) (b c : BitVec 8) (s : State) : Out :=
  .next (s.alu3 g d a b c fun t x y z => satS t (sv x * sv y + sv z))

/-- IMACW: 64-bit multiply-add (R127). -/
def execImacw (g : BitVec 4) (d a : BitVec 7) (b c : BitVec 8) (u : BitVec 1) (s : State) : Out :=
  .next (s.laneOp g fun i l t =>
    let x := l.t.getV a.toNat
    let y := l.sel b .int
    let e : Int := if u = 1 then uv x * uv y else sv x * sv y
    t.putV2 d.toNat (sat64 i.sat (u == 1) (e + l.sel2 c (u == 0))))

/-- ISUM3: three-operand sum (R126). -/
def execIsum3 (g : BitVec 4) (d a : BitVec 7) (b c : BitVec 8) (s : State) : Out :=
  .next (s.alu3 g d a b c fun t x y z => satS t (sv x + sv y + sv z))

/-- IDOT8: dot product of bytes (R128). -/
def execIdot8 (g : BitVec 4) (d a : BitVec 7) (b c : BitVec 8) (ua ub : BitVec 1) (s : State) : Out :=
  .next (s.alu3 g d a b c fun t x y z => satS t (idot8 (ua == 1) (ub == 1) x y z))

/-- IABDA: absolute difference and add (R126). -/
def execIabda (g : BitVec 4) (d a : BitVec 7) (b c : BitVec 8) (u : BitVec 1) (s : State) : Out :=
  .next (s.alu3 g d a b c fun t x y z =>
    if u = 1 then satU t ((uv x - uv y).natAbs + sv z) else satS t ((sv x - sv y).natAbs + sv z))

/-- IADDC: add with carry (R134). -/
def execIaddc (g : BitVec 4) (d a : BitVec 7) (b : BitVec 8) (cin cout : BitVec 3) (s : State) : Out :=
  .next (s.laneOp g fun _ l t =>
    let x := uv (l.t.getV a.toNat) + uv (l.sel b .int) + carryIn l.t cin.toNat
    (t.putV d.toNat (low32 x)).putP cout.toNat (decide (4294967296 ≤ x)))

/-- ISUBB: subtract with borrow (R134). -/
def execIsubb (g : BitVec 4) (d a : BitVec 7) (b : BitVec 8) (cin cout : BitVec 3) (s : State) : Out :=
  .next (s.laneOp g fun _ l t =>
    let x := uv (l.t.getV a.toNat) - uv (l.sel b .int) - carryIn l.t cin.toNat
    (t.putV d.toNat (low32 x)).putP cout.toNat (decide (x < 0)))

/-- IADDW: add a widened element (R129). -/
def execIaddw (g : BitVec 4) (d a : BitVec 7) (b : BitVec 8) (ty k : BitVec 2) (s : State) : Out :=
  .next (s.laneV g d fun i l => satS i.sat (sv (l.t.getV a.toNat) + addwElement ty.toNat k.toNat (l.sel b .int)))

/-- LEA: base plus shifted index, 32 or 64 bits (R130). -/
def execLea (g : BitVec 4) (d a : BitVec 7) (b : BitVec 8) (sg w : BitVec 1) (sh : BitVec 5) (s : State) : Out :=
  .next (s.laneOp g fun _ l t =>
    let y := l.sel b .int
    let x : Int := (if sg = 1 then sv y else uv y) * (2 ^ sh.toNat : Nat)
    if w = 1 then t.putV2 d.toNat (BitVec.ofInt 64 ((l.t.getV2 a.toNat).toNat + x))
    else t.putV d.toNat (low32 (uv (l.t.getV a.toNat) + x)))

/-- BFX: bit-field extract (R131). -/
def execBfx (g : BitVec 4) (d a : BitVec 7) (b : BitVec 8) (sg : BitVec 1) (s : State) : Out :=
  .next (s.laneV g d fun _ l => bfxW (sg == 1) (l.t.getV a.toNat) (l.sel b .int))

/-- BFI: bit-field insert (R131). -/
def execBfi (g : BitVec 4) (d a : BitVec 7) (b c : BitVec 8) (s : State) : Out :=
  .next (s.alu3 g d a b c fun _ x y z => bfiW x y z)

/-- BYTEX: byte selection (R132). -/
def execBytex (g : BitVec 4) (d a : BitVec 7) (b c : BitVec 8) (s : State) : Out :=
  .next (s.alu3 g d a b c fun _ x y z => bytexW x y z)

/-- SEL: selection by a predicate (R133). -/
def execSel (g : BitVec 4) (d a : BitVec 7) (b : BitVec 8) (pneg : BitVec 1) (p : BitVec 3) (s : State) : Out :=
  .next (s.laneV g d fun _ l => if l.t.getP p.toNat ^^ (pneg == 1) then l.t.getV a.toNat else l.sel b .int)

/-- ISETP: integer comparison into a predicate (R135). -/
def execIsetp (g : BitVec 4) (a : BitVec 7) (b : BitVec 8) (pd pc : BitVec 3) (pcneg : BitVec 1) (bop : BitVec 2)
    (u : BitVec 1) (cmp : BitVec 3) (s : State) : Out :=
  .next (s.laneOp g fun _ l t =>
    t.putP pd.toNat (combine bop.toNat (icmp cmp.toNat (u == 1) (l.t.getV a.toNat) (l.sel b .int))
      (l.t.getP pc.toNat ^^ (pcneg == 1))))

/-- MOVLO: a 16-bit immediate (R138). -/
def execMovlo (g : BitVec 4) (d : BitVec 7) (imm : BitVec 16) (s : State) : Out :=
  .next (s.laneV g d fun _ _ => imm.setWidth 32)

/-- MOVHI: a 16-bit immediate into the high half, the low half kept (R138). -/
def execMovhi (g : BitVec 4) (d : BitVec 7) (imm : BitVec 16) (s : State) : Out :=
  .next (s.laneV g d fun _ l => imm ++ (l.t.getV d.toNat).extractLsb' 0 16)

/-- PTAB: a truth table over three predicates (R136). -/
def execPtab (g : BitVec 4) (pd pa pb pc : BitVec 3) (table : BitVec 8) (s : State) : Out :=
  .next (s.laneOp g fun _ l t =>
    t.putP pd.toNat (tableBit table.toNat (l.t.getP pa.toNat) (l.t.getP pb.toNat) (l.t.getP pc.toNat)))

/-- P2V: the predicates into a register (R137). -/
def execP2v (g : BitVec 4) (d : BitVec 7) (s : State) : Out := .next (s.laneV g d fun _ l => l.t.p.setWidth 32)

/-- V2P: selected bits of a register into the predicates (R137). -/
def execV2p (g : BitVec 4) (a : BitVec 7) (b : BitVec 8) (s : State) : Out :=
  .next (s.laneOp g fun _ l t =>
    (List.range 7).foldl (fun t i =>
      if (l.sel b .int).getLsbD i then t.putP i ((l.t.getV a.toNat).getLsbD i) else t) t)

/-! ## The UX integer forms -/

/-- UMAC: multiply-add (R139). -/
def execUmac (g : BitVec 4) (d a : BitVec 8) (b : BitVec 6) (sb : BitVec 8) (s : State) : Out :=
  .next (s.uniS g d fun i u => satS i.sat (sv (u.getS a.toNat) * sv (u.bu b) + sv (u.getS sb.toNat)))

/-- UMOVLO: a 16-bit immediate (R138). -/
def execUmovlo (g : BitVec 4) (d : BitVec 8) (imm : BitVec 16) (s : State) : Out :=
  .next (s.uniS g d fun _ _ => imm.setWidth 32)

/-- UMOVHI: a 16-bit immediate into the high half, the low half kept (R138). -/
def execUmovhi (g : BitVec 4) (d : BitVec 8) (imm : BitVec 16) (s : State) : Out :=
  .next (s.uniS g d fun _ u => imm ++ (u.getS d.toNat).extractLsb' 0 16)

/-- USETP: integer comparison into a uniform predicate (R135). -/
def execUsetp (g : BitVec 4) (a : BitVec 8) (b : BitVec 6) (pd pc : BitVec 3) (pcneg : BitVec 1) (bop : BitVec 2)
    (u : BitVec 1) (cmp : BitVec 3) (s : State) : Out :=
  .next (s.uniOp g fun _ f =>
    f.putQ pd.toNat (combine bop.toNat (icmp cmp.toNat (u == 1) (f.getS a.toNat) (f.bu b)) (f.getQ pc.toNat ^^ (pcneg == 1))))

/-- USEL: selection by a uniform predicate (R139). -/
def execUsel (g : BitVec 4) (d a : BitVec 8) (b : BitVec 6) (qneg : BitVec 1) (q : BitVec 3) (s : State) : Out :=
  .next (s.uniS g d fun _ u => if u.getQ q.toNat ^^ (qneg == 1) then u.getS a.toNat else u.bu b)

/-- UBFX: bit-field extract (R131, R139). -/
def execUbfx (g : BitVec 4) (d a : BitVec 8) (b : BitVec 6) (sg : BitVec 1) (s : State) : Out :=
  .next (s.uniS g d fun _ u => bfxW (sg == 1) (u.getS a.toNat) (u.bu b))

/-- UBFI: bit-field insert (R131, R139). -/
def execUbfi (g : BitVec 4) (d a : BitVec 8) (b : BitVec 6) (sb : BitVec 8) (s : State) : Out :=
  .next (s.uniS g d fun _ u => bfiW (u.getS a.toNat) (u.bu b) (u.getS sb.toNat))

end Sys2Proof.Machine
end

