-- ==== Sys2Proof/Machine/Special.lean ====
section
/-! DEFINITION. The special functions of R155 and R156. Outside the values R156 fixes and the correctly
rounded FSQRT the bits of a result are free within the stated error bound: the free value of Config is
taken where it lies within the bound, and the correctly rounded value stands in where it does not. The bound
is tested against an enclosure of the exact function computed here in fixed point. -/

namespace Sys2Proof.Machine

/-- Fixed-point one: 2^128. -/
def fxOne : Nat := 2 ^ 128

/-- An enclosure lo ≤ x ≤ hi of a real number in units of 2^−128, times 2^scale. -/
structure Encl where
  lo : Int
  hi : Int
  scale : Int
  deriving DecidableEq, Repr

/-- |y − x| ≤ tol for the exact y, every x of the enclosure, and tol in units of 2^(scale − 128). (DEDUCED, log entry 8) -/
def Encl.near (x : Encl) (tol : Int) (y : Num) : Bool :=
  let at' (n : Bool) (m : Nat) (e : Int) : Bool :=
    let el := min e (x.scale - 128)
    let v : Int := (if n then -1 else 1) * (m * 2 ^ (e - el).toNat : Nat)
    let u : Int := (2 ^ (x.scale - 128 - el).toNat : Nat)
    decide ((x.hi - tol) * u ≤ v ∧ v ≤ (x.lo + tol) * u)
  match y with
  | .zero _ => at' false 0 0
  | .fin n m e => at' n m e
  | _ => false

/-- One unit in the last place of FP32 at the lesser magnitude of the enclosure, in its own units: an enclosure that reaches a
power of two from below holds an exact value below it. -/
def Encl.ulp (x : Encl) : Int :=
  let top : Int := (Nat.log2 (min x.lo.natAbs x.hi.natAbs) : Int) - 128 + x.scale
  let s := max (top - 23) (-149) + 128 - x.scale
  if 0 ≤ s then (2 ^ s.toNat : Nat) else 1

/-- The middle of an enclosure, as an exact value. -/
def Encl.mid (x : Encl) : Num :=
  Num.mk' (decide (x.lo + x.hi < 0)) (x.lo + x.hi).natAbs (x.scale - 129)

/-- 1 / (m × 2^e). -/
def enclRcp (m : Nat) (e : Int) : Encl :=
  let k := Nat.log2 m
  let q := fxOne * 2 ^ k / m
  { lo := q, hi := q + 1, scale := -e - k }

/-- 1 / √(m × 2^e). -/
def enclRsq (m : Nat) (e : Int) : Encl :=
  let m' := if e % 2 = 0 then m else 2 * m
  let e' := if e % 2 = 0 then e else e - 1
  let k := Nat.log2 m' / 2
  let q := isqrt (fxOne * fxOne * 2 ^ (2 * k) / m')
  { lo := q, hi := q + 1, scale := -(e' / 2) - k }

/-- The product of the factors 2^(2^−i) chosen by the bits of f below position p, over n further bits:
`r` is the current factor in fixed point. -/
def exp2Aux (f p : Nat) : Nat → Nat → Nat → Nat × Nat → Nat × Nat
  | 0, _, _, acc => (acc.1, acc.2 + acc.2 / 2 ^ 104 + 1)
  | n + 1, i, r, acc =>
    let acc' := if p < i then acc else if f / 2 ^ (p - i) % 2 = 1 then
      (acc.1 * r / fxOne, acc.2 * (r + 2) / fxOne + 1) else acc
    exp2Aux f p n (i + 1) (isqrt (r * fxOne)) acc'

/-- 2^A for A = (−1)^neg × m × 2^e of magnitude below 256, to 104 bits; the fraction of A makes a factor below 2. -/
def enclExp2 (neg : Bool) (m : Nat) (e : Int) : Encl :=
  let p := (-e).toNat
  let v : Int := (if neg then -1 else 1) * (m * 2 ^ e.toNat : Nat)
  let n := v / (2 ^ p : Nat)
  let f := (v % (2 ^ p : Nat)).toNat
  let r := exp2Aux f p 104 1 (isqrt (2 * fxOne * fxOne)) (fxOne, fxOne)
  { lo := r.1, hi := min r.2 (2 * fxOne), scale := n }

/-- The bits of log2 of y in [1, 2) held with 256 fraction bits, by repeated squaring. -/
def log2Aux : Nat → Nat → Nat → Nat
  | 0, _, acc => acc
  | n + 1, y, acc =>
    let z := y * y / 2 ^ 256
    if 2 ^ 257 ≤ z then log2Aux n (z / 2) (2 * acc + 1) else log2Aux n z (2 * acc)

/-- log2 of m × 2^e, to 104 bits. -/
def enclLog2 (m : Nat) (e : Int) : Encl :=
  let k := Nat.log2 m
  let bits := log2Aux 104 (m * 2 ^ 256 / 2 ^ k) 0
  let base : Int := (e + k) * fxOne
  { lo := base + (bits - 1 : Int) * 2 ^ 24, hi := base + (bits + 2) * 2 ^ 24, scale := 0 }

/-- 2π in units of 2^−128. -/
def twoPi : Nat := 2138057168129933495719360746323741566601

/-- The alternating series of sine or cosine: `t` the current term, `x2` the squared angle, `k` the next
divisor pair. -/
def trigAux (x2 : Nat) : Nat → Nat → Int → Bool → Int → Int
  | 0, _, _, _, acc => acc
  | n + 1, k, t, neg, acc =>
    let t' := t * x2 / fxOne / (k * (k + 1))
    trigAux x2 n (k + 2) t' (!neg) (if neg then acc - t' else acc + t')

/-- sin(2πr) or cos(2πr) for r a quarter turn at most, in units of 2^−128. -/
def trigQuarter (cos : Bool) (r : Nat) : Int :=
  let x := r * twoPi / fxOne
  let x2 := x * x / fxOne
  if cos then trigAux x2 24 1 fxOne true fxOne else trigAux x2 24 2 x true x

/-- sin or cos of 2π × A for A = (−1)^neg × m × 2^e, by the quadrant of its fractional part, which also gives its sign. -/
def enclTrig (cos neg : Bool) (m : Nat) (e : Int) : Encl :=
  let p := (-e).toNat
  let v : Int := (if neg then -1 else 1) * (m * 2 ^ e.toNat : Nat)
  let r := (v % (2 ^ p : Nat)).toNat * fxOne / 2 ^ p
  let q := r / (fxOne / 4)
  let d := r % (fxOne / 4)
  let quad := (q + (if cos then 1 else 0)) % 4
  let x : Int := if quad % 2 = 0 then trigQuarter false d else trigQuarter true d
  let lo : Int := max (x - 2 ^ 20) 0
  let hi : Int := min (x + 2 ^ 20) (fxOne : Int)
  if quad < 2 then { lo := lo, hi := hi, scale := 0 } else { lo := -hi, hi := -lo, scale := 0 }

/-- The seven special functions (R155). -/
inductive SpecialFn where
  | rcp | rsq | sqrt | exp2 | log2 | sint | cost
  deriving DecidableEq, Repr

/-- The FP32 value taken for an exact value known by an enclosure: the free value where it is within
`tol` of it, else the value nearest to the middle of the enclosure. (DEDUCED, log entry 8) -/
def withinBound (x : Encl) (tol : Int) (candidate : Word) : Nat :=
  if x.near tol (fp32.dec candidate.toNat) then candidate.toNat else fp32.rnd .rne x.mid

/-- The special values of R156 and the bounded results of R155, before step 4 of R142. `cand` is the free
value; A is the operand after step 1. -/
def specialResult (fn : SpecialFn) (rnd : BitVec 3) (a : Nat) (cand : Word) : Nat :=
  let nanB := fp32.nanBits
  let inf (n : Bool) := fp32.signed n fp32.infBits
  let one (n : Bool) := fp32.signed n fp32.one
  let abs22 : Int := 2 ^ 106
  match fn, fp32.dec a with
  | _, .nan => nanB
  | .rcp, .inf n => fp32.signed n 0
  | .rcp, .zero n => inf n
  | .rcp, .fin n m e =>
    if Nat.log2 m + e < -128 ∨ (Nat.log2 m + e = -128 ∧ m = 2 ^ Nat.log2 m) then inf n
    else if m = 2 ^ Nat.log2 m ∧ Nat.log2 m + e ≤ 126 then fp32.rnd .rne (.fin n 1 (-(Nat.log2 m + e)))
    else
      let x := enclRcp m e
      let y := if n then { x with lo := -x.hi, hi := -x.lo } else x
      -- above 2^126 the result is subnormal (R156)
      let big := decide (126 ≤ Nat.log2 m + e)
      if big && decide (0x00800000 ≤ cand.toNat % 2 ^ 31) then fp32.rnd .rne y.mid else withinBound y y.ulp cand
  | .rsq, .inf n => if n then nanB else 0
  | .rsq, .zero n => inf n
  | .rsq, .fin n m e =>
    if n then nanB
    else if m = 2 ^ Nat.log2 m ∧ (Nat.log2 m + e) % 2 = 0 then fp32.rnd .rne (.fin false 1 (-((Nat.log2 m + e) / 2)))
    else let x := enclRsq m e; withinBound x x.ulp cand
  | .sqrt, .inf n => if n then nanB else inf false
  | .sqrt, .zero n => fp32.signed n 0
  | .sqrt, .fin n m e => if n then nanB else fp32.rnd (rmode rnd .rne) (sqrtSticky m e)
  | .exp2, .inf n => if n then 0 else inf false
  | .exp2, .zero _ => one false
  | .exp2, .fin n m e =>
    if (Num.fin n m e).cmp (.fin false 128 0) ≠ .lt then inf false
    else if (Num.fin n m e).cmp (.fin true 150 0) = .lt then 0
    else
      let k := m * 2 ^ e.toNat / 2 ^ (-e).toNat
      if m * 2 ^ e.toNat % 2 ^ (-e).toNat = 0 ∧ (n → k ≤ 149) then
        fp32.rnd .rne (.fin false 1 (if n then -(k : Int) else k))
      else let x := enclExp2 n m e; withinBound x (2 * x.ulp) cand
  | .log2, .inf n => if n then nanB else inf false
  | .log2, .zero _ => inf true
  | .log2, .fin n m e =>
    if n then nanB
    else if m = 2 ^ Nat.log2 m then fp32.rnd .rne (Num.ofInt (Nat.log2 m + e))
    else
      let x := enclLog2 m e
      let narrow := Nat.log2 m + e = 0 ∨ Nat.log2 m + e = -1
      withinBound x (if narrow then abs22 else 2 * x.ulp) cand
  | .sint, .inf _ => nanB
  | .sint, .zero n => fp32.signed n 0
  | .sint, .fin n m e =>
    if 0 ≤ e ∨ 2 * m % 2 ^ (-e).toNat = 0 then 0
    else
      let v : Int := (if n then -(m : Int) else m)
      if 4 * m % 2 ^ (-e).toNat = 0 then one (decide (4 * v / (2 ^ (-e).toNat : Nat) % 4 = 3))
      else withinBound (enclTrig false n m e) abs22 cand
  | .cost, .inf _ => nanB
  | .cost, .zero _ => one false
  | .cost, .fin n m e =>
    if 0 ≤ e ∨ m % 2 ^ (-e).toNat = 0 then one false
    else if 2 * m % 2 ^ (-e).toNat = 0 then one true
    else if 4 * m % 2 ^ (-e).toNat = 0 then 0
    else withinBound (enclTrig true n m e) abs22 cand

/-- A special function of R155 on an FP32 word, with its modifiers; the rnd field takes effect in FSQRT alone (R144, R155). (DEDUCED, log entry 8) -/
def specialFn (fn : SpecialFn) (md : FMod) (a : Word) : Word :=
  let code := match fn with
    | .rcp => 0 | .rsq => 1 | .sqrt => 2 | .exp2 => 3 | .log2 => 4 | .sint => 5 | .cost => 6
  let cand := Config.specialBits code a (md.sat.toNat * 2 + md.ftz.toNat)
  BitVec.ofNat 32 (fp32.exactResult md (specialResult fn md.rnd (fp32.ftz md.ftz a.toNat) cand))

end Sys2Proof.Machine
end

