-- ==== Sys2Proof/Machine/Float.lean ====
section
/-! DEFINITION. The floating-point and conversion instructions of chapter 06 (R142 to R160), one meaning each. -/

namespace Sys2Proof.Machine

/-! ## Shared results -/

/-- A word from a bit pattern. -/
def ofBits (x : Nat) : Word := BitVec.ofNat 32 x

/-- The rounding mode of a floating instruction whose default is RNE (R142). -/
def FMod.rm (md : FMod) : Rm := rmode md.rnd .rne

/-- An FP32 result through the result path (R142). -/
def fres (md : FMod) (x : Num) : Word := ofBits (fp32.result md md.rm x)

/-- An FP32 operand of a register (R142 step 1). -/
def fop (md : FMod) (x : Word) : Num := fp32.operand md x.toNat

/-- A two-operand FP32 form (R146). -/
def State.flane (s : State) (d a : BitVec 7) (b : BitVec 8) (f : FMod → Word → Word → Word) : State :=
  s.laneV always d fun i l => f i.md (l.t.getV a.toNat) (l.sel b .f32)

/-- A one-operand FP32 form (R146). -/
def State.flane1 (s : State) (d a : BitVec 7) (f : FMod → Word → Word) : State :=
  s.laneV always d fun i l => f i.md (l.t.getV a.toNat)

/-- A packed form acts on each half (R149). -/
def packed (f : Nat → Nat → Nat) (x y : Word) : Word := ofHalves (f (half x 0) (half y 0)) (f (half x 1) (half y 1))

/-- A packed two-operand form (R149). -/
def State.plane (s : State) (d a : BitVec 7) (b : BitVec 8) (f : Fmt) (op : FMod → Nat → Nat → Nat) : State :=
  s.laneV always d fun i l => packed (op i.md) (l.t.getV a.toNat) (l.sel b (.pair f))

/-- Sum of two elements of a format (R146, R149). -/
def faddBits (f : Fmt) (md : FMod) (x y : Nat) : Nat := f.result md md.rm ((f.operand md x).add md.rm (f.operand md y))

/-- Product of two elements of a format (R146, R149). -/
def fmulBits (f : Fmt) (md : FMod) (x y : Nat) : Nat := f.result md md.rm ((f.operand md x).mul (f.operand md y))

/-- Minimum or maximum of two elements of a format (R147). -/
def fminmaxBits (f : Fmt) (max : Bool) (md : FMod) (x y : Nat) : Nat :=
  f.exactResult md (f.minmax max (f.ftz md.ftz x) (f.ftz md.ftz y))

/-- Fused multiply-add of elements of a format, product and addend negated by np and nc (R150). -/
def ffmaBits (f : Fmt) (md : FMod) (np nc : Bool) (x y z : Nat) : Nat :=
  let p := (f.operand md x).mul (f.operand md y)
  let c := f.operand md z
  f.result md md.rm ((if np then p.flip else p).add md.rm (if nc then c.flip else c))

/-- A rounding to integral that is exact by construction (R146, R148). -/
def fintegral (rm : Rm) (md : FMod) (x : Word) : Word :=
  ofBits (fp32.exactResult md (fp32.rnd .rne (fp32.integral rm (fp32.ftz md.ftz x.toNat))))

/-- Conversion to an integer range with its default RZ and the integer clamps of MOD sat (R144, R157). -/
def toIntWord (md : FMod) (lo hi : Int) (x : Word) : Word :=
  let y := (fop md x).toRange (rmode md.rnd .rz) lo hi
  BitVec.ofInt 32 (match md.sat.toNat with
    | 2 => clampInt 0 1 y
    | 3 => clampInt (-1) 1 y
    | _ => y)

/-- Conversion of an FP32 value to a half of a format (R157): ftz flushes a subnormal input as well as the result (R89, R142
steps 1 and 4). (DEDUCED, log entry 84) -/
def narrowHalf (f : Fmt) (md : FMod) (x : Word) : Nat := f.result md md.rm (fp32.operand md x.toNat)

/-- Conversion of a half of a format to FP32, exact (R157). -/
def widenHalf (f : Fmt) (md : FMod) (x : Nat) : Word := ofBits (fp32.exactResult md (fp32.rnd .rne (f.operand md x)))

/-! ## Format slots -/

/-- FMT of a format slot (R102). -/
def slotFmt (f : Nat) : Nat := bitsOf f 0 4
/-- SCALE of a format slot (R102). -/
def slotScale (f : Nat) : Nat := bitsOf f 4 2
/-- RND of a format slot (R102). -/
def slotRnd (f : Nat) : BitVec 3 := BitVec.ofNat 3 (bitsOf f 6 3)
/-- SAT of a format slot (R102). -/
def slotSat (f : Nat) : Bool := bitAt f 9
/-- SOFF of a format slot (R102). -/
def slotSoff (f : Nat) : Nat := bitsOf f 10 22

/-- The element width in bits of a FMT as a register holds it (R98, R158). -/
def fmtBits (fmt : Nat) : Nat := if fmt ≤ 3 then 8 else if fmt ≤ 6 then 16 else 32

/-- The legal element indices of a FMT (R158). -/
def elementOk (fmt k : Nat) : Bool := decide (fmt ≤ 8) && decide (k < 32 / fmtBits fmt)

/-- The range of an integer FMT: INT8, UINT8, INT16, INT32 (R102). -/
def fmtRange (fmt : Nat) : Int × Int :=
  match fmt with
  | 2 => (-128, 127) | 3 => (0, 255) | 4 => (-32768, 32767) | _ => (-2147483648, 2147483647)

/-- An integer FMT. -/
def fmtIsInt (fmt : Nat) : Bool := fmt == 2 || fmt == 3 || fmt == 4 || fmt == 8

/-- The IEEE format of a FMT. -/
def fmtIeee (fmt : Nat) : Fmt := match fmt with
  | 5 => fp16 | 6 => bf16 | _ => fp32

/-- narrow(a) of R107: clamped with SAT, else the low bits. -/
def narrowInt (fmt : Nat) (sat : Bool) (x : Int) : Nat :=
  let r := fmtRange fmt
  ((if sat then clampInt r.1 r.2 x else x) % (2 ^ fmtBits fmt : Nat)).toNat

/-- The integer that an element of an integer FMT stands for (R79). -/
def elementInt (fmt x : Nat) : Int := if fmt = 3 then (x % 256 : Nat) else sextNat (fmtBits fmt) x

/-- The value that an element of a FMT stands for (R92, R82, R79). -/
def elementNum (fmt x : Nat) : Num :=
  match fmt with
  | 0 => taperDec 7 (x % 256)
  | 1 => taperDec 5 (x % 64)
  | 5 => fp16.dec x
  | 6 => bf16.dec x
  | 7 => fp32.dec x
  | _ => Num.ofInt (elementInt fmt x)

/-- An exact value converted to a FMT by R96, R87 with the SAT rule, or R90: convert(q) of R107. -/
def convertTo (fmt : Nat) (sat : Bool) (rm : Rm) (x : Num) : Nat :=
  match fmt with
  | 0 => taperRnd 7 rm x
  | 1 => taperRnd 5 rm x
  | 5 => fp16.clamp (if sat then 1 else 0) (fp16.rnd rm x)
  | 6 => bf16.clamp (if sat then 1 else 0) (bf16.rnd rm x)
  | 7 => fp32.rnd rm x
  | _ => let r := fmtRange fmt; (x.toRange rm r.1 r.2 % (2 ^ fmtBits fmt : Nat)).toNat

/-- The integer clamps of MOD sat 10 and 11 on an integer element (R158). (DEDUCED, log entry 11) -/
def satInt (fmt : Nat) (sat : BitVec 2) (x : Nat) : Nat :=
  let v := elementInt fmt x
  let y : Int := match sat.toNat with
    | 2 => clampInt 0 1 v
    | 3 => clampInt (-1) 1 v
    | _ => v
  (y % (2 ^ fmtBits fmt : Nat)).toNat

/-- The element that CVTN makes of a word (R158). -/
def cvtnElement (md : FMod) (f : Nat) (isrc : Bool) (a : Word) : Nat :=
  let fmt := slotFmt f
  let v := if isrc then Num.ofInt a.toInt else fop md a
  let m := rmode (if md.rnd = 0 then slotRnd f else md.rnd) .rne
  let sat := slotSat f || md.sat == 1
  if fmtIsInt fmt then
    satInt fmt md.sat (if isrc then narrowInt fmt sat a.toInt else convertTo fmt sat m v)
  else if fmt ≤ 1 then taperClamp (if fmt = 0 then 7 else 5) md.sat (convertTo fmt sat m v)
  else
    let q := fmtIeee fmt
    let y := q.ftz md.ftz (q.clamp (if sat then 1 else 0) (q.rnd m v))
    if md.sat = 2 ∨ md.sat = 3 then q.clamp md.sat y else y

/-- A word with element k of a FMT replaced (R158). -/
def putElement (fmt k : Nat) (x : Word) (e : Nat) : Word :=
  let w := fmtBits fmt
  BitVec.ofNat 32 (x.toNat - bitsOf x.toNat (w * k) w * 2 ^ (w * k) + e % 2 ^ w * 2 ^ (w * k))

/-- The word that CVTW makes of an element (R159). The slot's SAT, which acts on integer narrowing and on IEEE overflow, has
nothing to act on in a widening. (DEDUCED, log entry 11) (DEDUCED, log entry 83) -/
def cvtwWord (md : FMod) (f : Nat) (idst : Bool) (e : Nat) : Word :=
  let fmt := slotFmt f
  let m := rmode (if md.rnd = 0 then slotRnd f else md.rnd) .rne
  let x := if fmtIsInt fmt ∨ fmt ≤ 1 then elementNum fmt e else (fmtIeee fmt).operand md e
  if idst then
    let y := if fmtIsInt fmt then elementInt fmt e else x.toRange m (-2147483648) 2147483647
    BitVec.ofInt 32 (match md.sat.toNat with
      | 2 => clampInt 0 1 y
      | 3 => clampInt (-1) 1 y
      | _ => y)
  else ofBits (fp32.result md m x)

/-- The format slot of the launch of a lane (R102). -/
def State.slotOf (s : State) (l : Lane) (n : Nat) : Nat := ((s.kernelOf l.g.bid).map (·.slot n)).getD 0

/-! ## FP32 arithmetic -/

/-- FADD: sum (R146). -/
def execFadd (d a : BitVec 7) (b : BitVec 8) (s : State) : Out :=
  .next (s.flane d a b fun md x y => ofBits (faddBits fp32 md x.toNat y.toNat))

/-- FSUB: difference (R146). -/
def execFsub (d a : BitVec 7) (b : BitVec 8) (s : State) : Out :=
  .next (s.flane d a b fun md x y => fres md ((fop md x).add md.rm (fop md y).flip))

/-- FMUL: product (R146). -/
def execFmul (d a : BitVec 7) (b : BitVec 8) (s : State) : Out :=
  .next (s.flane d a b fun md x y => ofBits (fmulBits fp32 md x.toNat y.toNat))

/-- FMIN: minimum (R147). -/
def execFmin (d a : BitVec 7) (b : BitVec 8) (s : State) : Out :=
  .next (s.flane d a b fun md x y => ofBits (fminmaxBits fp32 false md x.toNat y.toNat))

/-- FMAX: maximum (R147). -/
def execFmax (d a : BitVec 7) (b : BitVec 8) (s : State) : Out :=
  .next (s.flane d a b fun md x y => ofBits (fminmaxBits fp32 true md x.toNat y.toNat))

/-- The absolute value, a NaN as the canonical NaN (R148). -/
def fabsWord (md : FMod) (x : Word) : Word :=
  let y := fp32.ftz md.ftz x.toNat
  ofBits (fp32.exactResult md (if fp32.dec y = .nan then fp32.nanBits else fp32.magOf y))

/-- FABS: absolute value (R146). -/
def execFabs (d a : BitVec 7) (s : State) : Out := .next (s.flane1 d a fun md x => fabsWord md x)

/-- FFLOOR: floor (R146, R148). -/
def execFfloor (d a : BitVec 7) (s : State) : Out := .next (s.flane1 d a fun md x => fintegral .rdn md x)

/-- FCEIL: ceiling (R146, R148). -/
def execFceil (d a : BitVec 7) (s : State) : Out := .next (s.flane1 d a fun md x => fintegral .rup md x)

/-- FTRUNC: truncation (R146, R148). -/
def execFtrunc (d a : BitVec 7) (s : State) : Out := .next (s.flane1 d a fun md x => fintegral .rz md x)

/-- FRINT: rounding to integral in the active mode (R146, R148). -/
def execFrint (d a : BitVec 7) (s : State) : Out := .next (s.flane1 d a fun md x => fintegral md.rm md x)

/-! ## Packed pairs -/

/-- HADD2: FP16 sums (R149). -/
def execHadd2 (d a : BitVec 7) (b : BitVec 8) (s : State) : Out := .next (s.plane d a b fp16 (faddBits fp16))

/-- HMUL2: FP16 products (R149). -/
def execHmul2 (d a : BitVec 7) (b : BitVec 8) (s : State) : Out := .next (s.plane d a b fp16 (fmulBits fp16))

/-- HMIN2: FP16 minima (R149). -/
def execHmin2 (d a : BitVec 7) (b : BitVec 8) (s : State) : Out := .next (s.plane d a b fp16 (fminmaxBits fp16 false))

/-- HMAX2: FP16 maxima (R149). -/
def execHmax2 (d a : BitVec 7) (b : BitVec 8) (s : State) : Out := .next (s.plane d a b fp16 (fminmaxBits fp16 true))

/-- BADD2: BF16 sums (R149). -/
def execBadd2 (d a : BitVec 7) (b : BitVec 8) (s : State) : Out := .next (s.plane d a b bf16 (faddBits bf16))

/-- BMUL2: BF16 products (R149). -/
def execBmul2 (d a : BitVec 7) (b : BitVec 8) (s : State) : Out := .next (s.plane d a b bf16 (fmulBits bf16))

/-! ## Conversions -/

/-- I2F: signed integer to FP32 (R157). -/
def execI2f (d a : BitVec 7) (s : State) : Out := .next (s.flane1 d a fun md x => fres md (Num.ofInt x.toInt))

/-- U2F: unsigned integer to FP32 (R157). -/
def execU2f (d a : BitVec 7) (s : State) : Out := .next (s.flane1 d a fun md x => fres md (Num.ofInt x.toNat))

/-- F2I: FP32 to INT32 (R90, R157). -/
def execF2i (d a : BitVec 7) (s : State) : Out :=
  .next (s.flane1 d a fun md x => toIntWord md (-2147483648) 2147483647 x)

/-- F2U: FP32 to UINT32 (R90, R157). -/
def execF2u (d a : BitVec 7) (s : State) : Out := .next (s.flane1 d a fun md x => toIntWord md 0 4294967295 x)

/-- F2H: two FP32 values to an FP16 pair (R157). -/
def execF2h (d a : BitVec 7) (b : BitVec 8) (s : State) : Out :=
  .next (s.flane d a b fun md x y => ofHalves (narrowHalf fp16 md x) (narrowHalf fp16 md y))

/-- H2F: an FP16 half to FP32 (R157); code 0xC1 names half 1. -/
def execH2f (d a : BitVec 7) (b : BitVec 8) (s : State) : Out :=
  .next (s.flane1 d a fun md x => widenHalf fp16 md (half x (b.toNat - 0xC0)))

/-- F2B: two FP32 values to a BF16 pair (R157). -/
def execF2b (d a : BitVec 7) (b : BitVec 8) (s : State) : Out :=
  .next (s.flane d a b fun md x y => ofHalves (narrowHalf bf16 md x) (narrowHalf bf16 md y))

/-- B2F: a BF16 half to FP32 (R157); code 0xC1 names half 1. -/
def execB2f (d a : BitVec 7) (b : BitVec 8) (s : State) : Out :=
  .next (s.flane1 d a fun md x => widenHalf bf16 md (half x (b.toNat - 0xC0)))

/-! ## Fused forms -/

/-- FFMA: fused multiply-add (R150). -/
def execFfma (g : BitVec 4) (d a : BitVec 7) (b c : BitVec 8) (np nc : BitVec 1) (s : State) : Out :=
  .next (s.laneV g d fun i l => ofBits (ffmaBits fp32 i.md (np == 1) (nc == 1) (l.t.getV a.toNat).toNat
    (l.sel b .f32).toNat (l.sel c .f32).toNat))

/-- HFMA2: fused multiply-add of FP16 pairs (R150). -/
def execHfma2 (g : BitVec 4) (d a : BitVec 7) (b c : BitVec 8) (np nc : BitVec 1) (s : State) : Out :=
  .next (s.laneV g d fun i l =>
    let h (k : Nat) := ffmaBits fp16 i.md (np == 1) (nc == 1) (half (l.t.getV a.toNat) k)
      (half (l.sel b (.pair fp16)) k) (half (l.sel c (.pair fp16)) k)
    ofHalves (h 0) (h 1))

/-- BFMA2: fused multiply-add of BF16 pairs (R150). -/
def execBfma2 (g : BitVec 4) (d a : BitVec 7) (b c : BitVec 8) (np nc : BitVec 1) (s : State) : Out :=
  .next (s.laneV g d fun i l =>
    let h (k : Nat) := ffmaBits bf16 i.md (np == 1) (nc == 1) (half (l.t.getV a.toNat) k)
      (half (l.sel b (.pair bf16)) k) (half (l.sel c (.pair bf16)) k)
    ofHalves (h 0) (h 1))

/-- FSETP: FP32 comparison into a predicate (R153). -/
def execFsetp (g : BitVec 4) (a : BitVec 7) (b : BitVec 8) (pd pc : BitVec 3) (pcneg : BitVec 1) (bop : BitVec 2)
    (u : BitVec 1) (cmp : BitVec 3) (s : State) : Out :=
  .next (s.laneOp g fun i l t =>
    t.putP pd.toNat (combine bop.toNat
      (fcmp cmp.toNat (u == 1) (fop i.md (l.t.getV a.toNat)) (fop i.md (l.sel b .f32)))
      (l.t.getP pc.toNat ^^ (pcneg == 1))))

/-- FCLASS: a test of the class of an FP32 value (R154). -/
def execFclass (g : BitVec 4) (a : BitVec 7) (pd : BitVec 3) (mask : BitVec 10) (s : State) : Out :=
  .next (s.laneOp g fun i l t =>
    t.putP pd.toNat (mask.getLsbD (classBit (fp32.ftz i.md.ftz (l.t.getV a.toNat).toNat))))

/-- FDOT2: dot product of pairs and an FP32 addend (R151); the sign of an exact zero is that of sums taken in turn (R87). (DEDUCED,
log entry 113) -/
def execFdot2 (g : BitVec 4) (d a : BitVec 7) (b c : BitVec 8) (bf : BitVec 1) (s : State) : Out :=
  .next (s.laneV g d fun i l =>
    let f := if bf = 1 then bf16 else fp16
    let x := l.t.getV a.toNat
    let y := l.sel b (.pair f)
    let p (k : Nat) := (f.operand i.md (half x k)).mul (f.operand i.md (half y k))
    fres i.md (((p 0).add i.md.rm (p 1)).add i.md.rm (fop i.md (l.sel c .f32))))

/-- CVTN: a value into an element of a narrow format (R158). -/
def execCvtn (g : BitVec 4) (d a : BitVec 7) (n : BitVec 3) (k : BitVec 2) (isrc : BitVec 1) (s : State) : Out :=
  .next (s.laneV g d fun i l =>
    let f := s.slotOf l n.toNat
    putElement (slotFmt f) k.toNat (l.t.getV d.toNat) (cvtnElement i.md f (isrc == 1) (l.t.getV a.toNat)))

/-- CVTW: an element of a narrow format widened (R159). -/
def execCvtw (g : BitVec 4) (d a : BitVec 7) (n : BitVec 3) (k : BitVec 2) (idst : BitVec 1) (s : State) : Out :=
  .next (s.laneV g d fun i l =>
    let f := s.slotOf l n.toNat
    cvtwWord i.md f (idst == 1) (bitsOf (l.t.getV a.toNat).toNat (fmtBits (slotFmt f) * k.toNat) (fmtBits (slotFmt f))))

/-- FLDEXP: scaling by a power of two (R152). -/
def execFldexp (g : BitVec 4) (d a : BitVec 7) (b : BitVec 8) (s : State) : Out :=
  .next (s.laneV g d fun i l =>
    fres i.md (match fop i.md (l.t.getV a.toNat) with
      | .fin n m e => .fin n m (e + (l.sel b .int).toInt)
      | x => x))

/-! ## Special functions -/

/-- The lookahead of an iteration: the window of a REP opens after its last iteration, and the results of the
earlier ones are written at once (R54, R160). (DEDUCED, log entry 9) -/
def Issue.window (i : Issue) (la : BitVec 4) : Nat :=
  match i.rep with
  | some r => if i.iter < r.cnt.toNat then 0 else la.toNat
  | none => la.toNat

/-- A special function: a long-latency result (R155). -/
def State.special (s : State) (g la : BitVec 4) (d a : BitVec 7) (fn : SpecialFn) : State :=
  s.laneOp g fun i l t => t.late (i.window la) [(d.toNat, specialFn fn i.md (l.t.getV a.toNat))] []

/-- FRCP: reciprocal (R155, R156). -/
def execFrcp (g la : BitVec 4) (d a : BitVec 7) (s : State) : Out := .next (s.special g la d a .rcp)

/-- FRSQ: reciprocal square root (R155, R156). -/
def execFrsq (g la : BitVec 4) (d a : BitVec 7) (s : State) : Out := .next (s.special g la d a .rsq)

/-- FSQRT: square root (R155, R156). -/
def execFsqrt (g la : BitVec 4) (d a : BitVec 7) (s : State) : Out := .next (s.special g la d a .sqrt)

/-- FEXP2: power of two (R155, R156). -/
def execFexp2 (g la : BitVec 4) (d a : BitVec 7) (s : State) : Out := .next (s.special g la d a .exp2)

/-- FLOG2: binary logarithm (R155, R156). -/
def execFlog2 (g la : BitVec 4) (d a : BitVec 7) (s : State) : Out := .next (s.special g la d a .log2)

/-- FSINT: sine of turns (R155, R156). -/
def execFsint (g la : BitVec 4) (d a : BitVec 7) (s : State) : Out := .next (s.special g la d a .sint)

/-- FCOST: cosine of turns (R155, R156). -/
def execFcost (g la : BitVec 4) (d a : BitVec 7) (s : State) : Out := .next (s.special g la d a .cost)

end Sys2Proof.Machine
end

