-- ==== Sys2Proof/Machine/PadStore.lean ====
section
/-! DEFINITION. What is open on a block: copies that have not landed, tile operations that are not complete and their
footprints in the pad (R325, R328), and the one store to a pad, which spoils a tile operation it races (R246, R340). -/

namespace Sys2Proof.Machine

/-- A copy that has not landed (R292). -/
def Copy.open' (c : Copy) : Bool := c.cst == .queued || c.cst == .running || c.cst == .stopped

/-- A tile operation that is not complete (R337). -/
def TileOp.open' (o : TileOp) : Bool := o.ost == .queued || o.ost == .running || o.ost == .stopped

/-- The bytes of an operand row of n elements (R325). -/
def rowBytes (fmt n : Nat) : Nat := if fmt = 1 then 3 * n / 4 else fmtBits fmt / 8 * n

/-- K of a product (R329). -/
def tileK (kc : BitVec 2) : Nat := 32 * 2 ^ kc.toNat

/-- The footprint of 128 rows: base and length (R328). -/
def rowsFoot (base pitch row : Nat) : Nat × Nat := (base, 127 * pitch + row)

/-- The scale vectors that a slot reads (R104). -/
def scaleFoot (f : Nat) : List (Nat × Nat) :=
  match slotScale f with
  | 0 => []
  | 3 => [(16 * slotSoff f, 512)]
  | _ => [(16 * slotSoff f, 256)]

/-- A word of an operand record. -/
def recWord (r : List Word) (i : Nat) : Nat := ((r[i]?).getD 0).toNat

/-- The pad footprints of a tile operation with its record, its destination first for a drain (R328, R330). -/
def tileFoot (k : Kernel) (ins : Instr) (r : List Word) : List (Nat × Nat) :=
  match ins with
  | .tmma _ _ _ kc _ fa fb ch _ _ _ _ _ =>
    (if ch = 1 then scaleFoot (k.slot fa.toNat)
      else [rowsFoot (recWord r 0) (recWord r 1) (rowBytes (slotFmt (k.slot fa.toNat)) (tileK kc))]) ++
      [rowsFoot (recWord r 2) (recWord r 3) (rowBytes (slotFmt (k.slot fb.toNat)) (tileK kc))]
  | .tmmas _ _ _ kc _ fa fb _ _ _ sl =>
    [rowsFoot (recWord r 0) (recWord r 1) (rowBytes (slotFmt (k.slot fa.toNat)) (tileK kc / 2)),
     rowsFoot (recWord r 2) (recWord r 3) (rowBytes (slotFmt (k.slot fb.toNat)) (tileK kc)),
     rowsFoot (recWord r 4) (recWord r 5) ((sl.toNat + 1) * (tileK kc / 8))]
  | .tdrain _ _ _ _ fd _ _ _ _ _ _ =>
    rowsFoot (recWord r 0) (recWord r 1) (rowBytes (slotFmt (k.slot fd.toNat)) 128) :: scaleFoot (k.slot fd.toNat)
  | _ => []

/-- Two ranges of bytes overlap. -/
def overlaps (a n b m : Nat) : Bool := decide (a < b + m) && decide (b < a + n)

/-- A tile operation whose storage no other agent may touch: not complete, or its completion not yet acquired (R246, R340).
One agent's acquire is taken to hold for all. (DEDUCED, log entry 23) -/
def TileOp.exposed (o : TileOp) : Bool := o.open' || (o.ost == .complete && !o.acquired)

/-- An exposed tile operation has a byte of a block's pad in its footprints. -/
def TileOp.holds (k : Kernel) (o : TileOp) (bid off : Nat) : Bool :=
  o.exposed && o.bid == bid && (tileFoot k o.ins o.rec_).any fun f => decide (f.1 ≤ off) && decide (off < f.1 + f.2)

/-- An exposed tile operation has pad bytes of a block in a range among its footprints. -/
def TileOp.touches (k : Kernel) (o : TileOp) (bid off n : Nat) : Bool :=
  o.exposed && o.bid == bid && (tileFoot k o.ins o.rec_).any fun f => overlaps off n f.1 f.2

/-- Bytes written to a pad below its barrier words. -/
def Block.padWrite (b : Block) (off : Nat) (d : List Byte) : Block :=
  { b with pad := b.pad.writeN off d, padPoison := b.padPoison.filter fun p => decide (p < off) || decide (off + d.length ≤ p) }

/-- A tile made of its elements, zeros not listed (R321). -/
def tileOf (f : Nat → Nat → Word) : List (Nat × Word) :=
  (List.range 16384).filterMap fun e => let x := f (e / 128) (e % 128); if x = 0 then none else some (e, x)

/-- A tile of free values. -/
def freeTile (n : Nat) : List (Nat × Word) := tileOf fun i j => Config.freeWord (n + 128 * i + j)

/-- The pad offsets of the bytes that a drain writes (R325). -/
def drainBytes (k : Kernel) (fd : BitVec 3) (r : List Word) : List Nat :=
  (List.range 128).flatMap fun i => (List.range (rowBytes (slotFmt (k.slot fd.toNat)) 128)).map fun n => recWord r 0 + i * recWord r 1 + n

/-- Free values in the result of an operation (R246, R340). -/
def State.spoilResult (s : State) (k : Kernel) (o : TileOp) : State :=
  let n := s.free
  let tile (an : BitVec 4) : State := ({ s with free := n + 16384 }).modBlock o.bid fun b => { b with tiles := b.tiles.set an.toNat (freeTile n) }
  match o.ins with
  | .tzero _ _ an _ _ => tile an
  | .tmma _ _ _ _ an _ _ _ _ _ _ _ _ => tile an
  | .tmmas _ _ _ _ an _ _ _ _ _ _ => tile an
  | .tdrain _ _ _ _ fd _ _ _ _ _ _ =>
    let offs := drainBytes k fd o.rec_
    ({ s with free := n + offs.length }).modBlock o.bid fun b => offs.zipIdx.foldl (fun b (x : Nat × Nat) => b.padWrite x.1 [freeByte (n + x.2)]) b
  | _ => s

/-- An access to the storage of tile operations that are exposed spoils their results: at once where the operation is complete,
else when it completes (R246, R340). (DEDUCED, log entry 23) -/
def State.race (s : State) (k : Kernel) (bid off n : Nat) : State :=
  let s1 := { s with tileOps := s.tileOps.map fun (o : TileOp) => if o.touches k bid off n && o.open' then { o with tainted := true } else o }
  (s.tileOps.filter fun o => o.touches k bid off n && !o.open').foldl (fun s o => s.spoilResult k o) s1

/-- A store of an agent to a pad. One that touches the storage of a tile operation before its completion is acquired leaves
free values in the touched bytes of that storage and in the operation's result (R246, R340). (DEDUCED, log entry 23) -/
def State.padStore (s : State) (bid off : Nat) (d : List Byte) : State :=
  match s.kernelOf bid with
  | none => s
  | some k =>
    if s.tileOps.any fun o => o.touches k bid off d.length then
      let t := s.race k bid off d.length
      let held (i : Nat) : Bool := s.tileOps.any fun o => o.holds k bid i
      ({ t with free := t.free + d.length }).modBlock bid fun b => b.padWrite off (d.mapIdx fun i v => if held (off + i) then freeByte (t.free + i) else v)
    else s.modBlock bid fun b => b.padWrite off d

/-- What a read of an agent does to the pad before it takes its bytes: one that touches the storage of a tile operation before
its completion is acquired leaves free values there (R246, R340). (DEDUCED, log entry 23) -/
def State.padLook (s : State) (bid off n : Nat) : State :=
  match s.kernelOf bid with
  | none => s
  | some k =>
    if s.tileOps.any fun o => o.touches k bid off n then
      let t := s.race k bid off n
      let held := (List.range n).filter fun i => s.tileOps.any fun o => o.holds k bid (off + i)
      ({ t with free := t.free + n }).modBlock bid fun b => held.foldl (fun b i => b.padWrite (off + i) [freeByte (t.free + i)]) b
    else s

/-- An agent has acquired the completion of operations that a test names (R246). -/
def State.acquireTiles (s : State) (p : TileOp → Bool) : State :=
  { s with tileOps := s.tileOps.map fun o => if o.ost = .complete ∧ p o = true then { o with acquired := true } else o }

end Sys2Proof.Machine
end

