-- ==== Sys2Proof/Machine/Group.lean ====
section
/-! DEFINITION. Groups, threads and control flow: chapter 07, the trap instructions and counters of chapter 16
(R396, R397), the special registers and V2S of chapter 05 (R120, R140), and the events of the group. -/

namespace Sys2Proof.Machine

/-! ## The end of threads and groups -/

/-- A group whose last live thread has ended passes to ENDED, with every result written; space and slots are
free by its state (R161, R177). -/
def Group.endIfEmpty (g : Group) : Group :=
  if g.liveLanes = [] then { g with gst := .ended, u := g.u.completeAll } else g

/-- A thread ends (R177): its known results are written, its monitor is dropped; a collective at which it has arrived
completes with its exchange. -/
def Thread.finish (t : Thread) : Thread :=
  { t.completeAll with live := false, monitor := none, wait := .none, going := none }

/-! ## Collectives (R185 to R187) -/

/-- The named set of an arrived thread: itself and the live members of its mask (R186). -/
def Group.named (g : Group) (t : Nat) : List Nat :=
  match (g.threads[t]?).bind (·.coll) with
  | none => []
  | some c => indices g.threads.length fun u =>
      u == t || (bitAt c.mask u && ((g.threads[u]?).map fun x => x.launched && x.live).getD false)

/-- The threads that have arrived at the collective at a PC and are not complete. -/
def Group.arrivedAt (g : Group) (pc : Word) : List Nat :=
  indices g.threads.length fun t => match g.threads[t]? with
    | some { coll := some c, .. } => c.pc == pc
    | _ => false

/-- The greatest subset closed under the named sets, by n rounds of removal (R186). -/
def Group.closedSet (g : Group) : Nat → List Nat → List Nat
  | 0, x => x
  | n + 1, x => g.closedSet n (x.filter fun t => (g.named t).all x.contains)

/-- The largest set of threads whose exchange forms at a PC (R186). -/
def Group.exchangeSet (g : Group) (pc : Word) : List Nat := g.closedSet g.threads.length (g.arrivedAt pc)

/-- The operation of REDUX and SCANX (R187). -/
def redop (op : Nat) (x y : Word) : Word :=
  match op with
  | 0 => x + y
  | 1 => if sv x ≤ sv y then x else y
  | 2 => if sv x ≤ sv y then y else x
  | 3 => if uv x ≤ uv y then x else y
  | 4 => if uv x ≤ uv y then y else x
  | 5 => x &&& y
  | 6 => x ||| y
  | _ => x ^^^ y

/-- A mask of lanes as one or two words from Vd (R187). -/
def maskRegs (g : Group) (d : BitVec 7) (m : List Nat) : List (Nat × Word) :=
  let x : Nat := m.foldl (fun n i => n + 2 ^ i) 0
  if g.width = 64 then [(d.toNat, BitVec.ofNat 32 x), (d.toNat + 1, BitVec.ofNat 32 (x / 2 ^ 32))] else [(d.toNat, BitVec.ofNat 32 x)]

/-- The result of a collective in thread t: the registers and predicates it writes (R187). SHFL reads its B as a signed number.
(DESIGN CHOICE, log entry 89) -/
def Group.collResult (g : Group) (t : Nat) (c : CollArr) : List (Nat × Word) × List (Nat × Bool) :=
  let mem := g.named t
  let val (u : Nat) : Word := (((g.threads[u]?).bind (·.coll)).map (·.val)).getD 0
  match c.ins with
  | .shfl _ _ d _ _ _ op _ _ =>
    let b := c.sel.toInt
    let j : Int := match op.toNat with
      | 0 => b
      | 1 => t - b
      | 2 => t + b
      | _ => ((BitVec.ofNat 32 t ^^^ c.sel).toInt)
    ([(d.toNat, if 0 ≤ j ∧ mem.contains j.toNat then val j.toNat else c.fill)], [])
  | .vote _ _ pd _ _ op _ _ =>
    let ps := mem.map fun u => val u == 1
    let r := match op.toNat with
      | 0 => ps.all id
      | 1 => ps.any id
      | _ => ps.all id || !(ps.any id)
    ([], [(pd.toNat, r)])
  | .ballot _ _ d _ _ _ _ => (maskRegs g d (mem.filter fun u => val u == 1), [])
  | .matchv _ _ d _ _ _ => (maskRegs g d (mem.filter fun u => val u == val t), [])
  | .redux _ _ d _ _ op _ _ => ([(d.toNat, mem.foldl (fun x u => redop op.toNat x (val u)) c.fill)], [])
  | .scanx _ _ d _ _ ex op _ _ =>
    ([(d.toNat, (mem.filter fun u => if ex = 1 then decide (u < t) else decide (u ≤ t)).foldl (fun x u => redop op.toNat x (val u)) c.fill)], [])
  | _ => ([], [])

/-- The registers and predicates that a collective will write, with values that do not count (R61). -/
def Group.collDests (g : Group) (ins : Instr) : List (Nat × Word) × List (Nat × Bool) :=
  match ins with
  | .shfl _ _ d _ _ _ _ _ _ => ([(d.toNat, 0)], [])
  | .vote _ _ pd _ _ _ _ _ => ([], [(pd.toNat, false)])
  | .ballot _ _ d _ _ _ _ => (maskRegs g d [], [])
  | .matchv _ _ d _ _ _ => (maskRegs g d [], [])
  | .redux _ _ d _ _ _ _ _ => ([(d.toNat, 0)], [])
  | .scanx _ _ d _ _ _ _ _ _ => ([(d.toNat, 0)], [])
  | _ => ([], [])

/-- The unknown result of a collective becomes known, but for what a later instruction has written (R61); it is written at
once when its window is used up or the thread has ended (R60, R177, R186). -/
def Thread.resolve (t : Thread) (r : List (Nat × Word) × List (Nat × Bool)) : Thread :=
  let t := { t with coll := none, pend := t.pend.map fun (p : Pend) => if p.known then p else
    { p with known := true, regs := r.1.filter fun x => p.regs.any (·.1 == x.1), preds := r.2.filter fun x => p.preds.any (·.1 == x.1) } }
  t.completeIf fun p => p.left == 0 || !t.live

/-- The exchange at a PC forms: every thread of the set completes with the operands of the arrivals (R186). -/
def Group.exchange (g : Group) (pc : Word) : Group :=
  let x := g.exchangeSet pc
  { g with threads := g.threads.mapIdx fun t th =>
      match x.contains t, th.coll with
      | true, some c => th.resolve (g.collResult t c)
      | _, _ => th }

/-- The member mask of a collective: all ones, or S[Sm] with Sm + 1 for width 64 (R185). -/
def Lane.mask (l : Lane) (all : BitVec 1) (sm : BitVec 8) : Nat :=
  (if all = 1 then 2 ^ 64 - 1 else if l.g.width = 64 then (l.g.u.getS2 sm.toNat).toNat else (l.g.u.getS sm.toNat).toNat) % 2 ^ l.g.width

/-- A collective: the lanes whose guard is true arrive and may go on through their window, the others go on; a
thread whose earlier collective is incomplete stays at the instruction. Then the exchange is tried (R186). -/
def State.collective (s : State) (g la : BitVec 4) (mk : Lane → CollArr) : State :=
  let s := s.onLanes fun _ ti grp t =>
    let l : Lane := { g := grp, ti := ti, t := t }
    if l.guard g then
      if t.coll.isSome then t
      else
        let c := mk l
        let ds := grp.collDests c.ins
        s.issue.advance { t with coll := some c, pend := t.pend ++ [{ left := la.toNat, known := false, regs := ds.1, preds := ds.2 }] }
    else s.issue.advance t
  match s.issue.who with
  | .group gid => s.modGroup gid fun g => g.exchange s.issue.ipc
  | .stream _ => s

/-- The arrival of a lane with the operands it supplies. -/
def State.arrival (s : State) (ins : Instr) (l : Lane) (val sel fill : Word) (all : BitVec 1) (sm : BitVec 8) : CollArr :=
  { pc := s.issue.ipc, ins := ins, val := val, sel := sel, fill := fill, mask := l.mask all sm }

/-- A source predicate as a word. -/
def Lane.predWord (l : Lane) (pneg : BitVec 1) (p : BitVec 3) : Word := if l.t.getP p.toNat ^^ (pneg == 1) then 1 else 0

/-- SHFL (R187). -/
def execShfl (g la : BitVec 4) (d a : BitVec 7) (b c : BitVec 8) (op : BitVec 2) (all : BitVec 1) (sm : BitVec 8) (s : State) : Out :=
  .next (s.collective g la fun l =>
    s.arrival (.shfl g la d a b c op all sm) l (l.t.getV a.toNat) (l.sel b .int) (l.sel c .int) all sm)

/-- VOTE (R187). -/
def execVote (g la : BitVec 4) (pd : BitVec 3) (pneg : BitVec 1) (p : BitVec 3) (op : BitVec 2) (all : BitVec 1) (sm : BitVec 8) (s : State) : Out :=
  .next (s.collective g la fun l => s.arrival (.vote g la pd pneg p op all sm) l (l.predWord pneg p) 0 0 all sm)

/-- BALLOT (R187). -/
def execBallot (g la : BitVec 4) (d : BitVec 7) (pneg : BitVec 1) (p : BitVec 3) (all : BitVec 1) (sm : BitVec 8) (s : State) : Out :=
  .next (s.collective g la fun l => s.arrival (.ballot g la d pneg p all sm) l (l.predWord pneg p) 0 0 all sm)

/-- MATCH (R187). -/
def execMatchv (g la : BitVec 4) (d a : BitVec 7) (all : BitVec 1) (sm : BitVec 8) (s : State) : Out :=
  .next (s.collective g la fun l => s.arrival (.matchv g la d a all sm) l (l.t.getV a.toNat) 0 0 all sm)

/-- REDUX (R187). -/
def execRedux (g la : BitVec 4) (d a : BitVec 7) (c : BitVec 8) (op : BitVec 3) (all : BitVec 1) (sm : BitVec 8) (s : State) : Out :=
  .next (s.collective g la fun l =>
    s.arrival (.redux g la d a c op all sm) l (l.t.getV a.toNat) 0 (l.sel c .int) all sm)

/-- SCANX (R187). -/
def execScanx (g la : BitVec 4) (d a : BitVec 7) (c : BitVec 8) (ex : BitVec 1) (op : BitVec 3) (all : BitVec 1) (sm : BitVec 8) (s : State) : Out :=
  .next (s.collective g la fun l =>
    s.arrival (.scanx g la d a c ex op all sm) l (l.t.getV a.toNat) 0 (l.sel c .int) all sm)

/-! ## Control flow of lanes (R175) -/

/-- A branch target: the first word's address plus 4 × sext(body21, 21) (R49). -/
def branchTarget (pc : Word) (off : BitVec 21) : Word := pc + (off.signExtend 32 <<< 2)

/-- A lane control transfer without a stack access: each lane goes to its own target (R175, R176). -/
def State.laneGoto (s : State) (g : BitVec 4) (target : Lane → Word) : State :=
  s.onLanes fun _ ti grp t =>
    let l : Lane := { g := grp, ti := ti, t := t }
    t.goto (if l.guard g then target l else s.issue.next)

/-- The lane of a thread, as it now stands. -/
def State.lane? (s : State) (gid ti : Nat) : Option Lane :=
  match s.groups[gid]?, s.thread? gid ti with
  | some g, some t => some { g := g, ti := ti, t := t }
  | _, _ => none

/-- An effect on each lane of the issue in order, with the state carried along. -/
def State.foldLanes (s : State) (f : State → Nat → Nat → Lane → State) : State :=
  s.issue.lanes.foldl (fun s l => match s.lane? l.1 l.2 with
    | some x => f s l.1 l.2 x
    | none => s) s

/-- A call: the return address is pushed onto the lane's slice, then the lane goes to the target (R175); a fault
leaves PC, CSP and memory unchanged. -/
def State.callLane (s : State) (gid ti : Nat) (target : Word) : State :=
  match s.push gid ti s.issue.next with
  | (s, .ok _) => s.modThread gid ti fun t => { t.goto target with wait := .none }
  | (s, .trap c va) => s.trapLane gid ti c va
  | (s, .wait) => s.modThread gid ti fun t => { t with wait := .lane false }
  | (s, .poison) => s

/-- A return: the lane goes to the popped address (R175, R379). -/
def State.retLane (s : State) (gid ti : Nat) : State :=
  match s.pop gid ti with
  | (s, .ok npc) => s.modThread gid ti fun t => { t.goto npc with wait := .none }
  | (s, .trap c va) => s.trapLane gid ti c va
  | (s, .wait) => s.modThread gid ti fun t => { t with wait := .lane false }
  | (s, .poison) => s

/-- BRA (R175). -/
def execBra (g : BitVec 4) (off : BitVec 21) (s : State) : Out :=
  .next (s.laneGoto g fun _ => branchTarget s.issue.ipc off)

/-- JMPI (R175). -/
def execJmpi (g : BitVec 4) (a : BitVec 7) (s : State) : Out := .next (s.laneGoto g fun l => l.t.getV a.toNat)

/-- CALL (R175). -/
def execCall (g : BitVec 4) (off : BitVec 21) (s : State) : Out :=
  .next (s.foldLanes fun s gid ti l =>
    if l.guard g then s.callLane gid ti (branchTarget s.issue.ipc off) else s.modThread gid ti s.issue.advance)

/-- CALLI (R175). -/
def execCalli (g : BitVec 4) (a : BitVec 7) (s : State) : Out :=
  .next (s.foldLanes fun s gid ti l =>
    if l.guard g then s.callLane gid ti (l.t.getV a.toNat) else s.modThread gid ti s.issue.advance)

/-- RET (R175, R379). -/
def execRet (g : BitVec 4) (s : State) : Out :=
  .next (s.foldLanes fun s gid ti l =>
    if l.guard g then s.retLane gid ti else s.modThread gid ti s.issue.advance)

/-- The exchanges of a group are tried at every PC where a thread has arrived. -/
def Group.exchangeAll (g : Group) : Group :=
  ((g.threads.filterMap fun t => t.coll.map (·.pc)).dedup).foldl (fun g pc => g.exchange pc) g

/-! ## JOIN, YIELD, GROW, SHRINK -/

/-- One core clock in ticks (R2). -/
def coreTick : Nat := 10

/-- Every live thread of a group stands at a PC. -/
def Group.allAt (g : Group) (pc : Word) : Bool := g.liveLanes.all fun t => (g.threads[t]?).map (·.pc) == some pc

/-- A thread waits in JOIN. -/
def Thread.joining (t : Thread) : Bool := match t.wait with
  | .join _ => true
  | _ => false

/-- JOIN (R178): the lanes whose guard is true wait; when every live thread of the group stands at the PC and has
arrived, the waiting threads go on together. (DEDUCED, log entry 13) -/
def execJoin (g : BitVec 4) (n : BitVec 16) (s : State) : Out :=
  let s1 := s.onLanes fun _ ti grp t =>
    if Lane.guard { g := grp, ti := ti, t := t } g then
      { t with wait := if t.joining then t.wait else .join (s.tick + coreTick * n.toNat) }
    else t
  .next ((s.issue.lanes.map (·.1)).dedup.foldl (fun st gid =>
    st.modGroup gid fun grp =>
      let here (t : Nat) := s.issue.lanes.contains (gid, t)
      let all := grp.allAt s.issue.pc && grp.liveLanes.all fun t => here t || ((grp.threads[t]?).map (·.joining)).getD false
      { grp with threads := grp.threads.mapIdx fun t th =>
          if th.pc = s.issue.pc ∧ th.live then
            if th.joining then (if all then s.issue.advance { th with wait := .none } else th)
            else if here t then s.issue.advance th else th
          else th }) s1)

/-- The picker of a quadrant of a core, keyed by 4 × core + quadrant; before any issue at age 4,096 it starts as if slot 0 had been
served last (R166; DESIGN CHOICE, log entry 87). -/
def State.picker (s : State) (core q : Nat) : Picker := (tfind s.pickers (4 * core + q)).getD { issues := 0, last := 0 }

/-- The quadrant of a slot (R17). -/
def quadrantOf (slot : Nat) : Nat := slot / 48

/-- The core of a group. -/
def State.coreOf (s : State) (g : Group) : Nat := ((s.blocks[g.bid]?).map (·.coreNo)).getD 0

/-- YIELD (R179): the thread goes on to the next instruction and is not ready until its quadrant has made 64
issues, or no other entry of the quadrant is ready (YIELD_RELEASE). -/
def execYield (g : BitVec 4) (s : State) : Out :=
  .next (s.onLanes fun _ ti grp t =>
    let t' := s.issue.advance t
    if Lane.guard { g := grp, ti := ti, t := t } g then
      { t' with wait := .yield ((s.picker (s.coreOf grp) (quadrantOf grp.slot)).issues + 64) }
    else t')

/-- The bytes of the register file that a group holds (R115). -/
def Group.fileBytes (g : Group) : Nat := 4 * g.vregs * g.width

/-- The groups on a core that hold registers: all but those ended or saved away. -/
def State.groupsOn (s : State) (core : Nat) : List Group :=
  s.groups.filter fun g => g.gst != .ended && g.gst != .saved && (match s.blocks[g.bid]? with
    | some b => b.coreNo == core && b.bst == .placed
    | none => false)

/-- The bytes of the register file of a core in use (R115). -/
def State.fileUsed (s : State) (core : Nat) : Nat := (s.groupsOn core).foldl (fun n g => n + g.fileBytes) 0

/-- A thread waits at a GROW or SHRINK. -/
def Thread.resizing (t : Thread) : Bool := match t.wait with
  | .resize _ _ => true
  | _ => false

/-- Every live thread of a group waits at a GROW or SHRINK (R180). -/
def Group.resizing (g : Group) : Bool := g.liveLanes.all fun t => ((g.threads[t]?).map (·.resizing)).getD false

/-- The request of a group whose live threads all wait at a GROW or SHRINK: its tick and the registers that a GROW asks for,
none while it has not been made (R180, R181). -/
def Group.request (g : Group) : Option (Nat × Nat) :=
  if g.resizing then
    match (g.liveLanes.head?).bind (g.threads[·]?) with
    | some { wait := .resize (some k) n, .. } => some (k, n)
    | _ => none
  else none

/-- The place of a group's pending GROW request in the order of its core: by clock of arrival, then by slot (R181). -/
def Group.growKey (g : Group) : Option Nat := (g.request.filter fun r => r.2 != 0).map fun r => r.1 * 192 + g.slot

/-- A request of a core comes before a place in its order (R181). -/
def State.olderRequest (s : State) (core key : Nat) : Bool :=
  (s.groupsOn core).any fun g => match g.growKey with
    | some k => decide (k < key)
    | none => false

/-- A group's GROW by n registers of each thread, requested in a clock that has passed, is the next of its core and finds
room (R181). Requests of one clock are known when the clock has passed. -/
def State.growFits (s : State) (g : Group) (k n : Nat) : Bool :=
  let vru := ((s.kernelOf g.bid).map (·.vru)).getD 0
  decide (k ≤ s.tick) && !s.olderRequest (s.coreOf g) (k * 192 + g.slot) && decide (s.fileUsed (s.coreOf g) + 4 * n * g.width ≤ vru * 65536)

/-- Every incomplete instruction of a group but known results has completed (R180). -/
def Group.settled (g : Group) : Bool := !(g.threads.any fun t => t.pend.any fun p => !p.known)

/-- The file of a group after a resize to a ceiling: its live threads go on (R116, R180). -/
def Group.resized (g : Group) (i : Issue) (c' : Nat) : Group :=
  let on (t : Thread) : Thread := if t.live then { t with wait := .none, pc := i.next, prog := 0, tinsn := t.tinsn + 1 } else t
  if g.vregs ≤ c' then { g with vregs := c', threads := g.threads.map fun t => let t := on t; { t with v := t.v ++ List.replicate (c' - g.vregs) 0 } }
  else { g with vregs := c', u := g.u.completeAll, threads := g.threads.map fun t => let t := on t.completeAll; { t with v := t.v.take c' } }

/-- A GROW by n registers of each thread leaves the ceiling of a group in range (R180). -/
def State.growInRange (s : State) (g : Group) (n : Nat) : Bool :=
  let vru := ((s.kernelOf g.bid).map (·.vru)).getD 0
  decide (g.vregs + n ≤ 128) && decide (4 * (g.vregs + n) * g.width ≤ vru * 65536)

/-- A request made for the live threads of a group, known when its clock has passed (R181). -/
def Group.asks (g : Group) (at_ n : Nat) : Group :=
  { g with threads := g.threads.map fun t => if t.live then { t with wait := .resize (some at_) n } else t }

/-- A resize by n × 8 registers of the group that stands at it (R180, R181): with its last thread there, a ceiling out of range
traps; else the request is made, and granted in a later clock, or for a SHRINK once the group's instructions are complete. -/
def State.resize (s : State) (gid : Nat) (n : Nat) (grow : Bool) : State :=
  match s.groups[gid]? with
  | none => s
  | some g =>
    if !(g.allAt s.issue.pc && g.resizing) then s
    else
      let c' := if grow then g.vregs + 8 * n else g.vregs - 8 * n
      if (grow ∧ s.growInRange g (8 * n) = false) ∨ (¬grow ∧ g.vregs < 8 * n + 8) then
        g.liveLanes.foldl (fun s t => s.trapLane gid t .regCeiling 0) s
      else
        let at_ := (g.request.map (·.1)).getD (s.tick + 1)
        if (if grow then s.growFits g at_ (8 * n) else g.settled) then s.modGroup gid fun g => g.resized s.issue c'
        else s.modGroup gid fun g => g.asks at_ (if grow then 8 * n else 0)

/-- The last thread that a GROW of its group waited for has ended: the group's request is made in this clock (R180, R181). -/
def State.askGrow (s : State) (gid : Nat) : State :=
  match s.groups[gid]? with
  | none => s
  | some g =>
    match (g.liveLanes.head?).bind (g.threads[·]?) with
    | some { wait := .resize none n, pc := pc, .. } =>
      if g.allAt pc && g.resizing && n != 0 && s.growInRange g n then s.modGroup gid fun g => g.asks (s.tick + 1) n else s
    | _ => s

/-- The threads of the issue wait at a GROW by n registers of each thread or, with n 0, at a SHRINK; those that wait keep their
stamp (R180). -/
def State.arriveResize (s : State) (n : Nat) : State :=
  s.onLanes fun _ _ _ t => { t with wait := match t.wait with
    | .resize k n => .resize k n
    | _ => .resize none n }

/-- GROW (R180, R181). -/
def execGrow (_g : BitVec 4) (n : BitVec 4) (s : State) : Out :=
  .next ((s.issue.lanes.map (·.1)).dedup.foldl (fun s gid => s.resize gid n.toNat true) (s.arriveResize (8 * n.toNat)))

/-- SHRINK (R180). -/
def execShrink (_g : BitVec 4) (n : BitVec 4) (s : State) : Out :=
  .next ((s.issue.lanes.map (·.1)).dedup.foldl (fun s gid => s.resize gid n.toNat false) (s.arriveResize 0))

/-- EXIT (R177): the thread ends and leaves every member set; the last one ends its group, or makes the
request of a group whose other threads wait at a GROW (R161, R181). -/
def execExitT (g : BitVec 4) (s : State) : Out :=
  let s := s.onLanes fun _ ti grp t =>
    if Lane.guard { g := grp, ti := ti, t := t } g then t.finish else s.issue.advance t
  .next ((s.issue.lanes.map (·.1)).dedup.foldl (fun s gid => (s.modGroup gid fun g => g.exchangeAll.endIfEmpty).askGrow gid) s)

/-! ## Uniform control flow (R182 to R184) -/

/-- The uniform guard of the current agent. -/
def State.uguard (s : State) (g : BitVec 4) : Bool := ((s.ufile s.issue.who).map fun u => u.guard g).getD false

/-- UBRA (R182). -/
def execUbra (g : BitVec 4) (off : BitVec 21) (s : State) : Out :=
  .next (if s.uguard g then s.gotoU (branchTarget s.issue.ipc off) else s.gotoU s.issue.next)

/-- UJMPI (R182). -/
def execUjmpi (g : BitVec 4) (a : BitVec 8) (s : State) : Out :=
  .next (match s.ufile s.issue.who with
    | some u => if u.guard g then s.gotoU (u.getS a.toNat) else s.gotoU s.issue.next
    | none => s)

/-- UCALL (R182, R184). -/
def execUcall (g : BitVec 4) (off : BitVec 21) (s : State) : Out :=
  let target := branchTarget s.issue.ipc off
  .next (if !s.uguard g then s.gotoU s.issue.next
    else match s.issue.who with
      | .group _ => s.foldLanes fun s gid ti _ => s.callLane gid ti target
      | .stream sid =>
        match s.streams[sid]? with
        | some x => if 32 ≤ x.rstack.length then s.trapU .stackLimit 0
            else s.modStream sid fun x => { x with rstack := s.issue.next :: x.rstack, pc := target }
        | none => s)

/-- URET (R182, R184, R380). -/
def execUret (g : BitVec 4) (s : State) : Out :=
  .next (if !s.uguard g then s.gotoU s.issue.next
    else match s.issue.who with
      | .group _ => s.foldLanes fun s gid ti _ => s.retLane gid ti
      | .stream sid =>
        match s.streams[sid]? with
        | some x => match x.rstack with
          | [] => s.trapU .stackLimit 0
          | npc :: r => s.modStream sid fun x => { x with rstack := r, pc := npc, hcsp := match x.hcsp with
              | some h => if r.length ≤ h then none else some h
              | none => none }
        | none => s)

/-- UEXIT (R183, R184): every live thread of the group ends, or the stream ends once its operations are
complete (R320). -/
def execUexit (g : BitVec 4) (s : State) : Out :=
  .next (if !s.uguard g then s.gotoU s.issue.next
    else match s.issue.who with
      | .group gid => (s.withdraw (.group gid)).modGroup gid fun grp =>
          (Group.exchangeAll { grp with threads := grp.threads.map fun t => if t.live then t.finish else t }).endIfEmpty
      | .stream sid =>
        if s.tileOps.any fun o => o.sid == sid && o.open' then s.waitU
        else (s.modStream sid fun x => { x with sst := .ended, u := x.u.completeAll, wait := .none }).settleCtx (s.ctxOf (.stream sid)))

/-! ## Monitors (R188, R189) -/

/-- One microsecond in ticks. -/
def usTick : Nat := 12000

/-- MWAIT (R189). -/
def execMwait (g : BitVec 4) (b : BitVec 8) (pd : BitVec 3) (p : BitVec 1) (s : State) : Out :=
  .next (s.onLanes fun _ ti grp t =>
    let l : Lane := { g := grp, ti := ti, t := t }
    if !l.guard g then s.issue.advance t
    else
      let woken := match t.monitor with
        | none => true
        | some m => m.written || m.lost
      if woken then
        let t := { t with monitor := none, wait := .none }
        s.issue.advance (if p = 1 then t.putP pd.toNat false else t)
      else
        let us := (l.sel b .int).toNat
        { t with wait := match t.wait with
            | .mwait x y z w => .mwait x y z w
            | _ => .mwait (if us = 0 then none else some (s.clockOn (s.accOf s.issue.who).die + us * 1000)) (p == 1) pd.toNat us })

/-! ## Traps and counters (R396, R397) -/

/-- TRAP (R397): USER_TRAP in each lane whose guard is true. (DEDUCED, log entry 26) -/
def execTrap (g : BitVec 4) (imm : BitVec 16) (s : State) : Out :=
  .next (s.foldLanes fun s gid ti l =>
    if l.guard g then s.trapLane gid ti .userTrap imm.toNat else s.modThread gid ti s.issue.advance)

/-- BKPT (R397): with BKEN = 1, BREAKPOINT in each lane whose guard is true; else nothing. -/
def execBkpt (g : BitVec 4) (imm : BitVec 16) (s : State) : Out :=
  .next (s.foldLanes fun s gid ti l =>
    if l.guard g && (s.ctx (s.ctxOf (.group gid))).bken then s.trapLane gid ti .breakpoint imm.toNat
    else s.modThread gid ti s.issue.advance)

/-- UTRAP (R397): USER_TRAP for every participant, or the stream. -/
def execUtrap (g : BitVec 4) (imm : BitVec 16) (s : State) : Out :=
  .next (if s.uguard g then s.trapU .userTrap imm.toNat else s.gotoU s.issue.next)

/-- The counter that a selector names for a thread (R396). -/
def State.counter (s : State) (gid : Nat) (t : Thread) (sel : Nat) : Nat :=
  let c := s.ctx (s.ctxOf (.group gid))
  let rec' := if t.hcsp.isSome then t.trap else TrapRec.zero
  if sel = 0x00 then s.clock % 2 ^ 64
  else if sel = 0x01 then c.elig % 2 ^ 64
  else if sel = 0x02 then t.tinsn % 2 ^ 64
  else if sel = 0x03 then t.tpack % 2 ^ 64
  else if sel = 0x80 then rec'.cause.toNat
  else if sel = 0x81 then rec'.pc.toNat
  else if sel = 0x82 then rec'.val.toNat
  else if sel = 0x83 then rec'.prog
  else (c.perf[sel - 0x10]?).getD 0

/-- RDCTR (R396). -/
def execRdctr (g la : BitVec 4) (d : BitVec 7) (sl : BitVec 8) (s : State) : Out :=
  .next (s.onLanes fun gid ti grp t =>
    let l : Lane := { g := grp, ti := ti, t := t }
    let x := BitVec.ofNat 64 (s.counter gid t sl.toNat)
    s.issue.advance (if l.guard g then t.late la.toNat [(d.toNat, pairLo x), (d.toNat + 1, pairHi x)] [] else t))

/-! ## Special registers and V2S -/

/-- Where an agent stands in the grid: its kernel, position, block and group. -/
def State.special? (s : State) (who : Agent) : Option (Kernel × Nat × Option (Block × Group)) :=
  match who with
  | .group gid => do
    let g ← s.groups[gid]?
    let b ← s.blocks[g.bid]?
    let k ← s.kernels[b.kid]?
    pure (k, b.pos, some (b, g))
  | .stream sid => do
    let x ← s.streams[sid]?
    let k ← s.kernels[x.kid]?
    pure (k, x.pos, none)

/-- PROG as the handler of the agent was given it; 0 outside a handler (R120, R378). Of the participants of one issue it is that of
the one in the lowest home lane. (DESIGN CHOICE, log entry 86) -/
def State.handlerProg (s : State) (who : Agent) : Nat :=
  match who with
  | .group _ => ((s.issue.lanes.head?).bind fun l => (s.thread? l.1 l.2).map fun t => if t.hcsp.isSome then t.trap.prog else 0).getD 0
  | .stream sid => ((s.streams[sid]?).map fun x => if x.hcsp.isSome then x.trap.prog else 0).getD 0

/-- The value of a special register (R120, R121). -/
def State.specialReg (s : State) (who : Agent) (code : Nat) : Nat :=
  match s.special? who with
  | none => 0
  | some (k, pos, bg) =>
    let blk (f : Block → Group → Nat) : Nat := match bg with
      | some (b, g) => f b g
      | none => 0
    match code with
    | 0x00 => k.ctx
    | 0x01 => (s.ctx k.ctx).part
    | 0x02 => k.dieIx pos
    | 0x03 => k.ndie
    | 0x04 => k.cluIx pos
    | 0x05 => k.nclu
    | 0x06 => (match bg with
      | some (b, _) => b.core
      | none => 4)
    | 0x07 => blk fun b _ => k.coordOf b.coord 0
    | 0x08 => blk fun b _ => k.coordOf b.coord 1
    | 0x09 => blk fun b _ => k.coordOf b.coord 2
    | 0x0A => k.nblk 0
    | 0x0B => k.nblk 1
    | 0x0C => k.nblk 2
    | 0x0D => blk fun b _ => b.stage
    | 0x0E => k.nstage
    | 0x0F => blk fun _ g => g.grpix
    | 0x10 => blk fun _ _ => k.ngrp
    | 0x11 => blk fun _ g => g.width
    | 0x12 => blk fun _ g => g.vregs
    | 0x13 => blk fun b _ => b.padsz
    | 0x14 => blk fun _ _ => k.accn
    | 0x15 => s.handlerProg who
    | _ => s.clock % 2 ^ 64

/-- UMOVS (R120). -/
def execUmovs (g : BitVec 4) (d : BitVec 8) (sl : BitVec 6) (s : State) : Out :=
  .next (s.uniOp g fun i u =>
    let x := s.specialReg i.who sl.toNat
    if sl = 0x16 then u.putS2 d.toNat (BitVec.ofNat 64 x) else u.putS d.toNat (BitVec.ofNat 32 x))

/-- V2S (R140): the register of one thread of the group, launched or 0. -/
def execV2s (g la : BitVec 4) (d a : BitVec 8) (vs : BitVec 7) (s : State) : Out :=
  .next (s.uniOp g fun i u =>
    let x : Word := match i.who with
      | .group gid =>
        match s.groups[gid]? with
        | some grp => match grp.threads[(u.getS a.toNat).toNat % grp.width]? with
          | some t => if t.launched then t.getV vs.toNat else 0
          | none => 0
        | none => 0
      | .stream _ => 0
    u.late la.toNat [(d.toNat, x)] [])

/-! ## Events of threads and groups -/

/-- The thread of a list, and the place among its incomplete results, of the k-th incomplete result counted over all. -/
def pendAt : List Thread → Nat → Option (Nat × Nat)
  | [], _ => none
  | t :: r, k => if k < t.pend.length then some (0, k) else (pendAt r (k - t.pend.length)).map fun x => (x.1 + 1, x.2)

/-- INSTRUCTION_COMPLETE: the k-th incomplete result of a group or stream, if it is known, is written before its
window ends; for a thread's results the agent is its group and k counts over the group's threads (R60, R61).
(DESIGN CHOICE, log entry 21) -/
def execInstructionComplete (who : Agent) (k : Nat) (s : State) : Out :=
  let nu := ((s.ufile who).map (·.pend.length)).getD 0
  if k < nu then .next (s.modU who (·.completeAt k))
  else
    match who with
    | .stream _ => .next s
    | .group gid => .next (match (s.groups[gid]?).bind fun g => pendAt g.threads (k - nu) with
      | some x => s.modThread gid x.1 (·.completeAt x.2)
      | none => s)

/-- COLLECTIVE_EXCHANGE: the exchange at a PC of a group forms (R186). -/
def execCollectiveExchange (gid : Nat) (pc : Word) (s : State) : Out := .next (s.modGroup gid fun g => g.exchange pc)

/-- JOIN_TIMEOUT: the clocks of a JOIN have passed and the thread moves on (R178). (DEDUCED, log entry 13) -/
def execJoinTimeout (gid t : Nat) (s : State) : Out :=
  .next (s.modThread gid t fun th => match th.wait with
    | .join limit => if limit ≤ s.tick then { th with wait := .none, pc := th.pc + 8, prog := 0, tinsn := th.tinsn + 1 } else th
    | _ => th)

/-! ## Readiness (R162, R165) -/

/-- The most ticks for which a core may issue for a context whose halt line is raised: 96 clocks (R381).
(DEDUCED, log entry 68) -/
def haltSkid : Nat := 96 * coreTick

/-- A group may issue: RUNNING, its block placed and awaiting no rollback, its die serving, its context running, or halting with
its groups not yet due to stop (R165, R381, R469). (DEDUCED, log entry 68) -/
def State.issues (s : State) (g : Group) : Bool :=
  g.gst == .running && match s.blocks[g.bid]? with
  | none => false
  | some b =>
    let c := s.ctx (s.ctxOfKernel b.kid)
    b.bst == .placed && b.trigger.isNone && !s.deadDie b.die &&
      (c.st == .running || (c.st == .halting && (match c.line with
        | some l => l.kind == .preempt || decide (s.tick < 12 * l.at_ + haltSkid)
        | none => false)))

/-- A GROW or SHRINK at which every live thread of its group waits can be granted now, or its request has still to be made
(R180, R181). -/
def State.resizeReady (s : State) (g : Group) (t : Thread) : Bool :=
  g.allAt t.pc && g.resizing &&
  match g.request with
  | none => true
  | some (k, n) => if n = 0 then g.settled else s.growFits g k n

/-- The wait of a thread of a group is over (R178 to R181, R189, R190, R265). A held thread is ready with the thread that it
is held for, whose issue it joins (R265). -/
def State.waitOver (s : State) (g : Group) (t : Thread) : Bool :=
  match t.wait with
  | .none => true
  | .join _ => g.liveLanes.all fun u => match g.threads[u]? with
      | some x => x.joining && x.pc == t.pc
      | none => true
  | .yield _ => false
  | .mwait .. => match t.monitor with
      | none => true
      | some m => m.written || m.lost
  | .resize _ _ => s.resizeReady g t
  | .held gid u => match s.thread? gid u with
      | some x => !x.live || x.pc != t.pc || x.prog != t.prog || (x.standing.isNone && (x.wait == .none || x.wait == .lane true))
      | none => true
  | .lane woken => woken
  | .uni _ woken => woken
  | .due .. => false

/-- A thread of a group that may issue is ready now (R165). -/
def State.readyThread (s : State) (g : Group) (t : Thread) : Bool :=
  t.live && t.standing.isNone && (t.pend.all fun p => p.known || decide (0 < p.left)) && decide (t.ready ≤ s.tick) && s.waitOver g t

/-- A thread waits after a YIELD. -/
def Thread.yielding (t : Thread) : Bool := match t.wait with
  | .yield _ => true
  | _ => false

/-- A group has a ready thread of another entry than that of a thread of a group: an entry is a group, a PC, a PROG and a CSP
(R166, R179). (DEDUCED, log entry 72) -/
def State.readyEntry (s : State) (gid hid : Nat) (h : Group) (t : Thread) : Bool :=
  h.threads.any fun x => s.readyThread h x && !(hid == gid && x.pc == t.pc && x.prog == t.prog && x.csp == t.csp)

/-- YIELD_RELEASE: 64 issues of the quadrant have passed, or no other entry of it is ready (R179). (DEDUCED, log entry 72) -/
def execYieldRelease (gid t : Nat) (s : State) : Out :=
  match s.groups[gid]?, s.thread? gid t with
  | some g, some me =>
    let core := s.coreOf g
    let q := quadrantOf g.slot
    let busy := s.groups.zipIdx.any fun x => s.coreOf x.1 == core && quadrantOf x.1.slot == q && s.issues x.1 && s.readyEntry gid x.2 x.1 me
    .next (s.modThread gid t fun th => match th.wait with
      | .yield limit => if limit ≤ (s.picker core q).issues ∨ busy = false then { th with wait := .none, ready := s.tick } else th
      | _ => th)
  | _, _ => .next s

/-- MWAIT_TIMEOUT: the time of an MWAIT has passed and its monitor is neither written nor lost (R189): with p = 1 the predicate
is set and the thread goes on, else MWAIT_TIMEOUT is raised with the timeout as TVAL (R396). -/
def execMwaitTimeout (gid t : Nat) (s : State) : Out :=
  match s.thread? gid t with
  | none => .next s
  | some th =>
    match th.wait with
    | .mwait (some limit) p pd us =>
      if s.clockOn (s.accOf (.group gid)).die < limit ∨ (match th.monitor with
          | none => true
          | some m => m.written || m.lost) = true then .next s
      else if p then .next (s.modThread gid t fun th => ({ th with monitor := none, wait := .none }.putP pd true).goto (th.pc + 8))
      else .next (s.userTrap gid t .mwaitTimeout us (th.pc + 8))
    | _ => .next s

/-- GROUP_LOADED: a LOADING group starts RUNNING, its threads ready (R161). -/
def execGroupLoaded (gid : Nat) (s : State) : Out :=
  .next (s.modGroup gid fun g =>
    if g.gst = .loading then
      { g with gst := .running, threads := g.threads.map fun t => { t with ready := s.tick } }
    else g)

end Sys2Proof.Machine
end

