-- ==== Sys2Proof/Machine/Memory.lean ====
section
/-! DEFINITION. The memory instructions of chapter 11 (R262 to R279), MONW (R188), and the logging of the
operations that a rollback replays (R468, R469). -/

namespace Sys2Proof.Machine

/-! ## Rollback: triggers and the replay log -/

/-- The block that an agent's ROLLBACK guard rolls back: its own, or for a stream the first placed block of its position (R465). -/
def State.logBlock (s : State) (who : Agent) : Option Nat :=
  match who with
  | .group gid => (s.groups[gid]?).map (·.bid)
  | .stream sid => (s.streams[sid]?).bind fun x =>
      (indices s.blocks.length fun i => match s.blocks[i]? with
        | some b => b.kid == x.kid && b.pos == x.pos && b.bst == .placed
        | none => false).head?

/-- The streams of a position that have not ended. -/
def State.streamsOf (s : State) (kid pos : Nat) : List Nat :=
  indices s.streams.length fun i => match s.streams[i]? with
    | some x => x.kid == kid && x.pos == pos && x.sst != .ended
    | none => false

/-- The blocks that are rolled back with a block: where the position has a cadence stream every block of the position, else the
block alone (R469). -/
def State.rolledWith (s : State) (bid : Nat) : List Nat :=
  match s.blocks[bid]? with
  | none => [bid]
  | some b =>
    if s.streamsOf b.kid b.pos = [] then [bid]
    else indices s.blocks.length fun i => match s.blocks[i]? with
      | some c => c.kid == b.kid && c.pos == b.pos && (c.bst == .placed || c.bst == .reserve)
      | none => false

/-- A rollback ends, for everything that was rolled back together: the trigger's normal effect applies (R469). -/
def State.endRollback (s : State) (bid : Nat) : State :=
  match (s.blocks[bid]?).bind fun b => b.replaying.map fun tr => (b, tr) with
  | none => s
  | some (b, tr) =>
    let s := (s.rolledWith bid).foldl (fun s i => s.modBlock i fun b => { b with replaying := none, replay := [], trigger := none }) s
    let s := (s.streamsOf b.kid b.pos).foldl (fun s i => s.modStream i fun x => { x with replay := [] }) s
    match tr with
    | .poison e => s.report { e with bid := none }
    | .guard (.group gid) t gi => s.standAt gid t .rangeGuard true gi
    | .guard (.stream sid) _ gi => s.standStream sid .rangeGuard true gi

/-- What a logged operation does now: it is performed and logged, or returns its logged result (R469). -/
inductive Replay where
  | perform
  | result (vals : List Word)
  deriving DecidableEq, Repr

/-- The records that an agent still replays: those of its block, or a stream's own (R468, R469). -/
def State.replayOf (s : State) : Agent → List LogRec
  | .group gid => (((s.groups[gid]?).bind fun g => s.blocks[g.bid]?).map (·.replay)).getD []
  | .stream sid => ((s.streams[sid]?).map (·.replay)).getD []

/-- The replay of an operation of an agent: the oldest record of the agent decides; one of another kind or address
ends the rollback (R469). (DEDUCED, log entry 48) -/
def State.replayOp (s : State) (who : Agent) (t : Option Nat) (kind addr : Nat) : State × Replay :=
  match (s.replayOf who).find? fun r => r.who == who && r.t == t with
  | none => (s, .perform)
  | some r =>
    if r.kind = kind ∧ r.addr = addr then
      (match who with
       | .group gid => match s.groups[gid]? with
         | some g => s.modBlock g.bid fun b => { b with replay := b.replay.erase r }
         | none => s
       | .stream sid => s.modStream sid fun x => { x with replay := x.replay.erase r }, .result r.vals)
    else
      (match s.logBlock who with
       | some bid => s.endRollback bid
       | none => s, .perform)

/-- The log that holds an agent's operations, its block's or a stream's own, with the length that it had at the start of the
interval that runs now; none where the launch is not protected or holds no snapshot yet (R467, R468). -/
def State.logOf (s : State) (who : Agent) : Option (List LogRec × Nat) :=
  if !(((s.kernels[s.kidOf who]?).map (·.rollback)).getD false) then none
  else match who with
    | .group gid => ((s.groups[gid]?).bind fun g => s.blocks[g.bid]?).bind fun b =>
        if b.snapLatest.isSome || b.snapWriting.isSome then some (b.log, (b.snapWriting.map (·.logAt)).getD 0) else none
    | .stream sid => (s.streams[sid]?).bind fun x =>
        if x.snapLatest.isSome || x.snapWriting.isSome then some (x.log, (x.snapWriting.map (·.logAt)).getD 0) else none

/-- A record put at the end of an agent's log; `full` says that it overflows the interval, which is unprotected from then on. -/
def State.putLog (s : State) (who : Agent) (r : LogRec) (full : Bool) : State :=
  match who with
  | .group gid => match s.groups[gid]? with
    | some g => s.modBlock g.bid fun b => { b with log := b.log ++ [r], covered := b.covered && !full }
    | none => s
  | .stream sid => s.modStream sid fun x => { x with log := x.log ++ [r] }

/-- A performed operation logged, 4,096 records for an interval; the one that overflows it logs class 14 and makes the interval
unprotected (R468). (DEDUCED, log entry 48) -/
def State.logOp (s : State) (who : Agent) (t : Option Nat) (kind addr : Nat) (vals : List Word) : State :=
  match s.logOf who with
  | none => s
  | some (l, start) =>
    let n := l.length - start
    if 4096 < n then s
    else
      let s := s.putLog who { who := who, t := t, kind := kind, addr := addr, vals := vals } (n == 4096)
      if n = 4096 then s.report (mkError 14 0 (s.accOf who).die ((s.accOf who).clu % 9) (some (s.ctxOf who)) 0) else s

/-! ## Scopes (R226, R227) -/

/-- What an instruction that names a scope meets: the scope it acts at, and whether SYS was clamped; none where
it raises SCOPE (R227). -/
def State.scopeCheck (s : State) (who : Agent) (scope : Nat) : Option (Nat × Bool) :=
  let c := s.ctx (s.ctxOf who)
  let k := (s.kernels[s.kidOf who]?).map (·.strict)
  if scope ≠ 4 ∨ c.priv then some (scope, false)
  else if c.strict ∨ k.getD false ∨ (s.part c.part).mode.getLsbD 2 then none
  else some (3, true)

/-- A clamped issue counted, with its PC; an issue that tests a wait again is not another one (R227, R420). -/
def State.clamped (s : State) (who : Agent) (c : Bool) : State :=
  if c && !s.issue.again then s.modCtx (s.ctxOf who) fun x => { x with clampN := x.clampN + 1, clampPc := some s.issue.pc } else s

/-- A scope seen from an agent: BLOCK named by a cadence stream acts as CLUSTER (R226). -/
def scopeOf (who : Agent) (scope : Nat) : Nat :=
  match who with
  | .stream _ => max scope 1
  | _ => scope

/-! ## Data and registers -/

/-- The bytes of an access of a size code (R46). -/
def accBytes (size : BitVec 3) : Nat := 2 ^ size.toNat

/-- The register writes of a loaded value of n bytes at register d (R267). -/
def loadRegs (d n : Nat) (sext : Bool) (b : List Byte) : List (Nat × Word) :=
  if n ≤ 4 then
    [(d, if sext then BitVec.ofInt 32 (sextNat (8 * n) (leNat b)) else BitVec.ofNat 32 (leNat b))]
  else (List.range (n / 4)).map fun i => (d + i, BitVec.ofNat 32 (leNat ((b.drop (4 * i)).take 4)))

/-- The low n bytes of registers d, d + 1, … (R268). -/
def storeData (get : Nat → Word) (d n : Nat) : List Byte :=
  ((List.range (max 1 (n / 4))).flatMap fun i => leBytes 4 (get (d + i)).toNat).take n

/-- The value of n bytes of registers from d. -/
def regValue (get : Nat → Word) (d n : Nat) : Nat := leNat (storeData get d n)

/-- The byte offset of a lane's access (R66, R264). -/
def Lane.ea (l : Lane) (a : BitVec 7) (off64 : BitVec 1) (disp : Int) : Int :=
  (if off64 = 1 then ((l.t.getV2 a.toNat).toNat : Int) else (l.t.getV a.toNat).toNat) + disp

/-- The displacement of a 12-bit field scaled by the size (R50). -/
def disp12 (imm : BitVec 12) (n : Nat) : Int := imm.toInt * n

/-- The 8-bit displacement of an atomic (R264). -/
def disp8 (imm : BitVec 12) (n : Nat) : Int := (imm.extractLsb' 0 8).toInt * n

/-- The new value of an atomic of n bytes, none where nothing is written (R271); v2 is used by cas. -/
def aopNew (aop n old v v2 : Nat) : Option Nat :=
  let m := 2 ^ (8 * n)
  let sg (x : Nat) : Int := sextNat (8 * n) x
  match aop with
  | 0 => some ((old + v) % m)
  | 1 => some (if sg old ≤ sg v then old else v)
  | 2 => some (if sg old ≤ sg v then v else old)
  | 3 => some (min old v)
  | 4 => some (max old v)
  | 5 => some (old &&& v)
  | 6 => some (old ||| v)
  | 7 => some (old ^^^ v)
  | 8 => some v
  | 9 => some (fp32.rnd .rne ((fp32.dec old).add .rne (fp32.dec v)))
  | _ => if old = v then some v2 else none

/-- An atomic operation that a host page supports: add, exch and cas (R275). -/
def aopOnHost (aop : Nat) : Bool := aop == 0 || aop == 8 || aop == 10

/-- The kind of access that an atomic operation makes (R275, R357). -/
def atomKind (aop : Nat) : AccKind := if aopOnHost aop then .atomic else .oddAtomic

/-! ## The lanes of a memory issue (R264, R265) -/

/-- One lane's access: its grant, its offset and its size. -/
structure LaneAcc where
  grant : Grant
  off : Int
  n : Nat
  deriving DecidableEq, Repr

/-- The address of a lane's access. -/
def LaneAcc.va (x : LaneAcc) : Nat := ((x.grant.base : Int) + x.off).toNat

/-- The checks of a lane before any lane is performed: STALE, PERM, BOUNDS, MISALIGN (R264). -/
def LaneAcc.check (x : LaneAcc) (a : Acc) (perm : Grant → Bool) : Option Cause :=
  match grantCheck a x.grant (perm x.grant) x.off x.n with
  | some c => some c
  | none => if x.va % x.n ≠ 0 then some .misalign else none

/-- How a lane's access ends: performed, waiting, left for a later step, stopped by poison whose consumption ends what it does, or
trapped. -/
inductive LaneEnd where
  | done
  | wait
  | later
  | poison
  | trap (c : Cause) (va : Nat)
  deriving DecidableEq, Repr

/-- A lane that this step leaves for a later one (R362): the lanes of one issue are translated one after the other, and other agents
may act between two of them. (DEDUCED, log entry 105) -/
def Issue.leaves (i : Issue) (gid t : Nat) : Bool :=
  match i.cut with
  | some k => (i.lanes.drop (k + 1)).contains (gid, t)
  | none => false

/-- The wait of the thread at whose lane an issue stops. -/
def LaneEnd.wait' : LaneEnd → Wait
  | .wait => .lane false
  | .later => .lane true
  | _ => .none

/-- A thread whose lane was performed: it goes on, its wait over. -/
def Issue.done (i : Issue) (t : Thread) : Thread := i.advance { t with wait := .none }

/-- The lanes of an issue performed in ascending home lane (R265): `perform` answers the state after the lane and how it
ends. At the lane f that is not performed the issue stops: its thread and the threads of the higher lanes take PROG f, and the
higher ones are held. The accesses of one agent are performed in program order. (DESIGN CHOICE, log entry 93)
(DEDUCED, log entry 105) -/
def performLanes (perform : State → Nat → Nat → Lane → State × LaneEnd) :
    List (Nat × Nat) → State → State
  | [], s => s
  | (gid, ti) :: rest, s =>
    match s.lane? gid ti with
    | none => performLanes perform rest s
    | some l =>
      match (if s.issue.leaves gid ti then (s, .later) else perform s gid ti l) with
      | (s, .done) => performLanes perform rest (s.modThread gid ti s.issue.done)
      | (s, stop) =>
        let f := l.g.homeLane ti
        let s := s.modThread gid ti fun t => { t with prog := f, wait := stop.wait' }
        let s := rest.foldl (fun s r => s.modThread r.1 r.2 fun t => { t with prog := f, wait := .held gid ti }) s
        match stop with
        | .trap c v => s.trapLane gid ti c v
        | _ => s

/-- The lanes of the issue with a true guard; the others go on at once (R45). -/
def State.guardedLanes (s : State) (g : BitVec 4) : State × List (Nat × Nat) :=
  let on (l : Nat × Nat) : Bool := ((s.lane? l.1 l.2).map fun x => x.guard g).getD false
  ((s.issue.lanes.filter fun l => !on l).foldl (fun s l => s.modThread l.1 l.2 s.issue.done) s, s.issue.lanes.filter on)

/-- An access translated and checked by a block's agent: `data` says whether it reads data, and if so whether past the L1. -/
def State.lookFor (s : State) (a : Acc) (kind : AccKind) (va n : Nat) (data : Option Bool) (bid : Option Nat) : State × Look :=
  match data with
  | some fresh => s.lookRead a kind va n fresh bid
  | none => s.look a kind va

/-- A lane memory instruction through a grant (R264, R265): the scope check once for the issue, the checks of every
lane before any is performed, then the lanes in order, each translated and checked as its kind. `act` performs
one lane at its physical address, at the effective scope. -/
def State.laneMem (s : State) (g : BitVec 4) (scope : Nat) (kind : AccKind) (data : Option Bool) (perm : Grant → Bool)
    (acc : Lane → LaneAcc) (act : Nat → State → Nat → Nat → Lane → Nat → BitVec 64 → State) : State :=
  let (s, lanes) := s.guardedLanes g
  match lanes with
  | [] => s
  | (g0, _) :: _ =>
    match s.scopeCheck (.group g0) scope with
    | none => lanes.foldl (fun s l => s.trapLane l.1 l.2 .scope 0) s
    | some (sc, cl) =>
      let s := s.clamped (.group g0) cl
      let fails := lanes.filterMap fun l =>
        (s.lane? l.1 l.2).bind fun x => ((acc x).check (s.accOf (.group l.1)) perm).map fun c => (l, c, (acc x).va)
      if fails ≠ [] then fails.foldl (fun s f => s.trapLane f.1.1 f.1.2 f.2.1 f.2.2) s
      else
        performLanes (fun s gid ti l =>
          let x := acc l
          match s.lookFor (s.accOf (.group gid)) kind x.va x.n data (some l.g.bid) with
          | (s, .fault c) => (s, .trap c x.va)
          | (s, .wait) => (s, .wait)
          | (s, .poison) => (s, .poison)
          | (s, .ok pa e) => (act sc s gid ti l pa e, .done)) lanes s

/-- The grant access of a lane. -/
def Lane.access (l : Lane) (gr : BitVec 4) (a : BitVec 7) (off64 : BitVec 1) (disp : Int) (n : Nat) : LaneAcc :=
  { grant := l.g.u.getG gr.toNat, off := l.ea a off64 disp, n := n }

/-- An acquire by an order field before its read (R235, R236): the read then finds the acquired values.
(DEDUCED, log entry 12) -/
def State.acqIf (s : State) (a : Acc) (ord : BitVec 2) (scope : Nat) : State := if ord = 1 then s.acquire a scope else s

/-- A release by an order field before its write (R234). -/
def State.relIf (s : State) (a : Acc) (ord : BitVec 2) (scope : Nat) : State := if ord = 2 then s.release a scope else s

/-! ## Range guards on stores (R464, R465) -/

/-- The aligned 32-bit words of store data that a guard sees: none for 8 and 16 bits (R464). -/
def guardWords (b : List Byte) : List Nat :=
  if b.length < 4 then [] else (List.range (b.length / 4)).map fun i => leNat ((b.drop (4 * i)).take 4)

/-- The guard that a store through a grant meets: its index and action, if some word fails it (R464, R465). -/
def guardFails (k : Kernel) (gr : Grant) (b : List Byte) : Option (Nat × Nat) :=
  if gr.ge ∧ (guardWords b).any (fun w => !k.guardPass gr.gi (fp32.dec w)) then some (gr.gi, k.gdact gr.gi % 4) else none

/-- The data that is stored under a guard: clamped by CLAMP, else unchanged (R465). -/
def guardData (k : Kernel) (gr : Grant) (b : List Byte) : List Byte :=
  match guardFails k gr b with
  | some (_, 1) => (guardWords b).flatMap fun w => leBytes 4 ((k.guardClamp gr.gi (fp32.dec w)).getD w)
  | _ => b

/-- Bit n of GDFLAG of an agent set (R465). -/
def State.setGdflag (s : State) (who : Agent) (n : Nat) : State :=
  s.modU who fun u => { u with gdflag := u.gdflag ||| BitVec.ofNat 16 (2 ^ n) }

/-- A block asks for a rollback; its groups issue nothing until it is restored (R469). -/
def State.askRollback (s : State) (bid : Nat) (tr : Trigger) : State :=
  s.modBlock bid fun b => { b with trigger := match b.trigger with
    | some x => some x
    | none => some tr }

/-! ## Loads and stores -/

/-- LD (R267). -/
def execLd (g la : BitVec 4) (d a : BitVec 7) (size : BitVec 3) (sext : BitVec 1) (ord : BitVec 2) (off64 : BitVec 1)
    (gr : BitVec 4) (hint : BitVec 2) (scope : BitVec 3) (imm : BitVec 12) (s : State) : Out :=
  let n := accBytes size
  .next (s.laneMem g scope.toNat .read (some false) (·.rd) (fun l => l.access gr a off64 (disp12 imm n) n)
    fun sc s gid ti l pa e =>
      let ac := s.accOf (.group gid)
      let (s, b) := (s.acqIf ac ord sc).readPa ac e pa n hint.toNat false (some l.g.bid)
      s.modThread gid ti fun t => t.late la.toNat (loadRegs d.toNat n (sext == 1) b) [])

/-- The store of one lane under its grant's guard, with RANGE_GUARD after the instruction (R268, R465). -/
def State.storeLane (s : State) (gid : Nat) (l : Lane) (ord : BitVec 2) (sc hint : Nat) (gr : Grant) (pa : Nat)
    (e : BitVec 64) (data : List Byte) : State :=
  let ac := s.accOf (.group gid)
  match s.kernelOf l.g.bid with
  | none => s
  | some k =>
    let s := match guardFails k gr data with
      | some (n, _) => s.setGdflag (.group gid) n
      | none => s
    (s.relIf ac ord sc).writePa ac e pa hint (guardData k gr data)

/-- The lanes of a store issue whose data fails a ROLLBACK guard: none of the issue is performed (R465). -/
def State.rollbackLanes (s : State) (g : BitVec 4) (gr : BitVec 4) (data : Lane → List Byte) : List (Nat × Nat × Nat) :=
  s.issue.lanes.filterMap fun r =>
    (s.lane? r.1 r.2).bind fun l => (s.kernelOf l.g.bid).bind fun k =>
      if l.guard g then match guardFails k (l.g.u.getG gr.toNat) (data l) with
        | some (n, 3) => some (r.1, r.2, n)
        | _ => none
      else none

/-- The lanes whose stored data fails a TRAP guard (R465). -/
def State.trapGuardLanes (s : State) (g : BitVec 4) (gr : BitVec 4) (data : Lane → List Byte) : List (Nat × Nat × Nat) :=
  s.issue.lanes.filterMap fun r =>
    (s.lane? r.1 r.2).bind fun l => (s.kernelOf l.g.bid).bind fun k =>
      if l.guard g then match guardFails k (l.g.u.getG gr.toNat) (data l) with
        | some (n, 2) => some (r.1, r.2, n)
        | _ => none
      else none

/-- RANGE_GUARD of the lanes that have passed their store: raised after the instruction, which the thread has
completed (R377, R378, R465); a thread still at the instruction keeps its own state. -/
def State.raiseGuards (s : State) (ls : List (Nat × Nat × Nat)) : State :=
  ls.foldl (fun s r => match s.thread? r.1 r.2.1 with
    | some t => if t.pc = s.issue.next ∧ t.standing.isNone then
        -- the cause belongs to the store, at whose address the thread is trapped
        (s.modThread r.1 r.2.1 fun t => { t with pc := s.issue.pc, tinsn := t.tinsn - 1 }).trapLane r.1 r.2.1 .rangeGuard r.2.2
      else s
    | none => s) s

/-- Whether every lane of a store issue passes the checks that come before a guard is applied (R264, R347). -/
def State.allPass (s : State) (g : BitVec 4) (perm : Grant → Bool) (acc : Lane → LaneAcc) : Bool :=
  s.issue.lanes.all fun r => match s.lane? r.1 r.2 with
    | some l => !l.guard g || ((acc l).check (s.accOf (.group r.1)) perm).isNone
    | none => true

/-- ST (R268, R464, R465). -/
def execSt (g : BitVec 4) (d a : BitVec 7) (size : BitVec 3) (sext : BitVec 1) (ord : BitVec 2) (off64 : BitVec 1)
    (gr : BitVec 4) (hint : BitVec 2) (scope : BitVec 3) (imm : BitVec 12) (s : State) : Out :=
  let _ := sext
  let n := accBytes size
  let data (l : Lane) := storeData l.t.getV d.toNat n
  let acc (l : Lane) := l.access gr a off64 (disp12 imm n) n
  let who := (s.issue.lanes.head?).map (·.1)
  let scOk := match who with
    | some g0 => (s.scopeCheck (.group g0) scope.toNat).isSome
    | none => true
  match (if scOk && s.allPass g (·.wr) acc then s.rollbackLanes g gr data else []) with
  | l :: ls => .next ((l :: ls).foldl (fun s r => match s.groups[r.1]? with
      | some grp => (s.setGdflag (.group r.1) r.2.2).askRollback grp.bid (.guard (.group r.1) r.2.1 r.2.2)
      | none => s) s)
  | [] =>
    let traps := s.trapGuardLanes g gr data
    .next ((s.laneMem g scope.toNat .write none (·.wr) acc fun sc s gid _ l pa e =>
      s.storeLane gid l ord sc hint.toNat (l.g.u.getG gr.toNat) pa e (data l)).raiseGuards traps)

/-- LDX: an atomic load at the site of its scope (R269, R275). -/
def execLdx (g la : BitVec 4) (d a : BitVec 7) (size : BitVec 3) (sext : BitVec 1) (ord : BitVec 2) (off64 : BitVec 1)
    (gr : BitVec 4) (hint : BitVec 2) (scope : BitVec 3) (imm : BitVec 12) (s : State) : Out :=
  let _ := (sext, hint)
  let n := accBytes size
  .next (s.laneMem g scope.toNat .read (some true) (·.rd) (fun l => l.access gr a off64 (disp12 imm n) n)
    fun sc s gid ti l pa e =>
      let ac := s.accOf (.group gid)
      let (s, b) := (s.acqIf ac ord sc).atomicPa ac e pa n sc (some l.g.bid) false fun _ => none
      s.modThread gid ti fun t => t.late la.toNat (loadRegs d.toNat n false b) [])

/-! ## Atomics -/

/-- The kind of an operation in a replay log (R468). (DEDUCED, log entry 48) -/
inductive LogKind where
  | atom | atomc | red | uatom | launch | evsig | gate (op : Nat)
  deriving DecidableEq, Repr

/-- The number under which a kind is recorded. -/
def LogKind.code : LogKind → Nat
  | .atom => 0 | .atomc => 1 | .red => 2 | .uatom => 3 | .launch => 4 | .evsig => 5 | .gate op => 8 + op

/-- One atomic of an agent at a translated address, replayed or performed and logged: the old value (R272, R468). -/
def State.atomicOp (s : State) (who : Agent) (t : Option Nat) (kind : LogKind) (ord : BitVec 2) (sc aop n pa : Nat)
    (e : BitVec 64) (v v2 : Nat) : State × Nat :=
  match s.replayOp who t kind.code pa with
  | (s, .result vals) => (s, leNat (vals.flatMap fun w => leBytes 4 w.toNat))
  | (s, .perform) =>
    let a := s.accOf who
    let s := (s.acqIf a ord sc).relIf a ord sc
    let (s, old) := s.atomicPa a e pa n sc (s.bidOf who) true fun b => (aopNew aop n (leNat b) v v2).map (leBytes n)
    let x := leNat old
    (s.logOp who t kind.code pa ((List.range (n / 4)).map fun i => BitVec.ofNat 32 (x / 2 ^ (32 * i))), x)

/-- A lane atomic through a grant (R272, R273): `ret` says whether the old value is returned. -/
def State.laneAtomic (s : State) (g : BitVec 4) (la : Nat) (kind : LogKind) (ret : Bool) (d a : BitVec 7)
    (n : Nat) (ord : BitVec 2) (off64 : BitVec 1) (gr : BitVec 4) (scope : BitVec 3) (disp : Int) (aop : Nat) : State :=
  s.laneMem g scope.toNat (atomKind aop) (some true) (·.at') (fun l => l.access gr a off64 disp n)
    fun sc s gid ti l pa e =>
      let v := regValue l.t.getV d.toNat n
      let v2 := regValue l.t.getV (d.toNat + n / 4) n
      let (s, old) := s.atomicOp (.group gid) (some ti) kind ord sc aop n pa e v v2
      if ret then s.modThread gid ti fun t => t.late la (loadRegs d.toNat n false (leBytes n old)) [] else s

/-- ATOM (R272). -/
def execAtom (g la : BitVec 4) (d a : BitVec 7) (size : BitVec 3) (sext : BitVec 1) (ord : BitVec 2) (off64 : BitVec 1)
    (gr : BitVec 4) (hint : BitVec 2) (scope : BitVec 3) (imm : BitVec 12) (s : State) : Out :=
  let _ := (sext, hint)
  let n := accBytes size
  .next (s.laneAtomic g la.toNat .atom true d a n ord off64 gr scope (disp8 imm n) (imm.toNat / 256))

/-- ATOMC: compare and swap (R273). -/
def execAtomc (g la : BitVec 4) (d a : BitVec 7) (size : BitVec 3) (sext : BitVec 1) (ord : BitVec 2) (off64 : BitVec 1)
    (gr : BitVec 4) (hint : BitVec 2) (scope : BitVec 3) (imm : BitVec 12) (s : State) : Out :=
  let _ := (sext, hint)
  let n := accBytes size
  .next (s.laneAtomic g la.toNat .atomc true d a n ord off64 gr scope (disp12 imm n) 10)

/-- RED: an atomic that returns nothing (R272). -/
def execRed (g : BitVec 4) (d a : BitVec 7) (size : BitVec 3) (sext : BitVec 1) (ord : BitVec 2) (off64 : BitVec 1)
    (gr : BitVec 4) (hint : BitVec 2) (scope : BitVec 3) (imm : BitVec 12) (s : State) : Out :=
  let _ := (sext, hint)
  let n := accBytes size
  .next (s.laneAtomic g 0 .red false d a n ord off64 gr scope (disp8 imm n) (imm.toNat / 256))

/-! ## Pads (R270) -/

/-- The block of a stage in the same stage set. -/
def State.stageBlock (s : State) (bid stage : Nat) : Option Nat :=
  (s.blocks[bid]?).bind fun b =>
    if b.stage = stage then some bid
    else (indices s.blocks.length fun i => match s.blocks[i]? with
      | some x => x.kid == b.kid && x.pos == b.pos && x.coord == b.coord && x.stage == stage
      | none => false).head?

/-- The block that a pad selector names: the own pad, or through the window the pad of a stage that exists and
has not retired (R270). -/
def State.padTarget (s : State) (bid : Nat) (gr : BitVec 4) : Option Nat :=
  if gr.toNat < 8 then some bid
  else
    let stage := gr.toNat - 8
    match s.kernelOf bid with
    | none => none
    | some k =>
      if k.nstage ≤ stage then none
      else (s.stageBlock bid stage).bind fun i => match s.blocks[i]? with
        | some b => if b.bst = .placed ∨ b.bst = .reserve ∨ b.bst = .saved then some i else none
        | none => none

/-- A block stands on its core; one that is saved or in the reserve has no pad there (R394). -/
def State.placed (s : State) (bid : Nat) : Bool := ((s.blocks[bid]?).map (·.bst == .placed)).getD false

/-- One byte of a pad; the top 128 bytes are the barrier words (R22, R270). -/
def Block.padByte (b : Block) (off : Nat) : Byte :=
  if b.padsz ≤ off + 128 ∧ off < b.padsz then
    let o := off + 128 - b.padsz
    BitVec.ofNat 8 (((b.words[o / 8]?).getD 0).toNat / 2 ^ (8 * (o % 8)))
  else b.pad.read off

/-- n bytes of a pad. -/
def Block.padRead (b : Block) (off n : Nat) : List Byte := (List.range n).map fun i => b.padByte (off + i)

/-- The poison among n bytes of a pad that a read of a block's agent consumes, as it is reported (R254, R376). -/
def State.padError (s : State) (bid off n : Nat) (who : Nat) : Option ErrorReport :=
  (s.blocks[bid]?).bind fun b =>
    if b.padPoison.any fun p => decide (off ≤ p) && decide (p < off + n) then
      some { mkError 6 0 b.die b.clu (some (s.ctxOfKernel b.kid)) 0 with bid := some who, place := .pad bid off }
    else none

/-- A pad read consumes poison (R254, R376). -/
def State.consumePad (s : State) (bid off n : Nat) (who : Nat) : State :=
  match s.padError bid off n who with
  | some e => s.report e
  | none => s

/-- A pad read meets poison whose consumption ends what its agent does (R376). -/
def State.padEnds (s : State) (bid off n : Nat) (who : Nat) : Bool := (s.padError bid off n who).any s.ends

/-- The checks of a pad lane: MISALIGN, PAD_BOUNDS, BARRIER_MISUSE (R270). An offset below 0 is out of bounds.
(DESIGN CHOICE, log entry 94) (DEDUCED, log entry 26) -/
def State.padCheck (s : State) (bid : Nat) (gr : BitVec 4) (off : Int) (n : Nat) (wr : Bool) : Except Cause Nat :=
  if off % n ≠ 0 then .error .misalign
  else
    match (s.padTarget bid gr).bind fun i => (s.blocks[i]?).map fun b => (i, b) with
    | none => .error .padBounds
    | some (i, b) =>
      if off < 0 ∨ (b.padsz : Int) < off + n then .error .padBounds
      else if wr ∧ (b.padsz : Int) < off + n + 128 then .error .barrierMisuse
      else .ok i

/-- A lane pad instruction (R265, R270; DEDUCED, log entry 95): every lane checked, then the lanes performed in order; `rd` says that it reads. -/
def State.lanePad (s : State) (g : BitVec 4) (gr : BitVec 4) (n : Nat) (rd wr : Bool) (off : Lane → Int)
    (act : State → Nat → Nat → Lane → Nat → State) : State :=
  let (s, lanes) := s.guardedLanes g
  let fails := lanes.filterMap fun l => (s.lane? l.1 l.2).bind fun x =>
    match s.padCheck x.g.bid gr (off x) n wr with
    | .error c => some (l, c, (off x % 2 ^ 64).toNat)
    | .ok _ => none
  if fails ≠ [] then fails.foldl (fun s f => s.trapLane f.1.1 f.1.2 f.2.1 f.2.2) s
  else
    performLanes (fun s gid ti l =>
      match s.padCheck l.g.bid gr (off l) n wr with
      | .ok bid =>
        let o := (off l).toNat
        -- the pad of a block that has been moved away is waited for
        if !s.placed bid then (s, .wait)
        else if rd && s.padEnds bid o n l.g.bid then (s.consumePad bid o n l.g.bid, .poison)
        else (act (if rd then (s.padLook bid o n).consumePad bid o n l.g.bid else s) gid ti l bid, .done)
      | .error c => (s, .trap c (off l).toNat)) lanes s

/-- PLD (R270). -/
def execPld (g la : BitVec 4) (d a : BitVec 7) (size : BitVec 3) (sext : BitVec 1) (ord : BitVec 2) (off64 : BitVec 1)
    (gr : BitVec 4) (hint : BitVec 2) (scope : BitVec 3) (imm : BitVec 12) (s : State) : Out :=
  let _ := hint
  let n := accBytes size
  .next (s.lanePad g gr n true false (fun l => l.ea a off64 (disp12 imm n)) fun s gid ti l bid =>
    let off := (l.ea a off64 (disp12 imm n)).toNat
    let s := s.acqIf (s.accOf (.group gid)) ord scope.toNat
    let b := ((s.blocks[bid]?).map fun b => b.padRead off n).getD []
    s.modThread gid ti fun t => t.late la.toNat (loadRegs d.toNat n (sext == 1) b) [])

/-- PST (R270). -/
def execPst (g : BitVec 4) (d a : BitVec 7) (size : BitVec 3) (sext : BitVec 1) (ord : BitVec 2) (off64 : BitVec 1)
    (gr : BitVec 4) (hint : BitVec 2) (scope : BitVec 3) (imm : BitVec 12) (s : State) : Out :=
  let _ := (sext, hint)
  let n := accBytes size
  .next (s.lanePad g gr n false true (fun l => l.ea a off64 (disp12 imm n)) fun s gid _ l bid =>
    let off := (l.ea a off64 (disp12 imm n)).toNat
    (s.relIf (s.accOf (.group gid)) ord scope.toNat).padStore bid off (storeData l.t.getV d.toNat n))

/-- PATOM (R270, R272). -/
def execPatom (g la : BitVec 4) (d a : BitVec 7) (size : BitVec 3) (sext : BitVec 1) (ord : BitVec 2) (off64 : BitVec 1)
    (gr : BitVec 4) (hint : BitVec 2) (scope : BitVec 3) (imm : BitVec 12) (s : State) : Out :=
  let _ := (sext, hint)
  let n := accBytes size
  .next (s.lanePad g gr n true true (fun l => l.ea a off64 (disp8 imm n)) fun s gid ti l bid =>
    let off := (l.ea a off64 (disp8 imm n)).toNat
    let ac := s.accOf (.group gid)
    let s := (s.acqIf ac ord scope.toNat).relIf ac ord scope.toNat
    let old := leNat (((s.blocks[bid]?).map fun b => b.padRead off n).getD [])
    let v := regValue l.t.getV d.toNat n
    let v2 := regValue l.t.getV (d.toNat + n / 4) n
    let s := match aopNew (imm.toNat / 256) n old v v2 with
      | some x => s.padStore bid off (leBytes n x)
      | none => s
    s.modThread gid ti fun t => t.late la.toNat (loadRegs d.toNat n false (leBytes n old)) [])

/-! ## Fences and maintenance -/

/-- The effect of a fence of a kind at a scope (R238, R276): rel, ar and sc release, acq, ar and sc acquire. -/
def State.fence (s : State) (who : Agent) (kind : BitVec 2) (scope : Nat) : State :=
  let a := s.accOf who
  let sc := scopeOf who scope
  let s := if kind = 0 then s else s.release a sc
  if kind = 1 then s else s.acquire a sc

/-- FENCE (R238, R276). -/
def execFence (g : BitVec 4) (kind : BitVec 2) (scope : BitVec 3) (s : State) : Out :=
  let (s, lanes) := s.guardedLanes g
  match lanes with
  | [] => .next s
  | (g0, _) :: _ =>
    match s.scopeCheck (.group g0) scope.toNat with
    | none => .next (lanes.foldl (fun s l => s.trapLane l.1 l.2 .scope 0) s)
    | some (sc, cl) =>
      .next (lanes.foldl (fun s l => (s.fence (.group l.1) kind sc).modThread l.1 l.2 s.issue.done) (s.clamped (.group g0) cl))

/-- A cache maintenance of lanes (R277); on an RSH page it acts on the copies that the die holds. -/
def State.laneMaint (s : State) (g : BitVec 4) (a : BitVec 7) (off64 : BitVec 1) (gr : BitVec 4) (scope : BitVec 3)
    (imm : BitVec 12) (inv : Bool) : State :=
  s.laneMem g scope.toNat .flush none (·.rd) (fun l => l.access gr a off64 (disp12 imm 1) 1)
    fun sc s gid _ _ pa e =>
      let ac := s.accOf (.group gid)
      s.maintain ac (leafCls e) (s.rucHome ac e) (s.replicaPa e pa) sc inv

/-- CFLUSH (R277). -/
def execCflush (g : BitVec 4) (a : BitVec 7) (size : BitVec 3) (sext : BitVec 1) (ord : BitVec 2) (off64 : BitVec 1)
    (gr : BitVec 4) (hint : BitVec 2) (scope : BitVec 3) (imm : BitVec 12) (s : State) : Out :=
  let _ := (size, sext, ord, hint)
  .next (s.laneMaint g a off64 gr scope imm false)

/-- CINV (R277). -/
def execCinv (g : BitVec 4) (a : BitVec 7) (size : BitVec 3) (sext : BitVec 1) (ord : BitVec 2) (off64 : BitVec 1)
    (gr : BitVec 4) (hint : BitVec 2) (scope : BitVec 3) (imm : BitVec 12) (s : State) : Out :=
  let _ := (size, sext, ord, hint)
  .next (s.laneMaint g a off64 gr scope imm true)

/-- A translation held by the first-level or second-level cache, without a walk (R278). -/
def State.heldLeaf (s : State) (a : Acc) (va : Nat) : Option (Nat × BitVec 64) :=
  let asid := (s.ctx a.ctx).asid
  match s.tlb.find? fun t => t.matches a.die a.core asid va || t.matches a.die none asid va with
  | some t => some (t.lvl, t.leaf)
  | none => none

/-- The lanes of an instruction that never traps on an access: those that pass the grant checks (R264, R278). -/
def State.dropLanes (s : State) (g : BitVec 4) (acc : Lane → LaneAcc) (act : State → Nat → Nat → Lane → State) : State :=
  let (s, lanes) := s.guardedLanes g
  lanes.foldl (fun s r => match s.lane? r.1 r.2 with
    | some l =>
      let s := match (acc l).check (s.accOf (.group r.1)) (fun q => q.rd || q.wr || q.at') with
        | some _ => s
        | none => act s r.1 r.2 l
      s.modThread r.1 r.2 s.issue.done
    | none => s) s

/-- PREF (R278): the line is fetched whole. One that no access of the agent reaches, or that is poisoned, is not fetched; a bound page
of another partition is fetched at its rim home only, since no L1 or L2 is filled from it (R430 item 2). -/
def execPref (g : BitVec 4) (a : BitVec 7) (size : BitVec 3) (sext : BitVec 1) (ord : BitVec 2) (off64 : BitVec 1)
    (gr : BitVec 4) (hint : BitVec 2) (scope : BitVec 3) (imm : BitVec 12) (s : State) : Out :=
  let _ := (size, sext, ord, scope)
  .next (s.dropLanes g (fun l => l.access gr a off64 (disp12 imm 1) 1) fun s gid _ l =>
    let ac0 := s.accOf (.group gid)
    let va := (l.access gr a off64 (disp12 imm 1) 1).va
    match s.heldLeaf ac0 va with
    | none => s
    | some (lvl, e) =>
      let ac := ac0
      let pa := s.replicaPa e (s.redirect ac.part (leafPa e + va % levelSize lvl))
      if leafRd e = false ∨ (s.gatedCheck ac.part .read e).isSome ∨ s.poisoned ac e (pa / 128 * 128) 128 true = true ∨ s.foreign ac e pa = true ∨ (s.absentPage pa).isSome then s
      else
        let line := pa / 128 * 128
        let home := s.rucHome ac e
        match (if s.atGateHome ac e then 3 else hint.toNat) with
        | 1 => (List.range 4).foldl (fun s i => s.prefetch { ac with core := none } (leafCls e) home (line + 32 * i) 0) s
        | 3 => (List.range 4).foldl (fun s i => s.rimTouch ac (line + 32 * i) 0) s
        | h => (List.range 4).foldl (fun s i => s.prefetch ac (leafCls e) home (line + 32 * i) h) s)

/-- MONW (R188): the monitor is armed on the line, checked as a 4-byte load. -/
def execMonw (g : BitVec 4) (a : BitVec 7) (size : BitVec 3) (sext : BitVec 1) (ord : BitVec 2) (off64 : BitVec 1)
    (gr : BitVec 4) (hint : BitVec 2) (scope : BitVec 3) (imm : BitVec 12) (s : State) : Out :=
  let _ := (size, sext, ord, hint)
  .next (s.laneMem g scope.toNat .read none (·.rd) (fun l => l.access gr a off64 (disp12 imm 4) 4)
    fun _ s gid ti _ pa _ =>
      s.modThread gid ti fun t => { t with monitor := some { line := lineOf pa, written := false, lost := false } })

/-! ## Uniform accesses (R279) -/

/-- The offset of a uniform access: S[a] zero-extended plus the displacement (R48, R279). -/
def UFile.ea (u : UFile) (a : BitVec 8) (disp : Int) : Int := (u.getS a.toNat).toNat + disp

/-- A uniform access through a grant (R279): the checks of a single lane, made for the group or the stream. `act`
answers the state after the access, which then goes on. -/
def State.uniMem (s : State) (g : BitVec 4) (scope : Nat) (kind : AccKind) (data : Option Bool) (perm : Grant → Bool) (gr : BitVec 4)
    (a : BitVec 8) (disp : Int) (n : Nat) (act : Nat → State → UFile → Acc → Nat → BitVec 64 → State) : State :=
  match s.ufile s.issue.who with
  | none => s
  | some u =>
    if !u.guard g then s.advanceU
    else
      match s.scopeCheck s.issue.who scope with
      | none => s.trapU .scope 0
      | some (sc, cl) =>
        let s := s.clamped s.issue.who cl
        let ac := s.accOf s.issue.who
        let x : LaneAcc := { grant := u.getG gr.toNat, off := u.ea a disp, n := n }
        match x.check ac perm with
        | some c => s.trapU c x.va
        | none =>
          match s.lookFor ac kind x.va n data (s.bidOf s.issue.who) with
          | (s, .fault c) => s.trapU c x.va
          | (s, .wait) => s.waitU
          | (s, .poison) => s
          | (s, .ok pa e) => (act (scopeOf s.issue.who sc) s u ac pa e).unwaitU.advanceU

/-- ULD (R279). -/
def execUld (g la : BitVec 4) (d a : BitVec 8) (size : BitVec 3) (sext : BitVec 1) (ord : BitVec 2) (gr : BitVec 4)
    (hint : BitVec 2) (scope : BitVec 3) (imm : BitVec 12) (s : State) : Out :=
  let n := accBytes size
  .next (s.uniMem g scope.toNat .read (some false) (·.rd) gr a (disp12 imm n) n fun sc s _ ac pa e =>
    let (s, b) := (s.acqIf ac ord sc).readPa ac e pa n hint.toNat false (s.bidOf s.issue.who)
    s.modU s.issue.who fun u => u.late la.toNat (loadRegs d.toNat n (sext == 1) b) [])

/-- UST (R279, R464, R465). -/
def execUst (g : BitVec 4) (d a : BitVec 8) (size : BitVec 3) (sext : BitVec 1) (ord : BitVec 2) (gr : BitVec 4)
    (hint : BitVec 2) (scope : BitVec 3) (imm : BitVec 12) (s : State) : Out :=
  let _ := sext
  let n := accBytes size
  match s.ufile s.issue.who, s.kernels[s.kidOf s.issue.who]? with
  | some u0, some k =>
    let data := storeData u0.getS d.toNat n
    let gt := u0.getG gr.toNat
    let hit := if u0.guard g then guardFails k gt data else none
    let x : LaneAcc := { grant := gt, off := u0.ea a (disp12 imm n), n := n }
    let passes := (s.scopeCheck s.issue.who scope.toNat).isSome && (x.check (s.accOf s.issue.who) (·.wr)).isNone
    match (if passes then hit else none) with
    -- a value that fails a ROLLBACK guard is not stored, and the agent stays at its UST (R465, R469)
    | some (i, 3) =>
      let s := s.setGdflag s.issue.who i
      .next (match s.logBlock s.issue.who, s.issue.who with
        | some bid, who => s.askRollback bid (.guard who (((s.issue.lanes.head?).map (·.2)).getD 0) i)
        | none, .stream sid => s.standStream sid .rangeGuard true i
        | none, .group _ => s)
    | _ =>
    let s1 := s.uniMem g scope.toNat .write none (·.wr) gr a (disp12 imm n) n fun sc s _ ac pa e =>
        let s := match hit with
          | some (i, _) => s.setGdflag s.issue.who i
          | none => s
        (s.relIf ac ord sc).writePa ac e pa hint.toNat (guardData k gt data)
    -- RANGE_GUARD follows the store if it was performed, which the agent's PC shows (R378, R465)
    let went : List (Nat × Nat) := match s.issue.who with
      | .group _ => s1.issue.lanes.filter fun (l : Nat × Nat) => ((s1.thread? l.1 l.2).map fun t => t.pc == s.issue.next && t.standing.isNone).getD false
      | .stream _ => []
    match hit, s.issue.who with
    | some (i, 2), .group _ => .next (s1.raiseGuards (went.map fun (l : Nat × Nat) => (l.1, l.2, i)))
    | some (i, 2), .stream sid =>
      if ((s1.streams[sid]?).map (·.pc)) = some s.issue.next ∧ ((s1.streams[sid]?).bind (·.standing)).isNone then
        .next ((s1.modStream sid fun x => { x with pc := s.issue.pc }).userTrapStream sid .rangeGuard i s.issue.next)
      else .next s1
    | _, _ => .next s1
  | _, _ => .next s

/-- UATOM (R272, R279). -/
def execUatom (g la : BitVec 4) (d a : BitVec 8) (size : BitVec 3) (sext : BitVec 1) (ord : BitVec 2) (gr : BitVec 4)
    (hint : BitVec 2) (scope : BitVec 3) (imm : BitVec 12) (s : State) : Out :=
  let _ := (sext, hint)
  let n := accBytes size
  .next (s.uniMem g scope.toNat (atomKind (imm.toNat / 256)) (some true) (·.at') gr a (disp8 imm n) n fun sc s u _ pa e =>
    let v := regValue u.getS d.toNat n
    let v2 := regValue u.getS (d.toNat + n / 4) n
    let (s, old) := s.atomicOp s.issue.who none .uatom ord sc (imm.toNat / 256) n pa e v v2
    s.modU s.issue.who fun u => u.late la.toNat (loadRegs d.toNat n false (leBytes n old)) [])

/-- UFENCE (R276). -/
def execUfence (g : BitVec 4) (kind : BitVec 2) (scope : BitVec 3) (s : State) : Out :=
  .next (if !s.uguard g then s.advanceU
    else match s.scopeCheck s.issue.who scope.toNat with
      | none => s.trapU .scope 0
      | some (sc, cl) => ((s.clamped s.issue.who cl).fence s.issue.who kind sc).advanceU)

end Sys2Proof.Machine
end

