-- ==== Sys2Proof/Machine/Page.lean ====
section
/-! DEFINITION. GNARROW, GINFO, PPROBE and PHINT, and the events of translation, of the access counters, of pages
shared between devices, of the copiers and of outside agents (chapter 15, R224, R261, R448). -/

namespace Sys2Proof.Machine

/-! ## GNARROW and GINFO (R349 to R352) -/

/-- The guards that the kernel of an agent declares (R192). -/
def State.guardDeclared (s : State) (who : Agent) (n : Nat) : Bool :=
  ((s.kernels[s.kidOf who]?).map fun k => bitAt k.gdmask n).getD false

/-- What GNARROW makes of a grant, or the cause it raises (R350). -/
def narrowGrant (a : Acc) (src : Grant) (off len perms : Nat) (gset : Bool) (gi : Nat) (declared : Bool) : Except Cause Grant :=
  if !src.tag then .error .grantBounds
  else if src.part ≠ a.part ∨ src.ctxNo ≠ a.ctx then .error .grantStale
  else if len = 0 then .ok Grant.null
  else if src.len < off + len then .error .grantBounds
  else if perms &&& src.perms ≠ perms then .error .grantPerm
  else if gset ∧ (src.ge ∨ declared = false) then .error .grantPerm
  else .ok (Grant.make (src.base + off) len perms (if gset then gi else src.gi) (b2n (gset || src.ge)) src.part src.ctxNo)

/-- GNARROW (R350): writes G13 or G14. (DEDUCED, log entry 26) -/
def execGnarrow (g : BitVec 4) (a : BitVec 8) (dst : BitVec 1) (gs : BitVec 4) (sb : BitVec 8) (perms : BitVec 4)
    (gset : BitVec 1) (gi : BitVec 4) (s : State) : Out :=
  .next (match s.ufile s.issue.who with
    | none => s
    | some u =>
      if !u.guard g then s.advanceU
      else
        let src := u.getG gs.toNat
        let off := (u.getS2 a.toNat).toNat
        match narrowGrant (s.accOf s.issue.who) src off (u.getS2 sb.toNat).toNat perms.toNat (gset == 1) gi.toNat
            (s.guardDeclared s.issue.who gi.toNat) with
        | .error c => s.trapU c ((src.base + off) % 2 ^ 64)
        | .ok x => (s.modU s.issue.who fun u => { u with g := u.g.set (13 + dst.toNat) x }).advanceU)

/-- The value that GINFO reads from a grant (R352). -/
def Grant.info (x : Grant) (sl : Nat) : Nat :=
  match sl with
  | 0 => if x.tag then x.base else 0
  | 1 => if x.tag then x.len else 0
  | _ => x.perms + 16 * b2n x.ge + 32 * x.gi + 512 * x.part + 2 ^ 14 * x.ctxNo + 2 ^ 26 * b2n x.tag

/-- GINFO (R352). -/
def execGinfo (g la : BitVec 4) (d : BitVec 8) (sl : BitVec 2) (gs : BitVec 4) (s : State) : Out :=
  .next (s.uniOp g fun _ u =>
    let x := BitVec.ofNat 64 ((u.getG gs.toNat).info sl.toNat)
    u.late la.toNat [(d.toNat, pairLo x), (d.toNat + 1, pairHi x)] [])

/-! ## PPROBE and PHINT (R366 to R368) -/

/-- This device holds the page of a leaf of a level EXCLUSIVE (R360, R367). -/
def State.holdsPage (s : State) (pa lvl : Nat) : Bool := (s.pageOwn (s.ownPage pa lvl)).excl == some 0

/-- What PPROBE reads from a leaf (R367). -/
def State.probe (s : State) (a : Acc) (va lvl : Nat) (e : BitVec 64) : Nat :=
  let pa := s.redirect a.part (leafPa e + va % levelSize lvl)
  1 + 2 * (leafCls e).toNat + 8 * b2n (leafGated e) + 64 * b2n (leafRd e) + 32 * b2n (leafW e) + 16 * b2n (leafX e) +
    128 * b2n (leafMig e) + 256 * lvl + 1024 * b2n (s.remote a.die pa) + 2048 * b2n (leafXd e) +
    4096 * b2n (!leafXd e || s.holdsPage pa lvl) + 2 ^ 16 * (if pa < deviceTop then groupOf pa else 127)

/-- A lane instruction of one byte that checks its grant as a load does but needs any one permission, and then
never faults (R366). -/
def State.probeLanes (s : State) (g : BitVec 4) (acc : Lane → LaneAcc) (act : State → Nat → Nat → Lane → State) : State :=
  let (s, lanes) := s.guardedLanes g
  let fails := lanes.filterMap fun l =>
    (s.lane? l.1 l.2).bind fun x =>
      ((acc x).check (s.accOf (.group l.1)) (fun q => q.rd || q.wr || q.at')).map fun c => (l, c, (acc x).va)
  if fails ≠ [] then fails.foldl (fun s f => s.trapLane f.1.1 f.1.2 f.2.1 f.2.2) s
  else lanes.foldl (fun s r => match s.lane? r.1 r.2 with
    | some l => (act s r.1 r.2 l).modThread r.1 r.2 s.issue.done
    | none => s) s

/-- PPROBE (R367). -/
def execPprobe (g la : BitVec 4) (d a : BitVec 7) (size : BitVec 3) (sext : BitVec 1) (ord : BitVec 2) (off64 : BitVec 1)
    (gr : BitVec 4) (hint : BitVec 2) (scope : BitVec 3) (imm : BitVec 12) (s : State) : Out :=
  let _ := (size, sext, ord, hint, scope)
  .next (s.probeLanes g (fun l => l.access gr a off64 (disp12 imm 1) 1) fun s gid ti l =>
    let ac := s.accOf (.group gid)
    let va := (l.access gr a off64 (disp12 imm 1) 1).va
    let (s, x) := match s.translate ac va with
      | (s, .leaf lvl e) => (s, if (s.gatedCheck ac.part .read e).isSome then 0 else s.probe ac va lvl e)
      | (s, _) => (s, 0)
    s.modThread gid ti fun t => t.late la.toNat [(d.toNat, BitVec.ofNat 32 x)] [])

/-- The region of an access counter table set in a cooldown that starts now, its count 0 (R364). (DESIGN CHOICE, log entry 106) -/
def Die.startCool (x : Die) (clock r : Nat) : Die :=
  x.putRegion { region := r, count := 0, cool := some (clock + x.cool.toNat * 1000) }

/-- A request posted by PHINT (R364, R368). -/
def Die.postHint (x : Die) (r : Nat) : Die :=
  let n := ((x.regions.find? fun g => g.region == r).map (·.count)).getD 0
  if x.reqs.length < 64 then { x with reqs := x.reqs ++ [{ region := r, count := n, hint := true }] } else { x with ovf := true }

/-- A region is in cooldown (R364). -/
def Die.cooling (x : Die) (r : Nat) : Bool := ((x.regions.find? fun g => g.region == r).bind (·.cool)).isSome

/-- The act of PHINT on a region of a die (R368). -/
def Die.hint (x : Die) (clock r kind : Nat) : Die :=
  match kind with
  | 0 => if x.cooling r then x else (x.postHint r).startCool clock r
  | 1 => x.startCool clock r
  | _ => { x with regions := x.regions.map fun g => if g.region = r then { g with count := 0 } else g }

/-- PHINT (R368, R427): lanes of one issue that name the same region act once; on a GATED page a lane needs the rights of a load. Every
physical address lies within the counter table's reach. (DESIGN CHOICE, log entry 106) -/
def execPhint (g : BitVec 4) (kind : BitVec 2) (a : BitVec 7) (size : BitVec 3) (sext : BitVec 1) (ord : BitVec 2)
    (off64 : BitVec 1) (gr : BitVec 4) (hint : BitVec 2) (scope : BitVec 3) (imm : BitVec 12) (s : State) : Out :=
  let _ := (size, sext, ord, hint, scope)
  let acc (l : Lane) : LaneAcc := l.access gr a off64 (disp12 imm 1) 1
  -- the regions of the lanes below a lane in the issue, found from the translations they have filled
  let region (s : State) (r : Nat × Nat) : State × Option (Nat × Nat) :=
    match s.lane? r.1 r.2 with
    | none => (s, none)
    | some l =>
      let ac := s.accOf (.group r.1)
      match s.translate ac (acc l).va with
      | (s, .leaf lvl e) => (s, if (s.gatedCheck ac.part .read e).isSome then none else some (ac.die, s.redirect ac.part (leafPa e + (acc l).va % levelSize lvl) / 2 ^ 21))
      | (s, _) => (s, none)
  let ok (l : Lane) (gid : Nat) : Bool := ((acc l).check (s.accOf (.group gid)) (fun q => q.rd || q.wr || q.at')).isNone
  let on := s.issue.lanes.filter fun r => ((s.lane? r.1 r.2).map fun l => l.guard g).getD false
  let clean := on.all fun r => ((s.lane? r.1 r.2).map fun l => ok l r.1).getD true
  let s0 := if clean then
      let (s1, rs) := on.foldl (fun (x : State × List (Nat × Nat)) r =>
        let (s, o) := region x.1 r
        (s, match o with
          | some p => if x.2.contains p then x.2 else x.2 ++ [p]
          | none => x.2)) (s, [])
      rs.foldl (fun s p => s.modDie p.1 fun x => x.hint (s.clockOn p.1) p.2 kind.toNat) s1
    else s
  .next (s0.probeLanes g acc fun s _ _ _ => s)

/-! ## Events of translation -/

/-- HUB_WALK (R358): the walker serves a miss of a core, or of an agent without a first-level cache where `core` is
not below 288; a translation already held is left. -/
def execHubWalk (die core ctx va : Nat) (s : State) : Out :=
  let c := s.accAt ctx die (core % 36 / 4) (if core < 288 then some core else none)
  .next (s.translate c va).1

/-- The fields of a TLBI_PH1 (R445): ASID, VA, the level of the page, the sequence number and the frame. -/
structure Ph1 where
  asid : BitVec 16
  va : Nat
  lvl : Nat
  seq : Word
  frame : Option Nat
  deriving DecidableEq, Repr

/-- Body word i of a message. -/
def Msg.word (m : Msg) (i : Nat) : Nat := ((m.body[i]?).getD 0).toNat

/-- The sender of a message (R442). -/
def Msg.src (m : Msg) : Nat := bitsOf m.hdr.toNat 8 4
/-- The type of a message (R442). -/
def Msg.kind (m : Msg) : Nat := bitsOf m.hdr.toNat 0 8
/-- A multicast (R442). -/
def Msg.mc (m : Msg) : Bool := m.hdr.getLsbD 12
/-- The destination field (R442). -/
def Msg.dst (m : Msg) : Nat := bitsOf m.hdr.toNat 16 13
/-- The destination die codes of a message (R442). -/
def Msg.dests (m : Msg) : List Nat := if m.mc then indices 13 (bitAt m.dst) else [m.dst % 16]

/-- A TLBI_PH1 read from its message (R445). -/
def Msg.ph1 (m : Msg) : Ph1 :=
  { asid := BitVec.ofNat 16 (m.word 0), va := bitsOf (m.word 1) 0 57, lvl := m.word 2 % 256,
    seq := BitVec.ofNat 32 (m.word 3), frame := if bitAt (m.word 4) 63 then some (bitsOf (m.word 4) 0 36 * 2 ^ 16) else none }

/-- The translations of a page discarded on a die (R361). -/
def State.dropTlb (s : State) (die : Nat) (p : Ph1) : State :=
  let lo := p.va / levelSize p.lvl * levelSize p.lvl
  { s with tlb := s.tlb.filter fun t => !(t.die == die && t.asid == p.asid &&
      decide (t.base < lo + levelSize p.lvl) && decide (lo < t.base + levelSize t.lvl)) }

/-- The die returns a credit to the sender of a message when its last copy has been taken (R444). A unicast has one
copy; the last copy of a multicast is the one that no die still holds. -/
def State.returnCredit (s : State) (m : Msg) : State :=
  let held := m.mc && s.dies.any fun d => d.heldMsgs.contains m
  if m.credit = false ∨ held then s else s.modDie m.src fun d => { d with txcr := min 64 (d.txcr + 1) }

/-- The oldest message held for a die that is FENCED or FAILED is discarded and counts as delivered (R443). -/
def State.discardHeld (s : State) (die : Nat) : State :=
  match (s.die die).heldMsgs with
  | m :: rest => (s.modDie die fun d => { d with heldMsgs := rest }).returnCredit m
  | [] => s

/-- A die whose inbox has room takes its next message (R444). -/
def State.takes (s : State) (die : Nat) : Bool := decide ((s.die die).inbox.length < 256)

/-- TLBI_PH1 (R361, R444): the translation hardware of a die takes the PH1 at the head of what is held for the die, unless the inbox
is full, discards the translations of the page and begins its drain. Walks and accesses are single steps, so none is in flight. -/
def execTlbiPh1 (die : Nat) (s : State) : Out :=
  match (s.die die).heldMsgs with
  | m :: rest =>
    if s.deadDie die then .next (s.discardHeld die)
    else if m.kind = 0x80 ∧ s.takes die = true then
      .next (((s.modDie die fun d => { d with heldMsgs := rest, ph1Work := d.ph1Work ++ [m] }).dropTlb die m.ph1).returnCredit m)
    else .next s
  | [] => .next s

/-- An acknowledgement of a shoot-down from a die's translation hardware, or from the hub for a die that is fenced, to
the owner's endpoint, in the order of that die's messages (R361, R443, R445, R500); one to a FENCED or FAILED die is discarded. -/
def State.sendAck (s : State) (die owner : Nat) (asid : BitVec 16) (seq : Word) : State :=
  let n := ((s.hub.ucnt.find? fun c => c.1 = 16 * die + owner).map (·.2)).getD 0
  let ack : Msg := { hdr := BitVec.ofNat 64 (0x81 + 2 ^ 8 * die + 2 ^ 16 * owner + 2 ^ 32 * (n % 2 ^ 32)),
                     body := [BitVec.ofNat 64 asid.toNat, 0, 0, BitVec.ofNat 64 seq.toNat, 0, 0, 0], credit := false }
  (s.modHub fun h => { h with ucnt := tset h.ucnt (16 * die + owner) (n + 1) }).modDie owner fun d =>
    if s.deadDie owner then d else { d with heldMsgs := d.heldMsgs ++ [ack] }

/-- The address ranges under which lines of a frame are held: its own, the shadow slot to which a partition's accesses of it
are redirected (R408), and the replicas that serve its reads in its place (R454). -/
def State.heldRanges (s : State) (lo n : Nat) : List (Nat × Nat) :=
  (lo, lo + n) :: ((List.range 24).filter fun p => (s.redirectSlot p lo).isSome).map (fun p => (s.redirect p lo, s.redirect p lo + n)) ++
    (s.replicas.filter fun x => decide (lo ≤ x.1 * 2 ^ 16) && decide (x.1 * 2 ^ 16 < lo + n)).filterMap fun x =>
      x.2.moved.map fun f => (f.toNat * 2 ^ 16, f.toNat * 2 ^ 16 + 2 ^ 16)

/-- TLBI_ACK (R361): the drain of the oldest PH1 is finished: the frame that the message names is recalled on the die,
and the acknowledgement goes to the owner's endpoint. -/
def execTlbiAck (die : Nat) (s : State) : Out :=
  match (s.die die).ph1Work with
  | m :: rest =>
    let p := m.ph1
    let s := match p.frame with
      | some f => (s.heldRanges f (levelSize p.lvl)).foldl (fun (s : State) (r : Nat × Nat) => s.recallRange die r.1 r.2) s
      | none => s
    .next ((s.modDie die fun d => { d with ph1Work := rest }).sendAck die m.src p.asid p.seq)
  | [] => .next s

/-- TLBI_ACK_COLLECT (R444, R445): the owner's endpoint counts the acknowledgement at the head of what is held for it, unless its
inbox is full; the last one of its shoot-down places one TLBI_ACK, with the mask of the dies, in the inbox. -/
def execTlbiAckCollect (die : Nat) (s : State) : Out :=
  match (s.die die).heldMsgs with
  | m :: rest =>
    let seq := m.ph1.seq
    let from' := m.src
    if s.deadDie die then .next (s.discardHeld die)
    else if m.kind ≠ 0x81 ∨ s.takes die = false then .next s
    else
    let s := s.modDie die fun d => { d with heldMsgs := rest }
    match (s.die die).shoots.find? fun x => x.seq == seq && x.need.getLsbD from' && !x.got.getLsbD from' with
    | none => .next s
    | some x =>
      let got := setBit x.got from' true
      let full := got == x.need
      let note : Msg := { m with body := m.body.set 1 (BitVec.ofNat 64 got.toNat) }
      .next (s.modDie die fun d =>
        { d with shoots := d.shoots.map fun y => if y = x then { y with got := got } else y,
                 inbox := if full then d.inbox ++ [note] else d.inbox })
  | [] => .next s

/-! ## Pages shared between devices (R369) -/

/-- The next request of a page, when no action is in progress, starts its action: the devices that must write back
or invalidate, and the grant that follows (R369). -/
def PageOwn.start (o : PageOwn) : PageOwn :=
  if o.grantTo.isSome then o
  else
    match o.waiting with
    | [] => o
    | (dev, wr) :: rest =>
      let holders := match o.excl with
        | some d => [d]
        | none => if wr then o.readers else []
      { o with waiting := rest, flushing := holders.filter (· != dev), grantTo := some (dev, wr) }

/-- A hand-over whose flushes are all acknowledged is granted (R369, R370). -/
def PageOwn.finish (o : PageOwn) : PageOwn :=
  match o.grantTo with
  | none => o
  | some (dev, wr) =>
    if o.flushing ≠ [] then o
    else if wr then { o with excl := some dev, readers := [], grantTo := none }
    else
      let rd := match o.excl with
        | some d => [d]
        | none => o.readers
      if o.excl = some dev then { o with grantTo := none }
      else { o with excl := none, readers := if rd.contains dev then rd else rd ++ [dev], grantTo := none }

/-- A device's messages cross a port that carries traffic; this device's own need none (R447). (DEDUCED, log entry 50) -/
def State.heard (s : State) (dev : Nat) : Bool := dev == 0 || !s.portDead dev

/-- OWNERSHIP_REQUEST (R369, R447): the home hub takes a device's request for a page, behind any action in progress; `page` is a frame
number of the page and the level of the leaf that the device has for it. -/
def execOwnershipRequest (page : Nat × Nat) (dev : Nat) (wr : Bool) (s : State) : Out :=
  if !s.heard dev then .next s
  else
    let n := s.ownPage (page.1 * 2 ^ 16) page.2
    let s := s.notePage n page.2
    let o := s.pageOwn n
    let o := if o.waiting.contains (dev, wr) then o else { o with waiting := o.waiting ++ [(dev, wr)] }
    .next { s with owns := tset s.owns n o.start.finish }

/-- The lines of an address range written back on a die, their copies kept (R369). -/
def State.cleanRange (s : State) (die lo hi : Nat) : State :=
  ((s.l2.filter fun e => decide (e.1 / 2 ^ 45 = die) && decide (lo ≤ e.1 % 2 ^ 45 * 128) && decide (e.1 % 2 ^ 45 * 128 < hi)).map
    fun e => e.1 % 2 ^ 45).foldl (fun s l => s.writeBack die l) s

/-- OWNERSHIP_FLUSH (R369, R370): a device has flushed a page on every die: for this device its lines are recalled,
or written back where the request is a read, and the home hub counts the acknowledgement. -/
def execOwnershipFlush (page dev : Nat) (s : State) : Out :=
  let o := s.pageOwn page
  match o.grantTo with
  | none => .next s
  | some (_, wr) =>
    if o.flushing.contains dev ∧ s.heard dev = true then
      let lo := page * 2 ^ 16
      let hi := lo + levelSize o.lvl
      let s := if dev = 0 then (List.range 8).foldl (fun s d => if wr then s.recallRange d lo hi else s.cleanRange d lo hi) s else s
      .next { s with owns := tset s.owns page ({ o with flushing := o.flushing.erase dev }.finish) }
    else .next s

/-! ## Access counters and occupancy counters -/

/-- COUNTER_WINDOW (R364): the counts of a die restart. -/
def execCounterWindow (die : Nat) (s : State) : Out :=
  .next (s.modDie die fun d => { d with regions := d.regions.filterMap fun g => if g.cool.isSome then some g else none })

/-- COOLDOWN_END (R364): a region whose cooldown has expired is counted again from 0. -/
def execCooldownEnd (die region : Nat) (s : State) : Out :=
  .next (s.modDie die fun d =>
    { d with regions := d.regions.filter fun g => !(g.region == region && (match g.cool with
        | some t => decide (t ≤ s.clockOn die)
        | none => false)) })

/-- ACCESS_REQUEST_POP (R364): a read of offset 0x028 pops the oldest request into the value read. -/
def execAccessRequestPop (die : Nat) (s : State) : Out :=
  .next (s.modDie die fun d =>
    match d.reqs with
    | r :: rest => { d with reqs := rest, popped := BitVec.ofNat 64 (2 ^ 63 + min r.count 65535 * 2 ^ 32 + 2 ^ 31 * b2n r.hint + r.region % 2 ^ 31) }
    | [] => { d with popped := 0 })

/-- OCCCLR (R261): no line of the slice is counted any more. -/
def execOccclr (die slice : Nat) (s : State) : Out :=
  .next { s with l2 := s.l2.map fun e =>
    if e.1 / 2 ^ 45 = die ∧ e.2.slice = slice then (e.1, { e.2 with counted := false }) else e }

/-- A die on which the contexts of an address space hold no work joins its die set with no translations of the ASID (R353, R361). -/
def State.joinDie (s : State) (ctx die : Nat) : State :=
  let asid := (s.ctx ctx).asid
  let mine (kid : Nat) : Bool := (s.ctx (s.ctxOfKernel kid)).asid == asid
  if (s.blocks.any fun b => b.bst == .placed && b.die == die && mine b.kid) ||
      s.streams.any fun x => (x.sst == .running || x.sst == .stopped) && x.die == die && mine x.kid then s
  else { s with tlb := s.tlb.filter fun t => !(t.die == die && t.asid == asid) }

/-! ## Copiers, page requests and outside agents -/

/-- Bytes of home memory copied by a memory spoke's copier: the source is read at its home, and what is POISON there is POISON in the
copy (R254, R365); a source on a dead spoke gives nothing that is defined (R454). (DEDUCED, log entry 49) -/
def State.copyHome (s : State) (src dst n : Nat) : State :=
  let gone := s.deadPa src
  let (s, b) := if gone then s.freeBytes n else (s, (List.range n).map fun i => s.homeByte (src + i))
  let bad := (List.range (n / 128)).filter fun i => gone || s.poison.contains (lineOf src + i)
  let s := s.homeBytes (hubAcc noCtx 0) dst b 0
  { s with poison := bad.foldl (fun l i => if l.contains (lineOf dst + i) then l else (lineOf dst + i) :: l) s.poison }

/-- The replica entry of a frame (R359). -/
def State.replicasOf (s : State) (frame : Nat) : Replicas := (tfind s.replicas frame).getD Replicas.none

/-- COPIER_COPY_COMPLETE (R365, R359, R463): a frame copied to its new place; a replica made and recorded; a row or a
pseudo-channel copied to its spare, whose contents keep their addresses. (DEDUCED, log entry 63) -/
def execCopierCopyComplete (job : CopierJob) (s : State) : Out :=
  .next (match job with
    | .frame src dst bytes => s.copyHome src dst bytes
    | .replica prim dst slot =>
      let s := s.copyHome (prim * 2 ^ 16) (dst * 2 ^ 16) (2 ^ 16)
      let r := s.replicasOf prim
      let f := BitVec.ofNat 24 dst
      { s with replicas := tset s.replicas prim (match slot with
          | 1 => { r with rep1 := f }
          | 2 => { r with rep2 := f }
          | _ => { r with rep3 := f }) }
    | .spareRow .. => s
    | .pseudoChannel .. => s)

/-- PAGE_REQUEST_RESPONSE (R448): the host answers a page request, and the access that waits on it goes on. (DESIGN CHOICE, log
entry 103) -/
def execPageRequestResponse (ctx page : Nat) (s : State) : Out :=
  .next (s.modHub fun h =>
    { h with pageReqs := h.pageReqs.filter fun r => r != (ctx, page), absent := if h.pageReqs.contains (ctx, page) then h.absent.filter (· != page) else h.absent })

/-- The accesses of an outside agent reach a line through its class there: a copy that a spoke holds OWNED, or dirty
under RUC, is recalled (R224, R242, R255). -/
def State.outsideRead (s : State) (pa n : Nat) : List Byte := s.cohBytes pa n

/-- The operation writes. -/
def outsideWrites : OutsideOp → Bool
  | .write _ => true
  | .atomic .. => true
  | _ => false

/-- The device that an outside agent belongs to (R369, R447). -/
def outsideDevice : OutsideAgent → Nat
  | .peer d => d + 1
  | _ => 0

/-- A page of shared memory that an outside access must first be handed: a peer reaches this device's memory only through pages shared
between devices, this device's own outside agents wait only for pages that are known to be shared (R244, R369). (DESIGN CHOICE, log entry 77) -/
def State.awaits (s : State) (x : OutsideAccess) : Option Nat :=
  let dev := (outsideDevice x.agent)
  let page := s.ownPage x.pa 0
  if (dev ≠ 0 ∨ (tfind s.owns page).isSome) ∧ (s.pageOwn page).allows dev (outsideWrites x.op) = false ∧ paKind x.pa ≠ .host then some page else none

/-- No home is reached by an outside access; the host reaches its own memory outside this device (R437, R448, R454). -/
def State.outsideDead (s : State) (x : OutsideAccess) : Bool :=
  match x.agent, paKind x.pa with
  | .host, .host => false
  | _, _ => s.homeDead noCtx x.pa

/-- What an outside access writes: performed at the home, or dropped and logged where there is none (R437, R451, R454). -/
def State.outsideWrite (s : State) (x : OutsideAccess) (a : Acc) (data : List Byte) : State :=
  if s.outsideDead x then s.dropWrite a x.pa else s.cohWrite a x.pa data

/-- What an outside read consumes at its lines: POISON there, or no home (R254, R437, R451, R454). -/
def State.outsideConsume (s : State) (x : OutsideAccess) (n : Nat) : State :=
  (List.range ((x.pa % 128 + n + 127) / 128)).foldl (fun s i =>
    let at_ := (lineOf x.pa + i) * 128
    if s.badEntry at_ || s.outsideDead { x with pa := at_ } then
      s.report { mkError 6 10 12 0 none at_ with place := .line at_ }
    else s) s

/-- SADDLE_HOST_PEER_ACCESS (R224, R275, R447): an access of a saddle core, of the host or of a peer to memory, performed as
a separate agent at the home. A peer's traffic needs its port; a page of shared memory is first handed to the agent's device, for which a
request is made (R244, R369); a request that carries a partition which does not use the group is dropped (R415, R439). A reserved
address is a fault. (DESIGN CHOICE, log entry 77) (DESIGN CHOICE, log entry 107) -/
def execSaddleHostPeerAccess (x : OutsideAccess) (s : State) : Out :=
  let a := hubAcc noCtx (x.part.getD 0)
  if paKind x.pa = .reserved then .fault (.reservedAddress x.pa)
  else if !s.heard (outsideDevice x.agent) then .next s
  else if x.part.any fun p => decide (x.pa < deviceTop) && !s.ownsGroup p (groupOf x.pa) && !s.borrows p x.pa then .next (s.dropForeign a x.pa)
  else match s.awaits x with
  | some page => .next (s.requestPage page 0 (outsideDevice x.agent) (outsideWrites x.op))
  | none =>
    match x.op with
    | .unmap => .next (if x.agent = .host ∧ paKind x.pa = .host then
        s.modHub fun h => { h with absent := if h.absent.contains (x.pa / 4096) then h.absent else x.pa / 4096 :: h.absent } else s)
    | .read n => let s := s.outsideConsume x n
      .next ((List.range ((x.pa % 128 + n + 127) / 128)).foldl (fun s i => s.cohShareAll (lineOf x.pa + i)) s)
    | .write data => .next (s.outsideWrite x a data)
    | .atomic aop bytes operand compare =>
      let old := leNat (s.cohBytes x.pa bytes)
      let s := s.outsideConsume x bytes
      match aopNew aop.toNat bytes old operand.toNat compare.toNat with
      | some new => .next (s.outsideWrite x a (leBytes bytes new))
      | none => .next (s.cohShareAll (lineOf x.pa))

end Sys2Proof.Machine
end

