-- ==== Sys2Proof/Machine/Barrier.lean ====
section
/-! DEFINITION. Barrier words and fixed barriers (chapter 13), block handles (R319) and the snapshots that a
BLKBAR of a ROLLBACK launch takes (R313, R467). -/

namespace Sys2Proof.Machine

/-! ## The barrier word (R300) -/

/-- The fields of a barrier word. -/
structure BWord where
  ph : Bool
  init : Bool
  ws : Nat
  lws : Nat
  tx : Int
  exp : Nat
  arr : Nat
  cc : Nat
  lc : Nat
  deriving DecidableEq, Repr

/-- The fields read from a word (R300). -/
def BWord.ofBits (b : BitVec 64) : BWord :=
  { ph := b.getLsbD 63, init := b.getLsbD 62, ws := bitsOf b.toNat 59 3, lws := bitsOf b.toNat 56 3,
    tx := (b.extractLsb' 46 10).toInt, exp := bitsOf b.toNat 34 12, arr := bitsOf b.toNat 22 12,
    cc := bitsOf b.toNat 11 11, lc := bitsOf b.toNat 0 11 }

/-- The word of its fields (R300). -/
def BWord.toBits (w : BWord) : BitVec 64 :=
  BitVec.ofNat 64 (b2n w.ph * 2 ^ 63 + b2n w.init * 2 ^ 62 + w.ws * 2 ^ 59 + w.lws * 2 ^ 56 +
    (w.tx % 1024).toNat * 2 ^ 46 + w.exp * 2 ^ 34 + w.arr * 2 ^ 22 + w.cc * 2 ^ 11 + w.lc)

/-- The site's test: the phase completes (R302). -/
def BWord.completes (w : BWord) : Bool := w.init && decide (w.exp ≤ w.arr) && decide (w.tx = 0)

/-- The word after the test of the site (R302). -/
def BWord.test (w : BWord) : BWord :=
  if w.completes then { w with ph := !w.ph, lws := w.ws, ws := 0, lc := w.cc, cc := 0, arr := 0 } else w

/-- A member arrival at a scope (R301). -/
def BWord.member (w : BWord) (scope : Nat) : BWord := { w with arr := w.arr + 1, ws := max w.ws scope }

/-- A transfer arrival at a scope with a packed count (R301). -/
def BWord.transfer (w : BWord) (scope count : Nat) : BWord :=
  { w with tx := w.tx - 1, ws := max w.ws scope, cc := min 2047 (w.cc + count) }

/-- The held arrivals performed oldest first as the first operations of a new phase; one that finds ARR ≥ EXP stays
held (R302). -/
def BWord.drain (w : BWord) : List Nat → BWord × List Nat
  | [] => (w, [])
  | h :: rest =>
    if w.exp ≤ w.arr then
      let (w', l) := w.drain rest
      (w', h :: l)
    else ((w.member h).test).drain rest

/-- The phases that held arrivals complete as they are performed (R302). -/
def BWord.turns (w : BWord) : List Nat → Nat
  | [] => 0
  | h :: rest => if w.exp ≤ w.arr then 0 else b2n (w.member h).completes + ((w.member h).test).turns rest

/-- A word of a block. -/
def Block.word (b : Block) (k : Nat) : BWord := .ofBits ((b.words[k]?).getD 0)

/-- The held arrivals of a word of a block. -/
def Block.heldOn (b : Block) (k : Nat) : List Nat := (b.held[k]?).getD []

/-- The phases that a word of a block has completed. -/
def Block.phase (b : Block) (k : Nat) : Nat := (b.phases[k]?).getD 0

/-- The phase to which an engine's arrival on a word belongs: the one that runs, or for one that is held the phase in which it will be
performed, as the first operations of the coming phases take EXP held arrivals each (R302). -/
def Block.arrivalPhase (b : Block) (k : Nat) : Nat :=
  let w := b.word k
  if w.exp ≤ w.arr then b.phase k + 1 + (b.heldOn k).length / w.exp else b.phase k

/-- A word of a block after an operation and the test of the site (R302). -/
def Block.settle (b : Block) (k : Nat) (w : BWord) : Block :=
  if w.completes then
    let (w', h) := w.test.drain (b.heldOn k)
    { b with words := b.words.set k w'.toBits, held := b.held.set k h, phases := b.phases.set k (b.phase k + 1 + w.test.turns (b.heldOn k)) }
  else { b with words := b.words.set k w.toBits }

/-- The watchdog count of a context restarts (R223). -/
def State.restartDog (s : State) (ctx : Nat) : State := s.modCtx ctx fun c => { c with dog := 0, rung := false }

/-- An operation on a word of a block (R302); a phase that completes restarts the watchdog count (R315). -/
def State.wordOp (s : State) (bid k : Nat) (f : BWord → BWord) : State :=
  match s.blocks[bid]? with
  | none => s
  | some b =>
    let w := f (b.word k)
    let s := s.modBlock bid fun b => b.settle k w
    if w.completes then s.restartDog (s.ctxOfKernel b.kid) else s

/-- A member arrival by an engine or a BARD: held when ARR ≥ EXP (R302). -/
def State.engineArrive (s : State) (bid k scope : Nat) : State :=
  match s.blocks[bid]? with
  | none => s
  | some b =>
    let w := b.word k
    if w.exp ≤ w.arr then s.modBlock bid fun b => { b with held := b.held.set k (b.heldOn k ++ [scope]) }
    else s.wordOp bid k (·.member scope)

/-! ## What is aimed at a word -/

/-- The word that a tile operation's completion names (R329). -/
def TileOp.word (o : TileOp) : Option Nat :=
  match o.ins with
  | .tzero _ _ _ k e => if e = 1 then some k.toNat else none
  | .tmma _ _ _ _ _ _ _ _ _ k e _ _ => if e = 1 then some k.toNat else none
  | .tmmas _ _ _ _ _ _ _ k e _ _ => if e = 1 then some k.toNat else none
  | .tdrain _ _ _ _ _ _ _ _ k e _ => if e = 1 then some k.toNat else none
  | _ => none

/-- The copies aimed at a word of a block that have not landed (R283). -/
def State.copiesAt (s : State) (bid k : Nat) : Nat :=
  (s.copies.filter fun c => c.open' && c.k == k && c.recips.contains bid).length

/-- The incomplete tile operations that name a word of a block. -/
def State.tilesAt (s : State) (bid k : Nat) : Nat :=
  (s.tileOps.filter fun o => o.open' && o.bid == bid && o.word == some k).length

/-- The pending BARDs of every group aimed at a word of a block. -/
def State.bardsAt (s : State) (bid k : Nat) : Nat :=
  s.groups.foldl (fun n g => n + (g.bards.filter fun x => x.k == k &&
    (if x.win then s.stageBlock g.bid x.stage == some bid else g.bid == bid)).length) 0

/-- The member arrivals outstanding on a word (R302). -/
def State.outstanding (s : State) (bid k : Nat) : Nat :=
  (((s.blocks[bid]?).map fun b => (b.heldOn k).length).getD 0) + s.bardsAt bid k + s.tilesAt bid k

/-! ## The block that an instruction names (R304, R319) -/

/-- What a handle or a window names: a block, a block not yet placed, or nothing. -/
inductive Target where
  | bad
  | wait
  | block (bid : Nat)
  deriving DecidableEq, Repr

/-- The block of a kernel at a position, coordinate and stage. -/
def State.blockAt (s : State) (kid pos coord stage : Nat) : Option Nat :=
  (indices s.blocks.length fun i => match s.blocks[i]? with
    | some b => b.kid == kid && b.pos == pos && b.coord == coord && b.stage == stage
    | none => false).head?

/-- The block that a handle names for a cadence stream (R319). -/
def State.handleTarget (s : State) (sid : Nat) (h : Word) : Target :=
  match s.streams[sid]? with
  | none => .bad
  | some x =>
    match s.kernels[x.kid]? with
    | none => .bad
    | some k =>
      let ix := h.toNat % 2 ^ 16
      let st := h.toNat / 2 ^ 16 % 8
      if 2 ^ 19 ≤ h.toNat ∨ k.nstage ≤ st ∨ k.ncoord ≤ ix then .bad
      else match s.blockAt x.kid x.pos ix st with
        | none => .wait
        | some bid => match s.blocks[bid]? with
          | some b => if b.gone then .bad else if b.bst = .placed then .block bid else .wait
          | none => .wait

/-- The block whose word a barrier instruction names (R304); one that is saved or in the reserve is waited for.
(DEDUCED, log entry 95) -/
def State.barTarget (s : State) (win st : Nat) (a : BitVec 8) : Target :=
  match s.issue.who with
  | .stream sid => match s.streams[sid]? with
    | some x => s.handleTarget sid (x.u.getS a.toNat)
    | none => .bad
  | .group gid => match s.groups[gid]? with
    | none => .bad
    | some g => if win = 0 then .block g.bid
      else match s.padTarget g.bid (BitVec.ofNat 4 (8 + st)) with
        | some bid => if s.placed bid then .block bid else .wait
        | none => .bad

/-- The pad offset of a word of the issuer's block, as TVAL of PAD_BOUNDS (R22, R396). -/
def State.wordOff (s : State) (k : Nat) : Nat :=
  (((s.bidOf s.issue.who).bind (s.blocks[·]?)).map fun b => b.padsz - 128 + 8 * k).getD 0

/-- Every live thread of the group takes part in the issue (R305). -/
def State.wholeGroup (s : State) : Bool :=
  match s.issue.who with
  | .stream _ => true
  | .group gid => match s.groups[gid]? with
    | some g => g.liveLanes.all fun t => s.issue.lanes.contains (gid, t)
    | none => false

/-- A barrier instruction on a word: the guard, the target, whether the whole group takes part, then the effect,
which answers the state after it, a wait, or BARRIER_MISUSE. -/
def State.barOp (s : State) (g : BitVec 4) (win st : Nat) (a : BitVec 8) (k : Nat) (whole : Bool)
    (act : State → Nat → Except (Option Cause) State) : State :=
  if !s.uguard g then s.advanceU
  else match s.barTarget win st a with
    | .bad => s.trapU .padBounds (s.wordOff k)
    | .wait => s.waitU
    | .block bid =>
      if whole ∧ s.wholeGroup = false then s.trapU .barrierMisuse 0
      else match act s bid with
        | .ok s => s.unwaitU.advanceU
        | .error none => s.waitU
        | .error (some c) => s.trapU c 0

/-- The word of a block in a state. -/
def State.word (s : State) (bid k : Nat) : BWord := ((s.blocks[bid]?).map fun b => b.word k).getD (.ofBits 0)

/-- BINIT (R306). -/
def execBinit (g : BitVec 4) (d a : BitVec 8) (r : BitVec 1) (k : BitVec 4) (n : BitVec 12) (s : State) : Out :=
  .next (s.barOp g 0 0 a k.toNat false fun s bid =>
    let w := s.word bid k.toNat
    let cnt := if r = 1 then (((s.ufile s.issue.who).map fun u => (u.getS d.toNat).toNat % 4096).getD 0) else n.toNat
    let held := ((s.blocks[bid]?).map fun b => b.heldOn k.toNat).getD []
    if (w.init ∧ (w.arr ≠ 0 ∨ w.tx ≠ 0 ∨ w.cc ≠ 0 ∨ held ≠ [] ∨ s.copiesAt bid k.toNat ≠ 0 ∨
        s.bardsAt bid k.toNat ≠ 0 ∨ s.tilesAt bid k.toNat ≠ 0)) ∨ cnt = 0 then .error (some .barrierMisuse)
    else
      let s := s.modBlock bid fun b =>
        { b with words := b.words.set k.toNat ({ ph := false, init := true, ws := 0, lws := 0, tx := 0, exp := cnt, arr := 0, cc := 0, lc := 0 : BWord }).toBits }
      .ok (match s.issue.who with
        | .group gid => s.modGroup gid fun x => { x with tp := setBit x.tp k.toNat false }
        | .stream sid => match s.streams[sid]? with
          | some x =>
            let h := (x.u.getS a.toNat).toNat
            s.modStream sid fun x => { x with tps := tset x.tps h (setBit ((tfind x.tps h).getD 0) k.toNat false) }
          | none => s))

/-- The scope at which a word instruction of an agent acts: CLUSTER at least for a remote word (R307). -/
def barScope (who : Agent) (win : BitVec 1) (scope : Nat) : Nat :=
  if win = 1 then max (scopeOf who scope) 1 else scopeOf who scope

/-- A barrier instruction that names a scope: SCOPE under R227 before the word is reached. -/
def State.scoped (s : State) (g : BitVec 4) (scope : BitVec 3) (act : State → Nat → State) : State :=
  if !s.uguard g then s.advanceU
  else match s.scopeCheck s.issue.who scope.toNat with
    | none => s.trapU .scope 0
    | some (sc, cl) => act (s.clamped s.issue.who cl) sc

/-- BARV (R307): one member arrival, a release at its scope. -/
def execBarv (g : BitVec 4) (a : BitVec 8) (k : BitVec 4) (win : BitVec 1) (st scope : BitVec 3) (s : State) : Out :=
  .next (s.scoped g scope fun s sc =>
    s.barOp g win.toNat st.toNat a k.toNat true fun s bid =>
      let w := s.word bid k.toNat
      if !w.init || decide (w.exp ≤ w.arr) then .error (some .barrierMisuse)
      else
        let sc := barScope s.issue.who win sc
        .ok ((s.release (s.accOf s.issue.who) sc).wordOp bid k.toNat (·.member sc)))

/-- The copies of a group that have not landed, in issue order. -/
def State.groupCopies (s : State) (gid : Nat) : List Nat :=
  indices s.copies.length fun i => match s.copies[i]? with
    | some c => c.gid == gid && c.open'
    | none => false

/-- BARD (R308): binds the group's copies that have not landed; one member arrival when the last lands. On a cadence
core, which issues no copy, it arrives at once. -/
def execBard (g : BitVec 4) (a : BitVec 8) (k : BitVec 4) (win : BitVec 1) (st scope : BitVec 3) (s : State) : Out :=
  .next (s.scoped g scope fun s sc =>
    s.barOp g win.toNat st.toNat a k.toNat true fun s bid =>
      let w := s.word bid k.toNat
      if !w.init then .error (some .barrierMisuse)
      else if 63 < s.outstanding bid k.toNat + 1 then .error none
      else
        let sc := barScope s.issue.who win sc
        match s.issue.who with
        | .stream _ => .ok ((s.release (s.accOf s.issue.who) sc).engineArrive bid k.toNat sc)
        | .group gid =>
          let cs := s.groupCopies gid
          let sc := cs.foldl (fun m i => max m (((s.copies[i]?).map (·.scope)).getD 0)) sc
          if cs = [] then .ok ((s.release (s.accOf s.issue.who) sc).engineArrive bid k.toNat sc)
          else if 8 ≤ ((s.groups[gid]?).map (·.bards.length)).getD 0 then .error none
          else .ok (s.modGroup gid fun x =>
            { x with bards := x.bards ++ [{ k := k.toNat, win := win == 1, stage := st.toNat, scope := sc, copies := cs }] }))

/-- The tracked parity of the issuer for a word (R310). -/
def State.parity (s : State) (a : BitVec 8) (k : Nat) (par e : BitVec 1) : Bool :=
  if e = 1 then par == 1
  else match s.issue.who with
    | .group gid => ((s.groups[gid]?).map fun g => g.tp.getLsbD k).getD false
    | .stream sid => ((s.streams[sid]?).map fun x => ((tfind x.tps (x.u.getS a.toNat).toNat).getD 0).getLsbD k).getD false

/-- A wait that observes a completed phase: the acquire at LWS, which acquires the tile operations whose arrivals belong to completed
phases of the word, and TP with E = 0 (R246, R247, R310). -/
def State.passBarrier (s : State) (a : BitVec 8) (bid k : Nat) (e : BitVec 1) : State :=
  let w := s.word bid k
  let s := (s.acquire (s.accOf s.issue.who) w.lws).acquireTiles fun o => o.bid == bid && o.word == some k && o.phase.any fun p => decide (p < ((s.blocks[bid]?).map fun b => b.phase k).getD 0)
  if e = 1 then s
  else match s.issue.who with
    | .group gid => s.modGroup gid fun x => { x with tp := setBit x.tp k w.ph }
    | .stream sid => s.modStream sid fun x =>
        let h := (x.u.getS a.toNat).toNat
        { x with tps := tset x.tps h (setBit ((tfind x.tps h).getD 0) k w.ph) }

/-- BWAIT (R310). -/
def execBwait (g : BitVec 4) (a : BitVec 8) (k : BitVec 4) (win : BitVec 1) (st : BitVec 3) (par e : BitVec 1) (s : State) : Out :=
  .next (s.barOp g win.toNat st.toNat a k.toNat false fun s bid =>
    let w := s.word bid k.toNat
    if !w.init then .error (some .barrierMisuse)
    else if w.ph = s.parity a k.toNat par e then .error none
    else .ok (s.passBarrier a bid k.toNat e))

/-- BTRY (R310). -/
def execBtry (g la : BitVec 4) (a : BitVec 8) (k : BitVec 4) (win : BitVec 1) (st qd : BitVec 3) (par e : BitVec 1) (s : State) : Out :=
  .next (s.barOp g win.toNat st.toNat a k.toNat false fun s bid =>
    let w := s.word bid k.toNat
    let ok := w.init && w.ph != s.parity a k.toNat par e
    let s := if ok then s.passBarrier a bid k.toNat e else s
    .ok (s.modU s.issue.who fun u => u.late la.toNat [] [(qd.toNat, ok)]))

/-- BEXP (R309). -/
def execBexp (g : BitVec 4) (a : BitVec 8) (k : BitVec 4) (win : BitVec 1) (st : BitVec 3) (n : BitVec 9) (s : State) : Out :=
  .next (s.barOp g win.toNat st.toNat a k.toNat false fun s bid =>
    let w := s.word bid k.toNat
    if !w.init || decide (511 < w.tx + n.toNat) then .error (some .barrierMisuse)
    else .ok (s.wordOp bid k.toNat fun w => { w with tx := w.tx + n.toNat }))

/-- BDROP (R309). -/
def execBdrop (g : BitVec 4) (a : BitVec 8) (k : BitVec 4) (win : BitVec 1) (st : BitVec 3) (s : State) : Out :=
  .next (s.barOp g win.toNat st.toNat a k.toNat true fun s bid =>
    let w := s.word bid k.toNat
    if !w.init || w.exp == 1 then .error (some .barrierMisuse)
    else .ok (s.wordOp bid k.toNat fun w => { w with exp := w.exp - 1 }))

/-! ## Snapshots (R467) -/

/-- The groups of a block. -/
def State.groupsOf (s : State) (bid : Nat) : List Nat :=
  indices s.groups.length fun i => ((s.groups[i]?).map fun g => g.bid == bid).getD false

/-- The image of a block. -/
def State.image (s : State) (bid : Nat) : Option Snapshot :=
  (s.blocks[bid]?).map fun b =>
    { groups := (s.groupsOf bid).filterMap (s.groups[·]?), pad := b.pad, words := b.words, held := b.held,
      shapes := b.shapes, tiles := b.tiles, logAt := b.log.length, at_ := none }

/-- A snapshot begins: the image is read out into the slot that does not hold the latest (R467); the interval of a
rollback ends with it. -/
def State.takeSnapshot (s : State) (bid : Nat) : State :=
  if ((s.kernelOf bid).map (·.rollback)).getD false then
    let im := s.image bid
    s.modBlock bid fun b => { b with snapWriting := im, replay := [], replaying := none }
  else s

/-- A log whose newest interval began at a length holds every record of it (R468). -/
def intervalKept (log : List LogRec) (start : Nat) : Bool := decide (log.length - start ≤ 4096)

/-- A stream's images and its log let it be rolled back: a complete image, and no interval since it that has overflowed (R467,
R468). -/
def Stream.covered (x : Stream) : Bool :=
  x.snapLatest.isSome && (match x.snapWriting with
    | some im => decide (im.logAt ≤ 4096) && intervalKept x.log im.logAt
    | none => intervalKept x.log 0)

/-! ## Fixed barriers (R312) -/

/-- The fixed barriers. -/
inductive Fixed where
  | blk | clu | die
  deriving DecidableEq, Repr

/-- A group has arrived at a fixed barrier. -/
def Group.arrived (g : Group) : Fixed → Bool
  | .blk => g.arrBlk | .clu => g.arrClu | .die => g.arrDie

/-- A group's arrival at a fixed barrier set or cleared. -/
def Group.setArr (g : Group) (f : Fixed) (v : Bool) : Group :=
  match f with
  | .blk => { g with arrBlk := v } | .clu => { g with arrClu := v } | .die => { g with arrDie := v }

/-- The scope of a fixed barrier (R312). -/
def Fixed.scope : Fixed → Nat
  | .blk => 0 | .clu => 1 | .die => 2

/-- The members of a fixed barrier: the groups that have not ended of the block, of the launch in the cluster, which is
one position, or of the launch on the logical die (R312, R456). -/
def State.members (s : State) (gid : Nat) (f : Fixed) : List Nat :=
  match (s.groups[gid]?).bind fun g => (s.blocks[g.bid]?).bind fun b => (s.kernels[b.kid]?).map fun k => (g.bid, b, k) with
  | none => []
  | some (bid, b, k) =>
    indices s.groups.length fun i => match s.groups[i]? with
      | some h => h.gst != .ended && (match s.blocks[h.bid]? with
        | some c => !c.gone && (match f with
          | .blk => h.bid == bid
          | .clu => c.kid == b.kid && c.pos == b.pos
          | .die => c.kid == b.kid && k.dieIx c.pos == k.dieIx b.pos)
        | none => false)
      | none => false

/-- The further conditions of a BLKBAR of a ROLLBACK launch (R313). -/
def State.settled (s : State) (bid : Nat) : Bool :=
  !(((s.kernelOf bid).map (·.rollback)).getD false) ||
    (s.copies.all fun c => !(c.bid == bid && c.open')) && (s.tileOps.all fun o => !(o.bid == bid && o.open'))

/-- A group goes on from a fixed barrier: its arrival is cleared and its threads pass their instruction (R312). -/
def Group.leave (f : Fixed) (g : Group) : Group :=
  { g.setArr f false with threads := g.threads.map fun t => if t.live then { t.goto (t.pc + 8) with wait := .none } else t }

/-- A member leaves a completed fixed barrier: it acquires, and goes on. -/
def State.leaveFixed (s : State) (f : Fixed) (gid : Nat) : State :=
  (s.acquire (s.accOf (.group gid)) f.scope).modGroup gid (·.leave f)

/-- A fixed barrier (R312, R313): arrival is a release; when every member has arrived they all continue, those stopped or
saved too, after the snapshot of a ROLLBACK launch; a waiting group is tested again. -/
def State.fixedBar (s : State) (g : BitVec 4) (f : Fixed) : State :=
  if !s.uguard g then s.advanceU
  else match s.issue.who with
    | .stream _ => s.trapU .priv 0
    | .group gid =>
      match s.groups[gid]? with
      | none => s
      | some grp =>
        let resident := ((s.kernelOf grp.bid).map (·.resident)).getD false
        if s.wholeGroup = false ∨ (f ≠ .blk ∧ resident = false) then s.trapU .barrierMisuse 0
        else
          let s := if grp.arrived f then s
            else (s.release (s.accOf (.group gid)) f.scope).modGroup gid (·.setArr f true)
          let ms := s.members gid f
          let all := ms.all fun i => ((s.groups[i]?).map (·.arrived f)).getD false
          if all && (f != .blk || s.settled grp.bid) then
            let s := (ms.foldl (fun s i => s.leaveFixed f i) s).restartDog (s.ctxOf (.group gid))
            if f = .blk then s.takeSnapshot grp.bid else s
          else s.waitU

/-- BLKBAR (R312). -/
def execBlkbar (g : BitVec 4) (s : State) : Out := .next (s.fixedBar g .blk)

/-- CLUBAR (R312). -/
def execClubar (g : BitVec 4) (s : State) : Out := .next (s.fixedBar g .clu)

/-- DIEBAR (R312). -/
def execDiebar (g : BitVec 4) (s : State) : Out := .next (s.fixedBar g .die)

end Sys2Proof.Machine
end

