-- ==== Sys2Proof/Machine/Image.lean ====
section
/-! DEFINITION. The images of blocks and streams, as a save, a move or a pre-emption writes and reads them (R389 to R394). -/

namespace Sys2Proof.Machine

/-- The handle of a block (R319). -/
def Block.handle (b : Block) : Nat := b.coord + b.stage * 2 ^ 16

/-- The groups of a block. -/
def State.blockGroups (s : State) (bid : Nat) : List Nat :=
  indices s.groups.length fun i => ((s.groups[i]?).map fun g => g.bid == bid).getD false

/-! ## Writing -/

/-- Bytes extended with zeros to a length. -/
def padTo (n : Nat) (b : List Byte) : List Byte := b.take n ++ List.replicate (n - b.length) 0

/-- The bytes of words. -/
def wordBytes (l : List Word) : List Byte := l.flatMap fun w => leBytes 4 w.toNat

/-- The G registers with their tags and the four predicates after them (R391, R392). -/
def UFile.grantBytes (u : UFile) : List Byte :=
  (u.g.flatMap fun g => leBytes 16 g.bits.toNat) ++
    leBytes 8 ((indices 16 fun i => (u.getG i).tag).foldl (fun n i => n + 2 ^ i) 0 + 2 ^ 16 * u.q.toNat)

/-- A handler mark as it is stored: 0xFFFF_FFFF outside a handler (R378). -/
def hcspWord (h : Option Nat) : Nat := h.getD 0xFFFFFFFF

/-- The mask of the threads that satisfy a test. -/
def Group.maskOf (g : Group) (p : Thread → Bool) : Nat :=
  (indices g.threads.length fun t => ((g.threads[t]?).map p).getD false).foldl (fun n t => n + 2 ^ t) 0

/-- The entry of a thread in the full form (R391). -/
def Thread.fullEntry (t : Thread) : List Byte :=
  leBytes 4 t.pc.toNat ++ leBytes 4 t.csp ++ leBytes 4 t.prog ++ leBytes 4 (hcspWord t.hcsp) ++
    leBytes 4 ((t.coll.map (·.pc.toNat)).getD 0xFFFFFFFF) ++ leBytes 4 ((t.coll.map (·.val.toNat)).getD 0) ++ leBytes 8 ((t.coll.map (·.mask)).getD 0)

/-- A pending BARD's entry (R391). -/
def Bard.entry (x : Bard) : List Byte :=
  leBytes 16 (x.k + 2 ^ 4 * b2n x.win + 2 ^ 5 * x.stage + 2 ^ 8 * x.scope + 2 ^ 16 * x.copies.length)

/-- A group record (R391). -/
def Group.record (g : Group) : List Byte :=
  let lead := (g.liveLanes.head?).bind (g.threads[·]?)
  let f (p : Thread → Nat) : List Byte := leBytes 4 ((if g.full then none else lead.map p).getD 0)
  padTo 64 (leBytes 8 (g.grpix + 2 ^ 16 * g.vregs + 2 ^ 24 * b2n g.full + 2 ^ 25 * b2n g.arrBlk + 2 ^ 26 * b2n g.arrClu + 2 ^ 27 * b2n g.arrDie +
      2 ^ 28 * g.bards.length + 2 ^ 32 * g.tp.toNat + 2 ^ 48 * g.u.gdflag.toNat) ++
    f (·.pc.toNat) ++ f (·.csp) ++ f (·.prog) ++ f (fun t => hcspWord t.hcsp) ++
    leBytes 8 (g.maskOf (·.live)) ++ leBytes 8 (g.maskOf fun t => t.launched && !t.live)) ++
  wordBytes g.u.s ++ g.u.grantBytes ++ padTo 128 (g.bards.flatMap Bard.entry) ++
  (if g.full then g.threads.flatMap Thread.fullEntry else []) ++
  g.threads.flatMap fun t => leBytes 4 (t.p.toNat + (if g.full then 2 ^ 8 * ((t.standing.map (·.cause.toNat)).getD 0) else 0)) ++ wordBytes t.v

/-- The groups of a block that a save writes, in ascending GRPIX. -/
def State.savedGroups (s : State) (bid : Nat) : List Nat :=
  (s.blockGroups bid).filter fun i => ((s.groups[i]?).map fun g => g.gst == .stopped || g.gst == .saved).getD false

/-- A tile's elements, row-major (R390). -/
def tileBytes (t : List (Nat × Word)) : List Byte := (List.range 16384).flatMap fun e => leBytes 4 (((tfind t e).map (·.toNat)).getD 0)

/-- A block image (R390). -/
def State.blockImage (s : State) (bid : Nat) (b : Block) : List Byte :=
  let k := s.kernels[b.kid]?
  let gs := s.savedGroups bid
  let valid := (indices 16 fun i => ((b.shapes[i]?).join).isSome).foldl (fun n i => n + 2 ^ i) 0
  padTo 64 (leBytes 4 b.handle ++ leBytes 4 (b.tiles.length + 2 ^ 8 * ((k.map (·.vru)).getD 0) + 2 ^ 14 * ((k.map (·.padu)).getD 0)) ++
    leBytes 4 b.padsz ++ leBytes 4 gs.length ++ leBytes 2 valid ++ leBytes 2 0 ++
    b.held.flatMap fun h => leBytes 2 (h.length + 2 ^ 8 * h.foldl max 0)) ++
  (b.shapes.flatMap fun h => wordBytes (h.getD (List.replicate 8 0))) ++ b.padRead 0 b.padsz ++ b.tiles.flatMap tileBytes ++
  gs.flatMap fun i => ((s.groups[i]?).map Group.record).getD []

/-- A stream image, its items packed in the order of R392. (DEDUCED, log entry 27) -/
def State.streamImage (s : State) (x : Stream) : List Byte :=
  leBytes 4 x.pc.toNat ++ leBytes 4 x.tileSeq ++ leBytes 4 (b2n x.rgWait.isSome + 2 ^ 16 * x.u.gdflag.toNat) ++ leBytes 4 x.rstack.length ++
    padTo 128 (wordBytes x.rstack.reverse) ++ leBytes 4 (hcspWord x.hcsp) ++ wordBytes x.u.s ++ x.u.grantBytes ++
    (s.blocks.filter fun b => b.kid == x.kid && b.pos == x.pos && !b.gone).flatMap fun b =>
      leBytes 4 b.handle ++ leBytes 4 ((tfind x.tps b.handle).getD 0).toNat

/-! ## Reading -/

/-- n bytes of an image at an offset, little-endian. -/
def imageNat (m : List Byte) (off n : Nat) : Nat := leNat ((m.drop off).take n)

/-- Words of an image. -/
def wordsAt (m : List Byte) (off n : Nat) : List Word := (List.range n).map fun i => BitVec.ofNat 32 (imageNat m (off + 4 * i) 4)

/-- The G registers and predicates of an image read into a file (R391, R392). -/
def UFile.load (u : UFile) (m : List Byte) (sOff : Nat) (gd : Nat) : UFile :=
  let t := imageNat m (sOff + 1024) 8
  { u with s := wordsAt m sOff 192, q := BitVec.ofNat 4 (t / 2 ^ 16),
           g := (List.range 16).map fun i => { tag := bitAt t i, bits := BitVec.ofNat 128 (imageNat m (sOff + 768 + 16 * i) 16) },
           gdflag := BitVec.ofNat 16 gd, pend := [] }

/-- A handler mark read back. -/
def hcspOf (x : Nat) : Option Nat := if x = 0xFFFFFFFF then none else some x

/-- What is kept of a thread's wait while it is stopped or saved: a class U trap that awaits incomplete results, whose instruction has
been performed (R61, R378). (DEDUCED, log entry 14) -/
def Wait.kept (w : Wait) : Wait := match w with
  | .due .. => w
  | _ => .none

/-- A thread as it is recorded: every incomplete result written, its wait withdrawn; a repeated instruction is fetched again when it
goes on from PROG (R56, R61, R381). A class U trap that is due stays due (R61, R382). (DEDUCED, log entry 14) -/
def Thread.park (t : Thread) : Thread := { t.completeAll with wait := t.wait.kept, going := none }

/-- A thread of a snapshot as it is restored: nothing waits, and its monitor is lost (R393, R467). -/
def Thread.restored (t : Thread) : Thread := { t.park with standing := none, monitor := t.monitor.map fun m => { m with lost := true } }

/-- A thread read back from a group record: registers, and PC, CSP, PROG, hcsp from its own entry or the header (R391);
its monitor is lost and its waits begin again (R393). (DEDUCED, log entry 14) -/
def Thread.load (t : Thread) (m : List Byte) (regOff vregs : Nat) (posOff : Nat) (full : Bool) : Thread :=
  let t := { t with p := BitVec.ofNat 7 (imageNat m regOff 4), v := wordsAt m (regOff + 4) vregs, wait := t.wait.kept,
                    monitor := t.monitor.map fun x => { x with lost := true } }
  if !t.live then t
  else
    let cp := imageNat m (posOff + 16) 4
    { t with pc := BitVec.ofNat 32 (imageNat m posOff 4), csp := imageNat m (posOff + 4) 4, prog := imageNat m (posOff + 8) 4, hcsp := hcspOf (imageNat m (posOff + 12) 4),
             coll := if full ∧ cp ≠ 0xFFFFFFFF then
                 t.coll.map fun c => { c with pc := BitVec.ofNat 32 cp, val := BitVec.ofNat 32 (imageNat m (posOff + 20) 4), mask := imageNat m (posOff + 24) 8 }
               else none }

/-- The length of a group record. -/
def recordBytes (width vregs : Nat) (full : Bool) : Nat := 1224 + (if full then 32 * width else 0) + width * (4 + 4 * vregs)

/-- A group read back from its record (R391); its pending BARDs bind its first n copies that have not landed. -/
def Group.load (g : Group) (copies : List Nat) (m : List Byte) : Group :=
  let h := imageNat m 0 8
  let vregs := bitsOf h 16 8
  let full := bitAt h 24
  let regs := 1224 + (if full then 32 * g.width else 0)
  let bard (i : Nat) : Bard :=
    let e := imageNat m (1096 + 16 * i) 16
    { k := e % 16, win := bitAt e 4, stage := bitsOf e 5 3, scope := bitsOf e 8 3, copies := copies.take (bitsOf e 16 6) }
  { g with vregs := vregs, full := full, arrBlk := bitAt h 25, arrClu := bitAt h 26, arrDie := bitAt h 27, tp := BitVec.ofNat 16 (bitsOf h 32 16),
           bards := (List.range (bitsOf h 28 4)).map bard, u := g.u.load m 64 (bitsOf h 48 16),
           threads := g.threads.mapIdx fun t th =>
             let th := { th with live := bitAt (imageNat m 24 8) t }
             th.load m (regs + t * (4 + 4 * vregs)) vregs (if full then 1224 + 32 * t else 8) full }

/-- A block read back from its image (R390). -/
def Block.load (b : Block) (m : List Byte) : Block :=
  let padsz := imageNat m 8 4
  let pad := (m.drop 0x240).take padsz
  { b with padsz := padsz,
           held := (List.range 16).map fun i => let h := imageNat m (0x14 + 2 * i) 2; List.replicate (h % 64) (bitsOf h 8 3),
           shapes := (List.range 16).map fun i => if bitAt (imageNat m 0x10 2) i then some (wordsAt m (0x40 + 32 * i) 8) else none,
           pad := Memory.writeN [] 0 (pad.take (padsz - 128)),
           words := (List.range 16).map fun i => BitVec.ofNat 64 (imageNat pad (padsz - 128 + 8 * i) 8),
           tiles := (List.range (imageNat m 4 1)).map fun n =>
             (List.range 16384).filterMap fun e => let x := BitVec.ofNat 32 (imageNat m (0x240 + padsz + 65536 * n + 4 * e) 4); if x = 0 then none else some (e, x) }

/-- The group records of a block image read back, from an offset (R390). -/
def State.loadGroups (s : State) (m : List Byte) : List Nat → Nat → State
  | [], _ => s
  | i :: rest, off =>
    match s.groups[i]? with
    | none => s.loadGroups m rest off
    | some g =>
      let r := m.drop off
      let cs := s.groupCopies i
      let h := imageNat r 0 8
      (s.modGroup i fun g => g.load cs r).loadGroups m rest (off + recordBytes g.width (bitsOf h 16 8) (bitAt h 24))

/-- A block with its groups read back from an image. -/
def State.loadBlock (s : State) (bid : Nat) (m : List Byte) : State :=
  let s := s.modBlock bid fun b => b.load m
  s.loadGroups m (s.savedGroups bid) (0x240 + imageNat m 8 4 + 65536 * imageNat m 4 1)

/-- A stream read back from its image (R392). -/
def Stream.load (x : Stream) (m : List Byte) (blocks : Nat) : Stream :=
  let d := imageNat m 12 4
  let tail := 148 + 768 + 264
  { x with pc := BitVec.ofNat 32 (imageNat m 0 4), tileSeq := imageNat m 4 4, rgWait := if bitAt (imageNat m 8 4) 0 then some (x.rgWait.getD 0) else none,
           rstack := (wordsAt m 16 d).reverse, hcsp := hcspOf (imageNat m 144 4), u := x.u.load m 148 (bitsOf (imageNat m 8 4) 16 16),
           tps := (List.range blocks).foldl (fun t i => tset t (imageNat m (tail + 8 * i) 4) (BitVec.ofNat 16 (imageNat m (tail + 8 * i + 4) 4))) [] }

/-! ## The reserve (R394) -/

/-- Rounded up to 4 KiB. -/
def up4k (n : Nat) : Nat := (n + 4095) / 4096 * 4096

/-- A block as a snapshot of it says: its pad, words, shapes and tiles, and its groups saved in compact form (R467). -/
def State.asSnapshot (s : State) (bid : Nat) (im : Snapshot) : State :=
  let s := s.modBlock bid fun b => { b with pad := im.pad, words := im.words, held := im.held, shapes := im.shapes, tiles := im.tiles }
  ((s.blockGroups bid).zip im.groups).foldl (fun s x => s.modGroup x.1 fun g =>
    { x.2 with slot := g.slot, lane0 := g.lane0, gst := if x.2.gst = .ended then .ended else .saved, full := false, u := x.2.u.completeAll,
               threads := x.2.threads.map Thread.restored }) s

/-- The image of a snapshot of a block (R390, R467). -/
def State.snapImage (s : State) (bid : Nat) (im : Snapshot) : List Byte :=
  let t := s.asSnapshot bid im
  ((t.blocks[bid]?).map (t.blockImage bid)).getD []

/-- A stream as an image of it says (R467). -/
def Stream.asSnap (x : Stream) (im : StreamSnap) : Stream :=
  { x with pc := im.pc, u := im.u.completeAll, rstack := im.rstack, hcsp := im.hcsp, tps := im.tps, tileSeq := im.tileSeq, rgWait := none,
           wait := .none, standing := none }

/-- The images in the reserve of a partition, of blocks, of their snapshots and of streams: where each lies and its length. -/
def State.inReserveAt (s : State) (part : Nat) : List (Nat × Nat) :=
  let mine (kid : Nat) : Bool := (s.ctx (s.ctxOfKernel kid)).part == part
  ((List.range s.blocks.length).flatMap fun i => match s.blocks[i]? with
    | none => []
    | some b =>
      if b.gone || !mine b.kid then []
      else (if b.bst = .reserve then (b.resAt.map fun at_ => (at_, up4k (s.blockImage i b).length)).toList else []) ++
        (b.snapLatest.bind fun im => im.at_.map fun at_ => (at_, up4k (s.snapImage i im).length)).toList) ++
    s.streams.filterMap fun x =>
      if x.sst = .ended ∨ mine x.kid = false then none
      else x.snapLatest.bind fun im => im.at_.map fun at_ => (at_, up4k (s.streamImage (x.asSnap im)).length)

/-- The lowest place in the reserve of a partition that holds an image of n bytes, if one does. (DESIGN CHOICE, log entry 28) -/
def State.reservePlace (s : State) (part n : Nat) : Option Nat :=
  let lo := (s.part part).respa.toNat
  let used := s.inReserveAt part
  let fits (x : Nat) : Bool := decide (x + n ≤ lo + (s.part part).ressz.toNat) && !(used.any fun u => overlaps x n u.1 u.2) &&
    !s.deadPa x && !s.deadPa (x + n - 1)
  ((lo :: used.map fun u => u.1 + u.2).filter fits).foldl (fun m x => match m with
    | some y => some (min x y)
    | none => some x) none

/-- The bytes of an image written to the reserve, in pieces that lie in one channel group each: the hub drops what goes to a group that
the partition does not use, or that has no home (R415, R454). -/
def State.reserveWrite (s : State) (a : Acc) (pa : Nat) (data : List Byte) : State :=
  let cut := min data.length (2 ^ 33 - pa % 2 ^ 33)
  let put (s : State) (pa : Nat) (data : List Byte) : State := if data = [] then s else s.hubWrite a 0 pa data
  put (put s pa (data.take cut)) (pa + cut) (data.drop cut)

/-- The image of a stopped block written to the reserve of its partition, where it has room for it (R394).
(DESIGN CHOICE, log entry 28) -/
def State.writeReserve (s : State) (bid : Nat) : State :=
  match s.blocks[bid]? with
  | none => s
  | some b =>
    let ctx := s.ctxOfKernel b.kid
    let part := (s.ctx ctx).part
    let m := s.blockImage bid b
    match s.reservePlace part (up4k m.length) with
    | some at_ => (s.reserveWrite (hubAcc ctx part) at_ m).modBlock bid fun b => { b with resAt := some at_ }
    | none => s

/-- An image written to the reserve of the partition of a context, where it has room for it: where it lies.
(DESIGN CHOICE, log entry 28) -/
def State.keepImage (s : State) (ctx : Nat) (m : List Byte) : State × Option Nat :=
  let part := (s.ctx ctx).part
  match s.reservePlace part (up4k m.length) with
  | some at_ => (s.reserveWrite (hubAcc ctx part) at_ m, some at_)
  | none => (s, none)

/-- SNAPSHOT_COMPLETE (R467, R468): the writes of a block's or a stream's image to the reserve are complete; its slot becomes the latest,
and the log of the interval begins at it, which is protected again unless it has overflowed. (DESIGN CHOICE, log entry 28)
(DEDUCED, log entry 54) -/
def execSnapshotComplete (x : SnapOwner) (s : State) : Out :=
  .next (match x with
    | .block bid => match (s.blocks[bid]?).bind fun b => b.snapWriting.map fun im => (b, im) with
      | some (b, im) =>
        let (s, at_) := s.keepImage (s.ctxOfKernel b.kid) (s.snapImage bid im)
        s.modBlock bid fun b =>
          { b with snapLatest := some { im with logAt := 0, at_ := at_ }, snapWriting := none, log := b.log.drop im.logAt, rollbacks := 0,
                   covered := intervalKept b.log im.logAt }
      | none => s
    | .stream sid => match (s.streams[sid]?).bind fun x => x.snapWriting.map fun im => (x, im) with
      | some (x, im) =>
        let (s, at_) := s.keepImage (s.ctxOfKernel x.kid) (s.streamImage (x.asSnap im))
        s.modStream sid fun x => { x with snapLatest := some { im with logAt := 0, at_ := at_ }, snapWriting := none, log := x.log.drop im.logAt }
      | none => s)

/-- A block taken back to its latest snapshot, read from its image in the reserve where it has one (R467). -/
def State.fromSnapshot (s : State) (bid : Nat) (im : Snapshot) : State :=
  let t := s.asSnapshot bid im
  match im.at_ with
  | some at_ => t.loadBlock bid (t.cohBytes at_ (s.snapImage bid im).length)
  | none => t

/-- A stream taken back to its latest image, read from the reserve where it lies there (R467). -/
def State.streamFromSnap (s : State) (sid : Nat) (im : StreamSnap) : State :=
  s.modStream sid fun x =>
    let y := x.asSnap im
    match im.at_ with
    | some at_ =>
      let n := ((s.streamImage y).length - 1180) / 8
      y.load (s.cohBytes at_ (1180 + 8 * n)) n
    | none => y

/-- A group that has left a fixed barrier since its image was written goes on from it (R312). -/
def Group.left (now image : Group) : Group :=
  let go (f : Fixed) (g : Group) : Group := if g.arrived f && !now.arrived f then g.leave f else g
  go .die (go .clu (go .blk image))

/-- The image of a block read back from the reserve (R393, R394). -/
def State.readReserve (s : State) (bid : Nat) : State :=
  match s.blocks[bid]? with
  | some { resAt := some at_, .. } =>
    let t := s.loadBlock bid (s.cohBytes at_ (((s.blocks[bid]?).map fun b => (s.blockImage bid b).length).getD 0))
    let t := (s.blockGroups bid).foldl (fun (t : State) i => match s.groups[i]? with
      | some now => t.modGroup i now.left
      | none => t) t
    t.modBlock bid fun b => { b with resAt := none }
  | _ => s

end Sys2Proof.Machine
end

