-- ==== Sys2Proof/Machine/CopyEngine.lean ====
section
/-! DEFINITION. Shapes, copies and the block transfer engine (chapter 12). -/

namespace Sys2Proof.Machine

/-! ## Shapes (R281, R282) -/

/-- A word of a shape record. -/
def shWord (h : List Word) (i : Nat) : Nat := ((h[i]?).getD 0).toNat
/-- The element size in bytes (R281). -/
def shZ (h : List Word) : Nat := 2 ^ (shWord h 0 % 8)
/-- NDIM, the dimensions minus 1 (R281). -/
def shNdim (h : List Word) : Nat := bitsOf (shWord h 0) 4 2
/-- TR (R281). -/
def shTr (h : List Word) : Bool := bitAt (shWord h 0) 6
/-- MC (R281). -/
def shMc (h : List Word) : Bool := bitAt (shWord h 0) 7
/-- MG (R281). -/
def shMg (h : List Word) : Nat := bitsOf (shWord h 0) 8 2
/-- The extent of dimension i (R281, R282). -/
def shE (h : List Word) (i : Nat) : Nat := bitsOf (shWord h (1 + i / 2)) (16 * (i % 2)) 16 + 1
/-- The memory stride of dimension i; dimension 0 is contiguous (R282). -/
def shS (h : List Word) (i : Nat) : Nat := if i = 0 then shZ h else shWord h (2 + i)
/-- PP (R281). -/
def shPp (h : List Word) : Nat := shWord h 6 % 2 ^ 24
/-- The pad row length (R282). -/
def shRow (h : List Word) : Nat := (if shTr h then shE h 1 else shE h 0) * shZ h

/-- A record that SHAPE accepts (R285). -/
def shapeOk (k : Kernel) (h : List Word) : Bool :=
  let z := shZ h
  let n := shNdim h
  shWord h 0 < 1024 && !bitAt (shWord h 0) 3 && decide (shWord h 0 % 8 < 5) && decide (shWord h 6 < 2 ^ 24) && shWord h 7 == 0 &&
    ([1, 2, 3].all fun i => decide (shS h i % z = 0)) && decide (shPp h % 16 = 0) &&
    (if n = 0 then shPp h == 0 else decide (shRow h ≤ shPp h)) &&
    ([1, 2, 3].all fun i => decide (i ≤ n) || (shE h i == 1 && shS h i == 0)) &&
    !(shTr h && (n == 0 || decide (3 ≤ shWord h 0 % 8))) &&
    (if shMc h then k.mcast (shMg h) != 0 else shMg h == 0)

/-- The memory offset of the element at coordinates, from gbase (R282). -/
def shMem (h : List Word) (i0 i1 i2 i3 : Nat) : Nat := i0 * shZ h + i1 * shS h 1 + i2 * shS h 2 + i3 * shS h 3

/-- The pad offset of the element at coordinates, from pbase (R282). -/
def shPad (h : List Word) (i0 i1 i2 i3 : Nat) : Nat :=
  if shTr h then i1 * shZ h + i0 * shPp h + i2 * shPp h * shE h 0 + i3 * shPp h * shE h 0 * shE h 1
  else i0 * shZ h + i1 * shPp h + i2 * shPp h * shE h 1 + i3 * shPp h * shE h 1 * shE h 2

/-- The bytes of memory from gbase to the highest byte that an element can reach (R290). -/
def shMemSpan (h : List Word) : Nat := shMem h (shE h 0 - 1) (shE h 1 - 1) (shE h 2 - 1) (shE h 3 - 1) + shZ h

/-- The bytes of the pad footprint (R290). -/
def shPadSpan (h : List Word) : Nat := shPad h (shE h 0 - 1) (shE h 1 - 1) (shE h 2 - 1) (shE h 3 - 1) + shZ h

/-- SHAPE (R284, R285). -/
def execShape (g : BitVec 4) (a : BitVec 8) (n : BitVec 4) (s : State) : Out :=
  .next (if !s.uguard g then s.advanceU
    else match s.issue.who with
      | .stream _ => s.trapU .priv 0
      | .group gid =>
        match (s.groups[gid]?).bind fun grp => (s.kernelOf grp.bid).map fun k => (grp, k) with
        | none => s
        | some (grp, k) =>
          let h : List Word := (List.range 8).map fun i => grp.u.getS (a.toNat + i)
          if shapeOk k h then (s.modBlock grp.bid fun b => { b with shapes := b.shapes.set n.toNat (some h) }).advanceU
          else s.trapU .shapeInvalid 0)

/-! ## The byte stream of a copy (R282, R289) -/

/-- The rows that a gather or scatter selects, in ascending order (R289). -/
def Copy.rows (c : Copy) : List Nat := indices (min 64 (shE c.shape 1)) (bitAt c.mask)

/-- The elements that a copy moves. -/
def Copy.elems (c : Copy) : Nat :=
  if c.kind = 0 then shE c.shape 0 * shE c.shape 1 * shE c.shape 2 * shE c.shape 3 else c.rows.length * shE c.shape 0

/-- The bytes that a copy moves. -/
def Copy.bytes (c : Copy) : Nat := c.elems * shZ c.shape

/-- The sectors of a copy (R282). -/
def Copy.sectors (c : Copy) : Nat := (c.bytes + 511) / 512

/-- The far offset from the copy's base and the pad offset from pbase of element e of the stream (R282, R289). -/
def Copy.place (c : Copy) (e : Nat) : Nat × Nat :=
  let h := c.shape
  let i0 := e % shE h 0
  if c.kind = 0 then
    let i1 := e / shE h 0 % shE h 1
    let i2 := e / (shE h 0 * shE h 1) % shE h 2
    let i3 := e / (shE h 0 * shE h 1 * shE h 2)
    (shMem h i0 i1 i2 i3, shPad h i0 i1 i2 i3)
  else
    let j := e / shE h 0
    (shMem h i0 ((c.rows[j]?).getD 0) 0 0, shPad h i0 j 0 0)

/-- The elements of sector k; an element never spans two sectors (R282). -/
def Copy.sector (c : Copy) (k : Nat) : List Nat :=
  let per := 512 / shZ c.shape
  (indices per fun i => decide (k * per + i < c.elems)).map fun i => k * per + i

/-- The copy writes pads: `.ld`, `.put`, `.get` and XGATH. -/
def Copy.toPad (c : Copy) : Bool := c.kind == 1 || (c.kind == 0 && c.dir != 1)

/-- The far side of the copy is a pad. -/
def Copy.window (c : Copy) : Bool := c.kind == 0 && c.dir == 2

/-! ## Issue (R287 to R291) -/

/-- The blocks of the launch that a multicast shape sends to (R283). -/
def State.recipients (s : State) (bid : Nat) (k : Kernel) (h : List Word) : List Nat :=
  match s.blocks[bid]? with
  | none => []
  | some b =>
    if !shMc h then [bid]
    else indices s.blocks.length fun i => match s.blocks[i]? with
      | some c => c.kid == b.kid && c.die == b.die && c.clu == b.clu && c.stage == b.stage && c.bst == .placed &&
          bitAt (k.mcast (shMg h)) c.core
      | none => false

/-- The copies of a block that have issued and not landed. -/
def State.blockCopies (s : State) (bid : Nat) : Nat := (s.copies.filter fun c => c.bid == bid && c.open').length

/-- The copies of a cluster that have issued and not landed; its engine holds none of a block that has left it (R294, R407). -/
def State.clusterCopies (s : State) (b : Block) : Nat :=
  (s.copies.filter fun c => c.open' && (match s.blocks[c.bid]? with
    | some x => x.die == b.die && x.clu == b.clu && x.bst == .placed
    | none => false)).length

/-- A transfer arrival on a word can be made later (R290 check 7, R314). -/
def State.acceptsTransfer (s : State) (bid k : Nat) : Bool :=
  let w := s.word bid k
  w.init && decide (-512 ≤ w.tx - (s.copiesAt bid k : Int) - 1)

/-- The checks of a copy at issue, in order (R290), from check 2 on. The address that goes with a cause is the first byte on the far
side, for PAD_BOUNDS the pad base. (DESIGN CHOICE, log entry 108) -/
def State.copyCheck (s : State) (c : Copy) (b : Block) (valid : Bool) : Option (Cause × Nat) :=
  let h := c.shape
  let rd := c.toPad
  let va := c.grant.base + c.far
  let fits (i off span : Nat) : Bool := ((s.blocks[i]?).map fun x => decide (off + span + 128 ≤ x.padsz)).getD false
  let far := s.padTarget c.bid (BitVec.ofNat 4 (8 + c.stage))
  if !valid || (shMc h && !(c.kind == 0 && c.dir == 0)) ||
      (c.kind != 0 && (shNdim h != 1 || shTr h || shMc h || decide (64 < shE h 1))) || (c.window && shTr h) then some (.shapeInvalid, 0)
  else match (if c.window then none else grantCheck (s.accAt c.ctx b.die b.clu none) c.grant (if rd then c.grant.rd else c.grant.wr) c.far (shMemSpan h)) with
    | some x => some (x, va)
    | none =>
      if (!c.window && decide (va % shZ h ≠ 0)) || decide (c.pbase % 16 ≠ 0) || (c.window && decide (c.far % shZ h ≠ 0)) then
        some (.misalign, va)
      else if !(c.recips.all fun i => fits i c.pbase (shPadSpan h)) || (c.window && !((far.map fun i => fits i c.far (shMemSpan h)).getD false)) ||
          !(c.window.not || fits c.bid c.pbase (shPadSpan h)) then some (.padBounds, c.pbase)
      else if !(c.recips.all fun i => s.acceptsTransfer i c.k) then some (.barrierMisuse, 0)
      else none

/-- A copy instruction (R290, R291): the checks, a wait for room, then the copy enters the queue of the cluster's BTE.
`mk` gives the copy of the group's registers, its shape entry aside. -/
def State.copyIssue (s : State) (g : BitVec 4) (n : BitVec 4) (scope : BitVec 3) (mk : Group → Copy) : State :=
  if !s.uguard g then s.advanceU
  else match s.issue.who with
    | .stream _ => s.trapU .priv 0
    | .group gid =>
      match (s.groups[gid]?).bind fun grp => (s.blocks[grp.bid]?).bind fun b => (s.kernels[b.kid]?).map fun k => (grp, b, k) with
      | none => s
      | some (grp, b, k) =>
        let entry := (b.shapes[n.toNat]?).join
        let h := entry.getD (List.replicate 8 0)
        let c := { mk grp with gid := gid, bid := grp.bid, shape := h, recips := s.recipients grp.bid k h, ctx := k.ctx }
        let c := { c with mask := if c.kind = 0 then 0 else c.mask % 2 ^ min 64 (shE h 1) }
        -- SHAPE_INVALID comes before SCOPE, the rest after it (R290)
        match s.copyCheck c b entry.isSome with
        | some (.shapeInvalid, v) => s.trapU .shapeInvalid v
        | r =>
          match s.scopeCheck (.group gid) scope.toNat with
          | none => s.trapU .scope 0
          | some (sc, cl) =>
            let s := s.clamped (.group gid) cl
            match r with
            | some (x, v) => s.trapU x v
            | none =>
              if 32 ≤ s.blockCopies grp.bid ∨ 128 ≤ s.clusterCopies b then s.waitU
              else
                let s := s.release (s.accOf (.group gid)) 1
                ({ s with copies := s.copies ++ [{ c with scope := sc }] }).unwaitU.advanceU

/-- A copy with nothing filled in. -/
def Copy.blank : Copy :=
  { gid := 0, bid := 0, kind := 0, dir := 0, k := 0, gix := 0, grant := Grant.null, scope := 0, hint := 0, stage := 0,
    get := false, off64 := false, far := 0, pbase := 0, mask := 0, shape := [], cst := .queued, prog := 0, cause := 0,
    tval := 0, recips := [], ctx := 0, slot := none }

/-- XCOPY (R287, R288). -/
def execXcopy (g : BitVec 4) (d a : BitVec 8) (dir : BitVec 2) (n gr : BitVec 4) (hint : BitVec 2) (scope : BitVec 3)
    (k : BitVec 4) (st : BitVec 3) (off64 get : BitVec 1) (s : State) : Out :=
  .next (s.copyIssue g n scope fun grp =>
    { Copy.blank with kind := 0, dir := dir.toNat, k := k.toNat, gix := gr.toNat, grant := grp.u.getG gr.toNat, hint := hint.toNat,
                      stage := st.toNat, get := get == 1, off64 := off64 == 1,
                      far := if off64 = 1 then (grp.u.getS2 a.toNat).toNat else (grp.u.getS a.toNat).toNat,
                      pbase := (grp.u.getS d.toNat).toNat })

/-- The copy of an XGATH or an XSCAT (R287 to R289). -/
def maskedCopy (kind : Nat) (d a : BitVec 8) (gr : BitVec 4) (hint : BitVec 2) (k : BitVec 4) (sm : BitVec 8) (grp : Group) : Copy :=
  { Copy.blank with kind := kind, k := k.toNat, gix := gr.toNat, grant := grp.u.getG gr.toNat, hint := hint.toNat,
                    far := (grp.u.getS a.toNat).toNat, pbase := (grp.u.getS d.toNat).toNat, mask := (grp.u.getS2 sm.toNat).toNat }

/-- XGATH (R287 to R289). -/
def execXgath (g : BitVec 4) (d a : BitVec 8) (n gr : BitVec 4) (hint : BitVec 2) (scope : BitVec 3) (k : BitVec 4)
    (sm : BitVec 8) (s : State) : Out :=
  .next (s.copyIssue g n scope (maskedCopy 1 d a gr hint k sm))

/-- XSCAT (R287 to R289). -/
def execXscat (g : BitVec 4) (d a : BitVec 8) (n gr : BitVec 4) (hint : BitVec 2) (scope : BitVec 3) (k : BitVec 4)
    (sm : BitVec 8) (s : State) : Out :=
  .next (s.copyIssue g n scope (maskedCopy 2 d a gr hint k sm))

/-- XSTAT (R298). A count above 63, which its field does not hold, reads as a free value there. (DESIGN CHOICE, log entry 96) -/
def execXstat (g la : BitVec 4) (d : BitVec 8) (sl : BitVec 2) (k : BitVec 4) (s : State) : Out :=
  .next (match s.issue.who with
    | .stream _ => if s.uguard g then s.trapU .priv 0 else s.advanceU
    | .group gid =>
      let bid := ((s.groups[gid]?).map (·.bid)).getD 0
      let l := s.copies.filter fun c => c.open' && (match sl.toNat with
        | 0 => c.gid == gid
        | 1 => c.bid == bid
        | _ => c.k == k.toNat && c.recips.contains bid)
      let n := l.length
      let m := (l.filter fun c => c.cst == .stopped).length
      let six (n k : Nat) : Nat := if n < 64 then n else (Config.freeWord (s.free + k)).toNat % 64
      { s with free := s.free + 2 }.uniOp g fun _ u => u.late la.toNat [(d.toNat, BitVec.ofNat 32 (six n 0 + 256 * six m 1))] [])

/-! ## The copy object (R292 to R297) -/

/-- The context of a copy lets its engine go on: it runs, or its halt still drains (R294). -/
def State.copyRuns (s : State) (ctx : Nat) : Bool :=
  let c := s.ctx ctx
  match c.st with
  | .running => true
  | .halting => match c.line with
    | some l => !l.drained
    | none => true
  | _ => false

/-- A copy stops with a fault at its oldest unfinished sector, and the context halts (R293, R295). -/
def State.copyFault (s : State) (cid : Nat) (c : Copy) (x : Cause) (va : Nat) : State :=
  (s.modCopy cid fun c => { c with cst := .stopped, cause := x.code, tval := BitVec.ofNat 64 va }).halt c.ctx .fault

/-- The far elements of a sector, of z bytes each: every one is looked up before anything is written, and one whose poison ends
what reads it stops the copy (R293). -/
def State.copyLook (s : State) (a : Acc) (kind : AccKind) (z : Nat) (data : Option Bool) (bid : Nat) : List Nat → State × LaneEnd
  | [] => (s, .done)
  | va :: rest =>
    match s.lookFor a kind va z data (some bid) with
    | (s, .fault x) => (s, .trap x va)
    | (s, .wait) => (s, .wait)
    | (s, .poison) => (s, .poison)
    | (s, .ok _ _) => s.copyLook a kind z data bid rest

/-- A copy stops on poison that it has consumed, for which the severity matrix acts (R293, R376). -/
def State.copyPoison (s : State) (cid va : Nat) : State :=
  s.modCopy cid fun c => { c with cst := .stopped, cause := Cause.poison.code, tval := BitVec.ofNat 64 va }

/-- One element moved between memory and pads. -/
def State.moveMem (s : State) (a : Acc) (c : Copy) (va po z : Nat) : State :=
  match s.look a (if c.toPad then .read else .write) va with
  | (s, .ok pa e) =>
    if c.toPad then
      let (s, d) := s.readPa a e pa z c.hint true (some c.bid)
      c.recips.foldl (fun s i => s.padStore i po d) s
    else
      let s := (s.padLook c.bid po z).consumePad c.bid po z c.bid
      let d := ((s.blocks[c.bid]?).map fun b => b.padRead po z).getD []
      s.writePa a e pa c.hint d
  | (s, _) => s

/-- The source elements of a copy between two pads, by their offsets. -/
def Copy.sources (c : Copy) : List Nat :=
  (List.range c.elems).map fun e => if c.get then c.far + (c.place e).1 else c.pbase + (c.place e).2

/-- The destination elements of a copy between two pads. -/
def Copy.targets (c : Copy) : List Nat :=
  (List.range c.elems).map fun e => if c.get then c.pbase + (c.place e).2 else c.far + (c.place e).1

/-- A pad byte is a source byte of a copy between two pads. -/
def Copy.isSource (c : Copy) (i : Nat) : Bool := c.sources.any fun x => overlaps i 1 x (shZ c.shape)

/-- One element moved between two pads through the cluster window; where the two pads are one, destination bytes that are
source bytes of the copy too keep their values until its last sector (R296). -/
def State.movePad (s : State) (c : Copy) (far fo po z : Nat) : State :=
  let (src, so, dst, d0) := if c.get then (far, fo, c.bid, po) else (c.bid, po, far, fo)
  let s := (s.padLook src so z).consumePad src so z c.bid
  let d := ((s.blocks[src]?).map fun b => b.padRead so z).getD []
  if src = dst then
    (d.zipIdx.filter fun x => !c.isSource (d0 + x.2)).foldl (fun s x => s.padStore dst (d0 + x.2) [x.1]) s
  else s.padStore dst d0 d

/-- The last sector of a copy onto its own source leaves free values in the bytes where they overlap, and in those only (R296). -/
def State.spoilOverlap (s : State) (c : Copy) (far : Nat) : State :=
  if far ≠ c.bid ∨ c.prog + 1 < c.sectors then s
  else
    let offs := ((c.targets.flatMap fun t => (List.range (shZ c.shape)).map (t + ·)).filter c.isSource).dedup
    offs.foldl (fun s o => ({ s with free := s.free + 1 } : State).padStore c.bid o [freeByte s.free]) s

/-- COPY_START (R292). -/
def execCopyStart (cid : Nat) (s : State) : Out :=
  match s.copies[cid]? with
  | some c => .next (if c.cst = .queued ∧ s.copyRuns c.ctx then s.modCopy cid fun c => { c with cst := .running } else s)
  | none => .next s

/-- COPY_SECTOR (R293): the oldest unfinished sector is written, or faults with nothing of it written. It waits while a block
whose pad it reaches has been moved away. (DEDUCED, log entry 95) -/
def execCopySector (cid : Nat) (s : State) : Out :=
  match (s.copies[cid]?).bind fun c => (s.blocks[c.bid]?).map fun b => (c, b) with
  | none => .next s
  | some (c, b) =>
    if c.cst ≠ .running ∨ c.sectors ≤ c.prog ∨ s.copyRuns c.ctx = false ∨ (c.recips.any fun i => !s.placed i) = true then .next s
    else
      let z := shZ c.shape
      let places := (c.sector c.prog).map c.place
      let done (s : State) : State := (s.modCopy cid fun c => { c with prog := c.prog + 1 }).bump c.ctx 9 (places.length * z)
      -- a read of a pad that ends the copy on poison is made before anything is written
      let bad (bid : Nat) (off : Nat × Nat → Nat) : Option (Nat × Nat) :=
        (places.map off).findSome? fun o => if s.padEnds bid o z c.bid then some (bid, o) else none
      let stop (x : Nat × Nat) : Out := .next ((s.consumePad x.1 x.2 z c.bid).copyPoison cid x.2)
      if c.window then
        match s.padTarget c.bid (BitVec.ofNat 4 (8 + c.stage)) with
        | none => .next (s.copyFault cid c .padBounds (c.far))
        | some f =>
          match (if c.get then bad f fun p => c.far + p.1 else bad c.bid fun p => c.pbase + p.2) with
          | some x => stop x
          | none =>
            if !s.placed f then .next s
            else .next (done ((places.foldl (fun s p => s.movePad c f (c.far + p.1) (c.pbase + p.2) z) s).spoilOverlap c f))
      else
        let a := s.accAt c.ctx b.die b.clu none
        let va (p : Nat × Nat) : Nat := c.grant.base + c.far + p.1
        match (if c.toPad then none else bad c.bid fun p => c.pbase + p.2) with
        | some x => stop x
        | none =>
          match s.copyLook a (if c.toPad then .read else .write) z (if c.toPad then some true else none) c.bid (places.map va) with
          | (s, .trap x v) => .next (s.copyFault cid c x v)
          | (s, .wait) => .next s
          | (s, .later) => .next s
          | (s, .poison) => .next (s.copyPoison cid (((places.head?).map va).getD 0))
          | (s, .done) => .next (done (places.foldl (fun s p => s.moveMem a c (va p) (c.pbase + p.2) z) s))

/-- The block at whose word a pending BARD arrives. -/
def State.bardBlock (s : State) (g : Group) (x : Bard) : Option Nat := if x.win then s.stageBlock g.bid x.stage else some g.bid

/-- A block has been moved away and has still to come back (R214, R407). -/
def State.away (s : State) (bid : Nat) : Bool := ((s.blocks[bid]?).map fun b => b.bst == .reserve || b.bst == .saved).getD false

/-- The pending BARDs of a group of which no copy is left arrive, once its own block and the block of the word both stand on their
cores (R308, R315; DEDUCED, log entry 95). -/
def State.bardsArrive (s : State) (gid : Nat) : State :=
  match s.groups[gid]? with
  | none => s
  | some g =>
    let ready (x : Bard) : Bool := x.copies == [] && !s.away g.bid && !((s.bardBlock g x).any s.away)
    let s' := s.modGroup gid fun g => { g with bards := g.bards.filter fun x => !ready x }
    (g.bards.filter ready).foldl (fun s x =>
      match s.bardBlock g x with
      | some bid => (s.release (s.accOf (.group gid)) x.scope).engineArrive bid x.k x.scope
      | none => s) s'

/-- The pending BARDs of every group that can arrive now do (R308, R315). -/
def State.bardsArriveAll (s : State) : State := (List.range s.groups.length).foldl (fun s i => s.bardsArrive i) s

/-- The pending BARDs of a group after one of its copies has landed (R308). -/
def State.bardsLand (s : State) (gid cid : Nat) : State :=
  (s.modGroup gid fun g => { g with bards := g.bards.map fun (x : Bard) => { x with copies := x.copies.erase cid } }).bardsArrive gid

/-! ## A block stopped alone (R214, R394, R407) -/

/-- No placed block and no running stream is on a cluster. -/
def State.clusterEmpty (s : State) (die clu : Nat) : Bool :=
  (s.blocks.all fun b => !(b.die == die && b.clu == clu && b.bst == .placed)) &&
    (s.streams.all fun x => !(x.die == die && x.clu == clu && x.sst == .running))

/-- A revoked cluster that its borrower has left is scrubbed (R406, R411). -/
def State.vacate (s : State) (die clu : Nat) : State :=
  if s.clusterEmpty die clu then
    { s with clusters := s.clusters.modify (9 * die + clu) fun (u : UnitRec) => if u.cond = 3 then { u with cond := 4, after := 3 } else u }
  else s

/-- A block that is being stopped alone and whose groups and copies have all stopped goes to the reserve as an image, after a
release at PART for its agents (R394, R407). Its groups give up their slots and registers. -/
def State.toReserve (s : State) (bid : Nat) : State :=
  match s.blocks[bid]? with
  | none => s
  | some b =>
    if b.bst = .placed ∧ b.halt.isSome ∧ b.trigger.isNone ∧ (s.groups.all fun g => g.bid != bid || g.gst == .stopped || g.gst == .ended) ∧
        (s.copies.all fun c => c.bid != bid || !(c.cst == .queued || c.cst == .running)) then
      let s := s.release (s.accAt (s.ctxOfKernel b.kid) b.die b.clu (some b.coreNo)) 3
      let s := (s.writeReserve bid).modBlock bid fun b => { b with bst := .reserve, halt := none }
      State.vacate { s with groups := s.groups.map fun (g : Group) => if g.bid = bid ∧ g.gst = .stopped then { g with gst := .saved } else g } b.die b.clu
    else s

/-- COPY_LAND (R292, R297): the writes reach the point of the copy's scope, then every recipient's word takes the
transfer arrival. -/
def execCopyLand (cid : Nat) (s : State) : Out :=
  match (s.copies[cid]?).bind fun c => (s.blocks[c.bid]?).map fun b => (c, b) with
  | none => .next s
  | some (c, b) =>
    if c.cst ≠ .running ∨ c.prog < c.sectors ∨ s.copyRuns c.ctx = false ∨ (c.recips.any fun i => !s.placed i) = true then .next s
    else
      let s := (s.release (s.accAt c.ctx b.die b.clu none) c.scope).modCopy cid fun c => { c with cst := .landed }
      let n := if c.kind = 0 then 0 else c.rows.length
      let s := c.recips.foldl (fun s i => s.wordOp i c.k (·.transfer c.scope n)) s
      .next ((s.bardsLand c.gid cid).toReserve c.bid)

/-- Every copy that satisfies a test and has not landed stops at its sector boundary (R294). -/
def State.stopCopies (s : State) (p : Copy → Bool) : State :=
  { s with copies := s.copies.map fun (c : Copy) =>
      if (c.cst = CopySt.queued ∨ c.cst = CopySt.running) ∧ p c = true then { c with cst := CopySt.stopped } else c }

/-- HALT_DRAIN_DEADLINE (R294, R407): the drain window of a halt has ended, of the context or of a block stopped alone;
the copies that have not landed stop at their sector boundary. -/
def execHaltDrainDeadline (ctx : Nat) (s : State) : Out :=
  let due (t : Nat) : Bool := decide (t + 2000 ≤ s.clock)
  let alone := indices s.blocks.length fun i => match s.blocks[i]? with
    | some { kid := k, halt := some (t, _), .. } => s.ctxOfKernel k == ctx && due t
    | _ => false
  let s := alone.foldl (fun s i => (s.stopCopies fun c => c.bid == i).toReserve i) s
  match (s.ctx ctx).line with
  | none => .next s
  | some l =>
    if due l.at_ then
      .next ((s.stopCopies fun c => c.ctx == ctx).modCtx ctx fun (c : Ctx) =>
        { c with line := c.line.map fun (l : HaltLine) => { l with drained := true } })
    else .next s

end Sys2Proof.Machine
end

