-- ==== Sys2Proof/Machine/Tile.lean ====
section
/-! DEFINITION. Tiles, the matrix unit and the tile instructions of the cadence core (chapter 14, R99 to R108). -/

namespace Sys2Proof.Machine

/-! ## Tile storage -/

/-- The element (i, j) of a tile (R321, R390). -/
def tileGet (t : List (Nat × Word)) (i j : Nat) : Word := (tfind t (128 * i + j)).getD 0

/-- A tile of a block. -/
def Block.tile (b : Block) (n : Nat) : List (Nat × Word) := (b.tiles[n]?).getD []

/-! ## Format checks (R324, R329) -/

/-- A pair of formats that a product accepts (R324). -/
def pairOk (fa fb : Nat) : Bool :=
  (decide (fa ≤ 1) && decide (fb ≤ 1)) || ((fa == 2 || fa == 3) && (fb == 2 || fb == 3)) || (fa == 5 && fb == 5) || (fa == 6 && fb == 6)

/-- The checks of a tile instruction against the slots and guards of its launch, part of decoding (R62, R324, R329). -/
def tileSlotsOk (k : Kernel) : Instr → Bool
  | .tmma _ _ _ _ _ fa fb _ _ _ _ _ _ => pairOk (slotFmt (k.slot fa.toNat)) (slotFmt (k.slot fb.toNat))
  | .tmmas _ _ _ _ _ fa fb _ _ _ _ => pairOk (slotFmt (k.slot fa.toNat)) (slotFmt (k.slot fb.toNat))
  | .tdrain _ _ _ _ fd gd ge _ _ _ _ => decide (slotFmt (k.slot fd.toNat) ≤ 8) && (ge == 0 || bitAt k.gdmask gd.toNat)
  | _ => true

/-! ## Elements (R98, R104, R107, R325) -/

/-- The element at a position of a row in a pad (R98, R325). -/
def Block.element (b : Block) (fmt row pos : Nat) : Nat :=
  if fmt = 1 then leNat (b.padRead (row + 3 * (pos / 4)) 3) / 2 ^ (6 * (pos % 4)) % 64
  else let z := fmtBits fmt / 8; leNat (b.padRead (row + z * pos) z)

/-- The row scale of a slot, 1.0 where absent (R104). -/
def Block.rowScale (b : Block) (f i : Nat) : Num :=
  if slotScale f % 2 = 1 then bf16.dec (leNat (b.padRead (16 * slotSoff f + 2 * i) 2)) else .fin false 1 0

/-- The column scale of a slot, 1.0 where absent (R104). -/
def Block.colScale (b : Block) (f j : Nat) : Num :=
  if 2 ≤ slotScale f then bf16.dec (leNat (b.padRead (16 * slotSoff f + (if slotScale f = 3 then 256 else 0) + 2 * j) 2))
  else .fin false 1 0

/-- The scale vectors that a slot reads, as they stand in the pad (R104). -/
def Block.scaleBytes (b : Block) (f : Nat) : List Byte := if slotScale f = 0 then [] else b.padRead (16 * slotSoff f) 512

/-- The row scale of a slot among its scale vectors, 1.0 where absent (R104). -/
def rowScaleOf (f : Nat) (m : List Byte) (i : Nat) : Num :=
  if slotScale f % 2 = 1 then bf16.dec (leNat ((m.drop (2 * i)).take 2)) else .fin false 1 0

/-- The column scale of a slot among its scale vectors, 1.0 where absent (R104). -/
def colScaleOf (f : Nat) (m : List Byte) (j : Nat) : Num :=
  if 2 ≤ slotScale f then bf16.dec (leNat ((m.drop ((if slotScale f = 3 then 256 else 0) + 2 * j)).take 2)) else .fin false 1 0

/-- The value q that a drain converts and a guard sees (R107). An INT32 element 0 has no sign and is taken as +0, so that a negative
scale makes -0 of it. (DESIGN CHOICE, log entry 110) -/
def drainValue (f : Nat) (ci : Bool) (a : Word) (sa sb : Num) : Num :=
  let v := if ci then Num.ofInt a.toInt else fp32.dec a.toNat
  if slotScale f = 0 then v
  else
    let p := fp32.dec (fp32.rnd .rne (sa.mul sb))
    fp32.dec (fp32.rnd .rne (v.mul p))

/-- The element that a drain makes of an accumulator element (R107, R465): with a failed CLAMP guard the bound, converted
by R90, R96 or R87, takes its place. -/
def drainElement (f : Nat) (ci : Bool) (a : Word) (sa sb : Num) (clampTo : Option Nat) : Nat :=
  let d := slotFmt f
  let rm := rmode (slotRnd f) .rne
  match clampTo with
  | some x => convertTo d (slotSat f) rm (fp32.dec x)
  | none =>
    if slotScale f = 0 ∧ ci ∧ fmtIsInt d then narrowInt d (slotSat f) a.toInt
    else convertTo d (slotSat f) rm (drainValue f ci a sa sb)

/-! ## Issue (R331) -/

/-- The tiles that an instruction names: An first. -/
def tileNames : Instr → List Nat
  | .tzero _ _ an _ _ => [an.toNat]
  | .tmma _ _ _ _ an _ _ ch am _ _ _ _ => if ch = 1 then [an.toNat, am.toNat] else [an.toNat]
  | .tmmas _ _ _ _ an _ _ _ _ _ _ => [an.toNat]
  | .tdrain _ _ _ an _ _ _ _ _ _ _ => [an.toNat]
  | _ => []

/-- The MISALIGN checks of a record (R328, R330). -/
def recordAligned (k : Kernel) (ins : Instr) (r : List Word) : Bool :=
  let w := recWord r
  let op (base pitch fmt n : Nat) : Bool := decide (base % 128 = 0) && decide (pitch % 128 = 0) && decide (rowBytes fmt n ≤ pitch)
  match ins with
  | .tmma _ _ _ kc _ fa fb ch _ _ _ _ _ =>
    (if ch = 1 then decide (w 0 % tileK kc = 0) && decide (w 0 < 128) else op (w 0) (w 1) (slotFmt (k.slot fa.toNat)) (tileK kc)) &&
      op (w 2) (w 3) (slotFmt (k.slot fb.toNat)) (tileK kc)
  | .tmmas _ _ _ kc _ fa fb _ _ _ sl =>
    op (w 0) (w 1) (slotFmt (k.slot fa.toNat)) (tileK kc / 2) && op (w 2) (w 3) (slotFmt (k.slot fb.toNat)) (tileK kc) &&
      decide (w 4 % 16 = 0) && decide (w 5 % 16 = 0) && decide ((sl.toNat + 1) * (tileK kc / 8) ≤ w 5)
  | .tdrain _ _ _ _ fd _ _ _ _ _ _ => op (w 0) (w 1) (slotFmt (k.slot fd.toNat)) 128
  | _ => true

/-- The number of words in an operand record (R326). -/
def recLen : Instr → Nat
  | .tmma .. => 4 | .tmmas .. => 6 | .tdrain .. => 2 | _ => 0

/-- The words of an operand record that an instruction reads; with CH = 1 that of S[d+1] is not read (R326, R330). -/
def recordOf (ins : Instr) (get : Nat → Word) : List Word :=
  let skip (i : Nat) : Bool := match ins with
    | .tmma _ _ _ _ _ _ _ ch _ _ _ _ _ => ch == 1 && i == 1
    | _ => false
  (List.range (recLen ins)).map fun i => if skip i then 0 else get i

/-- The core on whose matrix unit an operation is queued: that of its block, none while the block is away (R323, R331). -/
def State.tileCore (s : State) (o : TileOp) : Option Nat :=
  (s.blocks[o.bid]?).bind fun b => if b.bst = .placed then some b.coreNo else none

/-- The operations in the queue of a core's matrix unit that are not complete (R331). -/
def State.unitOps (s : State) (core : Nat) : Nat := (s.tileOps.filter fun o => o.open' && s.tileCore o == some core).length

/-- TZERO, TMMA, TMMAS and TDRAIN at issue (R331): the checks in order, a wait for room, then the operation enters the
queue of the matrix unit of the handle's core. -/
def State.tileIssue (s : State) (g : BitVec 4) (d a : BitVec 8) (k : BitVec 4) (e : BitVec 1) (ins : Instr) : State :=
  if !s.uguard g then s.advanceU
  else match s.issue.who with
    | .group _ => s.trapU .illegalEncoding 0
    | .stream sid =>
      match (s.streams[sid]?).bind fun x => (s.kernels[x.kid]?).map fun kr => (x, kr) with
      | none => s
      | some (x, kr) =>
        let h := x.u.getS a.toNat
        match s.handleTarget sid h with
        | .bad => s.trapU .padBounds 0
        | .wait => s.waitU
        | .block bid =>
          let pz := ((s.blocks[bid]?).map (·.padsz)).getD 0
          let r := recordOf ins fun i => x.u.getS (d.toNat + i)
          if (tileNames ins).any fun n => decide (kr.accn ≤ n) then s.trapU .padBounds 0
          else if !recordAligned kr ins r then s.trapU .misalign (recWord r 0)
          else match (tileFoot kr ins r).find? fun f => decide (pz < f.1 + f.2 + 128) with
            | some f => s.trapU .padBounds f.1
            | none =>
              if e = 1 ∧ (s.word bid k.toNat).init = false then s.trapU .barrierMisuse 0
              else
                let core := ((s.blocks[bid]?).map (·.coreNo)).getD 0
                let mine := (s.tileOps.filter fun o => o.open' && o.sid == sid).length
                if 8 ≤ s.unitOps core ∨ 32 ≤ mine ∨ (e = 1 ∧ 63 < s.outstanding bid k.toNat + 1) then s.waitU
                else
                  let o : TileOp := { sid := sid, bid := bid, ins := ins, handle := h, rec_ := r, prog := 0, ost := .queued, cause := 0,
                                      started := false, rgHit := none, tainted := false, acquired := false, scales := [], seq := x.tileSeq, phase := none, slot := none }
                  (({ s with tileOps := s.tileOps ++ [o] }).modStream sid fun x => { x with tileSeq := x.tileSeq + 1 }).unwaitU.advanceU

/-- TZERO (R331, R332). -/
def execTzero (g : BitVec 4) (a : BitVec 8) (an k : BitVec 4) (e : BitVec 1) (s : State) : Out :=
  .next (s.tileIssue g 0 a k e (.tzero g a an k e))

/-- TMMA (R331, R333). -/
def execTmma (g : BitVec 4) (d a : BitVec 8) (kc : BitVec 2) (an : BitVec 4) (fa fb : BitVec 3) (ch : BitVec 1) (am k : BitVec 4)
    (e z ci : BitVec 1) (s : State) : Out :=
  .next (s.tileIssue g d a k e (.tmma g d a kc an fa fb ch am k e z ci))

/-- TMMAS (R327, R331, R333). -/
def execTmmas (g : BitVec 4) (d a : BitVec 8) (kc : BitVec 2) (an : BitVec 4) (fa fb : BitVec 3) (k : BitVec 4) (e z : BitVec 1)
    (sl : BitVec 2) (s : State) : Out :=
  .next (s.tileIssue g d a k e (.tmmas g d a kc an fa fb k e z sl))

/-- TDRAIN (R331, R334). -/
def execTdrain (g : BitVec 4) (d a : BitVec 8) (an : BitVec 4) (fd : BitVec 3) (gd : BitVec 4) (ge ci : BitVec 1) (k : BitVec 4)
    (e z : BitVec 1) (s : State) : Out :=
  .next (s.tileIssue g d a k e (.tdrain g d a an fd gd ge ci k e z))

/-- TFENCE (R336): pads are read in issue order here, so the fence takes its issue clock and nothing more.
(DESIGN CHOICE, log entry 21) -/
def execTfence (_g : BitVec 4) (s : State) : Out := .next s.advanceU

/-- The operations that TWAIT and TSTAT select (R338): of the stream, all or those that name An of the handle's block. -/
def State.selected (s : State) (sid : Nat) (all : BitVec 1) (bid : Option Nat) (an : BitVec 4) : List TileOp :=
  s.tileOps.filter fun o => o.sid == sid && o.open' && (all == 1 || (some o.bid == bid && (tileNames o.ins).contains an.toNat))

/-- The image of a stream taken at a TWAIT.all of a ROLLBACK launch, into the slot that does not hold the latest (R467); the interval
of a rollback ends with it. (DEDUCED, log entry 54) -/
def State.snapStream (s : State) (sid : Nat) : State :=
  match (s.streams[sid]?).bind fun x => (s.kernels[x.kid]?).map (·.rollback) with
  | some true => s.modStream sid fun x =>
      { x with replay := [], snapWriting := some { pc := x.pc, u := x.u, rstack := x.rstack, hcsp := x.hcsp, tps := x.tps, tileSeq := x.tileSeq, logAt := x.log.length, at_ := none } }
  | _ => s

/-- The completions of a stream's operations that TWAIT has waited for are acquired (R246, R338). -/
def State.acquireWaited (s : State) (sid : Nat) (all : BitVec 1) (bid : Option Nat) (an : BitVec 4) : State :=
  s.acquireTiles fun o => o.sid == sid && (all == 1 || (some o.bid == bid && (tileNames o.ins).contains an.toNat))

/-- TWAIT (R338). (DEDUCED, log entry 54) -/
def execTwait (g : BitVec 4) (a : BitVec 8) (all : BitVec 1) (an : BitVec 4) (s : State) : Out :=
  .next (if !s.uguard g then s.advanceU
    else match s.issue.who with
      | .group _ => s.trapU .illegalEncoding 0
      | .stream sid =>
        let go (bid : Option Nat) : State := (((s.acquire (s.accOf (.stream sid)) 1).acquireWaited sid all bid an).unwaitU).advanceU
        if all = 1 then
          if s.selected sid all none an = [] then (go none).snapStream sid else s.waitU
        else match s.streams[sid]? with
          | none => s
          | some x => match s.handleTarget sid (x.u.getS a.toNat) with
            | .bad => s.trapU .padBounds 0
            | .wait => s.waitU
            | .block bid => if s.selected sid all (some bid) an = [] then go (some bid) else s.waitU)

/-- A RANGE_GUARD from a drain awaits delivery to a stream: of a drain that is complete, or of one whose TRAP guard has been hit and
that goes on (R335, R339, R342). -/
def State.guardWaits (s : State) (sid : Nat) (x : Stream) : Bool :=
  x.rgWait.isSome || s.tileOps.any fun o => o.sid == sid && o.open' && o.rgHit.isSome

/-- TSTAT (R339). -/
def execTstat (g la : BitVec 4) (d a : BitVec 8) (all : BitVec 1) (an : BitVec 4) (s : State) : Out :=
  .next (if !s.uguard g then s.advanceU
    else match s.issue.who with
      | .group _ => s.trapU .illegalEncoding 0
      | .stream sid =>
        match s.streams[sid]? with
        | none => s
        | some x =>
          let go (bid : Option Nat) : State :=
            let l := s.selected sid all bid an
            let v := l.length + 256 * (l.filter (·.started)).length + 2 ^ 16 * b2n (s.guardWaits sid x)
            ((s.modStream sid fun x => { x with u := x.u.late la.toNat [(d.toNat, BitVec.ofNat 32 v)] [] }).unwaitU).advanceU
          if all = 1 then go none
          else match s.handleTarget sid (x.u.getS a.toNat) with
            | .bad => s.trapU .padBounds 0
            | .wait => s.waitU
            | .block bid => go (some bid))

/-! ## Products (R99 to R101, R327, R333) -/

/-- The A elements of one chunk for output row i as (position kk, value) pairs; under sparse A the kept elements at their
positions, and the rest contribute one +0 product (R327, R330, R333). -/
def chunkA (b : Block) (k : Kernel) (o : TileOp) (i c : Nat) : List (Option Nat × Num × Int) :=
  let r := recWord o.rec_
  match o.ins with
  | .tmma _ _ _ _ _ fa _ ch am _ _ _ ci =>
    let f := k.slot fa.toNat
    let fmt := slotFmt f
    (List.range 16).map fun q =>
      let kk := 16 * c + q
      let x := if ch = 1 then drainElement f (ci == 1) (tileGet (b.tile am.toNat) i (r 0 + kk)) (b.rowScale f i) (b.colScale f (r 0 + kk)) none
        else b.element fmt (r 0 + i * r 1) kk
      (some kk, elementNum fmt x, elementInt fmt x)
  | .tmmas _ _ _ kc _ fa _ _ _ _ sl =>
    let fmt := slotFmt (k.slot fa.toNat)
    let str := leNat (b.padRead (r 4 + i * r 5 + sl.toNat * (tileK kc / 8)) (tileK kc / 8))
    (none, .zero false, 0) :: (List.range 8).map fun q =>
      let e := 8 * c + q
      let p := bitsOf str (2 * e) 2
      let x := b.element fmt (r 0 + i * r 1) e
      (some (4 * (e / 2) + p), elementNum fmt x, elementInt fmt x)
  | _ => []

/-- The format of B of a product. -/
def fmtB (k : Kernel) : Instr → Nat
  | .tmma _ _ _ _ _ _ fb _ _ _ _ _ _ => slotFmt (k.slot fb.toNat)
  | .tmmas _ _ _ _ _ _ fb _ _ _ _ => slotFmt (k.slot fb.toNat)
  | _ => 0

/-- One element of the accumulator after a chunk (R100, R101). -/
def chunkElement (b : Block) (k : Kernel) (o : TileOp) (row : List (Option Nat × Num × Int)) (j : Nat) (acc : Word) : Word :=
  let r := recWord o.rec_
  let fb := fmtB k o.ins
  let bx (kk : Nat) : Nat := b.element fb (r 2 + j * r 3) kk
  if fb = 2 ∨ fb = 3 then
    acc + BitVec.ofInt 32 (row.foldl (fun n (x : Option Nat × Num × Int) => match x.1 with
      | some kk => n + x.2.2 * elementInt fb (bx kk)
      | none => n) 0)
  else
    let prods := row.map fun (x : Option Nat × Num × Int) => match x.1 with
      | some kk => x.2.1.mul (elementNum fb (bx kk))
      | none => Num.zero false
    let sum := match prods with
      | [] => Num.zero false
      | p :: rest => rest.foldl (fun n q => n.add .rne q) p
    let t := fp32.dec (fp32.rnd .rne sum)
    BitVec.ofNat 32 (fp32.rnd .rne ((fp32.dec acc.toNat).add .rne t))

/-- The destination tile, whether it is zeroed first, and the chunks of a product. -/
def productOf : Instr → Option (Nat × Bool × Nat)
  | .tmma _ _ _ kc an _ _ _ _ _ _ z _ => some (an.toNat, z == 1, tileK kc / 16)
  | .tmmas _ _ _ kc an _ _ _ _ z _ => some (an.toNat, z == 1, tileK kc / 16)
  | _ => none

/-- The context of an operation. -/
def State.ctxOfTile (s : State) (o : TileOp) : Nat := s.ctxOf (.stream o.sid)

/-- A matrix unit goes on with an operation: its block is placed and its context runs. -/
def State.tileRuns (s : State) (o : TileOp) : Bool :=
  ((s.blocks[o.bid]?).map fun b => b.bst == .placed && b.trigger.isNone).getD false && (s.ctx (s.ctxOfTile o)).st == .running

/-- The operation is the oldest not complete that is aimed at a resident block of its core (R323). -/
def State.tileFirst (s : State) (oid : Nat) (o : TileOp) : Bool :=
  (indices oid fun i => match s.tileOps[i]? with
    | some x => x.open' && (s.tileCore x).isSome && s.tileCore x == s.tileCore o
    | none => false) == []

/-- The scale vectors of a drain as it starts; a later store of its own does not change what it reads (R328). -/
def State.drainScales (s : State) (o : TileOp) : List Byte :=
  match o.ins, s.blocks[o.bid]?, s.kernelOf o.bid with
  | .tdrain _ _ _ _ fd _ _ _ _ _ _, some b, some k => b.scaleBytes (k.slot fd.toNat)
  | _, _, _ => []

/-- TILE_OP_START (R322): a queued operation starts; TZERO zeroes its tile as one step (R332). -/
def execTileOpStart (oid : Nat) (s : State) : Out :=
  match s.tileOps[oid]? with
  | none => .next s
  | some o =>
    if o.ost ≠ .queued ∨ s.tileRuns o = false ∨ s.tileFirst oid o = false then .next s
    else
      let scales := if o.started then o.scales else s.drainScales o
      let s := s.modTile oid fun o => { o with ost := .running, started := true, scales := scales }
      .next (match o.ins with
        | .tzero _ _ an _ _ => s.modBlock o.bid fun b => { b with tiles := b.tiles.set an.toNat [], tilePoison := b.tilePoison.filter (· != an.toNat) }
        | _ => s)

/-- The bytes of n elements of a row from a position (R98, R325). -/
def elemBytes (fmt row pos n : Nat) : Nat × Nat :=
  if fmt = 1 then (row + 3 * (pos / 4), 3 * n / 4) else (row + fmtBits fmt / 8 * pos, fmtBits fmt / 8 * n)

/-- The pad bytes that the next step of an operation reads: the columns of one chunk of A, of its metadata and of B, and the scale
vectors, which a drain reads as it starts (R104, R327, R328, R333, R334). -/
def stepReads (k : Kernel) (o : TileOp) : List (Nat × Nat) :=
  let r := recWord o.rec_
  let c := o.prog
  let rows (fmt base pitch pos n : Nat) : List (Nat × Nat) := (List.range 128).map fun i => elemBytes fmt (base + i * pitch) pos n
  match o.ins with
  | .tmma _ _ _ _ _ fa fb ch _ _ _ _ _ =>
    (if ch = 1 then scaleFoot (k.slot fa.toNat) else rows (slotFmt (k.slot fa.toNat)) (r 0) (r 1) (16 * c) 16) ++
      rows (slotFmt (k.slot fb.toNat)) (r 2) (r 3) (16 * c) 16
  | .tmmas _ _ _ kc _ fa fb _ _ _ sl =>
    rows (slotFmt (k.slot fa.toNat)) (r 0) (r 1) (8 * c) 8 ++ rows (slotFmt (k.slot fb.toNat)) (r 2) (r 3) (16 * c) 16 ++
      (List.range 128).map fun i => (r 4 + i * r 5 + sl.toNat * (tileK kc / 8) + 2 * c, 2)
  | .tdrain _ _ _ _ fd _ _ _ _ _ _ => if c = 0 then scaleFoot (k.slot fd.toNat) else []
  | _ => []

/-- The tiles that the next step of an operation reads: with Z = 1 the first chunk does not read its accumulator (R330, R333). -/
def stepTiles (o : TileOp) : List Nat :=
  match o.ins with
  | .tmma _ _ _ _ an _ _ ch am _ _ z _ => (if o.prog = 0 ∧ z = 1 then [] else [an.toNat]) ++ (if ch = 1 then [am.toNat] else [])
  | .tmmas _ _ _ _ an _ _ _ _ z _ => if o.prog = 0 ∧ z = 1 then [] else [an.toNat]
  | .tdrain _ _ _ an _ _ _ _ _ _ _ => [an.toNat]
  | _ => []

/-- The uncorrectable error in tile and pad storage that the next step of an operation consumes, as it is reported (R341, R376). -/
def State.tileError (s : State) (k : Kernel) (o : TileOp) : Option ErrorReport :=
  (s.blocks[o.bid]?).bind fun b =>
    let bad := (stepTiles o).any fun n => b.tilePoison.contains n
    let badPad := b.padPoison.any fun p => (stepReads k o).any fun f => overlaps p 4 f.1 f.2
    if bad || badPad then
      some { mkError 6 2 b.die b.clu (some (s.ctxOfTile o)) 0 with bid := some o.bid, place := .tile o.bid ((tileNames o.ins).headD 0) }
    else none

/-- A step of an operation: an error that it consumes is reported, and one whose consumption ends what the operation does stops
it there with its cause (R341, R376). -/
def State.tileStep (s : State) (k : Kernel) (oid : Nat) (o : TileOp) (act : State → State) : State :=
  match s.tileError k o with
  | none => act s
  | some e =>
    if s.ends e then (s.report e).modTile oid fun o => { o with ost := .stopped, cause := Cause.poison.code }
    else act (s.report e)

/-- TILE_CHUNK (R333): one chunk of 16 of a product is accumulated; an operation whose storage was raced leaves free
values in its tile (R340). (DEDUCED, log entry 23) -/
def execTileChunk (oid : Nat) (s : State) : Out :=
  match s.tileOps[oid]? with
  | none => .next s
  | some o =>
    match s.blocks[o.bid]?, s.kernelOf o.bid, productOf o.ins with
    | some b, some k, some (an, z, n) =>
      if o.ost ≠ .running ∨ s.tileRuns o = false ∨ n ≤ o.prog then .next s
      else
        .next (s.tileStep k oid o fun s =>
        let old := if o.prog = 0 ∧ z then [] else b.tile an
        let rows := (List.range 128).map fun i => chunkA b k o i o.prog
        let fr := s.free
        let t := if o.tainted then freeTile fr
          else tileOf fun i j => chunkElement b k o ((rows[i]?).getD []) j (tileGet old i j)
        let s := if o.tainted then { s with free := fr + 16384 } else s
        -- with Z = 1 the first chunk overwrites the tile
        let clear (l : List Nat) : List Nat := if o.prog = 0 ∧ z then l.filter (· != an) else l
        ((s.modBlock o.bid fun b => { b with tiles := b.tiles.set an t, tilePoison := clear b.tilePoison }).modTile oid fun o => { o with prog := o.prog + 1 }).bump
          (s.ctxOfTile o) 8 (128 * 128 * 16))
    | _, _, _ => .next s

/-! ## Drains (R334, R335, R465) -/

/-- The bytes of one drained row (R98, R325). -/
def rowOut (fmt : Nat) (xs : List Nat) : List Byte :=
  if fmt = 1 then
    (List.range (xs.length / 4)).flatMap fun q =>
      leBytes 3 ((List.range 4).foldl (fun n i => n + ((xs[4 * q + i]?).getD 0) % 64 * 2 ^ (6 * i)) 0)
  else xs.flatMap fun x => leBytes (fmtBits fmt / 8) x

/-- The elements of a drained row, with whether the guard failed for each (R107, R464, R465). -/
def drainRow (m : List Byte) (k : Kernel) (f : Nat) (ci : Bool) (guard : Option Nat) (t : List (Nat × Word)) (i : Nat) : List (Nat × Bool) :=
  (List.range 128).map fun j =>
    let a := tileGet t i j
    let sa := rowScaleOf f m i
    let sb := colScaleOf f m j
    match guard with
    | none => (drainElement f ci a sa sb none, false)
    | some n =>
      let q := drainValue f ci a sa sb
      let c := k.guardClamp n q
      (drainElement f ci a sa sb (if k.gdact n % 4 = 1 then c else none), c.isSome)

/-- TILE_ROW_GROUP (R334): 16 rows of a drain are converted and written; destination bytes that lie in the scale vectors
that the drain reads take free values (R328), as do those of a raced drain (R340). -/
def execTileRowGroup (oid : Nat) (s : State) : Out :=
  match s.tileOps[oid]? with
  | none => .next s
  | some o =>
    match s.blocks[o.bid]?, s.kernelOf o.bid, o.ins with
    | some b, some k, .tdrain _ _ _ an fd gd ge ci _ _ z =>
      if o.ost ≠ .running ∨ s.tileRuns o = false ∨ 8 ≤ o.prog then .next s
      else
        .next (s.tileStep k oid o fun s =>
        let f := k.slot fd.toNat
        let r := recWord o.rec_
        let guard := if ge = 1 then some gd.toNat else none
        let rows := (List.range 16).map fun q =>
          let i := 16 * o.prog + q
          (r 0 + i * r 1, drainRow o.scales k f (ci == 1) guard (b.tile an.toNat) i)
        let hit := rows.any fun x => x.2.any (·.2)
        let act := k.gdact gd.toNat % 4
        let s := if hit then s.setGdflag (.stream o.sid) gd.toNat else s
        if hit ∧ act = 3 then (s.askRollback o.bid (.guard (.stream o.sid) 0 gd.toNat))
        else
          let fr := s.free
          let sc := scaleFoot f
          let spoil (off : Nat) : Bool := o.tainted || sc.any fun x => overlaps off 1 x.1 x.2
          let s := { s with free := fr + 16 * 512 }
          let s := (rows.zipIdx).foldl (fun s x =>
            let d := (rowOut (slotFmt f) (x.1.2.map (·.1))).mapIdx fun n v => if spoil (x.1.1 + n) then freeByte (fr + 512 * x.2 + n) else v
            s.modBlock o.bid fun b => b.padWrite x.1.1 d) s
          let s := s.modTile oid fun o => { o with prog := o.prog + 1, rgHit := if hit ∧ act = 2 then some gd.toNat else o.rgHit }
          if o.prog = 7 ∧ z = 1 then s.modBlock o.bid fun b => { b with tiles := b.tiles.set an.toNat [], tilePoison := b.tilePoison.filter (· != an.toNat) } else s)
    | _, _, _ => .next s

/-- The steps that an operation has to make. -/
def tileSteps : Instr → Nat
  | .tdrain .. => 8
  | i => match productOf i with
    | some (_, _, n) => n
    | none => 0

/-- A running operation whose last step is made is complete: its arrival with E = 1, at CLUSTER scope, and the RANGE_GUARD of a
drain, which its stream takes before its next instruction (R335, R337). Of two drains whose guards have hit before that instruction the
stream takes one RANGE_GUARD, for the guard of the first (DESIGN CHOICE, log entry 109). A race has left free values in the result
(R340). -/
def State.completeTile (s : State) (oid : Nat) : State :=
  match s.tileOps[oid]? with
  | none => s
  | some o =>
    if o.ost ≠ .running ∨ o.prog < tileSteps o.ins then s
    else
      let phase := o.word.bind fun k => (s.blocks[o.bid]?).map fun b => b.arrivalPhase k
      let s := s.modTile oid fun o => { o with ost := .complete, phase := phase }
      let s := match (if o.tainted then s.kernelOf o.bid else none) with
        | some k => s.spoilResult k o
        | none => s
      let s := match o.rgHit with
        | some n => s.modStream o.sid fun x => { x with rgWait := some (x.rgWait.getD n) }
        | none => s
      match o.word with
      | some k => s.engineArrive o.bid k 1
      | none => s

/-- The operations that a test names stop at their chunk or row group; those whose last step is made, a started TZERO among
them, are complete (R342). -/
def State.stopTiles (s : State) (p : TileOp → Bool) : State :=
  let s := (List.range s.tileOps.length).foldl (fun s i => if (s.tileOps[i]?).any p then s.completeTile i else s) s
  { s with tileOps := s.tileOps.map fun (o : TileOp) => if (o.ost = .queued ∨ o.ost = .running) ∧ p o = true then { o with ost := .stopped } else o }

/-- TILE_OP_COMPLETE (R337). -/
def execTileOpComplete (oid : Nat) (s : State) : Out :=
  match s.tileOps[oid]? with
  | none => .next s
  | some o =>
    .next (if s.tileRuns o then s.completeTile oid else s)

end Sys2Proof.Machine
end

