-- ==== Sys2Proof/Machine/GateOps.lean ====
section
/-! DEFINITION. Gates: the gate instructions, their rights, tokens and waits, and the commands of GATECMD
(chapter 18). -/

namespace Sys2Proof.Machine

/-! ## Rights and tokens -/

/-- One entry of a gate changed. -/
def Gate.modEntry (g : Gate) (e : Nat) (f : GateEntry → GateEntry) : Gate := { g with entries := g.entries.modify e f }

/-- The stamp of the wait of the agent that issues, if it waits (R190). -/
def State.waitStamp (s : State) : Option Nat :=
  let w : Option Wait := match s.issue.who with
    | .group _ => ((s.issue.lanes.head?).bind fun l => s.thread? l.1 l.2).map (·.wait)
    | .stream sid => (s.streams[sid]?).map (·.wait)
  match w with
  | some (.uni k _) => some k
  | _ => none

/-- What a gate operation meets before it enters gate order (R431). -/
inductive GateRes where
  | trap (c : Cause)
  | wait
  | enter (entry : Nat)
  deriving DecidableEq, Repr

/-- A stalled operation leaves the queue of its gate (R428). -/
def State.unstall (s : State) (gi : Nat) (q : Option Stalled) : State :=
  match q with
  | some q => s.modGate gi fun g => { g with stalled := g.stalled.erase q }
  | none => s

/-- The stalled operation of the agent that issues at a gate. -/
def State.stalledOf (s : State) (gi : Nat) : Option Stalled :=
  (s.gate gi).stalled.find? fun q => q.who == s.issue.who && some q.stamp == s.waitStamp

/-- The token check (R428): operations that wait on one entry are served in arrival order; an entry of RATE 0 charges nothing
(R494). -/
def State.gateToken (s : State) (gi e : Nat) : State × GateRes :=
  let g := s.gate gi
  let x := (g.entries[e]?).getD GateEntry.zero
  let mine := s.stalledOf gi
  let ahead := match (g.stalled.filter (·.entry == e)).head? with
    | some q => mine != some q
    | none => false
  if x.rate = 0 then (s.unstall gi mine, .enter e)
  else if 0 < x.tokens ∧ ahead = false then
    ((s.unstall gi mine).modGate gi fun g => g.modEntry e fun x => { x with tokens := x.tokens - 1 }, .enter e)
  else if g.resp then
    ((s.unstall gi mine).modGate gi fun g => g.modEntry e fun x => { x with faults := min 65535 (x.faults + 1) }, .trap .gateRate)
  else match mine with
    | some _ => (s, .wait)
    | none =>
      let q : Stalled := { who := s.issue.who, stamp := s.waitStamp.getD s.hub.stamp, entry := e, since := s.clockOn (s.accOf s.issue.who).die }
      (s.modGate gi fun g => { g.modEntry e fun x => { x with stalls := min 65535 (x.stalls + 1) } with stalled := g.stalled ++ [q] }, .wait)

/-- The checks of a gate operation up to its token (R431): GATE_ABSENT, GATE_DENIED, a wait while the gate is FROZEN. -/
def State.gateRights (s : State) (gi need : Nat) : GateRes :=
  let g := s.gate gi
  let part := (s.ctx (s.ctxOf s.issue.who)).part
  match g.gst with
  | .free => .trap .gateAbsent
  | st => match g.entryOf part with
    | none => .trap .gateDenied
    | some e => if (g.rightsOf part) &&& need ≠ need then .trap .gateDenied else if st = .frozen then .wait else .enter e

/-- The agent that issues waits for a FROZEN gate to be OPEN again (R426). -/
def State.waitOpen (s : State) (gi : Nat) : State :=
  let q := (s.issue.who, s.waitStamp.getD s.hub.stamp)
  (s.modGate gi fun g => { g with waiting := if g.waiting.contains q then g.waiting else g.waiting ++ [q] }).waitU

/-- The agent that issues waits for the gate no longer (R426). -/
def State.endOpen (s : State) (gi : Nat) : State :=
  s.modGate gi fun g => { g with waiting := g.waiting.filter fun q => !(q.1 == s.issue.who && some q.2 == s.waitStamp) }

/-- The gate index of an instruction (R431). -/
def UFile.gateIx (u : UFile) (a : BitVec 8) : Nat := (u.getS a.toNat).toNat % 65536

/-- A gate operation performed: the counter GATEOPS and the log of a rollback (R434, R468). -/
def State.gateDone (s : State) (kind gi : Nat) (vals : List Word) : State :=
  ((s.bump (s.ctxOf s.issue.who) 10 1).logOp s.issue.who none (8 + kind) gi vals).unwaitU.advanceU

/-- A gate instruction other than GWAIT and GQUERY (R431): replayed from the log of a rollback, or checked, charged and
performed by `act`, which gives the words that the log keeps. -/
def State.gateOp (s : State) (g : BitVec 4) (a : BitVec 8) (kind need : Nat) (act : State → UFile → Nat → State × List Word)
    (again : List Word → UFile → UFile) : State :=
  match s.ufile s.issue.who with
  | none => s
  | some u =>
    if !u.guard g then s.advanceU
    else
      let gi := u.gateIx a
      match s.replayOp s.issue.who none (8 + kind) gi with
      | (s, .result vals) => (s.modU s.issue.who (again vals)).unwaitU.advanceU
      | (s, .perform) =>
        match s.gateRights gi need with
        | .trap c => ((s.endOpen gi).unstall gi (s.stalledOf gi)).trapU c 0
        | .wait => s.waitOpen gi
        | .enter e => match (s.endOpen gi).gateToken gi e with
          | (s, .trap c) => s.trapU c 0
          | (s, .wait) => s.waitU
          | (s, .enter _) => let (s, vals) := act s u gi; s.gateDone kind gi vals

/-- A parked GWAIT leaves its park in the step that makes SEQ reach its threshold: the acquire of R430 item 4 for its agent, the
counter and the log, and the agent stands after the instruction (R432, R434, R468). -/
def State.leavePark (s : State) (gi : Nat) (q : Parked) : State :=
  let s := s.modGate gi fun g => { g with parked := g.parked.erase q }
  (((s.acquireGate (s.accOf q.who) gi).bump (s.ctxOf q.who) 10 1).logOp q.who none 9 gi []).leaveWait q.who q.stamp

/-- The parked GWAITs whose threshold SEQ has reached leave their park, oldest first (R432). -/
def State.wakeParked (s : State) (gi : Nat) : State :=
  ((s.gate gi).parked.filter fun q => decide (q.t ≤ (s.gate gi).seq)).foldl (fun s q => s.leavePark gi q) s

/-- SEQ raised by one, saturating, after the release of R430 item 3; the GWAITs that it satisfies leave their park (R432). -/
def State.gateSignal (s : State) (gi : Nat) : State :=
  ((s.releaseGate (s.accOf s.issue.who) gi).modGate gi fun g => { g with seq := if g.seq = BitVec.allOnes 64 then g.seq else g.seq + 1 }).wakeParked gi

/-- The acquire of R430 item 4. -/
def State.gateAcquire (s : State) (gi : Nat) : State := s.acquireGate (s.accOf s.issue.who) gi

/-- GSIG (R432). -/
def execGsig (g : BitVec 4) (a : BitVec 8) (s : State) : Out :=
  .next (s.gateOp g a 0 8 (fun s _ gi => (s.gateSignal gi, [])) fun _ u => u)

/-- GWAIT (R431, R432): parks while SEQ is below the threshold, and stays parked until a step of gate order or a change of its entry
ends that (`leavePark`, `recheckParked`). -/
def execGwait (g : BitVec 4) (a sb : BitVec 8) (s : State) : Out :=
  .next (match s.ufile s.issue.who with
    | none => s
    | some u =>
      if !u.guard g then s.advanceU
      else
        let gi := u.gateIx a
        let t := u.getS2 sb.toNat
        match s.replayOp s.issue.who none 9 gi with
        | (s, .result _) => s.unwaitU.advanceU
        | (s, .perform) =>
          let mine := (s.gate gi).parked.find? fun q => q.who == s.issue.who && some q.stamp == s.waitStamp
          let pass (s : State) : State := (s.gateAcquire gi).gateDone 1 gi []
          if mine.isSome then s.waitU
          else match s.gateRights gi 4 with
          | .trap c => ((s.endOpen gi).unstall gi (s.stalledOf gi)).trapU c 0
          | .wait => s.waitOpen gi
          | .enter e =>
            match (s.endOpen gi).gateToken gi e with
              | (s, .trap c) => s.trapU c 0
              | (s, .wait) => s.waitU
              | (s, .enter e) =>
                if t ≤ (s.gate gi).seq then pass s
                else
                  let q : Parked := { who := s.issue.who, stamp := s.waitStamp.getD s.hub.stamp, entry := e, t := t }
                  (s.modGate gi fun x => { x with parked := x.parked ++ [q] }).waitU)

/-- GTRY (R432). -/
def execGtry (g la : BitVec 4) (d a : BitVec 8) (qd : BitVec 3) (sb : BitVec 8) (s : State) : Out :=
  let put (vals : List Word) (u : UFile) : UFile :=
    u.late la.toNat [(d.toNat, vals.getD 0 0), (d.toNat + 1, vals.getD 1 0)] [(qd.toNat, vals.getD 2 0 == 1)]
  .next (s.gateOp g a 2 4 (fun s u gi =>
    let seq := (s.gate gi).seq
    let ok := decide (u.getS2 sb.toNat ≤ seq)
    let vals := [pairLo seq, pairHi seq, if ok then 1 else 0]
    (((if ok then s.gateAcquire gi else s)).modU s.issue.who (put vals), vals)) put)

/-- GPOST (R432). -/
def execGpost (g : BitVec 4) (a : BitVec 8) (sig : BitVec 1) (wd : BitVec 3) (sb : BitVec 8) (s : State) : Out :=
  .next (s.gateOp g a 3 (if sig = 1 then 10 else 2) (fun s u gi =>
    let s := s.modGate gi fun x => { x with pay := x.pay.set wd.toNat (u.getS2 sb.toNat) }
    (if sig = 1 then s.gateSignal gi else s, [])) fun _ u => u)

/-- GREAD (R432). -/
def execGread (g la : BitVec 4) (d a : BitVec 8) (wd : BitVec 3) (s : State) : Out :=
  let put (vals : List Word) (u : UFile) : UFile := u.late la.toNat [(d.toNat, vals.getD 0 0), (d.toNat + 1, vals.getD 1 0)] []
  .next (s.gateOp g a 4 1 (fun s _ gi =>
    let p := ((s.gate gi).pay[wd.toNat]?).getD 0
    (s.modU s.issue.who (put [pairLo p, pairHi p]), [pairLo p, pairHi p])) put)

/-- The value of a GQUERY selector (R433). -/
def Gate.query (x : Gate) (part sl : Nat) : Nat :=
  match x.gst, (x.entryOf part).bind fun e => x.entries[e]? with
  | .free, _ => 0
  | _, none => 0
  | st, some e => match sl with
    | 0 => (if st = .opened then 1 else 2) + 16 * e.rights.toNat + 256 * b2n x.resp
    | 1 => e.tokens + 256 * e.burst.toNat
    | 2 => x.seq.toNat % 2 ^ 32
    | 3 => x.seq.toNat / 2 ^ 32
    | _ => x.parked.length

/-- GQUERY (R433): no token and no right. -/
def execGquery (g la : BitVec 4) (d a : BitVec 8) (sl : BitVec 3) (s : State) : Out :=
  .next (match s.ufile s.issue.who with
    | none => s
    | some u =>
      if !u.guard g then s.advanceU
      else
        let gi := u.gateIx a
        let put (w : Word) (s : State) : State := s.modU s.issue.who fun u => u.late la.toNat [(d.toNat, w)] []
        match s.replayOp s.issue.who none 13 gi with
        | (s, .result vals) => (put (vals.getD 0 0) s).advanceU
        | (s, .perform) =>
          let w := BitVec.ofNat 32 ((s.gate gi).query (s.ctx (s.ctxOf s.issue.who)).part sl.toNat)
          (put w s).gateDone 5 gi [w])

/-! ## Tokens and stalls -/

/-- The ticks between two tokens of an entry (R428). -/
def GateEntry.period (x : GateEntry) : Nat := 1000000 / x.rate.toNat * 12

/-- The current round of the clock contains a multiple of a period of ticks. -/
def State.crosses (s : State) (period : Nat) : Bool := decide (0 < period) && s.tick / period != (s.tick - 10) / period

/-- GATE_TOKEN (R428): at a multiple of its period a bucket gains a token, up to BURST. -/
def execGateToken (g e : Nat) (s : State) : Out :=
  match (s.gate g).entries[e]? with
  | none => .next s
  | some x =>
    if x.valid ∧ x.rate ≠ 0 ∧ s.crosses x.period then
      .next (s.modGate g fun y => y.modEntry e fun x => { x with tokens := min x.burst.toNat (x.tokens + 1) })
    else .next s

/-- A cause of class H raised at the instruction of an agent that waits under a stamp. -/
def State.trapWaiting (s : State) (who : Agent) (stamp : Nat) (c : Cause) : State :=
  match who with
  | .stream sid => s.standStream sid c false 0
  | .group gid => match s.groups[gid]? with
    | none => s
    | some g => (indices g.threads.length fun t => match g.threads[t]? with
        | some th => th.wait.stamp == some stamp
        | none => false).foldl (fun s t => s.standAt gid t c false 0) s

/-- A token is there for a stalled operation: its entry holds one for each operation up to it (R428). -/
def Gate.tokenFor (g : Gate) (q : Stalled) : Bool :=
  let line := g.stalled.filter fun o => o.entry == q.entry
  decide ((line.takeWhile (· != q)).length < ((g.entries[q.entry]?).map (·.tokens)).getD 0)

/-- An agent goes on waiting in its instruction: its context runs, and its block is not being stopped alone (R428). -/
def State.stalls (s : State) (who : Agent) : Bool :=
  (s.ctx (s.ctxOf who)).st == .running && (match (s.bidOf who).bind (s.blocks[·]?) with
    | some b => b.halt.isNone
    | none => true)

/-- GATE_STALL_TIMEOUT (R428): the stalled operations of an agent that no token has reached within 10 µs raise GATE_RATE; a halt
withdraws a stall, and an entry of RATE 0 charges nothing (R494). -/
def execGateStallTimeout (who : Agent) (s : State) : Out :=
  let due (g : Gate) (q : Stalled) : Bool :=
    q.who == who && s.stalls who && decide (q.since + 10000 ≤ s.clockOn (s.accOf who).die) && !g.tokenFor q &&
      ((g.entries[q.entry]?).map (·.rate)).getD 0 != 0
  .next (s.gates.foldl (fun s x =>
    (x.2.stalled.filter fun q => due x.2 q).foldl (fun s q =>
      (s.modGate x.1 fun g => { g.modEntry q.entry fun y => { y with faults := min 65535 (y.faults + 1) } with stalled := g.stalled.erase q }).trapWaiting
        who q.stamp .gateRate) s) s)

/-! ## Management (R429, R435) -/

/-- STATUS of GATECMD (R429). -/
def State.gateStatus (s : State) (st : Nat) : State := s.modHub fun h => { h with gateSts := BitVec.ofNat 4 st }

/-- OPEN (R426). -/
def execGateOpen (g part : Nat) (s : State) : Out :=
  .next (if (s.gate g).gst = .free then (s.modGate g fun _ => { Gate.free with gst := .opened, owner := part }).gateStatus 2
    else s.gateStatus 3)

/-- A gate becomes FREE: the operations parked, stalled or waiting on it raise GATE_ABSENT at their own instructions (R426). -/
def State.freeGate (s : State) (g : Nat) : State :=
  let x := s.gate g
  (x.parked.map (fun q => (q.who, q.stamp)) ++ x.stalled.map (fun q => (q.who, q.stamp)) ++ x.waiting).foldl
    (fun s q => s.trapWaiting q.1 q.2 .gateAbsent) (s.modGate g fun _ => Gate.free)

/-- CLOSE (R426). -/
def execGateClose (g : Nat) (s : State) : Out :=
  .next (if (s.gate g).gst = .free then s.gateStatus 3 else (s.freeGate g).gateStatus 2)

/-- A change to an entry of a gate is checked again by every parked GWAIT: one whose partition no longer holds WAIT raises GATE_DENIED
(R427). -/
def State.recheckParked (s : State) (gi : Nat) : State :=
  ((s.gate gi).parked.filter fun q => !bitAt ((s.gate gi).rightsOf (s.ctx (s.ctxOf q.who)).part) 2).foldl (fun s q =>
    (s.modGate gi fun g => { g with parked := g.parked.erase q }).trapWaiting q.who q.stamp .gateDenied) s

/-- SETACL (R427, R429). -/
def execSetacl (g e : Nat) (arg : Word) (s : State) : Out :=
  let x := s.gate g
  let v := arg.getLsbD 31
  let part := bitsOf arg.toNat 26 5
  let burst := BitVec.ofNat 8 (bitsOf arg.toNat 14 8)
  let dup := (indices 8 fun i => i != e && (match x.entries[i]? with
    | some y => y.valid && y.part == part
    | none => false)) != []
  .next (if x.gst = .free then s.gateStatus 3
    else if dup then s.gateStatus 4
    else if v ∧ burst = 0 then s.gateStatus 5
    else ((s.modGate g fun y => y.modEntry e fun _ =>
      { valid := v, part := part, rights := BitVec.ofNat 4 (bitsOf arg.toNat 22 4), burst := burst, rate := BitVec.ofNat 14 arg.toNat,
        tokens := burst.toNat, faults := 0, stalls := 0 }).recheckParked g).gateStatus 2)

/-- SETRESP (R429). -/
def execSetresp (g : Nat) (resp : Bool) (s : State) : Out :=
  .next (if (s.gate g).gst = .free then s.gateStatus 3 else (s.modGate g fun y => { y with resp := resp }).gateStatus 2)

/-- An entry as the words at 0x50 + 16e (R425). -/
def GateEntry.words (x : GateEntry) : List Byte :=
  leBytes 4 (b2n x.valid * 2 ^ 31 + x.part * 2 ^ 26 + x.rights.toNat * 2 ^ 22 + x.burst.toNat * 2 ^ 14 + x.rate.toNat) ++
    leBytes 4 x.tokens ++ leBytes 4 (x.faults * 2 ^ 16 + x.stalls) ++ leBytes 4 0

/-- The 256-byte record of a gate (R425). -/
def Gate.record (x : Gate) : List Byte :=
  let st := match x.gst with
    | .free => 0 | .opened => 1 | .frozen => 2
  leBytes 4 (st * 2 ^ 14 + b2n x.resp * 2 ^ 13 + x.owner) ++ leBytes 4 x.parked.length ++ leBytes 8 x.seq.toNat ++
    x.pay.flatMap (fun p => leBytes 8 p.toNat) ++ x.entries.flatMap GateEntry.words ++ List.replicate 48 0

/-- The entry of a waiter in a gate image (R435). -/
def State.waiterEntry (s : State) (q : Parked) : List Byte :=
  match q.who with
  | .stream _ => leBytes 8 (s.ctxOf q.who + 0xFFFF * 2 ^ 16) ++ leBytes 8 q.t.toNat
  | .group gid =>
    let g := s.groups[gid]?
    let h := ((g.bind fun g => s.blocks[g.bid]?).map Block.handle).getD 0
    leBytes 8 (s.ctxOf q.who + ((g.map (·.grpix)).getD 0) * 2 ^ 16 + h * 2 ^ 32) ++ leBytes 8 q.t.toNat

/-- The 4 KiB image of a gate: the record, the count in 16 bytes, the waiters (R435). (DEDUCED, log entry 24) -/
def State.gateImage (s : State) (x : Gate) : List Byte :=
  let b := x.record ++ leBytes 16 x.parked.length ++ x.parked.flatMap s.waiterEntry
  b.take 4096 ++ List.replicate (4096 - b.length) 0

/-- EXPORT (R435): the gate is FROZEN and its image is written at GATEPA. (DESIGN CHOICE, log entry 100) -/
def execExportGate (g : Nat) (s : State) : Out :=
  .next (if (s.gate g).gst ≠ .opened then s.gateStatus 3
    else
      let s := s.modGate g fun y => { y with gst := .frozen }
      (s.cohWrite (hubAcc noCtx 0) s.hub.gatepa.toNat (s.gateImage (s.gate g))).gateStatus 2)

/-- A gate read from a record (R425, R435): OPEN, its waiters gone. -/
def Gate.ofRecord (b : List Byte) : Gate :=
  let f (off n : Nat) : Nat := leNat ((b.drop off).take n)
  { gst := .opened, resp := bitAt (f 0 4) 13, owner := f 0 4 % 32, seq := BitVec.ofNat 64 (f 8 8),
    pay := (List.range 8).map fun i => BitVec.ofNat 64 (f (0x10 + 8 * i) 8),
    entries := (List.range 8).map fun e =>
      let a := f (0x50 + 16 * e) 4
      let c := f (0x58 + 16 * e) 4
      { valid := bitAt a 31, part := bitsOf a 26 5, rights := BitVec.ofNat 4 (bitsOf a 22 4), burst := BitVec.ofNat 8 (bitsOf a 14 8),
        rate := BitVec.ofNat 14 a, tokens := f (0x54 + 16 * e) 4 % 256, faults := c / 2 ^ 16, stalls := c % 2 ^ 16 },
    parked := [], stalled := [], waiting := [] }

/-- IMPORT (R435): a FREE gate opens with the state of the image at GATEPA. (DESIGN CHOICE, log entry 100) -/
def execImportGate (g : Nat) (s : State) : Out :=
  .next (if (s.gate g).gst ≠ .free then s.gateStatus 3
    else (s.modGate g fun _ => Gate.ofRecord (s.cohBytes s.hub.gatepa.toNat 256)).gateStatus 2)

end Sys2Proof.Machine
end

