-- ==== Sys2Proof/Machine/Kernel.lean ====
section
/-! DEFINITION. Kernels, launch records, queues, event counters and the hang watchdog (chapters 08 and 09). -/

namespace Sys2Proof.Machine

/-! ## Contexts and queues at work -/

/-- A context's queues are served and its blocks run: READY or RUNNING (R206, R373). (DEDUCED, log entry 15) -/
def Ctx.active (c : Ctx) : Bool := c.st == .ready || c.st == .running

/-- A kernel that has neither completed nor been discarded. -/
def Kernel.open' (k : Kernel) : Bool := k.kst != .complete && k.kst != .discarded

/-- The kernels that hold an entry of a queue, oldest first (R209, R210). -/
def State.entries (s : State) (ctx q : Nat) : List Nat :=
  indices s.kernels.length fun i => match s.kernels[i]? with
    | some k => k.ctx == ctx && k.queue == q && k.inQueue && k.open'
    | none => false

/-- A queue of a context. -/
def State.queue (s : State) (ctx q : Nat) : Queue := ((s.ctx ctx).queues[q]?).getD Queue.closed

/-- A queue changed. -/
def State.modQueue (s : State) (ctx q : Nat) (f : Queue → Queue) : State :=
  s.modCtx ctx fun c => { c with queues := c.queues.modify q f }

/-- FREE of a queue (R206, R207). -/
def State.queueFree (s : State) (ctx q : Nat) : Nat := if (s.queue ctx q).opened then 64 - (s.entries ctx q).length else 0

/-- STATE of a queue: 0 CLOSED, 1 OPEN, 2 ACTIVE, 3 PAUSED (R206, R207). (DEDUCED, log entry 15) -/
def State.queueState (s : State) (ctx q : Nat) : Nat :=
  if !(s.queue ctx q).opened then 0 else if !(s.ctx ctx).active then 3 else if s.entries ctx q = [] then 1 else 2

/-- A record committed as the youngest entry of a queue (R209, R213). -/
def State.commitRecord (s : State) (ctx q : Nat) (record : List Byte) (parent : Option Nat) (grants : Option (List Grant)) : State :=
  let k : Kernel :=
    { ctx := ctx, queue := q, inQueue := true, record := record, kst := .queued, parent := parent,
      parentGrants := grants, positions := [], code := 0, retired := 0, faulted := 0, prio := 0 }
  { s with kernels := s.kernels ++ [k] }

/-- QUEUE_PORT_BEAT (R208): a beat is gathered, and the beat at 0x1C0 commits or discards the record; the free entries are first
those of the LAUNCHes that wait (R219). A write of another size or offset leaves the beats gathered so far.
(DESIGN CHOICE, log entry 92) -/
def execQueuePortBeat (ctx q off : Nat) (data : List Byte) (s : State) : Out :=
  let x := s.queue ctx q
  .next (if !x.opened then s
    else if data.length ≠ 64 ∨ off % 64 ≠ 0 ∨ 512 ≤ off then s.modQueue ctx q fun x => { x with torn := true }
    else
      let beats := tset x.beats (off / 64) data
      if off ≠ 0x1C0 then s.modQueue ctx q fun x => { x with beats := beats }
      else
        let clear (t o : Bool) (s : State) : State := s.modQueue ctx q fun x => { x with beats := [], torn := x.torn || t, qovf := x.qovf || o }
        if beats.length ≠ 8 then clear true false s
        else if s.queueFree ctx q ≤ x.waiting.length then clear false true s
        else clear false false (s.commitRecord ctx q (beats.flatMap (·.2)) none none))

/-! ## Event counters (R217) -/

/-- An event counter. -/
def Ctx.event (c : Ctx) (n : Nat) : BitVec 48 := (tfind c.events n).getD 0

/-- An EVWAIT waits on a counter with a threshold that a value reaches. -/
def EvWait.meets (w : EvWait) (n : Nat) (v : BitVec 48) : Bool := w.ev == n && decide (w.t ≤ v)

/-- An event counter set; one at 0 is not listed. The EVWAITs whose threshold it reaches are satisfied in that step, oldest first: each
performs its acquire at PART scope, and its agent goes on after it (R221, R222). -/
def State.setEvent (s : State) (ctx n : Nat) (v : BitVec 48) : State :=
  ((s.ctx ctx).evwaits.filter (·.meets n v)).foldl (fun s w => (s.acquire (s.accOf w.who) 3).leaveWait w.who w.stamp)
    (s.modCtx ctx fun c =>
      { c with events := if v = 0 then tdel c.events n else tset c.events n v, evwaits := c.evwaits.filter fun w => !w.meets n v })

/-- A number added to a counter, saturating (R217). -/
def State.addEvent (s : State) (ctx n add : Nat) : State :=
  s.setEvent ctx n (BitVec.ofNat 48 (min (2 ^ 48 - 1) (((s.ctx ctx).event n).toNat + add)))

/-- EVENT_COUNTER_WRITE (R217); a FREE context has no counters. -/
def execEventCounterWrite (ctx n : Nat) (v : BitVec 64) (s : State) : Out :=
  .next (if (s.ctx ctx).st = .free then s else s.setEvent ctx (n % 256) (v.setWidth 48))

/-! ## LAUNCH, QSTAT, EVSIG, EVWAIT (R218 to R222) -/

/-- The pieces of n bytes at an address, each within 64 aligned bytes: its address and length. -/
def alignedPieces (va n : Nat) : List (Nat × Nat) :=
  (List.range (n / 64 + 1)).filterMap fun i =>
    let lo := max va (64 * (va / 64 + i))
    let hi := min (va + n) (64 * (va / 64 + i + 1))
    if lo < hi then some (lo, hi - lo) else none

/-- The bytes of a launch record read as loads read them, piece by piece, up to the first that is not performed. -/
def State.readRecord (s : State) (a : Acc) (bid : Option Nat) : List (Nat × Nat) → State × LaneEnd × List Byte
  | [] => (s, .done, [])
  | (va, n) :: rest =>
    match s.lookRead a .read va n false bid with
    | (s, .fault c) => (s, .trap c va, [])
    | (s, .wait) => (s, .wait, [])
    | (s, .poison) => (s, .poison, [])
    | (s, .ok pa e) =>
      let (s, b) := s.readPa a e pa n 0 false bid
      match s.readRecord a bid rest with
      | (s, r, l) => (s, r, b ++ l)

/-- The LAUNCHes that are before one in the order of arrival at its queue: those that wait with an older stamp, or all where it does not
wait yet (R219). -/
def Queue.ahead (x : Queue) (stamp : Option Nat) : Nat :=
  match stamp.bind fun k => x.waiting.idxOf? k with
  | some i => i
  | none => x.waiting.length

/-- The grants of a kernel that may hold those of a record it launches (R346). -/
def Kernel.snapshotGrants (k : Kernel) : List Grant :=
  ((List.range 13).map k.grant ++ [k.grant 15, k.codeGrant]).filter (·.tag)

/-- LAUNCH (R219). -/
def execLaunch (g : BitVec 4) (a : BitVec 8) (q gr : BitVec 4) (s : State) : Out :=
  .next (match s.ufile s.issue.who with
    | none => s
    | some u =>
      if !u.guard g then s.advanceU
      else
        let ctx := s.ctxOf s.issue.who
        let x := s.queue ctx q.toNat
        let off := (u.getS a.toNat).toNat
        let grant := u.getG gr.toNat
        let ac := s.accOf s.issue.who
        let va := grant.base + off
        let leave (s : State) : State := s.modQueue ctx q.toNat fun x => { x with waiting := match s.waitStamp with
          | some k => x.waiting.erase k
          | none => x.waiting }
        match s.replayOp s.issue.who none 4 va with
        | (s, .result _) => s.unwaitU.advanceU
        | (s, .perform) =>
          if !x.opened then (leave s).trapU .priv 0
          else match grantCheck ac grant grant.rd off 512 with
            | some c => (leave s).trapU c va
            | none =>
              if off % 64 ≠ 0 then (leave s).trapU .misalign va
              else
                -- a LAUNCH that waits, for an entry or in its read, keeps its place among those that an entry is reserved for
                let stay (s : State) : State :=
                  if s.waitStamp.any x.waiting.contains then s.waitU
                  else
                    let stamp := s.waitStamp.getD s.hub.stamp
                    (s.modQueue ctx q.toNat fun x => { x with waiting := x.waiting ++ [stamp] }).waitU
                if s.queueFree ctx q.toNat ≤ x.ahead s.waitStamp then stay s
                else
                  let s := s.release ac 3
                  match s.readRecord ac (s.bidOf s.issue.who) (alignedPieces va 512) with
                  | (s, .trap c v, _) => (leave s).trapU c v
                  | (s, .wait, _) => stay s
                  | (s, .later, _) => stay s
                  | (s, .poison, _) => leave s
                  | (s, .done, bytes) =>
                    let kid := s.kidOf s.issue.who
                    let gs := (s.kernels[kid]?).map Kernel.snapshotGrants
                    (((leave s).commitRecord ctx q.toNat bytes (some kid) gs).logOp s.issue.who none 4 va []).unwaitU.advanceU)

/-- QSTAT (R220). -/
def execQstat (g la : BitVec 4) (d : BitVec 8) (q : BitVec 4) (s : State) : Out :=
  .next (s.uniOp g fun i u =>
    let ctx := s.ctxOf i.who
    let x := s.queue ctx q.toNat
    u.late la.toNat [(d.toNat, BitVec.ofNat 32 (s.queueFree ctx q.toNat + 256 * s.queueState ctx q.toNat + 2 ^ 11 * b2n x.torn +
      2 ^ 12 * b2n x.qovf))] [])

/-- EVSIG (R221). -/
def execEvsig (g : BitVec 4) (a : BitVec 8) (set : BitVec 1) (sb : BitVec 8) (s : State) : Out :=
  .next (match s.ufile s.issue.who with
    | none => s
    | some u =>
      if !u.guard g then s.advanceU
      else
        let ctx := s.ctxOf s.issue.who
        let n := (u.getS a.toNat).toNat % 256
        match s.replayOp s.issue.who none 5 n with
        | (s, .result _) => s.advanceU
        | (s, .perform) =>
          let s := s.release (s.accOf s.issue.who) 3
          let s := if set = 1 then s.setEvent ctx n ((u.getS2 sb.toNat).setWidth 48) else s.addEvent ctx n (u.getS sb.toNat).toNat
          (s.logOp s.issue.who none 5 n []).advanceU)

/-- EVWAIT (R222): it is satisfied by the counter as it stands, with an acquire at PART scope, or waits until a change of the counter
satisfies it (`State.setEvent`). -/
def execEvwait (g : BitVec 4) (a sb : BitVec 8) (s : State) : Out :=
  .next (match s.ufile s.issue.who with
    | none => s
    | some u =>
      if !u.guard g then s.advanceU
      else
        let ctx := s.ctxOf s.issue.who
        let t : BitVec 48 := (u.getS2 sb.toNat).setWidth 48
        let n := (u.getS a.toNat).toNat % 256
        if t ≤ (s.ctx ctx).event n then (s.acquire (s.accOf s.issue.who) 3).unwaitU.advanceU
        else if (s.ctx ctx).evwaits.any fun w => w.who == s.issue.who && some w.stamp == s.waitStamp then s.waitU
        else (s.modCtx ctx fun c =>
          { c with evwaits := c.evwaits ++ [{ who := s.issue.who, stamp := s.waitStamp.getD s.hub.stamp, ev := n, t := t }] }).waitU)

/-! ## GDCHK (R466) -/

/-- GDCHK (R466). -/
def execGdchk (g : BitVec 4) (d a : BitVec 8) (op : BitVec 2) (n : BitVec 4) (arg : BitVec 16) (s : State) : Out :=
  .next (s.uniOp g fun i u =>
    match op.toNat with
    | 0 => u.putQ arg.toNat (((s.kernels[s.kidOf i.who]?).map fun k => k.guardPass n.toNat (fp32.dec (u.getS a.toNat).toNat)).getD false)
    | 1 => u.putS d.toNat (u.gdflag.setWidth 32)
    | _ => { u.putS d.toNat (u.gdflag.setWidth 32) with gdflag := u.gdflag &&& ~~~arg })

/-! ## Admission (R200) -/

/-- The bytes of a record at an offset are zero. -/
def Kernel.zeroAt (k : Kernel) (off n : Nat) : Bool := k.fld off n == 0

/-- The sixteen bytes of a grant in the record. -/
def Kernel.rawGrant (k : Kernel) (n : Nat) : Nat := k.fld (if n = 15 then 0x1E0 else 0x110 + 16 * n) 16

/-- Check 1: version, zero fields, reserved bits, BRES (R192 to R194, R200). (DEDUCED, log entry 33) -/
def Kernel.recordOk (k : Kernel) : Bool :=
  k.fld 0 2 == 1 && decide (k.flags < 16) && k.zeroAt 0x017 1 && bitsOf k.gmask 13 2 == 0 && decide (k.signal < 512) &&
    ((List.range 4).all fun i => let w := k.waitCond i; bitsOf w 9 7 == 0 && (bitAt w 8 || w == 0)) &&
    ((List.range 16).all fun i => decide (k.gdact i < 4)) && k.zeroAt 0x0F8 8 && k.zeroAt 0x1F0 16 &&
    (((List.range 13) ++ [15]).all fun i => if bitAt k.gmask i then bitsOf (k.rawGrant i) 123 5 == 0 else k.rawGrant i == 0) &&
    bitsOf (k.fld 0x100 16) 123 5 == 0 && decide (k.pool < 2 ^ 22) && k.pool % 32 == 0 && decide (k.bres ≤ 64)

/-- Check 5 (R20). (DEDUCED, log entry 33) -/
def poolOk (pool : Nat) : Bool :=
  let vru := bitsOf pool 16 6
  let padu := bitsOf pool 10 6
  let accn := bitsOf pool 5 5
  decide (4 ≤ vru) && decide (vru ≤ 32) && decide (1 ≤ padu) && decide (padu ≤ 44) && decide (accn ≤ 16) &&
    decide (vru + padu + accn ≤ 48) && decide (pool < 2 ^ 22) && pool % 32 == 0

/-- The slot units of a block (R198). -/
def Kernel.units (k : Kernel) : Nat := if k.width < 32 then (k.ngrp + 32 / k.width - 1) / (32 / k.width) else k.ngrp

/-- Blocks that the slots of an empty core can hold: u mod 4 spreads the units over quadrants of 48 slots (R17, R198). -/
def Kernel.blocksBySlots (k : Kernel) : Nat :=
  let perQ := (k.units + 3) / 4 * (if k.width = 64 then 2 else 1)
  48 / max 1 perQ

/-- Blocks of a kernel that an empty core holds under R21 and the limits of registers and slots (R198, R200). -/
def Kernel.perCore (k : Kernel) : Nat :=
  let pool := (48 - k.vru) / (k.padu + k.accn)
  let tiles := if k.accn = 0 then 48 else 16 / k.accn
  let regs := k.vru * 65536 / (4 * k.vregs0 * k.width * k.ngrp)
  min (min pool tiles) (min regs k.blocksBySlots)

/-- Check 8 (R103). -/
def slotOk (f : Nat) : Bool := decide (f % 16 < 9) && decide (bitsOf f 6 3 < 6) && !(bitsOf f 4 2 == 0 && bitsOf f 10 22 != 0)

/-- Check 9 of one guard. -/
def Kernel.guardOk (k : Kernel) (n : Nat) : Bool :=
  if bitAt k.gdmask n then
    let lo := fp32.dec (k.gdlo n)
    let hi := fp32.dec (k.gdhi n)
    lo != .nan && hi != .nan && lo.cmp hi != .gt && !(k.gdact n == 3 && !k.rollback)
  else k.gdlo n == 0 && k.gdhi n == 0 && k.gdact n == 0

/-- A grant lies within one grant of the issuing kernel (R346). -/
def Grant.within (g p : Grant) : Bool :=
  decide (p.base ≤ g.base) && decide (g.base + g.len ≤ p.base + p.len) && (g.perms &&& p.perms) == g.perms && g.ge == p.ge && g.gi == p.gi

/-- Check 10 of one present grant (R346). -/
def Kernel.grantOk (k : Kernel) (part : Nat) (g : Grant) : Bool :=
  g.part == part && g.ctxNo == k.ctx && decide (g.base + g.len ≤ 2 ^ 57) && (!g.ge || bitAt k.gdmask g.gi) &&
    (match k.parentGrants with
      | some ps => ps.any g.within
      | none => true)

/-- A unit counts as a partition's own, lent or coming back (R421). -/
def UnitRec.ownedBy (u : UnitRec) (p : Nat) : Bool :=
  u.owner == p && (u.cond == 1 || u.cond == 2 || u.cond == 3 || (u.cond == 4 && (u.after == 2 || u.after == 3 || u.after == 5)))

/-- The clusters of a spoke that a partition owns, lent ones counted (R200, R202): the smaller of the counts before and
after a shift of clusters in progress. -/
def State.ownedClusters (s : State) (part spoke : Nat) : Nat :=
  let mine := indices 9 fun c => match s.clusters[9 * spoke + c]? with
    | some u => u.ownedBy part
    | none => false
  match (s.part part).shift with
  | some { what := 1, unit_ := .cluster d c, .. } => if d = spoke then (mine.erase c).length else mine.length
  | _ => mine.length

/-- The bytes of a snapshot image of a block of a kernel (R471). -/
def Kernel.imageBytes (k : Kernel) : Nat :=
  let grp := 64 + 768 + 264 + 128 + k.width * (4 + 4 * k.vregs0)
  (0x240 + k.padu * 65536 + k.accn * 65536 + k.ngrp * grp + 4095) / 4096 * 4096

/-- The stage sets of one position that can be resident at once. -/
def Kernel.residentSets (k : Kernel) : Nat :=
  let n := min (4 * k.perCore / k.nstage) k.ncoord
  if k.bres = 0 then n else min n k.bres

/-- The blocks of one position that can be resident at once: its sets are placed whole, and its blocks retire one by one (R198,
R203). -/
def Kernel.residentBlocks (k : Kernel) : Nat :=
  let n := min (4 * k.perCore) (k.ncoord * k.nstage)
  if k.bres = 0 then n else min n (k.bres * k.nstage)

/-- The first failed check of R200, 0 if every check passes; `cva` answers check 15. (DEDUCED, log entry 33) -/
def State.admissionCode (s : State) (k : Kernel) (cva : Bool) : Nat :=
  let part := (s.ctx k.ctx).part
  let p := s.part part
  let present := ((List.range 13 ++ [15]).filter fun i => bitAt k.gmask i).map k.grant ++ [k.codeGrant]
  let e (x : Word) : Bool := decide (x.toNat % 4 = 0) && decide (x.toNat < k.codeGrant.len)
  let hasC := k.centry != 0xFFFFFFFF
  if !k.recordOk then 0x01
  else if k.dieset = 0 ∨ (k.dieList.any fun i => ((p.spoke i).map fun d => (s.die d).st == .failed).getD true) ∨ k.nclu = 0 ∨ 9 < k.nclu then 0x02
  else if k.nstage = 0 ∨ 8 < k.nstage ∨ ([8, 16, 32, 64] : List Nat).contains k.width = false ∨ k.ngrp = 0 ∨ ([0, 1, 2].any fun i => k.nblk i == 0) then 0x03
  else if 2048 < k.ngrp * k.width then 0x04
  else if !poolOk k.pool then 0x05
  else if k.vregs0 % 8 ≠ 0 ∨ k.vregs0 < 8 ∨ 128 < k.vregs0 ∨ k.vru * 65536 < 4 * k.vregs0 * k.width * k.ngrp then 0x06
  else if 4 * k.perCore < k.nstage then 0x07
  else if !((List.range 8).all fun i => slotOk (k.slot i)) then 0x08
  else if !((List.range 16).all k.guardOk) then 0x09
  else if !(present.all (k.grantOk part)) || !(k.grant 12 == Grant.null || (k.grant 12).perms == 1) ||
      !(k.grant 15 == Grant.null || ((k.grant 15).rd && (k.grant 15).wr)) || !k.codeGrant.ex then 0x0A
  else if !e k.gentry || (hasC && !e k.centry) then 0x0B
  else if hasC ∧ k.accn = 0 then 0x0C
  else if k.resident ∧ ((k.dieList.any fun i => decide (s.ownedClusters part ((p.spoke i).getD 0) < k.nclu)) ∨ k.residentSets < k.ncoord) then 0x0D
  else if k.rollback ∧ p.ressz.toNat < k.residentBlocks * (k.ndie * k.nclu) * (2 * k.imageBytes + 65536) then 0x0E
  else if !cva then 0x0F
  else 0

/-- The heads that may move to ADMITTING (R211). -/
def State.eligibleHeads (s : State) : List Nat :=
  indices s.kernels.length fun i => match s.kernels[i]? with
    | none => false
    | some k =>
      let c := s.ctx k.ctx
      let older := (s.entries k.ctx k.queue).filter (· < i)
      k.kst == .queued && c.active && (s.queue k.ctx k.queue).opened &&
        (older.all fun j => match s.kernels[j]? with
          | some x => x.kst == .draining || x.kst == .rejected
          | none => true) &&
        ((List.range 4).all fun n => let w := k.waitCond n; !bitAt w 8 || decide (bitsOf w 16 48 ≤ (c.event (w % 256)).toNat)) &&
        (!k.tail || (match k.parent with
          | some p => ((s.kernels[p]?).map (·.kst)) == some .complete
          | none => true))

/-- The next of a rising list after a number, else the first (round-robin). -/
def nextAfter (l : List Nat) (x : Nat) : Option Nat :=
  match l.find? (x < ·) with
  | some y => some y
  | none => l.head?

/-- The priority of a kernel: that of its queue until it is admitted, then the one it was admitted with (R206, R212). -/
def State.prioOf (s : State) (k : Kernel) : Nat := if k.kst = .queued then (s.queue k.ctx k.queue).prio else k.prio

/-- The kernel that the CP serves first of some, with the round-robin pointers of the hub after it (R212). -/
def State.serveFirst (s : State) (hub : Hub) (hs : List Nat) : Option (Nat × Hub) :=
  let of' (i : Nat) : Nat × Nat := ((s.kernels[i]?).map fun k => (k.ctx, k.queue)).getD (0, 0)
  let part (i : Nat) : Nat := (s.ctx (of' i).1).part
  let prio (i : Nat) : Nat := ((s.kernels[i]?).map s.prioOf).getD 0
  let parts := indices 24 fun p => hs.any fun i => part i == p
  (nextAfter parts hub.rrPart).bind fun p =>
    let hs := hs.filter fun i => part i == p
    let top := hs.foldl (fun m i => max m (prio i)) 0
    let hs := hs.filter fun i => prio i == top
    let ctxs := (indices 4096 fun c => hs.any fun i => (of' i).1 == c)
    let (last, turns) := (tfind hub.rrCtx (8 * p + top)).getD (4096, 0)
    let stay := ctxs.contains last && decide (turns < max 1 (s.ctx last).weight.toNat)
    (if stay then some last else nextAfter ctxs last).bind fun c =>
      let hs := hs.filter fun i => (of' i).1 == c
      let qs := indices 16 fun q => hs.any fun i => (of' i).2 == q
      (nextAfter qs ((tfind hub.rrQueue (8 * c + top)).getD 16)).bind fun q =>
        (hs.find? fun i => (of' i).2 == q).map fun i =>
          (i, { hub with rrPart := p, rrCtx := tset hub.rrCtx (8 * p + top) (c, if stay then turns + 1 else 1),
                         rrQueue := tset hub.rrQueue (8 * c + top) q })

/-- The head that the CP admits next, with the hub after it (R212). -/
def State.chooseHead (s : State) : Option (Nat × Hub) := s.serveFirst s.hub s.eligibleHeads

/-- Kernels in the order in which the CP serves them, n at most (R212): those in DISPATCHING are served in it too.
(DEDUCED, log entry 73) -/
def State.serveOrder (s : State) : Nat → Hub → List Nat → List Nat
  | 0, _, _ => []
  | n + 1, hub, hs => match s.serveFirst hub hs with
    | none => []
    | some (i, hub) => i :: s.serveOrder n hub (hs.erase i)

/-- The kernels in DISPATCHING in the order in which they compete for space (R212). (DEDUCED, log entry 73) -/
def State.dispatchOrder (s : State) : List Nat :=
  match indices s.kernels.length fun i => match s.kernels[i]? with
    | some k => k.kst == .dispatching
    | none => false with
  | [] => []
  | [i] => [i]
  | l => s.serveOrder l.length s.hub l

/-- Check 15: the completion record's address is 0, or a multiple of 32 whose page is writable (R200). Its bits 63:57 take no part
in the translation. (DESIGN CHOICE, log entry 90) -/
def State.cvaOk (s : State) (k : Kernel) : State × Bool :=
  if k.cva = 0 then (s, true)
  else if k.cva % 32 ≠ 0 then (s, false)
  else match s.look (s.accAt k.ctx 12 0 none) .write k.cva with
    | (s, .fault _) => (s, false)
    | (s, _) => (s, true)

/-- KERNEL_ADMIT (R200, R211, R212): one eligible head is chosen and checked; it passes to DISPATCHING with its
positions, or is REJECTED with its code (R201). -/
def execKernelAdmit (s : State) : Out :=
  .next (match s.chooseHead with
    | none => s
    | some (kid, hub) =>
      match s.kernels[kid]? with
      | none => s
      | some k =>
        let s := { s with hub := hub }
        let (s', cva) := s.cvaOk k
        let code := s.admissionCode k cva
        -- check 15 is made only when the checks before it have passed
        let s := if code = 0 ∨ code = 0x0F then s' else s
        s.modKernel kid fun k =>
          let k := { k with prio := s.prioOf k }
          if code = 0 then { k with kst := .dispatching, positions := List.replicate (k.ndie * k.nclu) { bound := none, next := 0, since := none, freed := false } }
          else { k with kst := .rejected, code := code })

/-! ## Placement (R197, R198) -/

/-- The blocks that hold a core. -/
def State.coreBlocks (s : State) (core : Nat) : List Block := s.blocks.filter fun b => b.bst == .placed && b.coreNo == core

/-- The slots of a core that are in use (R17, R18). -/
def State.usedSlots (s : State) (core : Nat) : List Nat :=
  (s.groupsOn core).flatMap fun g => if g.width = 64 then [g.slot, g.slot + 1] else [g.slot]

/-- The bytes that pending GROWs on a core ask for (R181, R198). -/
def State.pendingBytes (s : State) (core : Nat) : Nat :=
  (s.groupsOn core).foldl (fun n g => match g.request with
    | some (_, r) => n + 4 * r * g.width
    | none => n) 0

/-- The pool, tile and division limits of R21 for one more block with a given pool division. -/
def State.poolRoom (s : State) (core vru padu accn : Nat) : Bool :=
  let bs := s.coreBlocks core
  let kOf (b : Block) : Nat := ((s.kernels[b.kid]?).map (·.vru)).getD 0
  (bs.all fun b => kOf b == vru) &&
    decide ((bs.foldl (fun n b => n + b.padsz / 65536 + b.tiles.length) 0) + padu + accn ≤ 48 - vru) &&
    decide ((bs.foldl (fun n b => n + b.tiles.length) 0) + accn ≤ 16)

/-- The slots of the units of a block, in order, on a core with some slots in use (R198). -/
def allocUnits (width : Nat) : List Nat → List Nat → Option (List Nat)
  | [], _ => some []
  | u :: rest, used =>
    let q := u % 4
    let free (x : Nat) : Bool := !used.contains x
    let cands := if width = 64 then indices 24 fun i => free (48 * q + 2 * i) && free (48 * q + 2 * i + 1) else indices 48 fun i => free (48 * q + i)
    match cands.head? with
    | none => none
    | some i =>
      let x := 48 * q + (if width = 64 then 2 * i else i)
      (allocUnits width rest (if width = 64 then x :: (x + 1) :: used else x :: used)).map (x :: ·)

/-- Groups that share a slot (R17). -/
def perSlot (width : Nat) : Nat := if width < 32 then 32 / width else 1

/-- The slot and first home lane of each group, from the slots of the units (R198). -/
def groupPlace (width : Nat) (slots : List Nat) (g : Nat) : Nat × Nat :=
  ((slots[g / perSlot width]?).getD 0, if width < 32 then width * (g % perSlot width) else 0)

/-- A thread at group entry (R118, R164). -/
def Thread.entry (vregs0 : Nat) (pc : Word) (slice : Nat) : Thread :=
  { v := List.replicate vregs0 0, p := 0, pc := pc, csp := slice, prog := 0, going := none, hcsp := none, launched := true, live := true, monitor := none,
    wait := .none, coll := none, pend := [], trap := TrapRec.zero, standing := none, tinsn := 0, tpack := 0, ready := 0 }

/-- The uniform registers at the entry of a group or stream (R118, R317, R465). -/
def Kernel.entryFile (k : Kernel) : UFile :=
  { s := List.replicate 192 0, q := 0, g := (List.range 16).map k.grant, gdflag := 0, pend := [] }

/-- A group at its entry (R118, R161). -/
def Kernel.entryGroup (k : Kernel) (bid g slot lane0 : Nat) : Group :=
  { bid := bid, grpix := g, width := k.width, slot := slot, lane0 := lane0, gst := .loading, full := false, vregs := k.vregs0,
    u := k.entryFile, tp := 0, arrBlk := false, arrClu := false, arrDie := false, bards := [],
    threads := List.replicate k.width (Thread.entry k.vregs0 k.gentry (k.slice (k.grant 15))) }

/-- A block as it is placed: zero pad, barrier words, shapes and tiles (R281, R300, R321). -/
def Kernel.entryBlock (k : Kernel) (kid coord stage pos die clu core : Nat) : Block :=
  { kid := kid, coord := coord, stage := stage, pos := pos, die := die, clu := clu, core := core, bst := .placed, halt := none, resAt := none,
    padsz := k.padu * 65536, pad := [], words := List.replicate 16 0, held := List.replicate 16 [], phases := List.replicate 16 0, shapes := List.replicate 16 none,
    tiles := List.replicate k.accn [], padPoison := [], tilePoison := [], snapLatest := none, snapWriting := none, log := [], replay := [],
    rollbacks := 0, covered := false, trigger := none, replaying := none, rebuilt := false }

/-- The slots for a block of a kernel on a core with room, none where it has none (R198). -/
def State.roomFor (s : State) (k : Kernel) (core bytes : Nat) : Option (List Nat) :=
  if s.poolRoom core k.vru k.padu k.accn && decide (s.fileUsed core + s.pendingBytes core + bytes ≤ k.vru * 65536) then
    allocUnits k.width (List.range k.units) (s.usedSlots core)
  else none

/-- One block of a kernel placed on the lowest core of a cluster that has room; its groups enter LOADING, after the
acquire of R249. -/
def State.placeBlock (s : State) (kid pos coord stage die clu : Nat) : Option State :=
  (s.kernels[kid]?).bind fun k =>
    (List.range 4).findSome? fun core =>
      let cn := coreNo die clu core
      (s.roomFor k cn (4 * k.vregs0 * k.width * k.ngrp)).map fun slots =>
        let bid := s.blocks.length
        let b := k.entryBlock kid coord stage pos die clu core
        let gs := (List.range k.ngrp).map fun g => let p := groupPlace k.width slots g; k.entryGroup bid g p.1 p.2
        let s := s.joinDie k.ctx die
        let s := { s with blocks := s.blocks ++ [b], groups := s.groups ++ gs }
        (s.takeSnapshot bid).acquire (s.accAt k.ctx die clu (some cn)) 3

/-- The resident blocks of a stage in a position (R198). -/
def State.resident (s : State) (kid pos stage : Nat) : Nat :=
  (s.blocks.filter fun b => b.kid == kid && b.pos == pos && b.stage == stage && !b.gone).length

/-- The next stage set of a position is held back by BRES alone (R198). -/
def State.bresFull (s : State) (kid pos : Nat) : Bool :=
  match s.kernels[kid]? with
  | some k => k.bres != 0 && (List.range k.nstage).any fun st => decide (k.bres ≤ s.resident kid pos st)
  | none => false

/-- The cluster that a position is bound to (R197). -/
def State.boundTo (s : State) (kid pos : Nat) : Option (Nat × Nat) := ((s.kernels[kid]?).bind fun k => k.positions[pos]?).bind (·.bound)

/-- Space on a cluster goes first to another position's waiting set, since blocks of that position have freed it (R198): unless the
position has such space of its own there, or a higher priority (R212). (DEDUCED, log entry 73) -/
def State.keptFrom (s : State) (kid pos die clu : Nat) : Bool :=
  let has (i p : Nat) : Bool := (((s.kernels[i]?).bind fun k => k.positions[p]?).map fun x => x.bound == some (die, clu) && x.freed).getD false
  let prio (i : Nat) : Nat := ((s.kernels[i]?).map s.prioOf).getD 0
  !has kid pos && (List.range s.kernels.length).any fun i =>
    ((s.kernels[i]?).any fun k => k.kst == .dispatching && (List.range k.positions.length).any fun p => (i != kid || p != pos) && has i p) &&
      decide (prio kid ≤ prio i)

/-- A stage set of a bound position placed whole, or nothing (R198). -/
def State.placeSet (s : State) (kid pos coord die clu : Nat) : Option State :=
  (s.kernels[kid]?).bind fun k =>
    if s.bresFull kid pos || s.keptFrom kid pos die clu then none
    else (List.range k.nstage).foldl (fun o st => o.bind fun s => s.placeBlock kid pos coord st die clu) (some s)

/-- A unit that a partition may use for placement: owned and not lent, or borrowed, committed and not under revocation; nothing new
is placed on a unit that a shift takes away (R197, R404, R410). -/
def State.usableCluster (s : State) (part d c : Nat) : Bool :=
  let out := match (s.part part).shift with
    | some sh => sh.unit_ == .cluster d c
    | none => false
  match s.clusters[9 * d + c]? with
  | some u => u.usable && !out && ((u.cond == 1 && u.owner == part) || (u.cond == 2 && u.borrower == part && u.taken))
  | none => false

/-- The streams of a cluster's cadence core that have not ended: a stream whose position has left the cluster is no longer there
(R407). -/
def State.streamsOn (s : State) (d c : Nat) : List Nat :=
  indices s.streams.length fun i => match s.streams[i]? with
    | some x => x.die == d && x.clu == c && (x.sst == .running || x.sst == .stopped) && s.boundTo x.kid x.pos == some (d, c)
    | none => false

/-- The cluster that a position binds (R197). A position that has lost its cluster binds another only when none of its blocks is still
placed there, so that all its blocks stay in one cluster (R15, R28, R407). (DEDUCED, log entry 32) -/
def State.findCluster (s : State) (kid pos : Nat) : Option (Nat × Nat) :=
  (s.kernels[kid]?).bind fun k =>
    let part := (s.ctx k.ctx).part
    if s.blocks.any fun b => b.kid == kid && b.pos == pos && b.bst == .placed then none
    else
    ((k.dieList[k.dieIx pos]?).bind (s.part part).spoke).bind fun d =>
      if (s.die d).st ≠ .serving then none
      else
        (indices 9 fun c => s.usableCluster part d c && (k.positions.all fun p => p.bound != some (d, c)) &&
          (k.centry == 0xFFFFFFFF || (s.streamsOn d c).all fun i => ((s.streams[i]?).map (·.kid)) == some kid)).head?.map (d, ·)

/-- A position changed. -/
def State.modPos (s : State) (kid pos : Nat) (f : Pos → Pos) : State :=
  s.modKernel kid fun k => { k with positions := k.positions.modify pos f }

/-- A cadence stream at its start (R317). -/
def Kernel.entryStream (k : Kernel) (kid pos die clu : Nat) : Stream :=
  { kid := kid, pos := pos, die := die, clu := clu, sst := .running, pc := k.centry, u := k.entryFile, rstack := [], hcsp := none, tps := [],
    tileSeq := 0, rgWait := none, wait := .none, trap := TrapRec.zero, standing := none, snapLatest := none, snapWriting := none,
    log := [], replay := [] }

/-- A position bound to a cluster, with the start of its stream (R197, R317). -/
def State.bindPos (s : State) (kid pos die clu : Nat) : State :=
  let s := s.modPos kid pos fun p => { p with bound := some (die, clu) }
  match s.kernels[kid]? with
  | some k =>
    if k.centry = 0xFFFFFFFF then s
    else if s.streams.any fun x => x.kid == kid && x.pos == pos then
      -- the stream of a position that is bound again goes on there once its context runs (R407, R452)
      let s := s.joinDie k.ctx die
      let on := (s.ctx k.ctx).active
      let back := indices s.streams.length fun i => (s.streams[i]?).any fun x => x.kid == kid && x.pos == pos && x.sst == .stopped
      back.foldl (fun s i => (s.modStream i fun x =>
        { x with sst := if on then .running else .stopped, die := die, clu := clu, wait := .none }).acquire (s.accAt k.ctx die clu none) 3) s
    else ({ s.joinDie k.ctx die with streams := s.streams ++ [k.entryStream kid pos die clu] }).acquire (s.accAt k.ctx die clu none) 3
  | none => s

/-- The first group or stream of a context makes it RUNNING (R373). -/
def State.startCtx (s : State) (ctx : Nat) : State := s.modCtx ctx fun c => if c.st = .ready then { c with st := .running } else c

/-- A position tried: bound if it is not, and its next stage set placed; none where there is no room. (DEDUCED, log entry 32) -/
def State.tryPlace (s : State) (kid pos : Nat) : Option State :=
  (s.kernels[kid]?).bind fun k => (k.positions[pos]?).bind fun p =>
    if k.ncoord ≤ p.next then none
    else
      let s? : Option (State × Nat × Nat) := match p.bound with
        | some (d, c) => some (s, d, c)
        | none =>
          -- positions bind in ascending order (R197)
          if (k.positions.take pos).all fun x => x.bound.isSome || decide (k.ncoord ≤ x.next) then
            (s.findCluster kid pos).map fun dc => (s.bindPos kid pos dc.1 dc.2, dc.1, dc.2)
          else none
      s?.bind fun x => (x.1.placeSet kid pos p.next x.2.1 x.2.2).map fun s =>
        s.modPos kid pos fun p => { p with next := p.next + 1, since := none, freed := false }

/-- A kernel whose last stage set is placed drains (R191). -/
def State.drainIfPlaced (s : State) (kid : Nat) : State :=
  s.modKernel kid fun k => if k.kst = .dispatching ∧ (k.positions.all fun p => decide (k.ncoord ≤ p.next)) then { k with kst := .draining } else k

/-- The cluster where a position's blocks go next: the one it is bound to, else the one that it would bind (R197). -/
def State.clusterFor (s : State) (kid pos : Nat) : Option (Nat × Nat) :=
  ((((s.kernels[kid]?).bind fun k => k.positions[pos]?).bind (·.bound)).orElse fun _ => s.findCluster kid pos)

/-- A new stage set gives way to a block in the reserve: of its own position, or of its own or a higher priority in its partition
on the same cluster (R214). -/
def State.givesWay (s : State) (kid pos : Nat) : Bool :=
  match s.kernels[kid]? with
  | none => false
  | some k => s.blocks.any fun b => b.bst == .reserve && ((b.kid == kid && b.pos == pos) ||
      (match s.kernels[b.kid]? with
       | some x => (s.ctx x.ctx).part == (s.ctx k.ctx).part && (s.ctx x.ctx).st == .running && decide (s.prioOf k ≤ s.prioOf x) &&
           (s.clusterFor b.kid b.pos).isSome && s.clusterFor b.kid b.pos == s.clusterFor kid pos
       | none => false))

/-- The blocks of a kernel's grid (R196). -/
def Kernel.blockCount (k : Kernel) : Nat := k.positions.length * k.ncoord * k.nstage

/-- A kernel may complete: REJECTED, or every block retired or FAULTED (R191, R203). -/
def Kernel.finished (k : Kernel) : Bool :=
  k.kst == .rejected || (k.kst == .draining && decide (k.blockCount ≤ k.retired + k.faulted))

/-- A kernel of a context completes, which comes before any dispatch of the context (R205). (DEDUCED, log entry 73) -/
def State.completing (s : State) (ctx : Nat) : Bool := s.kernels.any fun k => k.ctx == ctx && k.finished

/-- The clock since which the next stage set of a position waits for space: one that BRES holds back does not (R198, R214). -/
def State.noteWait (s : State) (kid pos n : Nat) : State :=
  let full := s.bresFull kid pos
  s.modPos kid pos fun p => { p with since := if n ≤ p.next || full then none else some (p.since.getD s.clock) }

/-- The next stage set of a position placed, if the kernel dispatches set by set and nothing goes before it, or its wait noted
(R198, R205, R214). -/
def State.placeNext (s : State) (kid pos : Nat) : State :=
    match s.kernels[kid]? with
    | none => s
    | some k =>
      if k.kst ≠ .dispatching ∨ k.resident ∨ (s.ctx k.ctx).active = false ∨ s.completing k.ctx ∨ s.givesWay kid pos then s
      else match s.tryPlace kid pos with
        | some s => ((s.startCtx k.ctx).drainIfPlaced kid)
        | none => s.noteWait kid pos k.ncoord

/-- STAGE_SET_PLACE (R198): the next stage set of a position is placed whole in one step, or the wait of the set is
noted. -/
def execStageSetPlace (kid pos : Nat) (s : State) : Out := .next (s.placeNext kid pos)

/-- Every stage set of a position placed. -/
def State.placeAll (s : State) (kid pos n : Nat) : Option State :=
  (List.range n).foldl (fun o _ => o.bind fun s => s.tryPlace kid pos) (some s)

/-- RESIDENT_DISPATCH (R199): every stage set of every position placed in one step, or nothing; pending completions of its context
and pre-empted blocks go before it (R205, R214). -/
def execResidentDispatch (kid : Nat) (s : State) : Out :=
  .next (match s.kernels[kid]? with
    | none => s
    | some k =>
      if k.kst ≠ .dispatching ∨ k.resident = false ∨ (s.ctx k.ctx).active = false ∨ s.completing k.ctx ∨
          ((List.range k.positions.length).any fun p => s.givesWay kid p) then s
      else match (List.range k.positions.length).foldl (fun o p => o.bind fun s => s.placeAll kid p k.ncoord) (some s) with
        | some s => (s.startCtx k.ctx).drainIfPlaced kid
        | none => s.noteWait kid 0 k.ncoord)

/-! ## Retirement and completion (R203 to R205) -/

/-- A block has no work left (R203). -/
def State.workDone (s : State) (bid : Nat) : Bool :=
  (s.groups.all fun g => g.bid != bid || g.gst == .ended) &&
    (s.copies.all fun c => !c.open' || !(c.bid == bid || c.recips.contains bid)) &&
    (s.tileOps.all fun o => !o.open' || o.bid != bid)

/-- A stream whose position has no block left ends, and the position's binding with it (R197, R317). -/
def State.endPosition (s : State) (kid pos : Nat) : State :=
  match (s.kernels[kid]?).bind fun k => (k.positions[pos]?).map fun p => (k, p) with
  | none => s
  | some (k, p) =>
    if p.next < k.ncoord ∨ (s.blocks.any fun b => b.kid == kid && b.pos == pos && !b.gone) then s
    else
      let s := s.modPos kid pos fun p => { p with bound := none }
      let s := (indices s.streams.length fun i => (s.streams[i]?).any fun x => x.kid == kid && x.pos == pos && x.sst != .ended).foldl
        (fun s i => s.withdraw (.stream i)) s
      { s with streams := s.streams.map fun (x : Stream) =>
          if x.kid = kid ∧ x.pos = pos ∧ x.sst ≠ .ended then { x with sst := .ended, u := x.u.completeAll, wait := .none } else x }

/-- BLOCK_RETIRE (R203): the space that it frees is offered to the next set of its position, and stays its own while that set waits
(R198). -/
def execBlockRetire (bid : Nat) (s : State) : Out :=
  .next (match s.blocks[bid]? with
    | none => s
    | some b =>
      let ctx := s.ctxOfKernel b.kid
      if b.bst ≠ .placed ∨ b.trigger.isSome ∨ s.workDone bid = false ∨ (s.ctx ctx).st ≠ .running then s
      else
        let s := s.modBlock bid fun b => { b with bst := .retired, halt := none }
        let s := (s.modKernel b.kid fun k => { k with retired := k.retired + 1 }).restartDog ctx
        (((s.endPosition b.kid b.pos).settleCtx ctx).placeNext b.kid b.pos).modPos b.kid b.pos fun p => { p with freed := p.since.isSome })

/-- The completion record (R204). -/
def Kernel.completion (k : Kernel) (clock : Nat) : List Byte :=
  leBytes 8 clock ++ leBytes 1 (if k.kst = .rejected then 1 else if 0 < k.faulted then 2 else 0) ++ leBytes 1 k.code ++
    leBytes 2 k.queue ++ leBytes 4 k.retired ++ leBytes 4 k.faulted ++ leBytes 12 0

/-- A release at PART on every spoke for a context: what it has written is at home (R204, R250). -/
def State.releaseAll (s : State) (ctx : Nat) : State := (List.range 8).foldl (fun s d => s.release (s.accAt ctx d 0 none) 3) s

/-- The pieces of n bytes at an address that lie in one page each, the least page being 64 KiB (R355). -/
def pagePieces (va n : Nat) : List (Nat × Nat) :=
  let m := min n (2 ^ 16 - va % 2 ^ 16)
  if m < n then [(va, m), (va + m, n - m)] else [(va, n)]

/-- The pieces of a write looked up, none if one of them faults; `none` of the pair is a wait for a migration or a hand-over. -/
def State.lookPieces (s : State) (a : Acc) : List (Nat × Nat) → State × LaneEnd × List (Nat × Nat × BitVec 64)
  | [] => (s, .done, [])
  | (va, n) :: rest =>
    match s.look a .write va with
    | (s, .ok pa e) =>
      match s.lookPieces a rest with
      | (s, r, l) => (s, r, (pa, n, e) :: l)
    | (s, .fault c) => (s, .trap c va, [])
    | (s, _) => (s, .wait, [])

/-- KERNEL_COMPLETION (R204, R205): the stores of the kernel and its record are made visible, then the counter
changes. A record of which a page is absent or protected is dropped and logged. -/
def execKernelCompletion (kid : Nat) (s : State) : Out :=
  .next (match s.kernels[kid]? with
    | none => s
    | some k =>
      if !k.finished || !(s.ctx k.ctx).active then s
      else
        let a := s.accAt k.ctx 12 0 none
        let finish (s : State) : State :=
          let s := s.modKernel kid fun k => { k with kst := .complete, inQueue := false }
          if bitAt k.signal 8 then s.addEvent k.ctx (k.signal % 256) 1 else s
        let s := s.releaseAll k.ctx
        if k.cva = 0 then finish s
        else match s.lookPieces a (pagePieces k.cva 32) with
          | (s, .done, l) =>
            let m := k.completion s.clock
            finish (l.foldl (fun (x : State × Nat) p => (x.1.hubWrite a p.2.2 p.1 ((m.drop x.2).take p.2.1), x.2 + p.2.1)) (s, 0)).1
          | (s, .trap _ _, _) => finish (s.report (mkError 9 10 12 0 (some k.ctx) 0))
          | (s, _, _) => s)

/-! ## QOPEN and QCLOSE (R206) -/

/-- STATUS of DRCMD (R422). -/
def State.drStatus (s : State) (st : Nat) : State := s.modHub fun h => { h with drSts := BitVec.ofNat 4 st }

/-- The state of a partition that the derailleur reports (R402, R421): 0 UNFORMED, 1 FORMED, 2 ACTIVE, 3 SHIFTING,
4 LENDING, 5 RECLAIMING, 6 QUIESCING, 7 RESETTING, 8 DISSOLVED. (DEDUCED, log entry 76) -/
def State.partState (s : State) (p : Nat) : Nat :=
  let x := s.part p
  let units := s.clusters ++ s.slices ++ s.cgs
  if x.dissolved then 8
  else if !x.formed then 0
  else if x.resetting then 7
  else if x.quiescing then 6
  else if s.hub.revs.any fun r => r.lender == p then 5
  else if x.shift.isSome || s.hub.revs.any (fun r => r.borrower == p) then 3
  else if x.active && units.any fun u => (u.cond == 2 || u.cond == 3) && u.owner == p then 4
  else if x.active then 2 else 1

/-- A partition is being dissolved. -/
def State.dissolving (s : State) (p : Nat) : Bool :=
  match s.hub.drPend with
  | some (.dissolve q _) => p == q
  | _ => false

/-- The partition runs contexts: ACTIVE, SHIFTING, LENDING or RECLAIMING (R402). One that is being dissolved takes no more.
(DESIGN CHOICE, log entry 98) -/
def State.partLive (s : State) (p : Nat) : Bool := let x := s.partState p; decide (2 ≤ x) && decide (x ≤ 5) && !s.dissolving p

/-- The status that a queue command meets: 0 if it may act, 9 BADARG, 3 BADSTATE (R206, R402). (DEDUCED, log entry 74) -/
def State.queueCommand (s : State) (part ctx : Nat) : Nat :=
  let c := s.ctx ctx
  if !s.partLive part then 3
  else if c.st = .free ∨ c.part ≠ part then 9
  else if c.st = .bound ∨ c.st = .dead then 3
  else 0

/-- The entries of a queue discarded and the queue closed (R206): QUEUED kernels are DISCARDED, the others leave it. It is then as
before it was first opened. (DESIGN CHOICE, log entry 91) -/
def State.closeQueue (s : State) (ctx q : Nat) : State :=
  { s with kernels := s.kernels.map fun (k : Kernel) =>
      if k.ctx = ctx ∧ k.queue = q ∧ k.inQueue then
        { k with inQueue := false, kst := if k.kst = KernelSt.queued then KernelSt.discarded else k.kst }
      else k }.modQueue ctx q fun _ => Queue.closed

/-- QOPEN (R206). -/
def execQopen (part ctx q prio : Nat) (s : State) : Out :=
  .next (match s.queueCommand part ctx with
    | 0 => (s.modQueue ctx q fun x => { (if x.opened then x else Queue.closed) with opened := true, prio := prio % 8 }).drStatus 2
    | st => s.drStatus st)

/-- QCLOSE (R206). -/
def execQclose (part ctx q : Nat) (s : State) : Out :=
  .next (match s.queueCommand part ctx with
    | 0 => (if (s.queue ctx q).opened then s.closeQueue ctx q else s).drStatus 2
    | st => s.drStatus st)

/-! ## The hang watchdog (R223) -/

/-- The watchdog interval of a context in ns (R223, R371). -/
def Ctx.interval (c : Ctx) : Nat := (if 10 ≤ c.wdog.toNat ∧ c.wdog.toNat ≤ 60000 then c.wdog.toNat else 2000) * 1000000

/-- HANG_WATCHDOG (R223): the count of a context reaches its interval, and the context halts with kind WATCHDOG. The count is not
changed by it, and reaches the interval once in each of its runs. (DEDUCED, log entry 97) -/
def execHangWatchdog (ctx : Nat) (s : State) : Out :=
  let c := s.ctx ctx
  .next (if c.st = .running ∧ c.interval ≤ c.dog ∧ c.rung = false then (s.modCtx ctx fun c => { c with rung := true }).halt ctx .watchdog
    else s)

end Sys2Proof.Machine
end

