-- ==== Sys2Proof/Machine/Context.lean ====
section
/-! DEFINITION. The context object, its commands, halting, the stop area, the save images and the way back
(R371 to R374, R381 to R394, R504). -/

namespace Sys2Proof.Machine

/-! ## Commands (R374) -/

/-- STATUS of a window's CTXCMD, no command in progress. -/
def State.cmdStatus (s : State) (die st : Nat) : State := s.modDie die fun d => { d with cmdSts := BitVec.ofNat 4 st, cmd := none }

/-- A command of a window in progress. -/
def State.cmdBusy (s : State) (die op ctx arg : Nat) : State := s.modDie die fun d => { d with cmdSts := 1, cmd := some (op, ctx, arg) }

/-- The command in progress that names a context, by its operation, ends with a status. -/
def State.cmdEnd (s : State) (ctx op st : Nat) : State :=
  { s with dies := s.dies.map fun (d : Die) => match d.cmd with
      | some (o, c, _) => if o = op ∧ c = ctx then { d with cmdSts := BitVec.ofNat 4 st, cmd := none } else d
      | none => d }

/-- The argument of the command in progress that names a context. -/
def State.cmdArg (s : State) (ctx op : Nat) : Option Nat :=
  s.dies.findSome? fun d => match d.cmd with
    | some (o, c, a) => if o = op ∧ c = ctx then some a else none
    | none => none

/-- A window reaches a context: it is the owner's (R371). -/
def State.reachable (s : State) (die ctx : Nat) : Bool := (s.ctx ctx).st != .free && (s.ctx ctx).owner == die

/-- A command given through a window: ignored while one is in progress there, BADSTATE where the window does not reach
the context (R371, R374). -/
def State.command (s : State) (die ctx : Nat) (act : State) : State :=
  if (s.die die).cmdSts = 1 then s else if s.reachable die ctx then act else s.cmdStatus die 3

/-- A range of memory lies in channel groups that a partition owns, outside every window it has lent (R504). -/
def State.ownMemory (s : State) (part lo n : Nat) : Bool :=
  n == 0 || (decide (lo + n ≤ deviceTop) &&
    ((indices 96 fun g => overlaps lo n (g * 2 ^ 33) (2 ^ 33)).all fun g =>
      let u := s.cg g
      u.owner == part && (u.cond == 1 || ((u.cond == 2 || u.cond == 3) && !overlaps lo n (g * 2 ^ 33 + u.window * 2 ^ 26) (2 ^ 26)))))

/-- The length of the stop area (R371). -/
def stopBytes : Nat := 0x141000

/-- The stop area of a context lies in its own memory (R504). -/
def State.stopAreaOk (s : State) (ctx : Nat) : Bool := s.ownMemory (s.ctx ctx).part (s.ctx ctx).stoppa.toNat stopBytes

/-- The save area of a context lies in its own memory (R504). -/
def State.saveAreaOk (s : State) (ctx : Nat) : Bool := s.ownMemory (s.ctx ctx).part (s.ctx ctx).savepa.toNat (s.ctx ctx).savesz.toNat

/-- The commands in progress that name a context which is killed end: their target state is not reached any more. (DESIGN CHOICE, log
entry 111) (DESIGN CHOICE, log entry 111) -/
def State.cmdDrop (s : State) (ctx : Nat) : State := [3, 5, 6].foldl (fun s op => s.cmdEnd ctx op 3) s

/-- CREATE (R217, R373, R374, R420): a FREE context is bound to a partition through any window, whose die becomes the owner. -/
def execCreate (die ctx arg : Nat) (s : State) : Out :=
  .next (if (s.die die).cmdSts = 1 then s
    else if (s.ctx ctx).st = .free ∧ s.partLive arg then
      (s.modCtx ctx fun c =>
        { c with st := .bound, part := arg, owner := die, clampN := 0, clampPc := none, events := [], evwaits := [] }).cmdStatus die 2
    else s.cmdStatus die 3)

/-- ENABLE (R373, R504). -/
def execEnable (die ctx : Nat) (s : State) : Out :=
  .next (s.command die ctx
    (if (s.ctx ctx).st ≠ .bound then s.cmdStatus die 3
     else if !s.stopAreaOk ctx then s.cmdStatus die 6
     else (s.modCtx ctx fun c => { c with st := .ready }).cmdStatus die 2))

/-- HALT (R374, R381): the command is done when the context is HALTED or FAULTED; an argument above 1 acts as STOP. (DEDUCED, log
entry 30) (DESIGN CHOICE, log entry 111) (DEDUCED, log entry 30) -/
def execHalt (die ctx arg : Nat) (s : State) : Out :=
  .next (s.command die ctx
    (if (s.ctx ctx).active then (s.halt ctx (if arg = 1 then .preempt else .stop)).cmdBusy die 3 ctx arg else s.cmdStatus die 3))

/-! ## Reconvergence (R173, R383) -/

/-- The live threads of a group share PC, PROG, CSP and handler state, and none has an incomplete collective (R173,
R383). -/
def Group.reconverged (g : Group) : Bool :=
  match g.liveLanes with
  | [] => true
  | t0 :: _ => match g.threads[t0]? with
    | none => true
    | some a => g.liveLanes.all fun t => match g.threads[t]? with
        | some b => b.pc == a.pc && b.prog == a.prog && b.csp == a.csp && b.hcsp == a.hcsp && b.coll.isNone && b.standing.isNone
        | none => true

/-- A group stops, in compact or in full form (R383, R391). -/
def Group.stop (g : Group) (full : Bool) : Group :=
  { g with gst := .stopped, full := full, u := g.u.completeAll, threads := g.threads.map Thread.park }

/-- One group stopped, its gate operations, LAUNCHes and EVWAITs withdrawn. -/
def State.stopGroup (s : State) (gid : Nat) (full : Bool) : State :=
  match s.groups[gid]? with
  | none => s
  | some g => ((s.withdraw (.group gid)).modGroup gid (·.stop full)).toReserve g.bid

/-- A group under PREEMPT: its context halts with that kind, or its block is stopped alone (R381, R407): the clock of the stop, and
that at which the reconvergence timeout ends, the earlier where both meet (R414). -/
def State.underPreempt (s : State) (gid : Nat) : Option (Nat × Nat) :=
  match (s.groups[gid]?).bind fun g => s.blocks[g.bid]? with
  | none => none
  | some b =>
    let c := s.ctx (s.ctxOfKernel b.kid)
    match b.halt, c.st, c.line with
    | h, .running, _ => h
    | h, .halting, some l =>
      if l.kind = .preempt then some (l.at_, (h.map fun x => min x.2 (l.at_ + l.rto)).getD (l.at_ + l.rto)) else h
    | _, _, _ => none

/-- GROUP_STOP (R383): a group under PREEMPT stops at a reconvergence point, in compact form. -/
def execGroupStop (gid : Nat) (s : State) : Out :=
  .next (match s.groups[gid]? with
    | none => s
    | some g =>
      if (g.gst = .running ∨ g.gst = .loading) ∧ (s.underPreempt gid).isSome ∧ g.reconverged ∧
          ((s.blocks[g.bid]?).map (·.trigger.isNone)).getD false then s.stopGroup gid false
      else s)

/-- RECONVERGENCE_TIMEOUT (R381): RTO has passed and the group stops by full save. -/
def execReconvergenceTimeout (gid : Nat) (s : State) : Out :=
  .next (match s.groups[gid]?, s.underPreempt gid with
    | some g, some (_, limit) =>
      if (g.gst = .running ∨ g.gst = .loading) ∧ limit ≤ s.clock ∧ ((s.blocks[g.bid]?).map (·.trigger.isNone)).getD false then
        s.stopGroup gid true
      else s
    | _, _ => s)

/-- A block begins to stop alone (R214, R407): its groups under PREEMPT, its tile operations at their chunk or row
group. -/
def State.stopBlock (s : State) (bid limit : Nat) : State :=
  let s := s.modBlock bid fun b => { b with halt := match b.halt with
    | some h => some (h.1, min h.2 (s.clock + limit))
    | none => some (s.clock, s.clock + limit) }
  (s.stopTiles fun o => o.bid == bid).toReserve bid

/-! ## Stop records (R294, R342, R384, R385) -/

/-- One stop record with its index entry. -/
structure StopRec where
  kind : Nat
  die : Nat
  clu : Nat
  core : Nat
  handle : Nat
  tval : Nat
  body : List Byte
  deriving DecidableEq, Repr

/-- The core or stream record of a cause (R385). -/
def trapRecord (st : Option (Standing × Word × Nat)) (slot lane groups : Nat) : List Byte :=
  match st with
  | none => padTo 64 (leBytes 4 (2 ^ 16 * (if slot = 0xFF then slot else 0)) ++ leBytes 8 0 ++ leBytes 4 groups)
  | some (x, pc, prog) =>
    padTo 64 (leBytes 4 (x.cause.toNat + 256 * b2n x.esc + 2 ^ 16 * slot + 2 ^ 24 * lane) ++ leBytes 4 pc.toNat ++ leBytes 4 prog ++
      leBytes 4 groups ++ leBytes 8 x.val.toNat ++ leBytes 8 x.at_)

/-- The standing causes of a core: clock, slot, home lane, group and thread (R385). -/
def State.standingOn (s : State) (gids : List Nat) : List (Nat × Nat × Nat × Nat × Nat) :=
  gids.flatMap fun gid => match s.groups[gid]? with
    | none => []
    | some g => (List.range g.threads.length).filterMap fun t =>
        ((g.threads[t]?).bind (·.standing)).map fun x => (x.at_, g.slotOf t, g.homeLane t, gid, t)

/-- The first by clock, then slot, then home lane (R385). -/
def firstStanding (l : List (Nat × Nat × Nat × Nat × Nat)) : Option (Nat × Nat × Nat × Nat × Nat) :=
  l.foldl (fun m x => match m with
    | none => some x
    | some y => if x.1 < y.1 ∨ (x.1 = y.1 ∧ (x.2.1 < y.2.1 ∨ (x.2.1 = y.2.1 ∧ x.2.2.1 < y.2.2.1))) then some x else some y) none

/-- The record of a core that holds work of a context (R384, R385). -/
def State.coreRecord (s : State) (ctx core : Nat) : StopRec :=
  let mine (bid : Nat) : Bool := match s.blocks[bid]? with
    | some b => b.bst == .placed && b.coreNo == core && s.ctxOfKernel b.kid == ctx
    | none => false
  let gids := indices s.groups.length fun i => match s.groups[i]? with
    | some g => mine g.bid && g.gst != .ended && g.gst != .saved
    | none => false
  let hdl (bid : Nat) : Nat := ((s.blocks[bid]?).map Block.handle).getD 0
  let first := ((indices s.blocks.length mine).head?.map hdl).getD 0
  let place (h tv : Nat) (body : List Byte) : StopRec :=
    { kind := 0, die := core / 36, clu := core % 36 / 4, core := core % 4, handle := h, tval := tv, body := body }
  match firstStanding (s.standingOn gids) with
  | none => place first 0 (trapRecord none 0 0 gids.length)
  | some (_, slot, lane, gid, t) =>
    match s.groups[gid]?, s.thread? gid t with
    | some g, some th =>
      let st := th.standing.map fun x => (x, th.pc, th.prog)
      place (hdl g.bid) ((th.standing.map (·.val.toNat)).getD 0) (trapRecord st slot lane gids.length)
    | _, _ => place first 0 (trapRecord none 0 0 gids.length)

/-- The record of a cadence stream (R385). -/
def Stream.stopRecord (x : Stream) : StopRec :=
  { kind := 3, die := x.die, clu := x.clu, core := 0, handle := 0, tval := (x.standing.map (·.val.toNat)).getD 0,
    body := trapRecord (x.standing.map fun y => (y, x.pc, 0)) 0xFF 0 0 }

/-- The stop record of a copy (R294). -/
def State.copyRecord (s : State) (c : Copy) : StopRec :=
  let b := s.blocks[c.bid]?
  { kind := 1, die := (b.map (·.die)).getD 0, clu := (b.map (·.clu)).getD 0, core := (b.map (·.core)).getD 0,
    handle := (b.map Block.handle).getD 0, tval := c.tval.toNat,
    body := padTo 64 (leBytes 4 (c.cause.toNat + 2 ^ 8 * c.kind + 2 ^ 10 * c.dir + 2 ^ 12 * c.k + 2 ^ 16 * c.gix + 2 ^ 20 * c.scope + 2 ^ 23 * c.hint +
        2 ^ 25 * c.stage + 2 ^ 28 * b2n c.get + 2 ^ 29 * b2n c.off64) ++ leBytes 4 c.prog ++ leBytes 8 c.far ++ leBytes 8 c.mask ++
      leBytes 4 c.pbase ++ leBytes 4 (((s.groups[c.gid]?).map (·.grpix)).getD 0) ++ c.shape.flatMap fun w => leBytes 4 w.toNat) }

/-- The stop record of a tile operation (R342). -/
def State.tileRecord (s : State) (o : TileOp) : StopRec :=
  let b := s.blocks[o.bid]?
  let w := encode o.ins
  { kind := 2, die := (b.map (·.die)).getD 0, clu := (b.map (·.clu)).getD 0, core := (b.map (·.core)).getD 0,
    handle := o.handle.toNat, tval := 0,
    body := padTo 64 (leBytes 4 (w.getD 0 0) ++ leBytes 4 (w.getD 1 0) ++ leBytes 4 o.handle.toNat ++ leBytes 4 o.prog ++
      padTo 24 (o.rec_.flatMap fun x => leBytes 4 x.toNat) ++ leBytes 4 (o.cause.toNat + 2 ^ 8 * b2n o.started + 2 ^ 9 * b2n o.rgHit.isSome) ++
      leBytes 4 o.seq) }

/-- The record that the hub writes for a stream whose image is lost (R457). -/
def Stream.lostRecord (x : Stream) (clock : Nat) : StopRec :=
  { kind := 3, die := x.die, clu := x.clu, core := 0, handle := 0, tval := 0,
    body := trapRecord (some ({ cause := 0x19, esc := false, val := 0, at_ := clock }, 0xFFFFFFFF, 0)) 0xFF 0 0 }

/-- The core record that the hub writes for a block that a failed spoke has lost, or whose image is lost (R452, R457). -/
def Block.lostRecord (b : Block) (clock : Nat) : StopRec :=
  { kind := 0, die := b.die, clu := b.clu, core := b.core, handle := b.handle, tval := 0,
    body := trapRecord (some ({ cause := 0x19, esc := false, val := 0, at_ := clock }, 0xFFFFFFFF, 0)) 0 0 0 }

/-- The records of the cores and of the cadence cores that hold work of a context (R384); a stream that has left its cluster stands on
none (R407, R452). -/
def State.unitRecords (s : State) (ctx : Nat) : List StopRec :=
  let cores := indices 288 fun n => s.blocks.any fun b => b.bst == .placed && b.coreNo == n && s.ctxOfKernel b.kid == ctx
  cores.map (s.coreRecord ctx) ++
    (s.streams.filter fun x => x.sst == .stopped && s.ctxOfKernel x.kid == ctx && s.boundTo x.kid x.pos == some (x.die, x.clu)).map Stream.stopRecord

/-- The stopped copies of a context, in issue order. -/
def State.stoppedCopies (s : State) (ctx : Nat) : List Nat :=
  indices s.copies.length fun i => (s.copies[i]?).any fun c => c.ctx == ctx && c.cst == .stopped

/-- The stopped tile operations of a context, in issue order. -/
def State.stoppedTiles (s : State) (ctx : Nat) : List Nat :=
  indices s.tileOps.length fun i => (s.tileOps[i]?).any fun o => o.ost == .stopped && s.ctxOfTile o == ctx

/-- The records of a context at a halt: cores, streams, copies and tile operations in issue order, and those of lost
blocks (R384, R452). (DEDUCED, log entry 29) -/
def State.stopRecords (s : State) (ctx : Nat) : List StopRec :=
  s.unitRecords ctx ++ ((s.stoppedCopies ctx).filterMap (s.copies[·]?)).map s.copyRecord ++
    ((s.stoppedTiles ctx).filterMap (s.tileOps[·]?)).map s.tileRecord ++
    (s.blocks.filter fun b => b.bst == .lost && s.ctxOfKernel b.kid == ctx).map fun b => b.lostRecord s.clock

/-- The code of a halt kind in the stop area (R384). -/
def HaltKind.code : HaltKind → Nat
  | .stop => 0 | .preempt => 1 | .fault => 2 | .watchdog => 3

/-- The place in the stop area of each record of a copy or tile operation noted with it (R388); none where the area holds no more.
(DEDUCED, log entry 29) -/
def State.noteSlots (s : State) (ctx : Nat) : State :=
  let n := (s.unitRecords ctx).length
  let cs := s.stoppedCopies ctx
  let ts := s.stoppedTiles ctx
  let slot (j : Nat) : Option Nat := if j < 16384 then some j else none
  let s := cs.zipIdx.foldl (fun s x => s.modCopy x.1 fun c => { c with slot := slot (n + x.2) }) s
  ts.zipIdx.foldl (fun s x => s.modTile x.1 fun o => { o with slot := slot (n + cs.length + x.2) }) s

/-- The stop area written (R384). -/
def State.writeStop (s : State) (ctx : Nat) (l : HaltLine) : State :=
  let s := s.noteSlots ctx
  let base := (s.ctx ctx).stoppa.toNat
  let a := hubAcc ctx (s.ctx ctx).part
  let rs := (s.stopRecords ctx).take 16384
  let s := s.cohWrite a base (leBytes 8 (rs.length + 2 ^ 16 * l.kind.code) ++ leBytes 8 l.at_ ++ List.replicate 4080 0)
  (rs.zip (List.range rs.length)).foldl (fun s x =>
    let r := x.1
    let s := s.cohWrite a (base + 0x1000 + 16 * x.2)
      (leBytes 8 (r.kind + 2 ^ 4 * r.die + 2 ^ 8 * r.clu + 2 ^ 12 * r.core + 2 ^ 16 * r.handle) ++ leBytes 8 r.tval)
    s.cohWrite a (base + 0x41000 + 64 * x.2) r.body) s

/-- One record added to a stop area that is already written (R452, R457). -/
def State.addStop (s : State) (ctx : Nat) (r : StopRec) : State :=
  let base := (s.ctx ctx).stoppa.toNat
  let a := hubAcc ctx (s.ctx ctx).part
  let h := s.coh64 base
  let n := h % 2 ^ 15
  let s := s.cohWrite a base (leBytes 8 (h - n + (n + 1)))
  let s := s.cohWrite a (base + 0x1000 + 16 * n) (leBytes 8 (r.kind + 2 ^ 4 * r.die + 2 ^ 8 * r.clu + 2 ^ 12 * r.core + 2 ^ 16 * r.handle) ++ leBytes 8 r.tval)
  s.cohWrite a (base + 0x41000 + 64 * n) r.body

/-- Some record in the stop area still holds a cause (R386). -/
def State.faultPending (s : State) (ctx : Nat) : Bool :=
  let base := (s.ctx ctx).stoppa.toNat
  (List.range (s.coh64 base % 2 ^ 15)).any fun j =>
    let kind := s.coh64 (base + 0x1000 + 16 * j) % 16
    (s.cohBytes (base + 0x41000 + 64 * j + (if kind = 2 then 0x28 else 0)) 1) != [0]

/-- A context holds a recorded cause of class H (R373). -/
def State.hasCause (s : State) (ctx : Nat) : Bool :=
  (s.groups.any fun g => ((s.blocks[g.bid]?).map fun b => b.bst == .placed && s.ctxOfKernel b.kid == ctx).getD false && g.threads.any (·.standing.isSome)) ||
    (s.streams.any fun x => s.ctxOfKernel x.kid == ctx && x.standing.isSome) ||
    (s.copies.any fun c => c.ctx == ctx && c.open' && c.cause != 0) ||
    (s.tileOps.any fun o => s.ctxOfTile o == ctx && o.open' && o.cause != 0)

/-! ## The end of HALTING (R381, R382) -/

/-- The engines of a halting context have stopped, or can stop at once: under PREEMPT every group stands stopped, the
copies are drained or stopped, and no rollback waits for its restore (R294, R383, R469). -/
def State.enginesStopped (s : State) (ctx : Nat) (l : HaltLine) : Bool :=
  let mine (bid : Nat) : Bool := ((s.blocks[bid]?).map fun b => b.bst == .placed && s.ctxOfKernel b.kid == ctx).getD false
  (l.kind != .preempt || s.groups.all fun g => !mine g.bid || (g.gst != .running && g.gst != .loading)) &&
    (s.copies.all fun c => c.ctx != ctx || !(c.cst == .queued || c.cst == .running)) &&
    (s.blocks.all fun b => s.ctxOfKernel b.kid != ctx || b.trigger.isNone)

/-- The waits of every agent of a context withdrawn: gate operations, LAUNCHes and EVWAITs (R381). -/
def State.withdrawCtx (s : State) (ctx : Nat) : State :=
  (s.withdrawGates fun who => s.ctxOf who == ctx).modCtx ctx fun c =>
    { c with queues := c.queues.map fun q => { q with waiting := [] }, evwaits := [] }

/-- Everything of a context that still runs stands stopped: groups by full save, streams, tile operations; the waits
withdrawn (R381). -/
def State.stopAll (s : State) (ctx : Nat) : State :=
  let mine (bid : Nat) : Bool := ((s.blocks[bid]?).map fun b => b.bst == .placed && s.ctxOfKernel b.kid == ctx).getD false
  let s := (s.withdrawCtx ctx).stopTiles fun o => s.ctxOfTile o == ctx
  { s with
    groups := s.groups.map fun (g : Group) => if mine g.bid ∧ (g.gst = .running ∨ g.gst = .loading) then g.stop true else g
    streams := s.streams.map fun (x : Stream) =>
      if s.ctxOfKernel x.kid = ctx ∧ x.sst = .running then { x with sst := .stopped, u := x.u.completeAll, wait := .none } else x }

/-- The blocks of a context that a failed spoke has lost end FAULTED (R203, R452). -/
def State.faultLost (s : State) (ctx : Nat) : State :=
  let ls := indices s.blocks.length fun i => match s.blocks[i]? with
    | some b => b.bst == .lost && s.ctxOfKernel b.kid == ctx
    | none => false
  ls.foldl (fun s i => match s.blocks[i]? with
    | some b => ((s.modBlock i fun b => { b with bst := .faulted }).modKernel b.kid fun k => { k with faulted := k.faulted + 1 }).endPosition b.kid b.pos
    | none => s) s

/-- HALTING_END (R373, R381): the last engine writes its records; the context is FAULTED with a recorded cause or under
kind FAULT or WATCHDOG, and then the owning die's kernel is interrupted (R386); else it is HALTED. (DEDUCED, log entry 34) -/
def execHaltingEnd (ctx : Nat) (s : State) : Out :=
  .next (match (s.ctx ctx).st, (s.ctx ctx).line with
    | .halting, some l =>
      if s.enginesStopped ctx l then
        let s := ((s.stopAll ctx).writeStop ctx l).faultLost ctx
        let bad := s.hasCause ctx || l.kind == .watchdog || l.kind == .fault
        let s := s.modCtx ctx fun c => { c with st := if bad then .faulted else .halted, line := none }
        let s := if bad then s.modDie (s.ctx ctx).owner fun d => { d with irq := true } else s
        let alone := indices s.blocks.length fun i => match s.blocks[i]? with
          | some b => b.halt.isSome && s.ctxOfKernel b.kid == ctx
          | none => false
        (alone.foldl (fun s i => s.toReserve i) s).cmdEnd ctx 3 2
      else s
    | _, _ => s)

/-! ## RESUME (R386) -/

/-- A stopped thread goes on from its instruction. -/
def Thread.again (t : Thread) (tick : Nat) : Thread := { t with standing := none, wait := t.wait.kept, ready := tick }

/-- What a context holds in its units goes on: groups, streams, copies and tile operations (R386). A stream whose position has left
its cluster waits until it is bound anew, and what belongs to a block in the reserve waits for the block (R407); the faults of all
are resolved. -/
def State.runAgain (s : State) (ctx : Nat) : State :=
  let mine (bid : Nat) : Bool := ((s.blocks[bid]?).map fun b => s.ctxOfKernel b.kid == ctx).getD false
  { s with
    groups := s.groups.map fun (g : Group) =>
      if mine g.bid ∧ s.placed g.bid ∧ g.gst = .stopped then { g with gst := .running, full := false, threads := g.threads.map fun t => t.again s.tick }
      else g
    streams := s.streams.map fun (x : Stream) =>
      if s.ctxOfKernel x.kid = ctx ∧ x.sst = .stopped then
        { x with sst := if s.boundTo x.kid x.pos = some (x.die, x.clu) then .running else .stopped, standing := none, wait := .none }
      else x
    copies := s.copies.map fun (c : Copy) =>
      if mine c.bid ∧ c.cst = CopySt.stopped then { c with cst := if s.placed c.bid then .queued else .stopped, cause := 0, tval := 0 } else c
    tileOps := s.tileOps.map fun (o : TileOp) =>
      if mine o.bid ∧ o.ost = TileSt.stopped then { o with ost := if s.placed o.bid then .queued else .stopped, cause := 0 } else o }

/-- A context holds units: blocks that are not gone, or streams. -/
def State.holdsUnits (s : State) (ctx : Nat) : Bool :=
  (s.blocks.any fun b => !b.gone && s.ctxOfKernel b.kid == ctx) || (s.streams.any fun x => x.sst != .ended && s.ctxOfKernel x.kid == ctx)

/-- A context runs again: RUNNING, or READY if it holds no units (R373); BARDs that have waited for its blocks arrive (R315). -/
def State.runCtx (s : State) (ctx : Nat) : State :=
  let st := if s.holdsUnits ctx then CtxSt.running else CtxSt.ready
  ((s.runAgain ctx).bardsArriveAll).modCtx ctx fun c => { c with st := st }

/-- RESUME (R373, R386). -/
def execResume (die ctx : Nat) (s : State) : Out :=
  let c := s.ctx ctx
  .next (s.command die ctx
    (if c.st ≠ .halted ∧ c.st ≠ .faulted then s.cmdStatus die 3
     else if s.faultPending ctx then (s.modCtx ctx fun c => { c with st := .faulted }).cmdStatus die 4
     else (s.runCtx ctx).cmdStatus die 2))

/-! ## Saving (R374, R389) -/

/-- What a save writes: the directory's fields below the handle, the handle and the image (R389). (DEDUCED, log entry 27) -/
def State.images (s : State) (ctx : Nat) : List (Nat × Nat × List Byte) :=
  let bs := (indices s.blocks.length fun i => match s.blocks[i]? with
    | some b => !b.gone && s.ctxOfKernel b.kid == ctx
    | none => false).filterMap fun i => (s.blocks[i]?).map fun b =>
      (2 ^ 44 * b.die + 2 ^ 48 * b.clu + 2 ^ 52 * b.core, b.handle, s.blockImage i b)
  let xs := (s.streams.filter fun x => x.sst != .ended && s.ctxOfKernel x.kid == ctx).map fun x =>
      (2 ^ 40 + 2 ^ 44 * x.die + 2 ^ 48 * x.clu, 0, s.streamImage x)
  bs ++ xs

/-- The offset of each image and the end of the last (R389). (DEDUCED, log entry 27) -/
def imageOffsets : List (Nat × Nat × List Byte) → Nat → List Nat × Nat
  | [], off => ([], off)
  | x :: rest, off => let r := imageOffsets rest (up4k (off + x.2.2.length)); (off :: r.1, r.2)

/-- The bytes that a save of a context takes (R374, R389). -/
def State.saveBytes (s : State) (ctx : Nat) : Nat := (imageOffsets (s.images ctx) 0x40000).2

/-- The save area written (R389). -/
def State.writeImages (s : State) (ctx : Nat) : State :=
  let base := (s.ctx ctx).savepa.toNat
  let a := hubAcc ctx (s.ctx ctx).part
  let im := s.images ctx
  let (offs, total) := imageOffsets im 0x40000
  let s := s.cohWrite a base (leBytes 16 (im.length + 2 ^ 64 * total))
  ((im.zip offs).zip (List.range im.length)).foldl (fun s x =>
    let s := s.cohWrite a (base + 16 + 16 * x.2) (leBytes 16 (x.1.2 + x.1.1.1 + 2 ^ 64 * x.1.1.2.1))
    s.cohWrite a (base + x.1.2) x.1.1.2.2) s

/-- SAVE (R374, R389, R504): the save begins; SAVE_DONE ends it. -/
def execSave (die ctx : Nat) (s : State) : Out :=
  let c := s.ctx ctx
  .next (s.command die ctx
    (if c.st ≠ .halted ∧ c.st ≠ .faulted then s.cmdStatus die 3
     else if !s.saveAreaOk ctx then s.cmdStatus die 6
     else if c.savesz.toNat < s.saveBytes ctx then s.cmdStatus die 5
     else s.cmdBusy die 5 ctx 0))

/-- A context saved: the release of R250, which writes back the dirty SYN lines tagged with it on every spoke (R256), the images, the
units freed (R373, R389). -/
def State.saveCtx (s : State) (ctx : Nat) : State :=
  let s := ((List.range 8).foldl (fun s d => s.releaseTagged (s.accAt ctx d 0 none)) s).writeImages ctx
  let mine (kid : Nat) : Bool := s.ctxOfKernel kid == ctx
  let bmine (bid : Nat) : Bool := ((s.blocks[bid]?).map fun b => mine b.kid).getD false
  { s with
    groups := s.groups.map fun (g : Group) => if bmine g.bid ∧ g.gst = GroupSt.stopped then { g with gst := GroupSt.saved } else g
    blocks := s.blocks.map fun (b : Block) => if mine b.kid ∧ b.gone = false then { b with bst := BlockSt.saved, halt := none, resAt := none } else b
    streams := s.streams.map fun (x : Stream) => if mine x.kid ∧ x.sst = StreamSt.stopped then { x with sst := StreamSt.saved } else x
    kernels := s.kernels.map fun (k : Kernel) => if k.ctx = ctx then { k with positions := k.positions.map fun (p : Pos) => { p with since := none } } else k }.modCtx
      ctx fun c => { c with st := .saved }

/-- The derailleur saves a context for a forced command or a MOVE (R416, R419). -/
def State.derailleurSaves (s : State) (ctx : Nat) : Bool := s.hub.drCtxs.any fun x => x.1 == ctx

/-- SAVE_DONE (R389): the save area is written and the context is SAVED. -/
def execSaveDone (ctx : Nat) (s : State) : Out :=
  let c := s.ctx ctx
  .next (if (c.st = .halted ∨ c.st = .faulted) ∧ ((s.cmdArg ctx 5).isSome ∨ (s.derailleurSaves ctx ∧ s.saveAreaOk ctx ∧ s.saveBytes ctx ≤ c.savesz.toNat)) then
      (s.saveCtx ctx).cmdEnd ctx 5 2
    else s)

/-! ## Restoring (R393) -/

/-- A block takes a core that has room for it: its groups take slots there (R198, R393). -/
def State.seat (s : State) (bid die clu core : Nat) : Option State :=
  (s.blocks[bid]?).bind fun b => (s.kernels[b.kid]?).bind fun k =>
    let gs := s.blockGroups bid
    let bytes := gs.foldl (fun n i => n + ((s.groups[i]?).map fun g => if g.gst = .ended then 0 else g.fileBytes).getD 0) 0
    (s.roomFor k (coreNo die clu core) bytes).map fun slots =>
      let s := (s.joinDie (s.ctxOfKernel b.kid) die).modBlock bid fun b => { b with die := die, clu := clu, core := core, bst := .placed, rebuilt := false }
      { s with groups := s.groups.map fun (g : Group) =>
          if g.bid = bid then let p := groupPlace k.width slots g.grpix; { g with slot := p.1, lane0 := p.2, gst := if g.gst = .saved then .stopped else g.gst } else g }

/-- A block takes the lowest core of a cluster that has room (R198). -/
def State.seatIn (s : State) (bid die clu : Nat) : Option State := (List.range 4).findSome? fun core => s.seat bid die clu core

/-- RESTORE (R373, R386, R393, R504): the context is MIGRATING until RESTORE_DONE. The scan of R386 is made first: with a
cause pending the images are loaded and the context is FAULTED. The low bit of the argument counts. (DEDUCED, log entry 31) (DESIGN
CHOICE, log entry 111) -/
def execRestore (die ctx arg : Nat) (s : State) : Out :=
  .next (s.command die ctx
    (if (s.ctx ctx).st ≠ .saved then s.cmdStatus die 3
     else if !s.stopAreaOk ctx then s.cmdStatus die 6
     else (s.modCtx ctx fun c => { c with st := .migrating }).cmdBusy die 6 ctx (arg % 2 + 2 * b2n (s.faultPending ctx))))

/-- The saved blocks of a context, in the order of its directory. -/
def State.savedBlocks (s : State) (ctx : Nat) : List Nat :=
  indices s.blocks.length fun i => match s.blocks[i]? with
    | some b => b.bst == .saved && s.ctxOfKernel b.kid == ctx
    | none => false

/-- The saved streams of a context, in the order of its directory. -/
def State.savedStreams (s : State) (ctx : Nat) : List Nat :=
  indices s.streams.length fun i => match s.streams[i]? with
    | some x => x.sst == .saved && s.ctxOfKernel x.kid == ctx
    | none => false

/-- A stream takes a cluster. -/
def State.seatStream (s : State) (sid die clu : Nat) : State := (s.joinDie (s.ctxOf (.stream sid)) die).modStream sid fun x => { x with die := die, clu := clu, sst := .stopped }

/-- A kernel's cadence stream, where it has one, can run on a cluster: no stream of another kernel does (R197). -/
def State.cadenceFree (s : State) (kid die clu : Nat) : Bool :=
  (((s.kernels[kid]?).map fun k => k.centry == 0xFFFFFFFF).getD true) || (s.streamsOn die clu).all fun i => ((s.streams[i]?).map (·.kid)) == some kid

/-- The cluster on which the images of a position are seated: the one that it is still bound to, while its partition may use it,
else one that the derailleur chooses (R197, R393, R399, R414). (DEDUCED, log entry 31) -/
def State.seatCluster (s : State) (kid pos : Nat) : Option (Nat × Nat) :=
  match s.boundTo kid pos with
  | some dc =>
    if s.usableCluster (s.ctx (s.ctxOfKernel kid)).part dc.1 dc.2 then (if s.cadenceFree kid dc.1 dc.2 then some dc else none)
    else s.findCluster kid pos
  | none => s.findCluster kid pos

/-- A position of a context with its saved stream and blocks seated on a cluster; a block that names a core of that cluster in its
directory entry takes that core, else one that the CP chooses (R198, R393). -/
def State.seatPos (s : State) (kid pos : Nat) (entry : Nat → Option (Nat × Nat × Nat)) : Option State :=
  let bs := indices s.blocks.length fun i => match s.blocks[i]? with
    | some b => b.bst == .saved && b.kid == kid && b.pos == pos
    | none => false
  let xs := indices s.streams.length fun i => match s.streams[i]? with
    | some x => x.sst == .saved && x.kid == kid && x.pos == pos
    | none => false
  if bs = [] ∧ xs = [] then some s
  else (s.seatCluster kid pos).bind fun dc =>
    let s := s.modPos kid pos fun p => { p with bound := some dc }
    let s := xs.foldl (fun s i => s.seatStream i dc.1 dc.2) s
    bs.foldl (fun o i => o.bind fun s => match entry i with
      | some (d, c, core) => if (d, c) = dc then s.seat i d c core else s.seatIn i dc.1 dc.2
      | none => s.seatIn i dc.1 dc.2) (some s)

/-- The images of a context seated position by position (R393). -/
def State.seatAll (s : State) (ctx : Nat) (entry : Nat → Option (Nat × Nat × Nat)) : Option State :=
  (indices s.kernels.length fun i => ((s.kernels[i]?).map fun k => k.ctx == ctx && k.open').getD false).foldl (fun o i => o.bind fun s =>
    (List.range (((s.kernels[i]?).map (·.positions.length)).getD 0)).foldl (fun o p => o.bind fun s => s.seatPos i p entry) (some s)) (some s)

/-- Every image of a context seated on the units of its directory entries (R393, ARG 0). -/
def State.seatSame (s : State) (ctx : Nat) : Option State :=
  let base := (s.ctx ctx).savepa.toNat + 16
  let bs := s.savedBlocks ctx
  s.seatAll ctx fun i =>
    let w := s.coh64 (base + 16 * bs.idxOf i)
    some (bitsOf w 44 4, bitsOf w 48 4, bitsOf w 52 2)

/-- Every image of a context seated on units of its partition that the derailleur chooses (R393, ARG 1). -/
def State.seatAny (s : State) (ctx : Nat) : Option State :=
  ({ s with kernels := s.kernels.map fun (k : Kernel) =>
      if k.ctx = ctx ∧ k.open' then { k with positions := k.positions.map fun (p : Pos) => { p with bound := none } } else k }).seatAll ctx fun _ => none

/-- The body of a record in a context's stop area (R384), if its index entry is of a kind. (DEDUCED, log entry 29) -/
def State.stopBody (s : State) (ctx kind j : Nat) : Option (List Byte) :=
  let base := (s.ctx ctx).stoppa.toNat
  if j < s.coh64 base % 2 ^ 15 ∧ s.coh64 (base + 0x1000 + 16 * j) % 16 = kind then some (s.cohBytes (base + 0x41000 + 64 * j) 64) else none

/-- A copy read back from its stop record (R294, R388). -/
def Copy.load (c : Copy) (m : List Byte) : Copy :=
  let w := imageNat m 0 4
  { c with kind := bitsOf w 8 2, dir := bitsOf w 10 2, k := bitsOf w 12 4, gix := bitsOf w 16 4, scope := bitsOf w 20 3, hint := bitsOf w 23 2,
           stage := bitsOf w 25 3, get := bitAt w 28, off64 := bitAt w 29, prog := imageNat m 4 4, far := imageNat m 8 8, mask := imageNat m 16 8,
           pbase := imageNat m 24 4, shape := wordsAt m 32 8 }

/-- A tile operation read back from its stop record (R342, R388). -/
def TileOp.load (o : TileOp) (m : List Byte) : TileOp :=
  let ins := match decode [imageNat m 0 4, imageNat m 4 4] with
    | .ok i => i
    | .error _ => o.ins
  let w := imageNat m 40 4
  { o with ins := ins, handle := BitVec.ofNat 32 (imageNat m 8 4), prog := imageNat m 12 4, rec_ := wordsAt m 16 (recLen ins), started := bitAt w 8,
           rgHit := if bitAt w 9 then some (o.rgHit.getD 0) else none, seq := imageNat m 44 4 }

/-- The stopped copies and tile operations of a context read back, each from its own stop record (R342, R388, R392).
(DEDUCED, log entry 29) -/
def State.loadStops (s : State) (ctx : Nat) : State :=
  let body (kind : Nat) (slot : Option Nat) : Option (List Byte) := slot.bind (s.stopBody ctx kind)
  let t := (s.stoppedCopies ctx).foldl (fun t i => t.modCopy i fun c => ((body 1 c.slot).map c.load).getD c) s
  (s.stoppedTiles ctx).foldl (fun t i => t.modTile i fun o => ((body 2 o.slot).map o.load).getD o) t

/-- The length of a block's image (R390). -/
def State.imageLen (s : State) (bid : Nat) : Nat := ((s.blocks[bid]?).map fun b => (s.blockImage bid b).length).getD 0

/-- The blocks of a stream's position that its image has a pair for (R392). -/
def State.streamBlocks (s : State) (sid : Nat) : Nat :=
  match s.streams[sid]? with
  | some st => (s.blocks.filter fun b => b.kid == st.kid && b.pos == st.pos && !b.gone).length
  | none => 0

/-- The images of a context loaded from its save area, in the order of its directory (R393). -/
def State.loadImages (s : State) (ctx : Nat) (bs xs : List Nat) : State :=
  let base := (s.ctx ctx).savepa.toNat
  let image (s : State) (j len : Nat) : List Byte := s.cohBytes (base + s.coh64 (base + 16 + 16 * j) % 2 ^ 40) len
  let s := (bs.zip (List.range bs.length)).foldl (fun s x => s.loadBlock x.1 (image s x.2 (s.imageLen x.1))) s
  (xs.zip (List.range xs.length)).foldl (fun s x =>
    let n := s.streamBlocks x.1
    let m := image s (bs.length + x.2) (1180 + 8 * n)
    s.modStream x.1 fun st => st.load m n) s

/-- The copies and tile operations of blocks that have not completed are discarded, with no arrival (R469). -/
def State.discardEngines (s : State) (bs : List Nat) : State :=
  { s with
    copies := s.copies.map fun (c : Copy) => if bs.contains c.bid ∧ c.open' then { c with cst := CopySt.discarded } else c
    tileOps := s.tileOps.map fun (o : TileOp) => if bs.contains o.bid ∧ o.open' then { o with ost := TileSt.discarded } else o }

/-- A block ends as lost: its groups are gone with its units (R452). -/
def State.loseBlock (s : State) (bid : Nat) : State :=
  { (s.modBlock bid fun b => { b with bst := .lost, halt := none, trigger := none }) with
    groups := s.groups.map fun (g : Group) =>
      if g.bid = bid then { g with gst := GroupSt.ended, bards := [], threads := g.threads.map fun (t : Thread) =>
        { t with live := false, monitor := none, wait := Wait.none, coll := none, pend := [] } } else g }

/-- Some byte of a range that is shorter than a channel group lies on a memory spoke that has failed (R454). -/
def State.deadRange (s : State) (pa n : Nat) : Bool := s.deadPa pa || s.deadPa (pa + n - 1)

/-- Some byte of the image of a length at an index of the directory, or of its entry, lies on a memory spoke that has failed (R457). -/
def State.imageLost (s : State) (ctx j len : Nat) : Bool :=
  let base := (s.ctx ctx).savepa.toNat
  s.deadRange (base + 16 + 16 * j) 16 || s.deadRange (base + s.coh64 (base + 16 + 16 * j) % 2 ^ 40) len

/-- The streams of a restored context whose images are lost (R457); the context has nb saved blocks. -/
def State.lostStreams (s : State) (ctx nb : Nat) (xs : List Nat) : List Nat :=
  (xs.zipIdx.filter fun x => s.imageLost ctx (nb + x.2) (1180 + 8 * s.streamBlocks x.1)).map (·.1)

/-- The blocks of a restored context whose images are lost: their own, or that of the stream of their position (R452,
R457). -/
def State.lostImages (s : State) (ctx : Nat) (bs xs : List Nat) : List Nat :=
  let own := (bs.zipIdx.filter fun x => s.imageLost ctx x.2 (s.imageLen x.1)).map (·.1)
  let ss := s.lostStreams ctx bs.length xs
  bs.filter fun i => own.contains i || ss.any fun j => match s.blocks[i]?, s.streams[j]? with
    | some b, some x => b.kid == x.kid && b.pos == x.pos
    | _, _ => false

/-- RESTORE_DONE (R373, R386, R393, R457): every image is loaded, after the acquire of R250, and the context runs, or is
FAULTED where a cause is pending or an image is lost. (DEDUCED, log entry 31) -/
def execRestoreDone (ctx : Nat) (s : State) : Out :=
  .next (if (s.ctx ctx).st ≠ .migrating then s
    else
      let arg := s.cmdArg ctx 6
      let any := match arg with
        | some a => a % 2 == 1
        | none => true
      let pend := match arg with
        | some a => decide (2 ≤ a)
        | none => s.faultPending ctx
      let bs := s.savedBlocks ctx
      let xs := s.savedStreams ctx
      match (if any then s.seatAny ctx else s.seatSame ctx) with
      | none => s
      | some s =>
        let gone := s.lostImages ctx bs xs
        let ends := s.lostStreams ctx bs.length xs
        let s := (s.loadImages ctx bs xs).loadStops ctx
        let s := bs.foldl (fun s i => match s.blocks[i]? with
          | some b => s.acquire (s.accAt ctx b.die b.clu (some b.coreNo)) 3
          | none => s) s
        let s := xs.foldl (fun s i => match s.streams[i]? with
          | some x => s.acquire (s.accAt ctx x.die x.clu none) 3
          | none => s) s
        let s := gone.foldl (fun s i =>
          let s := match s.blocks[i]? with
            | some b => s.addStop ctx (b.lostRecord s.clock)
            | none => s
          s.loseBlock i) (s.discardEngines gone)
        let s := ends.foldl (fun s i => match s.streams[i]? with
          | some x => (s.addStop ctx (x.lostRecord s.clock)).modStream i fun x => { x with sst := .ended, wait := .none }
          | none => s) s
        let s := s.faultLost ctx
        if pend ∨ gone ≠ [] ∨ ends ≠ [] then (s.modCtx ctx fun c => { c with st := .faulted }).cmdEnd ctx 6 4
        else (s.runCtx ctx).cmdEnd ctx 6 2)

/-! ## Blocks in the reserve (R394, R407, R214) -/

/-- A block that has taken a core runs again: its groups, copies and tile operations go on, after an acquire at PART; its
monitors are lost, and BARDs that have waited for the block arrive (R308, R315, R393, R407). -/
def State.wake (s : State) (bid : Nat) : State :=
  let s := match s.blocks[bid]? with
    | some b => s.acquire (s.accAt (s.ctxOfKernel b.kid) b.die b.clu (some b.coreNo)) 3
    | none => s
  let s : State := { s with
    groups := s.groups.map fun (g : Group) =>
      if g.bid = bid ∧ g.gst = .stopped then
        { g with gst := .running, full := false, threads := g.threads.map fun t =>
            { t.again s.tick with monitor := t.monitor.map fun m => { m with lost := true } } }
      else g
    copies := s.copies.map fun (c : Copy) => if c.bid = bid ∧ c.cst = CopySt.stopped then { c with cst := CopySt.queued, cause := 0, tval := 0 } else c
    tileOps := s.tileOps.map fun (o : TileOp) => if o.bid = bid ∧ o.ost = TileSt.stopped then { o with ost := TileSt.queued, cause := 0 } else o }
  s.bardsArriveAll

/-- A block from the reserve runs again, read back from its image, on a cluster that has room (R394, R407).
(DESIGN CHOICE, log entry 28) -/
def State.reseat (s : State) (bid die clu : Nat) : Option State := (s.seatIn bid die clu).map fun s => (s.readReserve bid).wake bid

/-- The cluster for a position whose own spoke has failed: one that the partition owns on another mapped spoke that serves,
the lowest logical die first (R452). -/
def State.findElsewhere (s : State) (kid failed : Nat) : Option (Nat × Nat) :=
  (s.kernels[kid]?).bind fun k =>
    let part := (s.ctx k.ctx).part
    ((List.range 8).filterMap (s.part part).spoke).findSome? fun e =>
      if e = failed ∨ (s.die e).st ≠ .serving then none
      else
        (indices 9 fun c => s.usableCluster part e c && ((s.clusters[9 * e + c]?).map (·.cond)) == some 1 &&
          (k.positions.all fun p => p.bound != some (e, c)) && s.cadenceFree kid e c).head?.map (e, ·)

/-- The cluster on which the blocks of a position in the reserve are restored: the one that it is bound to, or, once all its blocks
have left the one that it was bound to, another (R15, R407, R452): on another spoke where a block was rebuilt because its own had
failed. -/
def State.reserveCluster (s : State) (kid pos : Nat) : Option (Nat × Nat) :=
  match s.boundTo kid pos with
  | some dc => some dc
  | none =>
    if s.blocks.any fun b => b.kid == kid && b.pos == pos && b.bst == .placed then none
    else match s.blocks.find? fun b => b.kid == kid && b.pos == pos && b.bst == .reserve && b.rebuilt with
      | some b => s.findElsewhere kid b.die
      | none => s.findCluster kid pos

/-- A stage set of a higher priority in the partition of a kernel waits for space on a cluster (R214). -/
def State.outranked (s : State) (kid : Nat) (dc : Nat × Nat) : Bool :=
  match s.kernels[kid]? with
  | none => false
  | some k => (List.range s.kernels.length).any fun i => match s.kernels[i]? with
    | none => false
    | some x =>
      let waits (p : Nat) : Bool := ((x.positions[if x.resident then 0 else p]?).bind (·.since)).isSome
      x.kst == .dispatching && (s.ctx x.ctx).part == (s.ctx k.ctx).part && (s.ctx x.ctx).active && decide (s.prioOf k < s.prioOf x) &&
        (List.range x.positions.length).any fun p => waits p && s.clusterFor i p == some dc

/-- RESERVE_RESTORE (R214, R407, R452): a block whose image is in the reserve is restored on the cluster of its position, which
is bound anew if it has lost its cluster, once there is room that no set of a higher priority waits for. A block that was rebuilt
after its spoke failed takes its core in the halt of its context already, and stands stopped there. -/
def execReserveRestore (bid : Nat) (s : State) : Out :=
  .next (match s.blocks[bid]? with
    | none => s
    | some b =>
      let st := (s.ctx (s.ctxOfKernel b.kid)).st
      if b.bst ≠ .reserve ∨ (st ≠ .running ∧ (st ≠ .halting ∨ b.rebuilt = false)) then s
      else match s.reserveCluster b.kid b.pos with
        | none => s
        | some dc =>
          if s.outranked b.kid dc then s
          else
            let s' := s.bindPos b.kid b.pos dc.1 dc.2
            (if st = .running then s'.reseat bid dc.1 dc.2 else (s'.seatIn bid dc.1 dc.2).map (·.readReserve bid)).getD s)

/-- The stage set that a kernel of a context waits to place has waited 50 µs (R214, R406). -/
def State.waited (s : State) (k : Kernel) : Bool :=
  k.kst == .dispatching && k.positions.any fun p => match p.since with
    | some t => decide (t + 50000 ≤ s.clock)
    | none => false

/-- The block that the CP pre-empts next for a kernel: of the lowest priority below its own in its partition, of the
youngest kernel there, the youngest block (R214). (DEDUCED, log entry 35) -/
def State.preemptVictim (s : State) (k : Kernel) : Option Nat :=
  let part := (s.ctx k.ctx).part
  let key (i : Nat) : Option (Nat × Nat) := (s.blocks[i]?).bind fun b => (s.kernels[b.kid]?).bind fun x =>
    if b.bst = .placed ∧ b.halt.isNone ∧ (s.ctx x.ctx).part = part ∧ (s.ctx x.ctx).st = .running ∧ s.prioOf x < s.prioOf k then some (s.prioOf x, b.kid) else none
  (List.range s.blocks.length).foldl (fun m i => match key i, m.bind key with
    | none, _ => m
    | some _, none => some i
    | some x, some y => if x.1 < y.1 ∨ (x.1 = y.1 ∧ y.2 ≤ x.2) then some i else m) none

/-- PRIORITY_PREEMPTION (R214): for a stage set that has waited 50 µs, one block of lower priority is stopped; the next
follows when it has stopped and the set still does not fit. -/
def execPriorityPreemption (kid : Nat) (s : State) : Out :=
  .next (match s.kernels[kid]? with
    | none => s
    | some k =>
      let busy := s.blocks.any fun b => b.halt.isSome && (s.ctx (s.ctxOfKernel b.kid)).part == (s.ctx k.ctx).part
      if s.waited k = false ∨ busy ∨ (s.ctx k.ctx).active = false then s
      else match s.preemptVictim k with
        | none => s
        | some bid =>
          s.stopBlock bid (s.rto (((s.blocks[bid]?).map fun b => s.ctxOfKernel b.kid).getD 0)))

/-! ## KILL and DESTROY (R373) -/

/-- Everything that a context holds is released: queues CLOSED, kernels DISCARDED, copies and tile operations discarded
without arrival (R373). -/
def State.killCtx (s : State) (ctx : Nat) : State :=
  let mine (kid : Nat) : Bool := s.ctxOfKernel kid == ctx
  let bmine (bid : Nat) : Bool := ((s.blocks[bid]?).map fun b => mine b.kid).getD false
  let s := (s.withdrawCtx ctx).cmdDrop ctx
  let s := { s with
    tileOps := s.tileOps.map fun (o : TileOp) => if s.ctxOfTile o = ctx ∧ o.open' then { o with ost := TileSt.discarded } else o
    copies := s.copies.map fun (c : Copy) => if c.ctx = ctx ∧ c.open' then { c with cst := CopySt.discarded } else c }
  { s with
    groups := s.groups.map fun (g : Group) =>
      if bmine g.bid then { g with gst := GroupSt.ended, bards := [], threads := g.threads.map fun (t : Thread) => { t with live := false, monitor := none, wait := Wait.none, coll := none, pend := [] } } else g
    blocks := s.blocks.map fun (b : Block) => if mine b.kid ∧ b.gone = false then { b with bst := .discarded, halt := none, trigger := none } else b
    streams := s.streams.map fun (x : Stream) => if mine x.kid then { x with sst := StreamSt.ended, wait := Wait.none } else x
    kernels := s.kernels.map fun (k : Kernel) => if k.ctx = ctx ∧ k.open' then
      { k with kst := KernelSt.discarded, inQueue := false, positions := k.positions.map fun (p : Pos) => { p with bound := none, since := none } } else k }.modCtx ctx fun c =>
        { c with st := .dead, line := none, queues := List.replicate 16 Queue.closed }

/-- KILL (R373): any context but a FREE one is DEAD. -/
def execKill (die ctx : Nat) (s : State) : Out :=
  .next (s.command die ctx ((s.killCtx ctx).cmdStatus die 2))

/-- The cached lines of a context lose its tag: what becomes of them is no event of a later context of its number (R373, R395). -/
def State.untag (s : State) (ctx : Nat) : State :=
  { s with l1 := s.l1.map fun e => (e.1, if e.2.tag = ctx then { e.2 with tag := noCtx } else e.2),
           l2 := s.l2.map fun e => (e.1, if e.2.tag = ctx then { e.2 with tag := noCtx } else e.2) }

/-- DESTROY (R373, R395): the number is FREE again, its record and counters as at reset. -/
def execDestroy (die ctx : Nat) (s : State) : Out :=
  .next (s.command die ctx
    (if (s.ctx ctx).st = .bound ∨ (s.ctx ctx).st = .dead then ((s.untag ctx).modCtx ctx fun _ => Ctx.free).cmdStatus die 2 else s.cmdStatus die 3))

end Sys2Proof.Machine
end

