-- ==== Sys2Proof/Machine/Partition.lean ====
section
/-! DEFINITION. Partitions, units, lending, the shift, mode changes, reset, dissolution, MOVE, and PINFO
(R398 to R424). -/

namespace Sys2Proof.Machine

/-! ## Units (R398, R399, R424) -/

/-- The table entry of a unit. -/
def State.unit? (s : State) : UnitName → Option UnitRec
  | .cluster d c => if d < 8 ∧ c < 9 then s.clusters[9 * d + c]? else none
  | .slice d n => if d < 8 ∧ n < 32 then s.slices[32 * d + n]? else none
  | .cg n => s.cgs[n]?

/-- The table entry of a unit changed. -/
def State.modUnit (s : State) (u : UnitName) (f : UnitRec → UnitRec) : State :=
  match u with
  | .cluster d c => { s with clusters := s.clusters.modify (9 * d + c) f }
  | .slice d n => { s with slices := s.slices.modify (32 * d + n) f }
  | .cg n => { s with cgs := s.cgs.modify n f }

/-- The compute spoke of a cluster or slice. -/
def unitSpoke : UnitName → Option Nat
  | .cluster d _ => some d
  | .slice d _ => some d
  | .cg _ => none

/-- Every unit of the package. -/
def allUnits : List UnitName :=
  ((List.range 8).flatMap fun d => (List.range 9).map (UnitName.cluster d)) ++
    ((List.range 8).flatMap fun d => (List.range 32).map (UnitName.slice d)) ++ (List.range 96).map UnitName.cg

/-- The units that satisfy a test. -/
def State.unitsWhere (s : State) (p : UnitRec → Bool) : List UnitName := allUnits.filter fun u => ((s.unit? u).map p).getD false

/-- A unit lies on a spoke that a partition's map holds, or is a channel group (R400). -/
def Part.maps (p : Part) (u : UnitName) : Bool :=
  match unitSpoke u with
  | some d => (p.logical d).isSome
  | none => true

/-! ## PINFO (R421) -/

/-- The counts of units that satisfy a test, in the layout of `.gear` (R421). -/
def State.unitCounts (s : State) (p : UnitName → UnitRec → Bool) : Nat :=
  (s.clusters.zipIdx.filter fun x => p (.cluster (x.2 / 9) (x.2 % 9)) x.1).length +
    2 ^ 8 * (s.slices.zipIdx.filter fun x => p (.slice (x.2 / 32) (x.2 % 32)) x.1).length +
    2 ^ 24 * (s.cgs.zipIdx.filter fun x => p (.cg x.2) x.1).length

/-- A unit lent by its owner, until it is back (R421). -/
def UnitRec.lent (u : UnitRec) : Bool := u.cond == 2 || u.cond == 3 || (u.cond == 4 && u.after == 3)

/-- The unit of a partition's shift that does one of some things and has not committed: 1 shrink, 2 lend out (R410). -/
def State.shifting (s : State) (p : Nat) (what : List Nat) (u : UnitName) : Bool :=
  ((s.part p).shift.map fun sh => what.contains sh.what && sh.unit_ == u).getD false

/-- A cluster counts as usable for placement: an incoming one from the commit on, an outgoing one until it (R421). -/
def State.countsUsable (s : State) (p d c : Nat) : Bool := s.shifting p [1, 2] (.cluster d c) || s.usableCluster p d c

/-- The value that PINFO reads for an agent (R421). -/
def State.pinfo (s : State) (who : Agent) (sel : Nat) : Nat :=
  let ctx := s.ctxOf who
  let p := (s.ctx ctx).part
  let x := s.part p
  let die := match who with
    | .group gid => (((s.groups[gid]?).bind fun g => s.blocks[g.bid]?).map (·.die)).getD 0
    | .stream sid => ((s.streams[sid]?).map (·.die)).getD 0
  let valid := indices 8 fun i => (x.spoke i).isSome
  match sel with
  | 0x00 => p + 2 ^ 8 * s.partState p + 2 ^ 16 * x.epoch.toNat
  | 0x01 => s.unitCounts fun _ u => u.ownedBy p && u.gear
  | 0x02 => s.unitCounts fun _ u => u.ownedBy p
  | 0x03 => s.unitCounts fun n u => u.lent && u.owner == p && !s.shifting p [2] n
  | 0x04 => s.unitCounts fun _ u => u.lent && u.borrower == p && u.taken
  | 0x05 => valid.foldl (fun n i => n + 2 ^ i) 0 + 2 ^ 8 * valid.length
  | 0x06 =>
    let us := (indices 9 fun c => s.countsUsable p die c).filterMap fun c => s.clusters[9 * die + c]?
    us.length + 16 * (us.filter fun u => u.cond == 2 && u.borrower == p).length
  | 0x07 => min (s.ctx ctx).clampN 0xFFFFFFFF
  | _ => ((s.ctx ctx).clampPc.map (·.toNat)).getD 0xFFFFFFFF

/-- PINFO (R421). -/
def execPinfo (g la : BitVec 4) (d : BitVec 8) (sl : BitVec 6) (s : State) : Out :=
  .next (s.uniOp g fun i u => u.late la.toNat [(d.toNat, BitVec.ofNat 32 (s.pinfo i.who sl.toNat))] [])

/-! ## Slice tables (R410, R412) -/

/-- The entries that a slice number holds in a table. -/
def sliceCount (t : List (BitVec 8)) (n : Nat) : Nat := (t.filter fun x => x.toNat == n).length

/-- Among slice numbers, the one with the most entries, the lowest on ties. -/
def mostEntries (t : List (BitVec 8)) (l : List Nat) : Nat :=
  (l.foldl (fun (m : Option Nat) n => match m with
    | none => some n
    | some k => if sliceCount t k < sliceCount t n then some n else some k) none).getD 0

/-- Among slice numbers, the one with the fewest entries, the lowest on ties. -/
def fewestEntries (t : List (BitVec 8)) (l : List Nat) : Nat :=
  (l.foldl (fun (m : Option Nat) n => match m with
    | none => some n
    | some k => if sliceCount t n < sliceCount t k then some n else some k) none).getD 0

/-- The slices that a table names, ascending, other than one. -/
def tableSlices (t : List (BitVec 8)) (but : Nat) : List Nat := indices 32 fun n => n != but && decide (0 < sliceCount t n)

/-- One entry given to a new slice: the highest-numbered of the slice with the most entries (R410). -/
def giveEntry (t : List (BitVec 8)) (new : Nat) : List (BitVec 8) :=
  let from' := mostEntries t (tableSlices t new)
  match ((indices 64 fun i => ((t[i]?).map (·.toNat)) == some from').getLast?) with
  | some i => t.set i (BitVec.ofNat 8 new)
  | none => t

/-- A table after slice n is added (R410). -/
def addSlice (t : List (BitVec 8)) (n : Nat) : List (BitVec 8) :=
  let k := (tableSlices t n).length
  if k = 0 then List.replicate 64 (BitVec.ofNat 8 n)
  else (List.range (64 / (k + 1))).foldl (fun t _ => giveEntry t n) t

/-- The table of a spoke on which a partition has no slice. (DESIGN CHOICE, log entry 18) -/
def noTable : List (BitVec 8) := List.replicate 64 0xFF

/-- A table after slice n is removed (R410). -/
def removeSlice (t : List (BitVec 8)) (n : Nat) : List (BitVec 8) :=
  let left := tableSlices t n
  if left = [] then noTable
  else (indices 64 fun i => ((t[i]?).map (·.toNat)) == some n).foldl (fun t i => t.set i (BitVec.ofNat 8 (fewestEntries (t.set i 0xFF) left))) t

/-- The slices of a spoke that a partition uses as its own (R410). -/
def State.ownSlices (s : State) (p d : Nat) : List Nat :=
  indices 32 fun n => ((s.slices[32 * d + n]?).map fun u => u.owner == p && (u.cond == 1 || (u.cond == 4 && u.after == 5))).getD false

/-- The table that FORM builds: entry i is the (i mod n)th of the spoke's owned slices (R410). (DESIGN CHOICE, log entry 18) -/
def formTable (l : List Nat) : List (BitVec 8) :=
  if l = [] then noTable else (List.range 64).map fun i => BitVec.ofNat 8 ((l[i % l.length]?).getD 0)

/-- The slice tables of a partition built as at FORM (R410, R417). (DEDUCED, log entry 37) -/
def State.formTables (s : State) (p : Nat) : State :=
  s.modPart p fun x => { x with slt := (List.range 8).map fun d => formTable (s.ownSlices p d), sltOld := List.replicate 8 noTable }

/-- A new table for a spoke, the old one kept for the dual lookup of step 4 (R412, R424). -/
def State.installTable (s : State) (p d : Nat) (f : List (BitVec 8) → List (BitVec 8)) : State :=
  s.modPart p fun x =>
    let old := (x.slt[d]?).getD []
    { x with slt := x.slt.set d (f old), sltOld := x.sltOld.set d old }

/-- The lines of a partition on its spokes moved to their present home slices, each into a way of its context's class, and the old
tables dropped (R412, R413). -/
def State.sweep (s : State) (p : Nat) : State :=
  let ls := s.l2.filter fun e => decide (e.1 / 2 ^ 45 < 8) && e.2.part == p
  let s := ls.foldl (fun s e =>
    s.rehome { (s.accAt e.2.tag (e.1 / 2 ^ 45) 0 none) with part := p } (e.1 / 2 ^ 45) (e.1 % 2 ^ 45)) s
  s.modPart p fun x => { x with sltOld := List.replicate 8 noTable }

/-! ## Scrubbing (R411) -/

/-- The lines of a slice written back to the rim cache and dropped, its way masks and counters as at reset (R411). -/
def State.scrubSlice (s : State) (d n : Nat) : State :=
  let ks := (s.l2.filter fun e => decide (e.1 / 2 ^ 45 = d) && e.2.slice == n).map (·.1)
  let s := ks.foldl (fun s k => s.flushLine d (k % 2 ^ 45)) s
  { s with ways := tdel s.ways (32 * d + n) }

/-- The L1s, the atomic unit and the first-level translation caches of a cluster emptied, its owned words written home (R411). -/
def State.scrubCluster (s : State) (d c : Nat) : State :=
  let mine (core : Nat) : Bool := core == unitCore (9 * d + c) || (decide (core < 288) && core / 4 == 9 * d + c)
  let owned := (s.l1.filter fun e => mine (e.1 / 2 ^ 45) && e.2.cells.any (·.2.owned)).map fun e => e.1 % 2 ^ 45
  let s := (owned.foldl (fun s l => s.writeBack d l) s).filterL1 fun core _ _ _ => !mine core
  { s with tlb := s.tlb.filter fun t => !((t.core.map mine).getD false) }

/-- A range of device memory zeroed, with no line of it in any cache (R411). -/
def State.zeroRange (s : State) (lo n : Nat) : State :=
  let in' (pa : Nat) : Bool := decide (lo ≤ pa) && decide (pa < lo + n)
  ({ s with mem := s.mem.filter fun c => !in' c.1, l2 := s.l2.filter fun e => !in' (e.1 % 2 ^ 45 * 128),
            poison := s.poison.filter fun l => !in' (l * 128) } : State).filterL1 fun _ l _ _ => !in' (l * 128)

/-- A unit scrubbed: a channel group whole, or its window when it is lent or comes back (R411). -/
def State.scrub (s : State) (u : UnitName) (r : UnitRec) : State :=
  match u with
  | .cluster d c => s.scrubCluster d c
  | .slice d n => s.scrubSlice d n
  | .cg n => if r.after = 2 ∨ r.after = 3 then s.zeroRange (n * 2 ^ 33 + r.window * 2 ^ 26) (2 ^ 26) else s.zeroRange (n * 2 ^ 33) (2 ^ 33)

/-! ## Steps of a shift (R410) -/

/-- The step of the shift of a partition, shown in DRSTS while its command is in progress (R410, R422). -/
def State.shiftTo (s : State) (p : Nat) (step what : Nat) (u : UnitName) : State :=
  (s.modPart p fun x => { x with shift := some { step := step, what := what, unit_ := u } }).modHub fun h =>
    { h with drStep := if h.drSts = 1 ∧ what ≠ 5 then BitVec.ofNat 4 step else h.drStep }

/-- The channel groups that count as near on a spoke: those owned or borrowed by the partitions that map it (R364, R404).
(DEDUCED, log entry 38) -/
def State.nearSet (s : State) (d : Nat) : BitVec 96 :=
  let ps := indices 24 fun p => ((s.part p).logical d).isSome && (s.part p).formed
  BitVec.ofNat 96 ((indices 96 fun g => let u := s.cg g
    (u.cond == 1 && ps.contains u.owner) || ((u.cond == 2 || u.cond == 3) && ps.contains u.borrower)).foldl (fun n g => n + 2 ^ g) 0)

/-- NEAR of every spoke that a partition maps rewritten (R364, R410). -/
def State.rewriteNear (s : State) (p : Nat) : State :=
  (indices 8 fun d => ((s.part p).logical d).isSome).foldl (fun s d => let n := s.nearSet d; s.modDie d fun x => { x with near := n }) s

/-- A shift of a partition that takes a lent unit in begins (R403, R410). -/
def State.startLoan (s : State) (p : Nat) (u : UnitName) : State :=
  match u with
  | .slice d n => (s.installTable p d fun t => addSlice t n).shiftTo p 4 3 u
  | _ => s.shiftTo p 5 3 u

/-- The borrower's shift that takes a lent unit in: it waits for one that is in progress (R410). -/
def State.takeLoan (s : State) (peer : Nat) (u : UnitName) : State :=
  if (s.part peer).shift.isSome then s.modPart peer fun x => { x with loans := x.loans ++ [{ step := 2, what := 3, unit_ := u }] }
  else s.startLoan peer u

/-- The shift of a partition ends, and the oldest of those that wait for it begins (R410). -/
def State.endShift (s : State) (p : Nat) : State :=
  let s := s.modPart p fun x => { x with shift := none }
  match (s.part p).loans with
  | [] => s
  | l :: rest => (s.modPart p fun x => { x with loans := rest }).startLoan p l.unit_

/-- A commit of a partition: its shift ends, NEAR is rewritten, the epoch rises (R410). -/
def State.commitShift (s : State) (p : Nat) : State :=
  ((s.modPart p fun x => { x with epoch := x.epoch + 1 }).rewriteNear p).endShift p

/-- A slice that has come back and is in no table is taken in by a shift (R410). -/
def State.rehashIn (s : State) (p : Nat) : State :=
  let x := s.part p
  if x.active = false ∨ x.resetting ∨ x.shift.isSome then s
  else
    match allUnits.find? fun u => match u with
        | .slice d n => ((s.unit? u).map fun r => r.cond == 1 && r.owner == p).getD false && sliceCount ((x.slt[d]?).getD []) n == 0
        | _ => false with
    | some (.slice d n) => (s.installTable p d fun t => addSlice t n).shiftTo p 4 5 (.slice d n)
    | _ => s

/-- The blocks on a cluster, its streams and the positions bound to it leave it (R407): blocks stop under PREEMPT with a
reconvergence limit, streams at an instruction boundary, after a release at PART. -/
def State.evict (s : State) (d c : Nat) (limit : Nat → Nat) : State :=
  let bs := indices s.blocks.length fun i => match s.blocks[i]? with
    | some b => b.die == d && b.clu == c && b.bst == .placed
    | none => false
  let xs := s.streamsOn d c
  let s := { s with kernels := s.kernels.map fun (k : Kernel) =>
    { k with positions := k.positions.map fun (p : Pos) => if p.bound = some (d, c) then { p with bound := none } else p } }
  let s := xs.foldl (fun s i => ((s.withdraw (.stream i)).release (s.accOf (.stream i)) 3).modStream i fun x =>
    if x.sst = .running then { x with sst := .stopped, u := x.u.completeAll, wait := .none } else x) s
  (bs.foldl (fun s i => s.stopBlock i (limit (((s.blocks[i]?).map fun b => s.ctxOfKernel b.kid).getD 0))) s).vacate d c

/-! ## FORM, ACTIVATE, GROW, SHRINK (R402, R410) -/

/-- FORM (R402). -/
def execForm (part : Nat) (s : State) : Out :=
  .next (if s.partState part = 0 ∨ s.partState part = 8 then
      (s.modPart part fun _ => { Part.unformed with formed := true }).drStatus 2
    else s.drStatus 3)

/-- ACTIVATE (R402): units on every mapped spoke, a channel group and a reserve. (DEDUCED, log entry 37)
(DEDUCED, log entry 39) -/
def execActivate (part : Nat) (s : State) : Out :=
  let x := s.part part
  let owns (p : UnitName → Bool) : Bool := allUnits.any fun u => p u && ((s.unit? u).map fun r => r.cond == 1 && r.owner == part).getD false
  let spokes := (List.range 8).filterMap x.spoke
  .next (if s.partState part ≠ 1 then s.drStatus 3
    else if !(spokes.all fun d => owns (fun u => match u with
        | .cluster e _ => e == d
        | _ => false) && owns fun u => match u with
        | .slice e _ => e == d
        | _ => false) || !(owns fun u => match u with
        | .cg _ => true
        | _ => false) then s.drStatus 5
    else if x.ressz = 0 ∨ s.ownMemory part x.respa.toNat x.ressz.toNat = false then s.drStatus 7
    else (((s.formTables part).modPart part fun x => { x with active := true }).rewriteNear part).drStatus 2)

/-- PART_GROW (R402, R410): a FREE unit is scrubbed and assigned, in a shift unless the partition is FORMED. -/
def execPartGrow (part : Nat) (u : UnitName) (gear : Bool) (s : State) : Out :=
  let st := s.partState part
  .next (if st ≠ 1 ∧ st ≠ 2 ∧ st ≠ 4 then s.drStatus 3
    else match s.unit? u with
      | none => s.drStatus 5
      | some r =>
        if r.cond ≠ 0 ∨ r.usable = false ∨ (s.part part).maps u = false then s.drStatus 5
        else
          let s := (s.modUnit u fun r => { r with cond := 4, after := 1, owner := part, gear := gear }).drStatus 1
          if st = 1 then s else s.shiftTo part 2 0 u)

/-- PART_SHRINK (R402, R407, R410): an owned unit is released, after its work has moved off it. -/
def execPartShrink (part : Nat) (u : UnitName) (arg : Nat) (s : State) : Out :=
  let st := s.partState part
  .next (if st ≠ 1 ∧ st ≠ 2 ∧ st ≠ 4 then s.drStatus 3
    else match s.unit? u with
      | none => s.drStatus 5
      | some r =>
        if r.cond ≠ 1 ∨ r.owner ≠ part then s.drStatus 5
        else match u, arg % 2 with
          | .cg _, 0 => s.drStatus 4
          | _, _ =>
            let s := s.drStatus 1
            if st = 1 then s.modUnit u fun r => { r with cond := 4, after := 0 }
            else match u with
              | .cluster d c => (s.shiftTo part 3 1 u).evict d c s.rto
              | .slice d n => (s.installTable part d fun t => removeSlice t n).shiftTo part 4 1 u
              | .cg _ => s.shiftTo part 5 1 u)

/-! ## Lending (R403 to R405) -/

/-- The status of a LEND: 0 if it is accepted, else the first failure of R403. (DEDUCED, log entry 20)
(DEDUCED, log entry 41) -/
def State.lendStatus (s : State) (part peer : Nat) (u : UnitName) (window : Nat) : Nat :=
  let a := s.part part
  let b := s.part peer
  let ok (p : Nat) : Bool := s.partState p == 2 || s.partState p == 4
  let isCg := match u with
    | .cg _ => true
    | _ => false
  let borrowed := (s.cgs.filter fun r => (r.cond == 2 || r.cond == 3) && r.borrower == peer).length
  let pa := match u with
    | .cg n => n * 2 ^ 33 + window * 2 ^ 26
    | _ => 0
  let area := (s.ctxs.any fun c => c.2.part == part && c.2.st != .free && c.2.st != .dead &&
      (overlaps pa (2 ^ 26) c.2.stoppa.toNat stopBytes || overlaps pa (2 ^ 26) c.2.savepa.toNat c.2.savesz.toNat))
  let idle := match u with
    | .cluster d c => s.clusterEmpty d c && s.streamsOn d c == []
    | _ => true
  if !ok part || !ok peer then 3
  else if isCg && b.shadows.all (·.isSome) then 6
  else match s.unit? u with
    | none => 5
    | some r =>
      if r.cond ≠ 1 ∨ r.owner ≠ part ∨ r.gear ∨ part = peer ∨ a.mode.getLsbD 0 = false ∨ b.mode.getLsbD 1 = false ∨ b.maps u = false ∨ idle = false ∨
        (isCg ∧ (4 ≤ borrowed ∨ area)) then 5 else 0

/-- LEND (R403, R405): the lender's shift takes the unit out of its tables, a cluster from the positions that are bound to it; it is
scrubbed and LENT, and the borrower's shift takes it in. (DEDUCED, log entry 20) -/
def execLend (part peer : Nat) (u : UnitName) (arg : Nat) (s : State) : Out :=
  let window := arg % 128
  .next (match s.lendStatus part peer u window with
    | 0 =>
      let s := (s.modUnit u fun r => { r with borrower := peer, window := window, taken := false }).drStatus 1
      match u with
      | .slice d n => (s.installTable part d fun t => removeSlice t n).shiftTo part 4 2 u
      | .cluster d c => ((s.shiftTo part 2 2 u).evict d c s.rto).modUnit u fun r => { r with cond := 4, after := 2 }
      | .cg n =>
        let s := (s.shiftTo part 2 2 u).modUnit u fun r => { r with cond := 4, after := 2 }
        s.modPart peer fun x =>
          match (indices 4 fun i => ((x.shadows[i]?).join).isNone).head? with
          | some i => { x with shadows := x.shadows.set i (some { cg := n, window := window, redir := false }) }
          | none => x
    | st => s.drStatus st)

/-! ## Revocation (R406 to R408) -/

/-- The shadow slot of a borrower that stands for a borrowed group: one with no redirect yet (R405, R408). -/
def Part.slotOf (p : Part) (cg : Nat) : Option Nat :=
  (indices 4 fun i => match (p.shadows[i]?).join with
    | some sh => sh.cg == cg && !sh.redir
    | none => false).head?

/-- The shadow slots of a partition without those that stand for a group with no redirect (R405, R408). -/
def Part.dropSlot (p : Part) (cg : Nat) : Part :=
  { p with shadows := p.shadows.map fun (o : Option Shadow) => o.filter fun y => !(y.cg == cg && !y.redir) }

/-- A borrower's shift that adds the very unit that is revoked is abandoned with NOUNIT (R410): the unit was never its own, so that
no shadow slot stands for it. -/
def State.abandonLoan (s : State) (b : Nat) (u : UnitName) : State :=
  let x := s.part b
  let adding := match x.shift with
    | some sh => sh.what == 3 && sh.unit_ == u
    | none => false
  if !adding && !(x.loans.any fun l => l.unit_ == u) then s
  else
    let s := s.modPart b fun x =>
      let x := { x with loans := x.loans.filter fun l => l.unit_ != u }
      match u with
      | .cg n => x.dropSlot n
      | _ => x
    ((if adding then s.endShift b else s).drStatus 5).modHub fun h => { h with drStep := 0 }

/-- A revocation begins (R406): the unit is RECLAIMING and its work leaves it. A borrower's shift that adds the very unit
is abandoned with NOUNIT (R410). -/
def State.revoke (s : State) (part : Nat) (u : UnitName) : State :=
  match s.unit? u with
  | none => s
  | some r =>
    if r.cond ≠ 2 ∨ r.owner ≠ part then s
    else
      let b := r.borrower
      let s := s.abandonLoan b u
      let s := (s.modUnit u fun r => { r with cond := 3 }).modHub fun h => { h with revs := h.revs ++ [{ unit_ := u, lender := part, borrower := b }] }
      match u with
      | .cluster d c => s.evict d c fun ctx => min (s.rto ctx) 20000
      | .slice d n => s.installTable b d fun t => removeSlice t n
      | .cg _ => s

/-- REVOKE (R406, R422): a unit that the partition has not lent is ignored; a seventeenth revocation is discarded. -/
def execRevoke (part : Nat) (u : UnitName) (s : State) : Out :=
  .next (match s.unit? u with
    | some r =>
      if r.cond ≠ 2 ∨ r.owner ≠ part then s
      else if 16 ≤ s.hub.revs.length then s.modHub fun h => { h with rovf := true }
      else s.revoke part u
    | none => s)

/-- AUTORECL (R406): a stage set of the lender has waited 50 µs, and one lent cluster is revoked. -/
def execAutorecl (part kid : Nat) (s : State) : Out :=
  .next (match s.kernels[kid]? with
    | none => s
    | some k =>
      if (s.part part).mode.getLsbD 3 = false ∨ (s.ctx k.ctx).part ≠ part ∨ s.waited k = false ∨ 16 ≤ s.hub.revs.length ∨
          (s.hub.revs.any fun r => r.lender == part && (match r.unit_ with
            | .cluster .. => true
            | _ => false)) then s
      else match (s.unitsWhere fun r => r.cond == 2 && r.owner == part).find? fun u => match u with
          | .cluster .. => true
          | _ => false with
        | some u => s.revoke part u
        | none => s)

/-- SHADOW_COPY_DONE (R406, R408, R409): the window of a revoked group has been flushed on the spokes, as has what they hold of the
borrower's shadow slot, and copied to the slot, and the redirect stands. A window that its borrower never got has no slot, and is
zeroed at once. -/
def execShadowCopyDone (cg : Nat) (s : State) : Out :=
  let r := s.cg cg
  .next (if r.cond ≠ 3 then s
    else match (s.part r.borrower).slotOf cg with
      | none => s.modUnit (.cg cg) fun r => { r with cond := 4, after := 3 }
      | some i =>
        let lo := cg * 2 ^ 33 + r.window * 2 ^ 26
        let dst := (s.part r.borrower).shadowpa.toNat + i * 2 ^ 26
        let s := (List.range 8).foldl (fun s d => (s.recallRange d lo (lo + 2 ^ 26)).recallRange d dst (dst + 2 ^ 26)) s
        let s := s.copyHome lo dst (2 ^ 26)
        let s := s.modPart r.borrower fun x => { x with shadows := x.shadows.modify i fun o => o.map fun sh => { sh with redir := true } }
        s.modUnit (.cg cg) fun r => { r with cond := 4, after := 3, redir := true })

/-- The REDIR mark of a channel group follows the redirects that stand into it (R424). -/
def State.clearRedir (s : State) (cg : Nat) : State :=
  let still := s.parts.any fun x => x.shadows.any fun o => match o with
    | some sh => sh.redir && sh.cg == cg
    | none => false
  s.modUnit (.cg cg) fun r => { r with redir := still }

/-- CLRREDIR (R402, R408): the slot of a standing redirect is freed. -/
def execClrredir (part slot : Nat) (s : State) : Out :=
  let st := s.partState part
  .next (if st = 0 ∨ st = 6 ∨ st = 7 ∨ st = 8 then s.drStatus 3
    else match ((s.part part).shadows[slot]?).join with
      | some sh =>
        if sh.redir then
          ((s.modPart part fun x => { x with shadows := x.shadows.set slot none }).clearRedir sh.cg).drStatus 2
        else s.drStatus 5
      | none => s.drStatus 5)

/-- A unit whose revocation ends is OWNED by its lender again; the borrower's counts change (R406, R421). -/
def State.returned (s : State) (u : UnitName) (r : UnitRec) : State :=
  let s := s.modUnit u fun r => { r with cond := 1, after := 0, borrower := 0, taken := false }
  let s := match u with
    | .cg n => s.modPart r.borrower fun x => x.dropSlot n
    | _ => s
  let s := (s.modHub fun h => { h with revs := h.revs.filter fun v => v.unit_ != u }).modPart r.borrower fun x => { x with epoch := x.epoch + 1 }
  ((s.rewriteNear r.borrower).rewriteNear r.owner).rehashIn r.owner

/-- SCRUB_COMPLETE (R411): a unit has been scrubbed and passes to its next user: to its new owner in a shift or while the
partition is FORMED, to its borrower, back to its lender, or to the pool. A revoked cluster is scrubbed once it is empty. -/
def execScrubComplete (u : UnitName) (s : State) : Out :=
  .next (match s.unit? u with
    | none => s
    | some r =>
      let ready := r.cond == 4 || (r.cond == 3 && (match u with
        | .cluster d c => s.clusterEmpty d c
        | _ => false))
      -- a shift of a partition goes to its next step only when no revocation is aimed at the partition (R410)
      let paused := r.cond == 4 && (r.after == 1 || r.after == 2) && (s.part r.owner).shift.isSome && s.hub.revs.any fun v => v.borrower == r.owner
      if !ready || paused then s
      else
        let r := if r.cond = 3 then { r with after := 3 } else r
        let s := s.scrub u r
        match r.after with
        | 0 =>
          let formed := s.partState r.owner == 1 && !s.dissolving r.owner
          let s := s.modUnit u fun r => { UnitRec.free with usable := r.usable, redir := r.redir }
          if formed then ((s.formTables r.owner).drStatus 2) else s
        | 1 =>
          if s.partState r.owner = 1 then ((s.modUnit u fun r => { r with cond := 1, after := 0 }).formTables r.owner).drStatus 2
          else match u with
            | .slice d n => if ((s.part r.owner).shift.map (·.step)) = some 2 then (s.installTable r.owner d fun t => addSlice t n).shiftTo r.owner 4 0 u else s
            | _ => if ((s.part r.owner).shift.map (·.step)) = some 2 then s.shiftTo r.owner 5 0 u else s
        | 2 => ((s.modUnit u fun r => { r with cond := 2, after := 0 }).shiftTo r.owner 5 2 u).takeLoan r.borrower u
        | 3 => s.returned u r
        | _ => (s.modUnit u fun r => { r with cond := 1, after := 0 }).rehashIn r.owner)

/-- SWEEP_COMPLETE (R413): the sweep of a partition's rehash is finished: of a revoked slice, whose lines are written back
and dropped; or of a shift, whose slice goes to its scrub or the commit once no revocation is aimed at the partition (R410). -/
def execSweepComplete (part : Nat) (s : State) : Out :=
  .next (match s.hub.revs.find? fun v => v.borrower == part && (match v.unit_ with
      | .slice d n => ((s.unit? (.slice d n)).map (·.cond)) == some 3
      | _ => false) with
    | some { unit_ := .slice d n, .. } =>
      let rehashing := match (s.part part).shift with
        | some { step := 4, unit_ := .slice e _, .. } => e == d
        | _ => false
      let s := (s.scrubSlice d n).modPart part fun x => { x with sltOld := if rehashing then x.sltOld else x.sltOld.set d noTable }
      s.modUnit (.slice d n) fun r => { r with cond := 4, after := 3 }
    | _ =>
      match (s.part part).shift with
      | some sh =>
        if sh.step ≠ 4 ∨ (s.hub.revs.any fun v => v.borrower == part) then s
        else
          let s := s.sweep part
          if sh.what = 2 then (s.shiftTo part 2 2 sh.unit_).modUnit sh.unit_ fun r => { r with cond := 4, after := 2 }
          else s.shiftTo part 5 sh.what sh.unit_
      | none => s)

/-- SHIFT_COMMIT (R410): the tables are updated and the shift ends; a shrink of a cluster waits until the cluster is empty,
and a released unit is scrubbed. A revocation from the partition goes first. -/
def execShiftCommit (part : Nat) (s : State) : Out :=
  .next (match (s.part part).shift with
    | none => s
    | some sh =>
      let empty := match sh.unit_ with
        | .cluster d c => s.clusterEmpty d c
        | _ => true
      if (s.hub.revs.any fun v => v.borrower == part) ∨ !(sh.step == 5 || (sh.step == 3 && empty)) then s
      else
        let s := match sh.what with
          | 0 => s.modUnit sh.unit_ fun r => { r with cond := 1, after := 0 }
          | 1 => s.modUnit sh.unit_ fun r => { r with cond := 4, after := 0 }
          | 3 => s.modUnit sh.unit_ fun r => { r with taken := true }
          | _ => s
        let s := (s.commitShift part).rehashIn part
        -- the command ends with the commit of its subject, for LEND that of the borrower
        if sh.what = 0 ∨ sh.what = 1 ∨ sh.what = 3 then (s.drStatus 2).modHub fun h => { h with drStep := 0 } else s)

/-! ## Commands that stop contexts (R416 to R419) -/

/-- The contexts of a partition that satisfy a test. -/
def State.partCtxs (s : State) (part : Nat) (p : Ctx → Bool) : List Nat := (s.ctxs.filter fun c => c.2.part == part && c.2.st != .free && p c.2).map (·.1)

/-- A context that a mode change must stop (R416). -/
def Ctx.busy (c : Ctx) : Bool := c.st == .ready || c.st == .running || c.st == .halting || c.st == .migrating

/-- The contexts of a command in progress halted with a kind; those that have come to run again too. -/
def State.haltFor (s : State) (k : HaltKind) : State :=
  s.hub.drCtxs.foldl (fun s c => if (s.ctx c.1).active then s.halt c.1 k else s) s

/-- A context of the command in progress stands halted and cannot be saved (R374, R416). (DEDUCED, log entry 42) -/
def State.saveBlocked (s : State) : Bool :=
  s.hub.drCtxs.any fun c => ((s.ctx c.1).st == .halted || (s.ctx c.1).st == .faulted) &&
    (!s.saveAreaOk c.1 || decide ((s.ctx c.1).savesz.toNat < s.saveBytes c.1))

/-- Every context of the command in progress is out of the way. -/
def State.allSaved (s : State) : Bool := s.hub.drCtxs.all fun c => (s.ctx c.1).st == .saved || (s.ctx c.1).st == .dead || (s.ctx c.1).st == .free

/-- A command in progress ends with a status. -/
def State.drEnd (s : State) (part st : Nat) : State :=
  (((s.modPart part fun x => { x with quiescing := false }).modHub fun h => { h with drPend := none, drCtxs := [] }).drStatus st)

/-- Contexts of a partition that satisfy a test join those that the command in progress stops; none of them ran when it began. -/
def State.joinCtxs (s : State) (part : Nat) (p : Ctx → Bool) : State :=
  s.modHub fun h => { h with drCtxs := h.drCtxs ++ ((s.partCtxs part p).filter fun c => !(h.drCtxs.any fun x => x.1 == c)).map fun c => (c, false) }

/-- A mode change (R416): refused with BUSY while a context runs, or with FORCE made once every such context is saved. -/
def State.modeChange (s : State) (part : Nat) (force : Bool) (cmd : DrCmd) (apply : State → State) : State :=
  if s.hub.drPend = some cmd then
    let s := (s.joinCtxs part Ctx.busy).haltFor .stop
    if s.saveBlocked then s.drEnd part 8
    else if s.allSaved then (apply s).drEnd part 2
    else s
  else
    let st := s.partState part
    if st ≠ 1 ∧ st ≠ 2 ∧ st ≠ 4 ∧ st ≠ 5 then s.drStatus 3
    else
      let cs := s.partCtxs part Ctx.busy
      if cs = [] then (apply s).drStatus 2
      else if !force then s.drStatus 4
      else (((s.modPart part fun x => { x with quiescing := true }).modHub fun h =>
        { h with drPend := some cmd, drCtxs := cs.map fun c => (c, false) }).drStatus 1).haltFor .stop

/-- SETMODE (R416). -/
def execSetmode (part : Nat) (force : Bool) (arg : Word) (s : State) : Out :=
  .next (s.modeChange part force (.setmode part force arg) fun s => s.modPart part fun x => { x with mode := arg.setWidth 4 })

/-- A die map that keeps R400: the valid entries run without a gap from entry 0 and no spoke appears twice. -/
def mapOk (m : BitVec 32) : Bool :=
  let e (i : Nat) : Nat := bitsOf m.toNat (4 * i) 4
  let n := (indices 8 fun i => decide (8 ≤ e i)).length
  ((List.range 8).all fun i => decide (8 ≤ e i) == decide (i < n)) &&
    ((List.range n).all fun i => (List.range i).all fun j => e i != e j)

/-- SETMAP (R416): BADARG for a map that breaks R400, NOUNIT where a unit of the partition would lose its spoke. -/
def execSetmap (part : Nat) (force : Bool) (arg : Word) (s : State) : Out :=
  let spokes := (List.range 8).filterMap fun i => let e := bitsOf arg.toNat (4 * i) 4; if 8 ≤ e then some (e % 8) else none
  let st := s.partState part
  let strays := (s.unitsWhere fun r => r.cond != 0 && (r.owner == part || ((r.cond == 2 || r.cond == 3) && r.borrower == part))).any fun u =>
    match unitSpoke u with
    | some d => !spokes.contains d
    | none => false
  .next (if !mapOk arg then s.drStatus 9
    else if s.hub.drPend ≠ some (.setmap part force arg) ∧ (st = 1 ∨ st = 2 ∨ st = 4 ∨ st = 5) ∧ strays then s.drStatus 5
    else s.modeChange part force (.setmap part force arg) fun s =>
      let s := s.modPart part fun x => { x with map := arg }
      s.rewriteNear part)

/-- Every context of a partition that is not FREE or DEAD killed (R417, R418). -/
def State.killAll (s : State) (part : Nat) : State := (s.partCtxs part fun c => c.st != .dead).foldl (fun s c => s.killCtx c) s

/-- A borrowed unit of a partition sent back to its lender, scrubbed (R417, R418). -/
def State.sendBack (s : State) (part : Nat) : State :=
  let us := s.unitsWhere fun r => (r.cond == 2 || r.cond == 3) && r.borrower == part
  let s := us.foldl (fun s u => s.modUnit u fun r => { r with cond := 4, after := 3 }) s
  s.modPart part fun x => { x with loans := [], shadows := x.shadows.map fun o => match o with
    | some sh => if sh.redir then some sh else none
    | none => none }

/-- A unit of a partition is still being scrubbed or reclaimed. -/
def State.unitsMoving (s : State) (part : Nat) : Bool :=
  (s.unitsWhere fun r => (r.cond == 4 && (r.owner == part || r.borrower == part)) || (r.cond == 3 && r.owner == part)) != []

/-- The command of a shift that is dropped ends with NOUNIT, as that of an abandoned shift does (R410).
(DESIGN CHOICE, log entry 98) -/
def State.dropCommand (s : State) : State := if s.hub.drSts = 1 ∧ s.hub.drPend = none then (s.drStatus 5).modHub fun h => { h with drStep := 0 } else s

/-- A shift of a partition is dropped: the unit that it was bringing goes where it came from, to the pool or to its lender; one that
it was lending and that is not LENT yet stays with it, a channel group with its contents (R417), and the borrower's shadow slot is
free again. -/
def State.dropShift (s : State) (part : Nat) : State :=
  match (s.part part).shift with
  | none => s
  | some sh =>
    let s := s.endShift part
    match sh.what with
    | 0 => (s.modUnit sh.unit_ fun r => { r with cond := 4, after := 0 }).dropCommand
    | 2 => match s.unit? sh.unit_ with
      | some r =>
        if r.cond = 2 ∨ r.cond = 3 then s
        else
          (match sh.unit_ with
            | .cg n => (s.modPart r.borrower fun x => x.dropSlot n).modUnit (.cg n) fun r => { r with cond := 1, after := 0, borrower := 0 }
            | u => s.modUnit u fun r => { r with cond := 4, after := 5, borrower := 0 }).dropCommand
      | none => s
    | 5 => s
    | _ => s.dropCommand

/-- The shifts of other partitions that lend a unit to a partition, which has not got it yet, dropped. -/
def State.dropLoans (s : State) (part : Nat) : State :=
  (indices 24 fun p => match (s.part p).shift with
    | some { what := 2, unit_ := u, .. } => ((s.unit? u).map fun r => r.cond != 2 && r.cond != 3 && r.borrower == part).getD false
    | _ => false).foldl State.dropShift s

/-- The first step of a partition reset (R417): the contexts are killed, and the partition is QUIESCING. -/
def State.startReset (s : State) (part : Nat) : State := (s.killAll part).modPart part fun x => { x with quiescing := true }

/-- A partition is in the first step of its reset: it quiesces for no other command (R417). -/
def State.resetsNext (s : State) (part : Nat) : Bool :=
  (s.part part).quiescing && (match s.hub.drPend with
    | some (.setmode p ..) | some (.setmap p ..) | some (.dissolve p _) => p != part
    | _ => true)

/-- What a partition has borrowed or is about to borrow goes back: its own shift, the loans that wait for it and the shifts that lend
to it are dropped, and the units it has are scrubbed for their lenders (R417, R418). -/
def State.giveBack (s : State) (part : Nat) : State :=
  (((s.modPart part fun x => { x with loans := [] }).dropShift part).dropLoans part).sendBack part

/-- The second step of a partition reset (R417): borrowed units go back, the partition's own units that are
not lent are scrubbed, channel groups but keeping their contents, and the queues are closed. (DEDUCED, log entry 43) -/
def State.beginReset (s : State) (part : Nat) : State :=
  let s := (s.killAll part).giveBack part
  let own := (s.unitsWhere fun r => r.cond == 1 && r.owner == part).filter fun u => match u with
    | .cg _ => false
    | _ => true
  let s := own.foldl (fun s u => s.modUnit u fun r => { r with cond := 4, after := 5 }) s
  let s := (s.partCtxs part fun _ => true).foldl (fun s c => (List.range 16).foldl (fun s q => s.closeQueue c q) s) s
  s.modPart part fun x => { x with quiescing := false, resetting := true }

/-- PART_RESET (R417): the partition is QUIESCING, then RESETTING, and when all is scrubbed FORMED. A reset in progress, begun by a
command or by the severity matrix, goes on. -/
def execPartReset (part : Nat) (s : State) : Out :=
  .next (if (s.part part).resetting then
      if s.unitsMoving part then s
      else
        let s := (s.formTables part).modPart part fun x => { x with resetting := false, active := false }
        if s.hub.drPend = some (.reset part) then s.drEnd part 2 else s
    else if s.resetsNext part then s.beginReset part
    else
      let st := s.partState part
      if st < 2 ∨ 5 < st then s.drStatus 3
      else ((s.startReset part).modHub fun h => { h with drPend := some (.reset part) }).drStatus 1)

/-- Gates at the end of a partition: its own are FREE, entries that name it are not valid (chapter 18). -/
def State.dropGates (s : State) (part : Nat) : State :=
  s.gates.foldl (fun s x =>
    if x.2.owner = part ∧ x.2.gst ≠ .free then s.freeGate x.1
    else s.modGate x.1 fun g => { g with entries := g.entries.map fun e => if e.part = part then { e with valid := false } else e }) s

/-- The work of a dissolution begins: no context of the partition is in use any more, and the borrowed units go back (R418). -/
def State.beginDissolve (s : State) (part : Nat) : State :=
  (s.giveBack part).modPart part fun x => { x with quiescing := false }

/-- DISSOLVE (R418): the contexts killed with FORCE, lent units are revoked, as many at once as may be outstanding (R422), borrowed
ones returned, owned ones scrubbed whole and released. -/
def execDissolve (part : Nat) (force : Bool) (s : State) : Out :=
  .next (if s.hub.drPend = some (.dissolve part force) then
      let lent := s.unitsWhere fun r => r.cond == 2 && r.owner == part
      if (s.part part).quiescing then s.beginDissolve part
      else if lent ≠ [] then (lent.take (16 - s.hub.revs.length)).foldl (fun s u => s.revoke part u) s
      else if s.unitsMoving part then s
      else
        match s.unitsWhere fun r => r.cond == 1 && r.owner == part with
        | [] =>
          let old := (s.part part).shadows.filterMap fun o => o.map (·.cg)
          let s := ((s.dropGates part).modPart part fun _ => { Part.unformed with formed := true, dissolved := true }).drEnd part 2
          old.foldl (fun s cg => s.clearRedir cg) s
        | us => us.foldl (fun s u => s.modUnit u fun r => { r with cond := 4, after := 0 }) s
    else
      let st := s.partState part
      let used := s.partCtxs part (fun c => c.st != .dead) ≠ []
      if st = 0 ∨ 5 < st then s.drStatus 3
      else if !force ∧ used then s.drStatus 4
      else
        let s := (s.modHub fun h => { h with drPend := some (.dissolve part force) }).drStatus 1
        if used then (s.killAll part).modPart part fun x => { x with quiescing := true } else s.beginDissolve part)

/-! ## MOVE (R419) -/

/-- The PART field of a grant rewritten (R348). -/
def Grant.rePart (g : Grant) (p q : Nat) : Grant :=
  if g.tag ∧ g.part = p then { g with bits := (g.bits &&& ~~~(BitVec.ofNat 128 (31 * 2 ^ 106))) ||| BitVec.ofNat 128 (q * 2 ^ 106) } else g

/-- The PART field of the present grants of a record rewritten (R348). -/
def Kernel.rePart (k : Kernel) (p q : Nat) : Kernel :=
  let at_ (n : Nat) : Nat := if n = 15 then 0x1E0 else 0x110 + 16 * n
  let put (r : List Byte) (off : Nat) : List Byte :=
    let g : Grant := { tag := true, bits := BitVec.ofNat 128 (leNat ((r.drop off).take 16)) }
    r.take off ++ leBytes 16 (g.rePart p q).bits.toNat ++ r.drop (off + 16)
  let r := ((List.range 13 ++ [15]).filter fun n => bitAt k.gmask n).foldl (fun r n => put r (at_ n)) (put k.record 0x100)
  { k with record := r, parentGrants := k.parentGrants.map fun l => l.map fun g => g.rePart p q }

/-- A partition number replaced. -/
def swapPart (p q x : Nat) : Nat := if x = p then q else x

/-- The grants of a file rewritten (R348). -/
def UFile.rePart (u : UFile) (p q : Nat) : UFile := { u with g := u.g.map fun (g : Grant) => g.rePart p q }

/-- The grants of a stream's image rewritten (R348). -/
def StreamSnap.rePart (x : StreamSnap) (p q : Nat) : StreamSnap := { x with u := x.u.rePart p q }

/-- The grants of a snapshot rewritten (R348). -/
def Snapshot.rePart (x : Snapshot) (p q : Nat) : Snapshot := { x with groups := x.groups.map fun (g : Group) => { g with u := g.u.rePart p q } }

/-- A gate whose OWNER or a valid entry's PART is a partition. -/
def Gate.touches (x : Gate) (p : Nat) : Bool := x.owner == p || x.entries.any fun e => e.valid && e.part == p

/-- OWNER and the PART of the valid entries of a gate that is not FREE rewritten (R435). -/
def Gate.rePart (x : Gate) (p q : Nat) : Gate :=
  if x.gst = .free then x
  else { x with owner := swapPart p q x.owner, entries := x.entries.map fun (e : GateEntry) => if e.valid then { e with part := swapPart p q e.part } else e }

/-- The state of some gates changed from one to another. -/
def State.gatesTo (s : State) (gs : List Nat) (a b : GateSt) : State :=
  gs.foldl (fun s g => s.modGate g fun x => if x.gst = a then { x with gst := b } else x) s

/-- Everything of partition p passes to q (R419): context records, grants, those of snapshots too, queued records, units, lines,
gates. -/
def State.renumber (s : State) (p q : Nat) : State :=
  let mine (kid : Nat) : Bool := (s.ctx (s.ctxOfKernel kid)).part == p
  let unit (u : UnitRec) : UnitRec := { u with owner := if u.cond = 0 then u.owner else swapPart p q u.owner, borrower := if u.cond = 0 then u.borrower else swapPart p q u.borrower }
  { s with
    groups := s.groups.map fun (g : Group) => if ((s.blocks[g.bid]?).map fun (b : Block) => mine b.kid).getD false then { g with u := g.u.rePart p q } else g
    blocks := s.blocks.map fun (b : Block) =>
      if mine b.kid then { b with snapLatest := b.snapLatest.map (Snapshot.rePart · p q), snapWriting := b.snapWriting.map (Snapshot.rePart · p q) } else b
    streams := s.streams.map fun (x : Stream) =>
      if mine x.kid then { x with u := x.u.rePart p q, snapLatest := x.snapLatest.map (StreamSnap.rePart · p q), snapWriting := x.snapWriting.map (StreamSnap.rePart · p q) } else x
    copies := s.copies.map fun (c : Copy) => if (s.ctx c.ctx).part = p then { c with grant := c.grant.rePart p q } else c
    kernels := s.kernels.map fun (k : Kernel) => if (s.ctx k.ctx).part = p then k.rePart p q else k
    ctxs := s.ctxs.map fun (c : Nat × Ctx) => (c.1, { c.2 with part := if c.2.st = CtxSt.free then c.2.part else swapPart p q c.2.part })
    clusters := s.clusters.map unit, slices := s.slices.map unit, cgs := s.cgs.map unit
    l2 := s.l2.map fun (e : Nat × L2Line) => (e.1, { e.2 with part := swapPart p q e.2.part })
    gates := s.gates.map fun (x : Nat × Gate) => (x.1, x.2.rePart p q)
    parts := (s.parts.set q (s.part p)).set p { Part.unformed with formed := true, dissolved := true } }.modHub fun h =>
      { h with revs := h.revs.map fun (r : Revocation) => { r with lender := swapPart p q r.lender, borrower := swapPart p q r.borrower } }

/-- A context that MOVE halts and saves (R419). -/
def Ctx.inUse (c : Ctx) : Bool := c.busy || c.st == .halted || c.st == .faulted

/-- The snapshots of a partition in its reserve written again, with their grants rewritten (R348, R467). -/
def State.rewriteSnaps (s : State) (part : Nat) : State :=
  let mine (kid : Nat) : Bool := (s.ctx (s.ctxOfKernel kid)).part == part
  let put (s : State) (kid at_ : Nat) (m : List Byte) : State := s.reserveWrite (hubAcc (s.ctxOfKernel kid) part) at_ m
  let s := (List.range s.blocks.length).foldl (fun s i => match (s.blocks[i]?).bind fun b => b.snapLatest.map fun im => (b, im) with
    | some (b, im) => if mine b.kid && !b.gone then (im.at_.map fun at_ => put s b.kid at_ (s.snapImage i im)).getD s else s
    | none => s) s
  s.streams.foldl (fun s x => match x.snapLatest with
    | some im => if mine x.kid && x.sst != .ended then (im.at_.map fun at_ => put s x.kid at_ (s.streamImage (x.asSnap im))).getD s else s
    | none => s) s

/-- The gates that the MOVE in progress has made FROZEN, if it is the one of a pair of numbers (R435). -/
def State.moving (s : State) (part peer : Nat) : Option (List Nat) :=
  match s.hub.drPend with
  | some (.move p q gs) => if p = part ∧ q = peer then some gs else none
  | _ => none

/-- MOVE (R419, R435): every context of the partition in use is halted with PREEMPT and saved, and the gates that it touches are FROZEN;
then everything is renumbered, the gates are OPEN again, and the contexts that ran are restored, where their stop areas allow it
(R504). -/
def execMove (part peer : Nat) (s : State) : Out :=
  .next (match s.moving part peer with
    | some gs =>
      let s := (s.joinCtxs part Ctx.inUse).haltFor .preempt
      if s.saveBlocked then (s.drEnd part 8).gatesTo gs .frozen .opened
      else if s.allSaved then
        let cs := s.hub.drCtxs
        let s := (s.drEnd part 2).gatesTo gs .frozen .opened
        let s := s.renumber part peer
        let s := ((s.partCtxs peer fun c => c.st == .saved).foldl (fun s c => s.writeImages c) s).rewriteSnaps peer
        cs.foldl (fun s c => if c.2 && (s.ctx c.1).st == .saved && s.stopAreaOk c.1 then s.modCtx c.1 fun x => { x with st := .migrating } else s) s
      else s
    | none =>
      let st := s.partState part
      let pt := s.partState peer
      if (st ≠ 1 ∧ st ≠ 2 ∧ st ≠ 4) ∨ (pt ≠ 0 ∧ pt ≠ 8) ∨ 24 ≤ peer ∨ part = peer then s.drStatus 3
      else
        let l := (s.partCtxs part Ctx.inUse).map fun c => (c, (s.ctx c).st == .running)
        let gs := (s.gates.filter fun x => x.2.gst == .opened && x.2.touches part).map (·.1)
        (((s.modHub fun h => { h with drPend := some (.move part peer gs), drCtxs := l }).drStatus 1).gatesTo gs .opened .frozen).haltFor .preempt)

end Sys2Proof.Machine
end

