-- ==== Sys2Proof/Machine/Link.lean ====
section
/-! DEFINITION. The chanter, links and the end-to-end checks (R436 to R448), with what a failed hub link does to its spoke
(R449, R451, R455). -/

namespace Sys2Proof.Machine

/-! ## Fencing (R449, R451) -/

/-- A fence cause meets a die: a SERVING spoke is FENCED with its WHY; the hub cannot be fenced, and its failure
resets the package elsewhere (R10, R449). -/
def State.fenceDie (s : State) (die why : Nat) : State :=
  s.modDie die fun d => if die < 12 ∧ d.st = .serving then { d with st := .fenced, why := BitVec.ofNat 4 why } else d

/-! ## The chanter's order (R442 to R445) -/

/-- A message takes its place in the hub's order: SRC and SEQ written, a copy for each destination that is not FENCED or
FAILED; a TLBI_PH1 begins a shoot-down at its sender's endpoint, whose acknowledgement by a FAILED die is the hub's
(R361, R442, R443). With no copy left to take, the credit is back at once (R444). -/
def State.route (s : State) (src : Nat) (m : Msg) : State :=
  let h0 := m.hdr.toNat % 2 ^ 32 - 2 ^ 8 * bitsOf m.hdr.toNat 8 4 + 2 ^ 8 * src
  let ucnt := (tfind s.hub.ucnt (16 * src + m.dst % 16)).getD 0
  let seq := if m.mc then s.hub.mseq else ucnt
  let m := { m with hdr := BitVec.ofNat 64 (h0 + 2 ^ 32 * (seq % 2 ^ 32)) }
  let s := s.modHub fun h => if m.mc then { h with mseq := h.mseq + 1 } else { h with ucnt := tset h.ucnt (16 * src + m.dst % 16) (ucnt + 1) }
  let live : List Nat := m.dests.filter fun d => !s.deadDie d
  let s : State := live.foldl (fun s d => s.modDie d fun x => { x with heldMsgs := x.heldMsgs ++ [m] }) s
  let s : State :=
    if m.kind = 0x80 then
      let p := m.ph1
      let need := BitVec.ofNat 13 (m.dests.foldl (fun n d => n + 2 ^ d) 0)
      let s := s.modDie src fun x => { x with shoots := x.shoots ++ [{ seq := p.seq, asid := p.asid, need := need, got := 0 }] }
      (m.dests.filter fun d => (s.die d).st == .failed).foldl (fun s d => s.sendAck d src p.asid p.seq) s
    else s
  if live = [] then s.returnCredit m else s

/-- A sender with 32 shoot-downs outstanding sends no further TLBI_PH1 (R361). -/
def State.shootsFull (s : State) (src : Nat) (m : Msg) : Bool := m.kind == 0x80 && decide (32 ≤ (s.die src).shoots.length)

/-- The messages of a sender that wait behind a TLBI_PH1 sent in their order, up to the next that must wait (R361, R443).
(DEDUCED, log entry 112) -/
def State.drainLater (s : State) (src : Nat) : List Msg → State
  | [] => s.modDie src fun d => { d with later := [] }
  | m :: rest => if s.shootsFull src m then s.modDie src fun d => { d with later := m :: rest } else (s.route src m).drainLater src rest

/-- A message that CHTX sends, after its checks: a TLBI_PH1 of a sender with 32 shoot-downs outstanding waits until a COMMIT is sent,
and what the sender sends after it keeps its place behind it, but for the TLBI_COMMITs; a TLBI_COMMIT ends its shoot-down, and what
waits follows it (R361, R443). (DEDUCED, log entry 112) -/
def State.sendMsg (s : State) (src : Nat) (m : Msg) : State :=
  if m.kind ≠ 0x82 ∧ (s.shootsFull src m = true ∨ (s.die src).later ≠ []) then s.modDie src fun d => { d with later := d.later ++ [m] }
  else
    let s := s.route src m
    if m.kind = 0x82 ∧ ((s.die src).shoots.any fun x => x.seq == m.ph1.seq) then
      let s := s.modDie src fun d => { d with shoots := d.shoots.eraseP fun x => x.seq == m.ph1.seq }
      s.drainLater src (s.die src).later
    else s

/-! ## A spoke that is FAILED (R449, R451, R455) -/

/-- A unit lies on a die. -/
def unitOn (die : Nat) : UnitName → Bool
  | .cluster d _ => d == die
  | .slice d _ => d == die
  | .cg n => n / 24 + 8 == die

/-- The units of a failed spoke leave their owners, lenders and borrowers and every table without a scrub and are unusable (R451): their
revocations end, a shift of one is abandoned with NOUNIT (R457). The mark of a redirect that stands stays (R424). -/
def State.loseUnits (s : State) (die : Nat) : State :=
  let on := unitOn die
  let revs := s.hub.revs.filter fun v => on v.unit_
  let s := revs.foldl (fun s v => s.modPart v.borrower fun x => { x with epoch := x.epoch + 1 }) s
  let s := s.modHub fun h => { h with revs := h.revs.filter fun v => !on v.unit_ }
  let s := { s with parts := s.parts.map fun (x : Part) => { x with
    loans := x.loans.filter fun l => !on l.unit_
    shadows := x.shadows.map fun (o : Option Shadow) => o.filter fun sh => !(on (.cg sh.cg) && !sh.redir)
    slt := if die < 8 ∧ (x.slt[die]?).isSome then x.slt.set die noTable else x.slt
    sltOld := if die < 8 ∧ (x.sltOld[die]?).isSome then x.sltOld.set die noTable else x.sltOld } }
  let shifts := indices 24 fun p => ((s.part p).shift.map fun sh => on sh.unit_).getD false
  let s := shifts.foldl (fun s p => (s.endShift p).dropCommand) s
  (allUnits.filter on).foldl (fun s u => s.modUnit u fun r => { UnitRec.free with usable := false, redir := r.redir }) s

/-- What a die's instance owned, address spaces and contexts, passes to the hub's instance, which receives a message of TYPE 0x00 with
the die code (R455). (DEDUCED, log entry 64) -/
def State.passOwnership (s : State) (die : Nat) : State :=
  let s := { s with ctxs := s.ctxs.map fun (c : Nat × Ctx) => if c.2.owner = die ∧ c.2.st ≠ CtxSt.free then (c.1, { c.2 with owner := 12 }) else c }
  let s := s.modHub fun h => { h with asids := h.asids.map fun x => if x.2 = die then (x.1, 12) else x }
  s.route 12 { hdr := BitVec.ofNat 64 (12 * 2 ^ 16), body := [BitVec.ofNat 64 die, 0, 0, 0, 0, 0, 0], credit := false }

/-- A spoke becomes FAILED (R449, R451, R455). -/
def State.failDie (s : State) (die : Nat) : State := ((s.loseUnits die).modDie die fun d => { d with st := .failed }).passOwnership die

/-- The hub link of a spoke enters FAILED: a SERVING spoke is fenced, one that boots or rejoins is FAILED (R437, R449). -/
def State.linkLost (s : State) (die : Nat) : State :=
  match (s.die die).st with
  | .serving => s.fenceDie die 1
  | .booting | .rejoining => (s.modDie die fun d => { d with why := 1 }).failDie die
  | _ => s

/-! ## Links (R436, R448) -/

/-- A link changes its state; a hub link that enters FAILED takes its spoke with it. -/
def State.setLink (s : State) (l : Nat) (f : Link → Link) : State :=
  let s := s.modLink l f
  if l < 12 ∧ (s.links[l]?).map (·.lst) = some .failed then s.linkLost l else s

/-- PORT_ENABLE (R436): a tandem or PCI Express port that is DOWN or FAILED goes to TRAINING. -/
def execPortEnable (link : Nat) (s : State) : Out :=
  .next (if link < 12 then s
    else s.modLink link fun l => if l.lst = .down ∨ l.lst = .failed then { l with lst := .training, retries := 0 } else l)

/-- LINK_TRAINING_DONE (R436, R448): every lane of both directions trained brings the link UP, fewer than the least number in one
FAILED, and a width between them DEGRADED. A PCI Express port of which no lane has trained in flit mode is DOWN. (DEDUCED, log
entry 53) (DEDUCED, log entry 53) -/
def execLinkTrainingDone (link : Nat) (lanes : Nat × Nat) (s : State) : Out :=
  .next (match s.links[link]? with
    | none => s
    | some l =>
      if l.lst ≠ .training then s
      else s.setLink link fun l =>
        let l := { l with lanes := (min lanes.1 l.full, min lanes.2 l.full), retries := 0 }
        let n := min l.lanes.1 l.lanes.2
        if 28 ≤ link ∧ n = 0 then { l with lst := .down }
        else if n < l.least then { l with lst := .failed }
        else if n = l.full then { l with lst := .up }
        else { l with lst := .degraded })

/-- The number of a pair for one direction: outward from the hub, or inward to it. -/
def side (p : Nat × Nat) (inward : Bool) : Nat := if inward then p.2 else p.1

/-- A pair with one less for one direction. -/
def less (p : Nat × Nat) (inward : Bool) : Nat × Nat := if inward then (p.1, p.2 - 1) else (p.1 - 1, p.2)

/-- A lane of one direction of a link is retired (R436, R463): a spare of that direction takes its place, or the link is narrower
there, or FAILED below its least width. (DEDUCED, log entry 53) -/
def State.retireLane (s : State) (link : Nat) (inward : Bool) : State :=
  s.setLink link fun l =>
    if l.lst ≠ .up ∧ l.lst ≠ .degraded then l
    else if 0 < side l.spares inward then { l with spares := less l.spares inward }
    else { l with lst := if side l.lanes inward - 1 < l.least then .failed else .degraded, lanes := less l.lanes inward }

/-- RETRY_LIMIT (R436): a flit has failed 16 retries, and the link trains again. (DESIGN CHOICE, log entry 51) -/
def execRetryLimit (link : Nat) (s : State) : Out :=
  .next (s.modLink link fun l => if (l.lst = .up ∨ l.lst = .degraded) ∧ 16 ≤ l.retries then { l with lst := .training } else l)

/-! ## End-to-end checks (R440, R441) -/

/-- One bit of the CRC-16 with the polynomial 0x1021. -/
def crcBit (c : BitVec 16) : BitVec 16 := if c.getLsbD 15 then (c <<< 1) ^^^ 0x1021 else c <<< 1

/-- One byte of the CRC-16. -/
def crcByte (c : BitVec 16) (b : Byte) : BitVec 16 :=
  let c := c ^^^ (b.setWidth 16 <<< 8)
  crcBit (crcBit (crcBit (crcBit (crcBit (crcBit (crcBit (crcBit c)))))))

/-- The check of a payload, over its bytes in address order (R440). -/
def crc16 (p : List Byte) : BitVec 16 := p.foldl crcByte 0xFFFF

/-- The source of an error on a link (R459). -/
def linkSource (link : Nat) : Nat := if link < 12 then 7 else if link < 28 then 8 else 9

/-- The die code that a link's errors carry: the spoke of a hub link, else the hub. -/
def linkDie (link : Nat) : Nat := if link < 12 then link else 12

/-- The unit number that a link's errors carry: the die code of a hub link's spoke, else the port. (DESIGN CHOICE, log entry 101) -/
def linkUnit (link : Nat) : Nat := if link < 12 then link else if link < 28 then link - 12 else link - 28

/-- A line is POISON at its home, and what it holds is no longer defined (R254, R441, R453). (DEDUCED, log entry 49) -/
def State.poisonHome (s : State) (pa : Nat) : State :=
  let line := lineOf pa
  let (s, b) := s.freeBytes 128
  let s := s.homeWrite (hubAcc noCtx 0) line (b.zipIdx.map fun x => (x.2, x.1)) 3
  { s with poison := if s.poison.contains line then s.poison else line :: s.poison }

/-- One payload slot of a flit as it is received: its 64 bytes with their end-to-end check, whether they are written, the address, and
the context and block of the agent whose access it serves (R438, R440). -/
structure Slot where
  payload : List Byte
  crc : BitVec 16
  wr : Bool
  pa : Nat
  ctx : Nat
  bid : Option Nat
  deriving DecidableEq, Repr

/-- The payload slots of a flit, four at most, each of 64 bytes (R438). -/
def flitSlots (payload : List (List Byte)) (crc : List (BitVec 16)) (wr : List Bool) (pa : List Nat) (ctx : List (Nat × Option Nat)) : List Slot :=
  ((List.range (min 4 payload.length)).filterMap fun i => match payload[i]?, crc[i]?, wr[i]?, pa[i]?, ctx[i]? with
    | some p, some c, some w, some a, some x => some { payload := p, crc := c, wr := w, pa := a, ctx := x.1, bid := x.2 }
    | _, _, _, _, _ => none).filter fun x => x.payload.length == 64

/-- The end-to-end check of a slot passes (R440). -/
def Slot.ok (x : Slot) : Bool := crc16 x.payload == x.crc

/-- One slot of a received flit (R440, R441): a payload whose check passes is delivered, a write performed; one whose check fails is
not delivered: a read consumes POISON, a write is dropped and its line is marked at its home. -/
def State.takeSlot (s : State) (link : Nat) (x : Slot) : State :=
  let err (cls : Nat) : ErrorReport := mkError cls (linkSource link) (linkDie link) (linkUnit link) (some x.ctx) x.pa
  if x.ok then (if x.wr then s.hubWrite (hubAcc x.ctx (s.ctx x.ctx).part) 0 x.pa x.payload else s)
  else if x.wr then (s.poisonHome x.pa).report (err 5)
  else (s.report (err 5)).report { err 6 with bid := x.bid, place := .line x.pa }

/-- FLIT_RECEIVE (R436, R438, R440, R441): a flit whose link check fails is retried; else each of its slots is taken under its own
check. A write to a reserved address is a fault. (DESIGN CHOICE, log entry 107) -/
def execFlitReceive (link : Nat) (linkOk : Bool) (payload : List (List Byte)) (crc : List (BitVec 16)) (wr : List Bool) (pa : List Nat)
    (ctx : List (Nat × Option Nat)) (s : State) : Out :=
  let slots := flitSlots payload crc wr pa ctx
  match s.links[link]? with
  | none => .next s
  | some l =>
    if l.lst ≠ .up ∧ l.lst ≠ .degraded then .next s
    else if !linkOk then
      .next ((s.modLink link fun l => { l with retries := l.retries + 1 }).report
        { mkError 4 (linkSource link) (linkDie link) (linkUnit link) none 0 with place := .lane link true })
    else match slots.find? fun x => x.wr && x.ok && paKind x.pa == .reserved with
      | some x => .fault (.reservedAddress x.pa)
      | none => .next (slots.foldl (fun s x => s.takeSlot link x) (s.modLink link fun l => { l with retries := 0 }))

/-! ## Sending and receiving (R442, R444, R446) -/

/-- A send through CHTX is discarded for its header (R442). -/
def badHeader (h : BitVec 64) : Bool :=
  let type := bitsOf h.toNat 0 8
  let mc := h.getLsbD 12
  let dst := bitsOf h.toNat 16 13
  decide (0x83 ≤ type) || type == 0x81 || bitsOf h.toNat 29 3 != 0 || bitsOf h.toNat 13 3 != 0 ||
    (if mc then dst == 0 else decide (16 ≤ dst) || decide (12 < dst))

/-- CHTX (R442, R444): the write to offset 0x038 sends what the eight words hold; a bad header or a sender without a
credit sets TXOVF. Nothing leaves a FENCED or FAILED die. -/
def execChtx (die : Nat) (v : BitVec 64) (s : State) : Out :=
  .next (if s.deadDie die then s
    else
      let s := s.modDie die fun d => { d with chtx := d.chtx.set 7 v }
      let x := s.die die
      let hdr := (x.chtx[0]?).getD 0
      if badHeader hdr ∨ x.txcr = 0 then s.modDie die fun d => { d with txovf := true }
      else (s.modDie die fun d => { d with txcr := d.txcr - 1 }).sendMsg die { hdr := hdr, body := x.chtx.drop 1, credit := true })

/-- CHANTER_DELIVER (R443, R444): the oldest message held for a die enters its inbox, if that has room; a TLBI_PH1 or a TLBI_ACK there
goes to the translation hardware instead. What is held for a FENCED or FAILED die is discarded. -/
def execChanterDeliver (die : Nat) (s : State) : Out :=
  .next (match (s.die die).heldMsgs with
    | [] => s
    | m :: rest =>
      if s.deadDie die then s.discardHeld die
      else if m.kind = 0x80 ∨ m.kind = 0x81 ∨ s.takes die = false then s
      else (s.modDie die fun d => { d with heldMsgs := rest, inbox := d.inbox ++ [m] }).returnCredit m)

/-- POP (R446). -/
def execPopInbox (die : Nat) (s : State) : Out := .next (s.modDie die fun d => { d with inbox := d.inbox.drop 1 })

end Sys2Proof.Machine
end

