-- ==== Sys2Proof/Machine/Die.lean ====
section
/-! DEFINITION. Dies: heartbeats, fencing, what a failed spoke takes with it, and rejoining (R449 to R458), with the
restoring of a block from its snapshot that a rollback shares (R452, R469). -/

namespace Sys2Proof.Machine

/-- HEARTBEAT (R449, R450): the hub counts it; the first one of a spoke that boots or rejoins makes it SERVING. The kernel
instances start in boot step 3 (R472), that of a spoke that rejoins once its images are accepted (R458, R473). -/
def execHeartbeat (die : Nat) (s : State) : Out :=
  .next (if die < 12 ∧ s.deadDie die = false then
      s.modDie die fun d =>
        let d := { d with hb := d.hb + 1, hbAt := s.clockOn 12 }
        match d.st with
        | .booting => if 3 ≤ s.hub.stage ∧ s.hub.stage ≠ 7 then { d with st := .serving } else d
        | .rejoining => if d.imaged then { d with st := .serving } else d
        | _ => d
    else s)

/-- The heartbeat timeout of a die in ns (R450). -/
def Die.timeout (d : Die) : Nat := (if 1 ≤ d.hbto.toNat ∧ d.hbto.toNat ≤ 10000 then d.hbto.toNat else 100) * 1000000

/-- HEARTBEAT_TIMEOUT (R451): no heartbeat for HBTO ms fences the spoke. -/
def execHeartbeatTimeout (die : Nat) (s : State) : Out :=
  .next (if (s.die die).hbAt + (s.die die).timeout ≤ s.clockOn 12 then s.fenceDie die 2 else s)

/-- DIE_FENCE (R450, R451): the FENCE command; ignored in a state that has no row for it. -/
def execDieFence (die : Nat) (s : State) : Out := .next (s.fenceDie die 4)

/-! ## A block restored from its snapshot (R452, R469) -/

/-- A block restored from its latest snapshot into the reserve: its groups in compact form, its pad, words, shapes and
tiles; the operations of its log are replayed (R467 to R469). -/
def State.restoreBlock (s : State) (bid : Nat) : State :=
  match (s.blocks[bid]?).bind (·.snapLatest) with
  | none => s
  | some im =>
    (s.fromSnapshot bid im).modBlock bid fun b =>
      { b with bst := .reserve, resAt := none, padPoison := [], tilePoison := [], snapWriting := none, replay := b.log, trigger := none }

/-- A stream restored from its latest image; the operations of its own log are replayed (R467 to R469). -/
def State.restoreStream (s : State) (sid : Nat) : State :=
  match (s.streams[sid]?).bind (·.snapLatest) with
  | none => s
  | some im => (s.streamFromSnap sid im).modStream sid fun x => { x with sst := .stopped, snapWriting := none, replay := x.log }

/-- The streams of a position can be rolled back, or it has none (R467, R468). -/
def State.streamImaged (s : State) (kid pos : Nat) : Bool := (s.streamsOf kid pos).all fun i => ((s.streams[i]?).map Stream.covered).getD false

/-- The waits of the agents of some blocks and of some streams withdrawn. -/
def State.withdrawOf (s : State) (bs xs : List Nat) : State :=
  ((indices s.groups.length fun i => (s.groups[i]?).any fun g => bs.contains g.bid).map Agent.group ++ xs.map Agent.stream).foldl State.withdraw s

/-! ## What a failed spoke takes with it (R452 to R457) -/

/-- A context that has lost work ends FAULTED (R452): one that runs or halts gets a halt of kind FAULT; one that stands
HALTED or FAULTED has the records of its lost blocks added to its stop area. -/
def State.faultCtx (s : State) (ctx : Nat) : State :=
  let c := s.ctx ctx
  if c.st = .halted ∨ c.st = .faulted then
    let ls := s.blocks.filter fun b => b.bst == .lost && s.ctxOfKernel b.kid == ctx
    let s := ls.foldl (fun s b => s.addStop ctx (b.lostRecord s.clock)) s
    (s.faultLost ctx).modCtx ctx fun c => { c with st := .faulted }
  else s.halt ctx .fault

/-- The COH lines that a die holds OWNED are POISON at their homes; what its caches hold is lost (R453). -/
def State.loseCaches (s : State) (die : Nat) : State :=
  let owned := (s.l2.filter fun e => decide (e.1 / 2 ^ 45 = die) && e.2.owned).map fun e => e.1 % 2 ^ 45
  let s := ({ s with l2 := s.l2.filter fun e => decide (e.1 / 2 ^ 45 ≠ die), tlb := s.tlb.filter fun t => t.die != die } : State).filterL1
    fun core _ _ _ => decide (coreDie core ≠ die)
  owned.foldl (fun s l => s.poisonHome (l * 128)) s

/-- The blocks and streams on a failed compute spoke (R452): a protected block is rebuilt in the reserve from its snapshot,
with the stream of its position; any other block is lost, and so are the blocks in the reserve of a position whose stream is lost. Every
context concerned is halted. -/
def State.loseWork (s : State) (die : Nat) : State :=
  let bs := indices s.blocks.length fun i => match s.blocks[i]? with
    | some b => b.bst == .placed && b.die == die
    | none => false
  let away := indices s.blocks.length fun i => (s.blocks[i]?).any fun b => b.bst == .reserve
  let xs := indices s.streams.length fun i => match s.streams[i]? with
    | some x => x.die == die && (x.sst == .running || x.sst == .stopped) && s.boundTo x.kid x.pos == some (x.die, x.clu)
    | none => false
  let keep (i : Nat) : Bool := s.protects i && (((s.blocks[i]?).map fun b => s.streamImaged b.kid b.pos).getD false)
  let kept := bs.filter keep
  let ctxs := (bs.filterMap fun i => (s.blocks[i]?).map fun b => s.ctxOfKernel b.kid) ++ xs.map fun i => s.ctxOf (.stream i)
  let s := s.withdrawOf bs xs
  let s := s.discardEngines bs
  let s := { s with kernels := s.kernels.map fun (k : Kernel) =>
    { k with positions := k.positions.map fun (p : Pos) => match p.bound with
        | some (d, _) => if d = die then { p with bound := none } else p
        | none => p } }
  let s := bs.foldl (fun s i => if kept.contains i then ((s.restoreBlock i).modBlock i fun b => { b with halt := none, rebuilt := true }).writeReserve i else s.loseBlock i) s
  let s := xs.foldl (fun (s : State) (i : Nat) =>
    let again : Bool := match s.streams[i]? with
      | some x => kept.any fun j => ((s.blocks[j]?).map fun b => b.kid == x.kid && b.pos == x.pos).getD false
      | none => false
    if again then s.restoreStream i
    else
      let s := s.modStream i fun x => { x with sst := .ended, wait := .none }
      (away.filter fun j => match s.blocks[j]?, s.streams[i]? with
        | some b, some x => b.kid == x.kid && b.pos == x.pos
        | _, _ => false).foldl (fun s j => (s.discardEngines [j]).loseBlock j) s) s
  ctxs.dedup.foldl (fun s c => s.faultCtx c) s

/-- The primary frame of a replica entry now. -/
def Replicas.primary (r : Replicas) (frame : Nat) : Nat := (r.moved.map (·.toNat)).getD frame

/-- A frame lies on a memory spoke that is FENCED or FAILED. -/
def State.deadFrame (s : State) (f : BitVec 24) : Bool := s.deadPa (f.toNat * 2 ^ 16)

/-- The lowest-numbered live replica of a frame of a failed spoke takes its place (R454). -/
def State.promote (s : State) (e : Nat × Replicas) : Nat × Replicas :=
  let r := e.2
  let ok (f : BitVec 24) : Bool := f != 0xFFFFFF && !s.deadFrame f
  if s.deadPa (r.primary e.1 * 2 ^ 16) = false then e
  else if ok r.rep1 then (e.1, { r with moved := some r.rep1, rep1 := 0xFFFFFF })
  else if ok r.rep2 then (e.1, { r with moved := some r.rep2, rep2 := 0xFFFFFF })
  else if ok r.rep3 then (e.1, { r with moved := some r.rep3, rep3 := 0xFFFFFF })
  else e

/-- What a failed memory spoke takes with it (R454): replicas take over, cached copies of its lines and its rim cache are
gone, and so are the images of blocks, and the snapshots of blocks and streams, that lie on it, or in a reserve that begins on it; a
lost snapshot is reported as class 14 (R459). (DEDUCED, log entry 55) -/
def State.loseMemory (s : State) (die : Nat) : State :=
  let home (pa : Nat) : Bool := decide (pa < deviceTop) && 8 + groupOf pa / 24 == die
  let lostPart (kid : Nat) : Bool := let p := s.part (s.ctx (s.ctxOfKernel kid)).part; p.ressz != 0 && home p.respa.toNat
  let lost (kid : Nat) (at_ : Option Nat) (n : Nat) : Bool := match at_ with
    | some at_ => home at_ || home (at_ + n - 1)
    | none => lostPart kid
  let bs := indices s.blocks.length fun i => (s.blocks[i]?).any fun b => !b.gone && (match b.snapLatest with
    | some im => lost b.kid im.at_ (s.snapImage i im).length
    | none => false)
  let xs := indices s.streams.length fun i => (s.streams[i]?).any fun x => x.sst != .ended && (match x.snapLatest with
    | some im => lost x.kid im.at_ (1180 + 8 * s.streamBlocks i)
    | none => false)
  let gone := indices s.blocks.length fun i => (s.blocks[i]?).any fun b => b.bst == .reserve && lost b.kid b.resAt (s.blockImage i b).length
  let s := bs.foldl (fun s i => match s.blocks[i]? with
    | some b => (s.modBlock i fun b => { b with snapLatest := none }).report (mkError 14 0 b.die b.clu (some (s.ctxOfKernel b.kid)) 0)
    | none => s) s
  let s := xs.foldl (fun s i => match s.streams[i]? with
    | some x => (s.modStream i fun x => { x with snapLatest := none }).report (mkError 14 2 x.die x.clu (some (s.ctxOfKernel x.kid)) 0)
    | none => s) s
  let s := { s with
    replicas := s.replicas.map s.promote
    l2 := s.l2.filter fun e => decide (e.1 / 2 ^ 45 ≠ die) && !home (e.1 % 2 ^ 45 * 128) }
  let s := s.filterL1 fun _ l _ _ => !home (l * 128)
  let ctxs := (gone.filterMap fun i => (s.blocks[i]?).map fun b => s.ctxOfKernel b.kid).dedup
  ctxs.foldl (fun s c => s.faultCtx c) (gone.foldl (fun s i => s.loseBlock i) (s.discardEngines gone))

/-- Chanter messages to a fenced die count as delivered, and the hub sends its TLBI_ACK for every outstanding shoot-down
that names it (R361, R443, R451). -/
def State.settleChanter (s : State) (die : Nat) : State :=
  let ms := (s.die die).heldMsgs
  let s := s.modDie die fun d => { d with heldMsgs := [], inbox := [], ph1Work := [], shoots := [], later := [] }
  let s := ms.foldl (fun s m => s.returnCredit m) s
  (List.range 13).foldl (fun s o => ((s.die o).shoots.filter fun x => x.need.getLsbD die && !x.got.getLsbD die &&
      !((s.die o).heldMsgs.any fun m => m.kind == 0x81 && m.src == die && m.ph1.seq == x.seq)).foldl (fun s x => s.sendAck die o x.asid x.seq) s) s

/-- FENCE_COMPLETE (R451 to R457): the steps of a fence end and the spoke is FAILED. -/
def execFenceComplete (die : Nat) (s : State) : Out :=
  .next (if 12 ≤ die ∨ (s.die die).st ≠ .fenced then s
    else
      let s := s.settleChanter die
      (if die < 8 then (s.loseWork die).loseCaches die else s.loseMemory die).failDie die)

/-- The OWNER of a unit that no partition has owned since its die was reset: no partition's number (R402, R424). (DEDUCED, log entry
65) (DEDUCED, log entry 65) -/
def noPart : Nat := 31

/-- REJOIN (R449, R458): a FAILED die whose hub link is UP is reset, with the way masks of its slices and its pickers; what the hub
holds of it stays, and its units are scrubbed, but for those retired. Its images are verified and measured anew before it can serve
(R473). (DEDUCED, log entry 65) -/
def execRejoin (die : Nat) (s : State) : Out :=
  .next (if 12 ≤ die ∨ (s.die die).st ≠ .failed ∨ (s.links[die]?).map (·.lst) ≠ some .up then s
    else
      let s := s.modDie die fun d =>
        { Die.reset with st := .rejoining, hbto := d.hbto, hb := d.hb, why := d.why, hbAt := s.clockOn 12, cmdSts := d.cmdSts, cmd := d.cmd, duty := d.duty, temp := d.temp, spareUsed := d.spareUsed, exposed := d.exposed,
                         lag := d.lag }
      let s := { s with ways := s.ways.filter fun w => w.1 / 32 != die, pickers := s.pickers.filter fun x => x.1 / 144 != die }
      (allUnits.filter fun u => unitOn die u && !s.hub.retired.contains u).foldl (fun s u =>
        s.modUnit u fun r => { UnitRec.free with cond := 4, owner := noPart, redir := r.redir }) s)

end Sys2Proof.Machine
end

