-- ==== Sys2Proof/Machine/Errors.lean ====
section
/-! DEFINITION. The severity matrix, the error log, retirement and rollback (R459 to R463, R467 to R469), and the
package reset that a failed hub causes (R10). -/

namespace Sys2Proof.Machine

/-- The package after a reset (R10, R472): everything but memory and the fuses is as State.reset gives it; the draws of free values go
on. (DEDUCED, log entry 47) -/
def State.packageReset (s : State) : State :=
  { State.reset with mem := s.mem, free := s.free, hub := { Hub.reset with fused := s.hub.fused } }

/-! ## The log (R462) -/

/-- A log record written, or lost with the overflow bit (R462). -/
def State.logError (s : State) (e : ErrorReport) (act : Nat) (retired : Bool) (count : Nat) : State :=
  let h := s.hub
  if h.elogn.toNat ≤ (h.elogwr - h.elogrd).toNat then s.modHub fun h => { h with elogovf := true }
  else
    let part := (e.ctx.map fun c => (s.ctx c).part).getD 0
    let rec_ := leBytes 8 s.clock ++
      leBytes 4 (e.cls + 2 ^ 4 * e.src + 2 ^ 8 * act + 2 ^ 11 * b2n retired + 2 ^ 12 * e.die + 2 ^ 16 * (e.unitNo % 128)) ++
      leBytes 4 (e.ctx.getD 0 + 2 ^ 12 * part + 2 ^ 17 * b2n e.ctx.isSome) ++ leBytes 8 e.addr.toNat ++ leBytes 8 count
    (s.cohWrite (hubAcc noCtx 0) (h.elogpa.toNat + 32 * (h.elogwr.toNat % h.elogn.toNat)) rec_).modHub fun h => { h with elogwr := h.elogwr + 1 }

/-! ## Retirement (R463) -/

/-- The pseudo-channel of an address among the 64 of its stack: that of its channel group, eight to each (R260, R398). -/
def stackChannel (pa : Nat) : Nat := 8 * (groupOf pa % 8) + pseudoChannel pa

/-- The key under which a retirable unit's correctable errors are kept: its cluster, slice, rim way, row or lane; none for
an error that no unit is charged with. (DEDUCED, log entry 53) -/
def retireKey (e : ErrorReport) : Option Nat :=
  let tag (n x : Nat) : Option Nat := some (n * 2 ^ 64 + x)
  match e.cls, e.src, e.place with
  | 4, _, .lane l inward => tag 4 (512 * l + 256 * b2n inward + e.unitNo)
  | 2, _, .row b r => tag 3 (((stackOf e.addr.toNat * 64 + stackChannel e.addr.toNat) * 256 + b) * 2 ^ 32 + r)
  | 3, _, .row b r => tag 3 (((stackOf e.addr.toNat * 64 + stackChannel e.addr.toNat) * 256 + b) * 2 ^ 32 + r)
  | 0, 5, .way d st w => tag 2 ((d * 65536 + st) * 16 + w)
  | 1, 5, .way d st w => tag 2 ((d * 65536 + st) * 16 + w)
  | 0, 4, _ => tag 1 (32 * e.die + e.unitNo)
  | 1, 4, _ => tag 1 (32 * e.die + e.unitNo)
  | 0, n, _ => if n < 4 then tag 0 (9 * e.die + e.unitNo) else none
  | 1, n, _ => if n < 4 then tag 0 (9 * e.die + e.unitNo) else none
  | _, _, _ => none

/-- 24 hours in ns. -/
def dayNs : Nat := 86400 * 10 ^ 9

/-- The times of a unit's correctable errors that lie within 24 h. -/
def State.recentErrors (s : State) (key : Nat) : List Nat := ((tfind s.hub.errTimes key).getD []).filter fun t => decide (s.clock ≤ t + dayNs)

/-- An error retires its unit: an uncorrectable one at once, a correctable one that is the third within 24 h (R463). -/
def State.retires (s : State) (e : ErrorReport) : Bool :=
  match retireKey e with
  | none => false
  | some k => e.cls == 1 || e.cls == 3 || decide (2 ≤ (s.recentErrors k).length)

/-- The times of the last two correctable errors of a unit (R463). -/
def State.noteError (s : State) (e : ErrorReport) : State :=
  match retireKey e with
  | none => s
  | some k =>
    if e.cls = 1 ∨ e.cls = 3 then s
    else
      let l := (tfind s.hub.errTimes k).getD [] ++ [s.clock]
      s.modHub fun h => { h with errTimes := tset h.errTimes k (l.drop (l.length - 2)) }

/-- A cluster retired (R12, R463): the die's spare takes its number, and its blocks move to it through the reserve; with the
spare in use it leaves its partition and is unusable. (DEDUCED, log entry 62) -/
def State.retireCluster (s : State) (d c : Nat) : State :=
  if ((s.die d).spareUsed) = false then
    let bs := indices s.blocks.length fun i => match s.blocks[i]? with
      | some b => b.die == d && b.clu == c && b.bst == .placed
      | none => false
    let s := bs.foldl (fun s i => s.stopBlock i (s.rto (((s.blocks[i]?).map fun b => s.ctxOfKernel b.kid).getD 0))) s
    (s.scrubCluster d c).modDie d fun x => { x with spareUsed := true }
  else
    let u := UnitName.cluster d c
    let s := (s.evict d c fun ctx => min (s.rto ctx) 20000).modUnit u fun _ => { UnitRec.free with usable := false }
    (s.modHub fun h => { h with revs := h.revs.filter fun v => v.unit_ != u, retired := h.retired ++ [u] }).modDie d fun x => { x with exposed := x.exposed - 1 }

/-- A slice retired (R463): it is rehashed out of every table that names it and is unusable. (DEDUCED, log entry 61) -/
def State.retireSlice (s : State) (d n : Nat) : State :=
  let ps := indices 24 fun p => decide (0 < sliceCount (((s.part p).slt[d]?).getD []) n) && (s.part p).formed
  let s := ps.foldl (fun s p => (s.installTable p d fun t => removeSlice t n).sweep p) s
  let u := UnitName.slice d n
  ((s.scrubSlice d n).modUnit u fun _ => { UnitRec.free with usable := false }).modHub fun h =>
    { h with revs := h.revs.filter fun v => v.unit_ != u, retired := h.retired ++ [u] }

/-- A rim cache way disabled in one set, what it held written back (R463). -/
def State.retireWay (s : State) (rim set way : Nat) : State :=
  let ls := (s.setLines rim 0 set).filter fun e => e.2.way == way
  let s := ls.foldl (fun s e => (s.toMemory (e.1 % 2 ^ 45) e.2).dropLine rim (e.1 % 2 ^ 45)) s
  s.modHub fun h => { h with disabled := h.disabled ++ [(rim * 65536 + set, way)] }

/-- A unit of no spare is due for retirement, or has been retired: classes 12 and 13 are reported (R463). -/
def State.note (s : State) (e : ErrorReport) (cls : Nat) : State := s.report { e with cls := cls, ctx := none, bid := none, place := .nowhere }

/-- A row retired (R463): the fifth of its pseudo-channel, or one beyond the 32 spares of its bank, moves the whole
pseudo-channel to the stack's spare, if that is not in use. (DEDUCED, log entry 63) -/
def State.retireRow (s : State) (e : ErrorReport) (b r : Nat) : State :=
  let st := stackOf e.addr.toNat
  let pc := stackChannel e.addr.toNat
  let s := s.modHub fun h => { h with rows := h.rows ++ [(st, pc, b, r)] }
  let inPc := s.hub.rows.filter fun x => x.1 == st && x.2.1 == pc
  if 5 ≤ inPc.length ∨ 32 < (inPc.filter fun x => x.2.2.1 == b).length then
    if s.hub.pcs.any fun x => x.1 == st then s.note e 13
    else s.modHub fun h => { h with pcs := h.pcs ++ [(st, pc)], rows := h.rows.filter fun x => !(x.1 == st && x.2.1 == pc) }
  else s

/-- The times of the unit of an error forgotten: what takes its number has had none (R463). -/
def State.forgetErrors (s : State) (e : ErrorReport) : State :=
  match retireKey e with
  | some k => s.modHub fun h => { h with errTimes := tdel h.errTimes k }
  | none => s

/-- The unit of an error retired, with its log entries (R463). -/
def State.retireUnit (s : State) (e : ErrorReport) : State :=
  let s := (s.forgetErrors e).note e 12
  match e.place, e.cls with
  | .lane l inward, _ =>
    let none' := ((s.links[l]?).map fun x => side x.spares inward) == some 0
    let s := s.retireLane l inward
    if none' then s.note e 13 else s
  | .row b r, _ => s.retireRow e b r
  | .way d st w, _ => (s.retireWay d st w).note e 13
  | _, _ =>
    if e.src = 4 then (s.retireSlice e.die e.unitNo).note e 13
    else
      let none' := (s.die e.die).spareUsed
      let s := s.retireCluster e.die e.unitNo
      if none' then s.note e 13 else s

/-! ## What an error spoils (R254, R459) -/

/-- An error of the rim cache that names a line is one of the way that holds it (R463). -/
def State.atWay (s : State) (e : ErrorReport) : ErrorReport :=
  match e.place with
  | .line pa =>
    if e.src = 5 ∧ e.cls < 2 then
      match (rimDie pa).bind fun r => (s.line? r (lineOf pa)).map fun l => (r, l.way) with
      | some (r, w) => { e with place := .way r (lineOf pa % 65536) w }
      | none => e
    else e
  | _ => e

/-- Words of storage that an uncorrectable error has hit become POISON, and nothing defines what they hold: a row's error hits the line
at its address, a way's the line that it holds in its set. (DEDUCED, log entry 49) -/
def State.spoil (s : State) (e : ErrorReport) : State :=
  match e.place with
  | .line pa =>
    if e.cls = 3 ∨ e.src = 5 then s.poisonHome pa
    else match s.line? e.die (lineOf pa) with
      | some l =>
        let n := s.free
        { s with free := n + 128 }.putLine e.die (lineOf pa) { l with poison := true, cells := l.cells.map fun (c : Nat × Cell) => (c.1, { c.2 with val := freeByte (n + c.1) }) }
      | none => s.poisonHome pa
  | .pad bid off =>
    let n := s.free
    let lo := off / 4 * 4
    { s with free := n + 4 }.modBlock bid fun b =>
      { b.padWrite lo ((List.range 4).map fun i => freeByte (n + i)) with padPoison := if b.padPoison.contains lo then b.padPoison else lo :: b.padPoison }
  | .tile bid t =>
    let n := s.free
    { s with free := n + 16384 }.modBlock bid fun b =>
      { b with tiles := b.tiles.set t (tileOf fun i j => Config.freeWord (n + 128 * i + j)), tilePoison := if b.tilePoison.contains t then b.tilePoison else t :: b.tilePoison }
  | .row _ _ => if e.cls = 3 then s.poisonHome e.addr.toNat else s
  | .way d st w => ((s.setLines d 0 st).filter fun x => x.2.way == w).foldl (fun s x => s.poisonHome (x.1 % 2 ^ 45 * 128)) s
  | _ => s

/-! ## The actions (R461) -/

/-- The partition that owns the unit of an error that no context can be charged with, if one does (R461). -/
def State.unitOwner (s : State) (e : ErrorReport) : Option Nat :=
  let own (u : UnitName) : Option Nat := (s.unit? u).bind fun r => if r.cond = 0 then none else some r.owner
  if e.src < 4 then own (.cluster e.die e.unitNo)
  else if e.src = 4 then own (.slice e.die e.unitNo)
  else match e.place with
    | .line pa => if pa < deviceTop then own (.cg (groupOf pa)) else none
    | .row _ _ => if e.addr.toNat < deviceTop then own (.cg (groupOf e.addr.toNat)) else none
    | _ => none

/-- A reset of a partition by the matrix (R417, R461); one that is not in use is left. -/
def State.matrixReset (s : State) (part : Nat) : State := if s.partLive part then s.startReset part else s

/-- INTERRUPT (R461): the hub's kernel instance and the instance of the source's die. -/
def State.interrupt (s : State) (die : Nat) : State :=
  (s.modDie 12 fun d => { d with irq := true }).modDie die fun d => { d with irq := true }

/-- An action of the matrix carried out (R461). (DEDUCED, log entry 59) -/
def State.act (s : State) (e : ErrorReport) (a : Nat) : State :=
  let s := if 2 ≤ a then s.interrupt e.die else s
  match a, e.ctx with
  | 3, some c => if (s.ctx c).st = .free then s else s.killCtx c
  | 4, some c => s.matrixReset (s.ctx c).part
  | 4, none => match s.unitOwner e with
    | some p => s.matrixReset p
    | none => s
  | 5, _ => if e.src = 10 ∨ 12 ≤ e.die then s.packageReset else s.fenceDie e.die 3
  | _, _ => s

/-- The action taken for an error that the matrix gives an action (R461): with no context to charge KILL_CONTEXT is INTERRUPT, and so
is RESET_PARTITION where no partition owns the unit. -/
def State.taken (s : State) (e : ErrorReport) (a : Nat) : Nat :=
  match a, e.ctx with
  | 3, none => 2
  | 4, none => if (s.unitOwner e).isSome then 4 else 2
  | a, _ => a

/-- ERROR_DETECT (R459 to R463, R469): an error is logged and the matrix acted on; a POISON consumed by a protected block
starts a rollback instead, unless the action is RESET_PARTITION or FENCE_DIE; a unit that is due is retired. -/
def execErrorDetect (e : ErrorReport) (s : State) : Out :=
  let s := s.modHub fun h => match h.errors with
    | x :: rest => if x = e then { h with errors := rest } else h
    | [] => h
  let e := s.atWay e
  let a := s.action e
  let s := if e.cls = 1 ∨ e.cls = 3 then s.spoil e else s
  let prot : Option Nat := if e.cls = 6 then e.bid.filter fun b => s.protects b else none
  let s := match prot with
    | some b => s.askRollback b (.poison e)
    | none => s
  let a := if prot.isSome ∧ a < 4 then 1 else a
  let gone := s.retires e
  let count := ((retireKey e).map fun k => min 3 ((s.recentErrors k).length + (if e.cls = 1 ∨ e.cls = 3 then 0 else 1))).getD 0
  let s := if a = 0 then s else s.logError e (s.taken e a) gone count
  let s := s.noteError e
  let s := if gone then s.retireUnit e else s
  .next (s.act e a)

/-! ## Rollback (R469) -/

/-- ROLLBACK_RESTORE (R469): a triggered rollback restores the block, or with a cadence stream the whole position and the
stream, for replay; one that has no snapshot, whose interval is not covered, or that is the fourth to its snapshot applies
the trigger's normal effect. A block that finds no room waits in the reserve. -/
def execRollbackRestore (bid : Nat) (s : State) : Out :=
  .next (match (s.blocks[bid]?).bind fun b => b.trigger.map fun t => (b, t) with
    | none => s
    | some (b, t) =>
      let xs := s.streamsOf b.kid b.pos
      let bs := s.rolledWith bid
      let ok := (b.bst = .placed ∨ b.bst = .reserve) ∧ s.streamImaged b.kid b.pos = true ∧ (bs.all fun i => s.protects i) = true ∧ b.rollbacks < 3
      if ok then
        let s := s.withdrawOf bs xs
        let s := s.discardEngines bs
        let s := xs.foldl (fun s i => (s.restoreStream i).modStream i fun x => { x with sst := .running }) s
        bs.foldl (fun s i =>
          let was := s.blocks[i]?
          let s := (s.restoreBlock i).modBlock i fun c => { c with replaying := some t, rollbacks := c.rollbacks + 1 }
          match was with
          | some w =>
            if w.bst = .placed then
              (((s.seat i w.die w.clu w.core).orElse fun _ => s.seatIn i w.die w.clu).map fun s => s.wake i).getD (s.writeReserve i)
            else s.writeReserve i
          | none => s) s
      else (s.modBlock bid fun b => { b with replaying := some t }).endRollback bid)

end Sys2Proof.Machine
end

