-- ==== Sys2Proof/Machine/Care.lean ====
section
/-! DEFINITION. Boot, attestation, temperature, power and supply (R472 to R478). -/

namespace Sys2Proof.Machine

/-- PACKAGE_RESET (R10, R472): the boot sequence begins. -/
def execPackageReset (s : State) : Out := .next s.packageReset

/-! ## Boot (R472, R473) -/

/-- A spoke that boots or rejoins becomes FAILED (R449, R472). -/
def State.bootFail (s : State) (d : Nat) : State := if (s.die d).st = .booting ∨ (s.die d).st = .rejoining then s.failDie d else s

/-- Step 2 ends: every hub link has been trained; a spoke whose link failed is FAILED (R472). -/
def State.bootLinks (s : State) : State :=
  (indices 12 fun d => ((s.links[d]?).map (·.lst)) == some .failed).foldl (fun s d => s.bootFail d) s

/-- The greater of two fused minimum versions: one is never lowered (R473). (DESIGN CHOICE, log entry 66) -/
def fuse (old new : Word) : Word := if old.toNat ≤ new.toNat then new else old

/-- The fused minimum version for the kind of a die code: the hub, a compute spoke or a memory spoke (R473). -/
def Hub.minimum (h : Hub) (d : Nat) : Word :=
  if d = 12 then fuse (Config.fusedMinimum 12) h.fused.1
  else if d < 8 then fuse (Config.fusedMinimum 0) h.fused.2.1
  else fuse (Config.fusedMinimum 8) h.fused.2.2

/-- The image of a die code if it is accepted: its signature verifies and its version is no lower than the fused minimum (R473).
(DEDUCED, log entry 58) -/
def State.accepted (s : State) (ok : List (Option BootImage)) (d : Nat) : Option BootImage :=
  ((ok[d]?).bind id).filter fun im => im.signed && decide ((s.hub.minimum d).toNat ≤ im.version.toNat)

/-- An accepted image is measured (R473). -/
def State.measure (s : State) (d : Nat) (im : BootImage) : State :=
  s.modDie d fun x => { x with meas := Config.shake256 im.bytes, imaged := true, hbAt := s.clockOn 12 }

/-- The images of the spokes in a state are accepted and measured, or the spoke is FAILED and the event logged (R472, R473).
(DEDUCED, log entry 58) -/
def State.bootImages (s : State) (st : DieSt) (ok : List (Option BootImage)) : State :=
  (indices 12 fun d => (s.die d).st == st && !(s.die d).imaged).foldl (fun s d =>
    match s.accepted ok d with
    | some im => s.measure d im
    | none => (s.bootFail d).report (mkError 10 11 d 0 none 0)) s

/-- Step 1 ends: the hub image is accepted and measured and the identity key pair derived from the fused seed (R472 to R474). -/
def State.bootHub (s : State) (im : BootImage) : State :=
  (s.measure 12 im).modHub fun h =>
    { h with hubVer := im.version, privKey := Config.privateKey Config.identitySeed, pubKey := Config.publicKey Config.identitySeed }

/-- The PCI Express ports that are DOWN train (R448, R472). -/
def State.trainPcie (s : State) : State :=
  { s with links := s.links.mapIdx fun i l => if 28 ≤ i ∧ l.lst = .down then { l with lst := .training } else l }

/-- How many functions each PCI Express port presents: PF0 alone once boot step 1 has failed, and PF0, PF1 and its 256 VFs after
boot (R448, R472). -/
def Hub.functions (h : Hub) : Nat := if h.stage = 7 then 1 else if h.stage = 5 then 258 else 0

/-- BOOT_STEP_DONE (R472): the boot step after the last completed one ends, if what it waits for has come about; item c of
`ok` is the image that was found for die code c (R473). After boot it is the verification of the images of the spokes that rejoin
(R458). -/
def execBootStepDone (ok : List (Option BootImage)) (s : State) : Out :=
  let upTo (s : State) (n : Nat) : State := s.modHub fun h => { h with stage := n }
  .next (match s.hub.stage with
    | 0 => match s.accepted ok 12 with
      | some im => upTo (s.bootHub im) 1
      | none => upTo s.trainPcie 7
    | 1 => if (s.links.take 12).any fun l => l.lst == .training then s else upTo s.bootLinks 2
    | 2 => upTo (s.bootImages .booting ok) 3
    | 3 => if (s.dies.take 12).any fun d => d.st == .booting then s else upTo s 4
    | 4 => upTo s.trainPcie 5
    | 5 => s.bootImages .rejoining ok
    | _ => s)

/-! ## Attestation (R474, R475) -/

/-- STATUS of ATTCMD (R476). -/
def State.attStatus (s : State) (n : Nat) : State := s.modHub fun h => { h with attSts := BitVec.ofNat 4 n }

/-- ATTEST (R475, R476): ignored while one is in progress; BADSTATE before boot has ended. -/
def execAttest (s : State) : Out :=
  .next (if s.hub.attSts = 1 then s else if s.hub.stage = 5 then s.attStatus 1 else s.attStatus 3)

/-- The part number (R475). -/
def partNumber : List Byte := [0x4A, 0x48, 0x38, 0x2D, 0x30, 0x37, 0x36, 0x38, 0x41]

/-- The signed part of a report: the nonce as supplied, the part number, the fused minimum versions, CLOCK, the
measurements in die-code order, the hub's code 12 last (R442), a FAILED die's zero, and the public key (R475). -/
def State.report0 (s : State) : List Byte :=
  s.cohBytes s.hub.attpa.toNat 32 ++ padTo 16 partNumber ++
    (leBytes 2 (s.hub.minimum 12).toNat ++ leBytes 2 (s.hub.minimum 0).toNat ++ leBytes 2 (s.hub.minimum 8).toNat ++ leBytes 2 0) ++
    leBytes 8 s.clock ++
    (List.range 13).flatMap (fun d => if (s.die d).st = DieSt.failed then List.replicate 64 0 else padTo 64 (s.die d).meas) ++
    padTo 64 s.hub.pubKey

/-- ATTEST_DONE (R475): the report and its signature are in the buffer, and STATUS is done. -/
def execAttestDone (s : State) : Out :=
  .next (if s.hub.attSts ≠ 1 then s
    else
      let r := s.report0
      (s.cohWrite (hubAcc noCtx 0) s.hub.attpa.toNat (r ++ padTo 49856 (Config.signature s.hub.privKey r))).attStatus 2)

/-! ## Throttling and supply (R477, R478) -/

/-- The duty that the temperature of a die allows: 8, less 1 for each full degree above 95 (R477). -/
def heatDuty (temp : BitVec 16) : Nat := max 1 (8 - (temp.toNat - 95 * 16) / 16)

/-- The power cap in W (R476). -/
def Hub.cap (h : Hub) : Nat := if 1000 ≤ h.pcap.toNat ∧ h.pcap.toNat ≤ 3400 then h.pcap.toNat else 3400

/-- DUTY of every die set from its temperature, for a compute spoke also from the power cap, and 1 while the supply is out
of range (R477, R478). -/
def State.setDuty (s : State) : State :=
  { s with dies := s.dies.mapIdx fun i (d : Die) =>
      { d with duty := if s.hub.supplyBad then 1 else if i < 8 then min (heatDuty d.temp) s.hub.powDuty else heatDuty d.temp } }

/-- TEMPERATURE_SAMPLE (R477): a reading in 1/16 of a degree; class 11 at 105 °C, a package reset at 110 °C.
(DEDUCED, log entry 57) -/
def execTemperatureSample (die : Nat) (temp : BitVec 16) (s : State) : Out :=
  .next (if 110 * 16 ≤ temp.toNat then s.packageReset
    else
      let s := (s.modDie die fun d => { d with temp := temp }).setDuty
      if 105 * 16 ≤ temp.toNat then s.report (mkError 11 (if die < 8 then 0 else if die < 12 then 6 else 10) die 0 none 0) else s)

/-- PACKAGE_POWER_SAMPLE (R477): above PCAP the DUTY of the compute spokes falls by 1; it rises by 1 where the power scaled to
the higher duty stays at or below PCAP. (DEDUCED, log entry 44) -/
def execPackagePowerSample (watts : Nat) (s : State) : Out :=
  let d := s.hub.powDuty
  let n := if s.hub.cap < watts then max 1 (d - 1) else if d < 8 ∧ watts * (d + 1) ≤ s.hub.cap * d then d + 1 else d
  .next (s.modHub fun h => { h with powDuty := n }).setDuty

/-- SUPPLY_CHANGE (R478): the input voltage in mV; below 44 V the package resets, back in range the throttle ends. -/
def execSupplyChange (mv : Nat) (s : State) : Out :=
  let inRange (x : Nat) : Bool := decide (48000 ≤ x) && decide (x ≤ 54000)
  .next (if mv < 44000 then s.packageReset.modHub fun h => { h with supplyMv := mv }
    else
      (s.modHub fun h =>
        { h with supplyMv := mv, supplyBad := h.supplyBad && !inRange mv, supplyAt := if inRange h.supplyMv then s.clockOn 12 else h.supplyAt }).setDuty)

/-- SUPPLY_OUT_OF_RANGE_1MS (R478): an input that has stayed outside 48 V to 54 V for 1 ms sets every DUTY to 1 and raises
class 11. -/
def execSupplyOutOfRange1ms (s : State) : Out :=
  .next (if (48000 ≤ s.hub.supplyMv ∧ s.hub.supplyMv ≤ 54000) ∨ s.clockOn 12 < s.hub.supplyAt + 1000000 then s
    else ((s.modHub fun h => { h with supplyBad := true }).setDuty).report (mkError 11 10 12 0 none 0))

end Sys2Proof.Machine
end

