-- ==== Sys2Proof/Machine/Registers.lean ====
section
/-! DEFINITION. The registers of the privileged windows: what a write does (R6, R206, R261, R364, R371, R372, R374, R422,
R423, R429, R446, R450, R460, R462, R476), and what a read of them gives. -/

namespace Sys2Proof.Machine

/-! ## The context table (R371, R372, R374) -/

/-- A register of a context record written; the fields of R372 only while the context is BOUND or SAVED. -/
def Ctx.write (c : Ctx) (off : Nat) (v : BitVec 64) : Ctx :=
  let still := c.st == .bound || c.st == .saved
  match off with
  | 0x00 => { c with asid := if still then v.extractLsb' 16 16 else c.asid, weight := v.extractLsb' 0 8 }
  | 0x04 => { c with waycl := v.extractLsb' 9 4, priv := if still then v.getLsbD 3 else c.priv, strict := v.getLsbD 2, bken := v.getLsbD 1 }
  | 0x08 => if still then { c with root := v } else c
  | 0x10 => if still then { c with savepa := v } else c
  | 0x18 => if still then { c with savesz := v } else c
  | 0x20 => if still then { c with stoppa := v } else c
  | 0x28 => { c with uvec := v.extractLsb' 0 32 }
  | 0x2C => { c with rto := v.extractLsb' 0 14 }
  | 0x30 => { c with wdog := v.extractLsb' 0 16 }
  | _ => c

/-- The code of a context state (R371). -/
def CtxSt.code : CtxSt → Nat
  | .free => 0 | .bound => 1 | .ready => 2 | .running => 3 | .halting => 4 | .halted => 5 | .saved => 6 | .migrating => 7 | .faulted => 8 | .dead => 9

/-- A register of a context record read. -/
def Ctx.read (c : Ctx) (off : Nat) : Nat :=
  match off with
  | 0x00 => c.weight.toNat + 2 ^ 8 * c.st.code + 2 ^ 16 * c.asid.toNat
  | 0x04 => 2 * b2n c.bken + 4 * b2n c.strict + 8 * b2n c.priv + 16 * c.part + 2 ^ 9 * c.waycl.toNat
  | 0x08 => c.root.toNat
  | 0x10 => c.savepa.toNat
  | 0x18 => c.savesz.toNat
  | 0x20 => c.stoppa.toNat
  | 0x28 => c.uvec.toNat
  | 0x2C => c.rto.toNat
  | 0x30 => c.wdog.toNat
  | _ => 0

/-- CTXCMD written (R374). (DEDUCED, log entry 60) -/
def State.writeCtxCmd (s : State) (die : Nat) (v : BitVec 64) : Out :=
  let ctx := bitsOf v.toNat 8 12
  let arg := bitsOf v.toNat 20 8
  if (s.die die).cmdSts = 1 then .next s
  else match bitsOf v.toNat 28 4 with
    | 1 => execCreate die ctx arg s
    | 2 => execEnable die ctx s
    | 3 => execHalt die ctx arg s
    | 4 => execResume die ctx s
    | 5 => execSave die ctx s
    | 6 => execRestore die ctx arg s
    | 7 => execKill die ctx s
    | 8 => execDestroy die ctx s
    | _ => .next s

/-- An address space named by a context record for the first time is owned by the die whose instance names it (R353, R455). -/
def State.ownAsid (s : State) (die : Nat) (a : BitVec 16) : State :=
  if s.hub.asids.any fun x => x.1 == a then s else s.modHub fun h => { h with asids := h.asids ++ [(a, die)] }

/-- A write in the context table of a die's window. -/
def State.writeCtxTable (s : State) (die off : Nat) (v : BitVec 64) : Out :=
  let c := off / 0x40
  if off = 0xFF000 then s.writeCtxCmd die v
  else if off < 0x40000 ∧ s.reachable die c then
    let s := s.modCtx c fun x => x.write (off % 0x40) v
    .next (if off % 0x40 = 0 then s.ownAsid die (s.ctx c).asid else s)
  else .next s

/-! ## The hub's window -/

/-- The unit that KIND, DIE and UNIT name (R422); a reserved kind names none. -/
def unitField (kind die unit : Nat) : UnitName :=
  match kind with
  | 0 => if unit < 9 then .cluster die unit else .cg 96
  | 1 => if unit < 32 then .slice die unit else .cg 96
  | 2 => .cg unit
  | _ => .cg 96

/-- DRCMD written (R422): ignored while a command is in progress; a partition number above 23 is BADSTATE (log entry 36).
(DEDUCED, log entry 60) -/
def State.writeDrCmd (s : State) (v : BitVec 64) : Out :=
  let f (lo n : Nat) : Nat := bitsOf v.toNat lo n
  let part := f 53 5
  let peer := f 48 5
  let u := unitField (f 46 2) (f 43 3) (f 36 7)
  let arg := BitVec.ofNat 32 (f 0 32)
  let force := v.getLsbD 58
  if s.hub.drSts = 1 then .next s
  else if f 59 5 = 0 ∨ 13 < f 59 5 then .next s
  else if 24 ≤ part then .next (s.drStatus 3)
  else match f 59 5 with
    | 1 => execForm part s
    | 2 => execActivate part s
    | 3 => execPartGrow part u (v.getLsbD 35) s
    | 4 => execPartShrink part u (f 0 32) s
    | 5 => execLend part peer u (f 0 32) s
    | 6 => execSetmode part force arg s
    | 7 => execSetmap part force arg s
    | 8 => execPartReset part s
    | 9 => execDissolve part force s
    | 10 => execMove part peer s
    | 11 => execQopen part (f 0 12) (f 12 4) (f 16 3) s
    | 12 => execQclose part (f 0 12) (f 12 4) s
    | _ => execClrredir part (f 0 2) s

/-- GATECMD written (R429): ignored while a command is in progress. (DEDUCED, log entry 60) -/
def State.writeGateCmd (s : State) (v : BitVec 64) : Out :=
  let f (lo n : Nat) : Nat := bitsOf v.toNat lo n
  let g := f 32 16
  if s.hub.gateSts = 1 then .next s
  else match f 60 4 with
    | 1 => execGateOpen g (f 55 5) s
    | 2 => execGateClose g s
    | 3 => execSetacl g (f 52 3) (BitVec.ofNat 32 (f 0 32)) s
    | 4 => execSetresp g (v.getLsbD 51) s
    | 5 => execExportGate g s
    | 6 => execImportGate g s
    | _ => .next s

/-- A register of a partition record written: the reserve and the shadow region while the partition is FORMED (R423). -/
def State.writePart (s : State) (p off : Nat) (v : BitVec 64) : State :=
  if s.partState p ≠ 1 then s
  else s.modPart p fun x => match off with
    | 0x10 => { x with respa := v }
    | 0x18 => { x with ressz := v }
    | 0x20 => { x with shadowpa := v }
    | _ => x

/-- A die status register written (R450). -/
def State.writeDieStatus (s : State) (die : Nat) (v : BitVec 64) : Out :=
  let s := s.modDie die fun d => { d with hbto := v.extractLsb' 48 16 }
  match bitsOf v.toNat 4 4 with
  | 1 => execDieFence die s
  | 2 => execRejoin die s
  | _ => .next s

/-- The bits of a severity register that hold (R460). -/
def sevMask : BitVec 64 := sevAll 7

/-- A chanter register, or the heartbeat, written through a die's window (R446, R450). -/
def State.writeChanter (s : State) (die off : Nat) (v : BitVec 64) : Out :=
  if off = 0x38 then execChtx die v s
  else if off < 0x38 ∧ off % 8 = 0 then .next (s.modDie die fun d => { d with chtx := d.chtx.set (off / 8) v })
  else if off = 0x40 then .next (s.modDie die fun d => { d with txovf := d.txovf && !v.getLsbD 7 })
  else if off = 0xC0 then (if v.getLsbD 0 then execPopInbox die s else .next s)
  else if off = 0xC8 then (if v = 1 then execHeartbeat die s else .next s)
  else .next s

/-- A write in the hub's window by one of the agents of R422. -/
def State.writeHub (s : State) (off : Nat) (v : BitVec 64) : Out :=
  if off = 0x0000 then s.writeDrCmd v
  else if off = 0x0010 then
    execRevoke (bitsOf v.toNat 53 5) (unitField (bitsOf v.toNat 46 2) (bitsOf v.toNat 43 3) (bitsOf v.toNat 36 7)) s
  else if off = 0x0018 then .next (s.modHub fun h => { h with rovf := h.rovf && !v.getLsbD 8 })
  else if 0x1000 ≤ off ∧ off < 0x1000 + 0x100 * 24 then .next (s.writePart ((off - 0x1000) / 0x100) (off % 0x100) v)
  else if 0x20000 ≤ off ∧ off < 0x20100 then s.writeChanter 12 (off - 0x20000) v
  else if 0x30000 ≤ off ∧ off < 0x30000 + 8 * 12 ∧ off % 8 = 0 then s.writeDieStatus ((off - 0x30000) / 8) v
  else if off = 0xD00008 then (if bitsOf v.toNat 60 4 = 1 then execAttest s else .next s)
  else if off = 0xD00010 then .next (s.modHub fun h => { h with attpa := v })
  else if off = 0xD00018 then .next (s.modHub fun h => { h with pcap := v.extractLsb' 0 12 })
  else if 0xE00000 ≤ off ∧ off < 0xE00078 ∧ off % 8 = 0 then
    .next (s.modHub fun h => { h with sev := h.sev.set ((off - 0xE00000) / 8) (v &&& sevMask) })
  else if off = 0xE00100 then .next (s.modHub fun h => { h with elogpa := v })
  else if off = 0xE00108 then .next (s.modHub fun h => { h with elogn := v })
  else if off = 0xE00110 then .next (s.modHub fun h => { h with elogovf := h.elogovf && !v.getLsbD 32 })
  else if off = 0xE00118 then .next (s.modHub fun h => { h with elogrd := v.extractLsb' 0 32 })
  else if off = 0xF00000 then s.writeGateCmd v
  else if off = 0xF00008 then .next (s.modHub fun h => { h with gatepa := v })
  else .next s

/-! ## The other windows -/

/-- An access-counter register written (R364); only a compute spoke has them. -/
def State.writeCounters (s : State) (die off : Nat) (v : BitVec 64) : State :=
  let near (d : Die) (i : Nat) : BitVec 96 := BitVec.ofNat 96 (d.near.toNat - bitsOf d.near.toNat (32 * i) 32 * 2 ^ (32 * i) + v.toNat % 2 ^ 32 * 2 ^ (32 * i))
  if 8 ≤ die then s
  else s.modDie die fun d => match off with
    | 0x000 => { d with thr := v.extractLsb' 0 16 }
    | 0x004 => { d with win := v.extractLsb' 0 16 }
    | 0x008 => { d with cool := v.extractLsb' 0 16 }
    | 0x010 => { d with near := near d 0 }
    | 0x014 => { d with near := near d 1 }
    | 0x018 => { d with near := near d 2 }
    | 0x020 => { d with ovf := d.ovf && !v.getLsbD 7 }
    | _ => d

/-- A slice register written (R261), of one of the 32 slices of a compute spoke. -/
def State.writeSlice (s : State) (die slice off : Nat) (v : BitVec 64) : Out :=
  if 8 ≤ die ∨ 32 ≤ slice then .next s
  else if off < 0x40 ∧ off % 4 = 0 then
    let k := 32 * die + slice
    let l := (tfind s.ways k).getD (List.replicate 16 0xFFFF)
    .next { s with ways := tset s.ways k (l.set (off / 4) (v.extractLsb' 0 16)) }
  else if off = 0x40 ∧ v.getLsbD 0 then execOccclr die slice s
  else .next s

/-- The context whose queue pages and counters a PCI Express function holds: the lowest-numbered one that is bound to it, where the
function is there (R207, R448). (DESIGN CHOICE, log entry 103) -/
def State.fnCtx (s : State) (fn : Nat) : Option Nat :=
  if fn % 257 + 1 < s.hub.functions then (s.ctxs.find? fun x => x.2.st != .free && x.2.fn == some fn).map (·.1) else none

/-- The binding of a context written: its function at offset 0, its PASID at 8 and its port at 16; a function that does not exist
leaves it bound to none (R448). (DESIGN CHOICE, log entry 103) -/
def Ctx.bind (c : Ctx) (off : Nat) (v : BitVec 64) : Ctx :=
  match off with
  | 0 => { c with fn := if v.toNat < 514 then some v.toNat else none }
  | 8 => { c with pasid := v.extractLsb' 0 20 }
  | 16 => { c with port := v.toNat % 2 }
  | _ => c

/-- The binding of a context read. -/
def Ctx.bound (c : Ctx) (off : Nat) : Nat :=
  match off with
  | 0 => c.fn.getD 0x3FF
  | 8 => c.pasid.toNat
  | 16 => c.port
  | _ => 0

/-- A fused minimum version raised: the hub's at offset 0, the compute spokes' at 8, the memory spokes' at 16 (R473).
(DESIGN CHOICE, log entry 66) -/
def Hub.fuse (h : Hub) (off : Nat) (v : Word) : Hub :=
  let f := h.fused
  match off with
  | 0 => { h with fused := (Machine.fuse f.1 v, f.2) }
  | 8 => { h with fused := (f.1, Machine.fuse f.2.1 v, f.2.2) }
  | 16 => { h with fused := (f.1, f.2.1, Machine.fuse f.2.2 v) }
  | _ => h

/-- A register of a function's queue region written: bits TORN and QOVF of QSTS are cleared by ones (R207), and an event counter is
set (R217). -/
def State.writeFunc (s : State) (ctx off : Nat) (v : BitVec 64) : Out :=
  if off < 0x10000 ∧ off % 0x1000 = 0x208 then
    .next (s.modQueue ctx (off / 0x1000) fun q => { q with torn := q.torn && !v.getLsbD 1, qovf := q.qovf && !v.getLsbD 0 })
  else if 0x10000 ≤ off ∧ off < 0x10800 ∧ off % 8 = 0 then execEventCounterWrite ctx ((off - 0x10000) / 8) v s
  else .next s

/-- The two 64-bit words of the replica entry of a frame, PRIM the frame that is its primary now (R359, R454). -/
def Replicas.words (r : Replicas) (frame : Nat) : Nat × Nat :=
  let w := r.primary frame % 2 ^ 24 + 2 ^ 24 * r.rep1.toNat + 2 ^ 48 * r.rep2.toNat + 2 ^ 72 * r.rep3.toNat
  (w % 2 ^ 64, w / 2 ^ 64)

/-- A word of the entry of a frame written (R359): PRIM moves the entry to the frame that it names. (DESIGN CHOICE, log entry 99) -/
def State.writeReplicas (s : State) (off : Nat) (v : BitVec 64) : State :=
  let frame := off / 16
  let r := s.replicasOf frame
  let old := r.words frame
  let w := if off % 16 = 0 then v.toNat + 2 ^ 64 * old.2 else old.1 + 2 ^ 64 * (v.toNat % 2 ^ 32)
  let field (i : Nat) : BitVec 24 := BitVec.ofNat 24 (bitsOf w (24 * i) 24)
  let r' := { r with rep1 := field 1, rep2 := field 2, rep3 := field 3 }
  if 2 ^ 24 ≤ frame then s
  else if bitsOf w 0 24 = r.primary frame then { s with replicas := tset s.replicas frame r' }
  else { s with replicas := tset (tdel s.replicas frame) (bitsOf w 0 24) { r' with moved := none } }

/-- A register that begins at an offset of a window, written whole. -/
def State.writeRegister (s : State) (win : Window) (off : Nat) (v : BitVec 64) : Out :=
  match win with
  | .hub => s.writeHub off v
  | .die d => if d < 12 ∧ 0x20000 ≤ off ∧ off < 0x20100 then s.writeChanter d (off - 0x20000) v else .next s
  | .counters d => .next (s.writeCounters d off v)
  | .slice d n => s.writeSlice d n off v
  | .ctxTable d => s.writeCtxTable d off v
  | .func f => match s.fnCtx f with
    | some c => s.writeFunc c off v
    | none => .next s
  | .replicas => .next (s.writeReplicas off v)
  | .bind c => .next (if (s.ctx c).st = .free then s else s.modCtx c fun x => x.bind off v)
  | .fuses => .next (s.modHub fun h => h.fuse off (v.setWidth 32))

/-! ## Reads -/

/-- The unit table entry of a unit (R424). -/
def UnitRec.word (u : UnitRec) (cg : Bool) : Nat :=
  (if u.cond = 0 then 0 else u.owner) + (if u.cond = 2 ∨ u.cond = 3 then 2 ^ 7 * u.borrower else 0) + 2 ^ 12 * b2n u.gear + 2 ^ 13 * u.cond +
    (if cg then 2 ^ 16 * u.window + 2 ^ 23 * b2n u.redir else 0)

/-- The code of a die's state (R450). -/
def DieSt.code : DieSt → Nat
  | .booting => 0 | .serving => 1 | .fenced => 2 | .failed => 3 | .rejoining => 4

/-- A chanter register of a die read (R446). -/
def Die.readChanter (d : Die) (off : Nat) : Nat :=
  if off = 0x40 then d.txcr + 2 ^ 7 * b2n d.txovf + 2 ^ 16 * d.inbox.length
  else if 0x80 ≤ off ∧ off < 0xC0 ∧ off % 8 = 0 then
    ((d.inbox.head?).map fun m => if off = 0x80 then m.hdr.toNat else m.word (off / 8 - 17)).getD 0
  else 0

/-- A byte of a slice table, or of the old table during step 4 (R424). -/
def sltByte (t : List (List (BitVec 8))) (off : Nat) : Nat := (((t[off / 64 % 8]?).bind fun x => x[off % 64]?).map (·.toNat)).getD 0

/-- Eight bytes of a slice table from an offset. -/
def sltRead (t : List (List (BitVec 8))) (off : Nat) : Nat :=
  (List.range 8).foldl (fun n i => n + 2 ^ (8 * i) * sltByte t (off + i)) 0

/-- An entry of a unit table (R424). -/
def unitRead (l : List UnitRec) (cg : Bool) (u : Nat) : Nat := ((l[u]?).map fun x => x.word cg).getD 0

/-- A register of the hub's window that begins at an offset, read (R422 to R424, R429, R450, R460, R462, R476). -/
def State.readHub (s : State) (off : Nat) : Nat :=
  let h := s.hub
  if off = 0x0008 then h.drSts.toNat + 2 ^ 4 * h.drStep.toNat
  else if off = 0x0018 then h.revs.length + 2 ^ 8 * b2n h.rovf
  else if 0x1000 ≤ off ∧ off < 0x1000 + 0x100 * 24 then
    let p := (off - 0x1000) / 0x100
    let x := s.part p
    match off % 0x100 with
    | 0x00 => 2 ^ 8 * s.partState p + 2 ^ 16 * x.epoch.toNat
    | 0x04 => x.mode.toNat
    | 0x08 => x.map.toNat
    | 0x10 => x.respa.toNat
    | 0x18 => x.ressz.toNat
    | 0x20 => x.shadowpa.toNat
    | _ => 0
  else if 0x4000 ≤ off ∧ off < 0x4000 + 4 * 72 then unitRead s.clusters false ((off - 0x4000) / 4)
  else if 0x4400 ≤ off ∧ off < 0x4400 + 4 * 256 then unitRead s.slices false ((off - 0x4400) / 4)
  else if 0x4800 ≤ off ∧ off < 0x4800 + 4 * 96 then unitRead s.cgs true ((off - 0x4800) / 4)
  else if 0x8000 ≤ off ∧ off < 0x8000 + 0x200 * 24 then sltRead (s.part ((off - 0x8000) / 0x200)).slt (off - 0x8000)
  else if 0xC000 ≤ off ∧ off < 0xC000 + 0x200 * 24 then sltRead (s.part ((off - 0xC000) / 0x200)).sltOld (off - 0xC000)
  else if 0x20000 ≤ off ∧ off < 0x20100 then (s.die 12).readChanter (off - 0x20000)
  else if 0x30000 ≤ off ∧ off < 0x30000 + 8 * 12 then
    let d := s.die ((off - 0x30000) / 8)
    d.st.code + 2 ^ 8 * d.why.toNat + 2 ^ 16 * d.hb.toNat + 2 ^ 48 * d.hbto.toNat
  else if off = 0xD00000 then h.stage + 2 ^ 32 * (if 1 ≤ h.stage ∧ h.stage ≤ 5 then h.hubVer.toNat else 0)
  else if off = 0xD00008 then h.attSts.toNat
  else if off = 0xD00010 then h.attpa.toNat
  else if off = 0xD00018 then h.pcap.toNat
  else if 0xD00100 ≤ off ∧ off < 0xD00100 + 8 * 13 then
    let d := s.die ((off - 0xD00100) / 8)
    d.temp.toNat + 2 ^ 20 * d.duty
  else if 0xE00000 ≤ off ∧ off < 0xE00080 then ((h.sev[(off - 0xE00000) / 8]?).getD 0).toNat
  else if off = 0xE00100 then h.elogpa.toNat
  else if off = 0xE00108 then h.elogn.toNat
  else if off = 0xE00110 then h.elogwr.toNat + 2 ^ 32 * b2n h.elogovf
  else if off = 0xE00118 then h.elogrd.toNat
  else if off = 0xF00008 then h.gatepa.toNat
  else if off = 0xF00010 then h.gateSts.toNat
  else if 0x1000000 ≤ off ∧ off < 0x2000000 then leNat (((s.gate ((off - 0x1000000) / 0x100)).record.drop (off % 0x100)).take 8)
  else 0

/-- A register of a function's queue region read: the code of a queue's state and its other bits (R207), an event counter (R217). -/
def State.readFunc (s : State) (ctx off : Nat) : Nat :=
  let q := off / 0x1000
  if 0x10000 ≤ off then (if off < 0x10800 ∧ off % 8 = 0 then ((s.ctx ctx).event ((off - 0x10000) / 8)).toNat else 0)
  else if off % 0x1000 = 0x200 then s.queueFree ctx q
  else if off % 0x1000 = 0x208 then
    let x := s.queue ctx q
    b2n x.qovf + 2 * b2n x.torn + 2 ^ 5 * s.queueState ctx q + 2 ^ 8 * x.prio
  else 0

/-- What a register that begins at an offset of a window holds; a field that only takes writes, and a reserved one, reads as 0
(R6). -/
def State.register (s : State) (win : Window) (off : Nat) : BitVec 64 :=
  BitVec.ofNat 64 (match win with
    | .hub => s.readHub off
    | .die d => if d < 12 ∧ 0x20000 ≤ off ∧ off < 0x20100 then (s.die d).readChanter (off - 0x20000) else 0
    | .counters d =>
      let x := s.die d
      if 8 ≤ d then 0
      else match off with
      | 0x000 => x.thr.toNat
      | 0x004 => x.win.toNat
      | 0x008 => x.cool.toNat
      | 0x010 => bitsOf x.near.toNat 0 32
      | 0x014 => bitsOf x.near.toNat 32 32
      | 0x018 => bitsOf x.near.toNat 64 32
      | 0x020 => x.reqs.length + 2 ^ 7 * b2n x.ovf
      | 0x028 => x.popped.toNat
      | _ => 0
    | .slice d n =>
      if 8 ≤ d ∨ 32 ≤ n then 0
      else if off < 0x40 then (s.wayMask d n (off / 4)).toNat
      else if 0x1000 ≤ off ∧ off < 0x5000 then
        (s.l2.filter fun e => decide (e.1 / 2 ^ 45 = d) && e.2.slice == n && e.2.counted && e.2.tag == (off - 0x1000) / 4).length
      else 0
    | .ctxTable d =>
      if off = 0xFF000 then (s.die d).cmdSts.toNat
      else if off < 0x40000 ∧ s.reachable d (off / 0x40) then (s.ctx (off / 0x40)).read (off % 0x40)
      else 0
    | .func f => ((s.fnCtx f).map fun c => s.readFunc c off).getD 0
    | .bind c => (s.ctx c).bound off
    | .fuses => match off with
      | 0 => (s.hub.minimum 12).toNat
      | 8 => (s.hub.minimum 0).toNat
      | 16 => (s.hub.minimum 8).toNat
      | _ => 0
    | .replicas => if 2 ^ 28 ≤ off then 0
        else if off % 16 = 0 then ((s.replicasOf (off / 16)).words (off / 16)).1 else ((s.replicasOf (off / 16)).words (off / 16)).2)

/-! ## The bytes of a window (R4) -/

/-- Where the register lies that holds an offset of a window, and how many bytes it has: 4 where the spec's tables name its bits
up to 31 (R261, R364, R371, R374, R423, R424), else 8. -/
def regAt (win : Window) (off : Nat) : Nat × Nat :=
  let short := match win with
    | .hub => (decide (0x1000 ≤ off) && decide (off < 0x1000 + 0x100 * 24) && decide (off % 0x100 < 0x10)) || (decide (0x4000 ≤ off) && decide (off < 0x4980))
    | .counters _ => decide (off < 0x28)
    | .slice .. => true
    | .ctxTable _ => decide (off % 0x40 < 8) || decide (0x28 ≤ off % 0x40) || decide (0xFF000 ≤ off)
    | _ => false
  if short then (off - off % 4, 4) else (off - off % 8, 8)

/-- What a read in a window gives from an offset to the end of the register that holds it, least significant byte first (R4). -/
def State.readRegister (s : State) (win : Window) (off : Nat) : BitVec 64 :=
  s.register win (regAt win off).1 >>> (8 * (off - (regAt win off).1))

/-- What a read of some bytes of a window gives (R4, R6). -/
def State.readWindow (s : State) (win : Window) (off bytes : Nat) : List Byte :=
  (List.range bytes).map fun i => (s.readRegister win (off + i)).setWidth 8

/-- What a register keeps where a write does not reach it: its value where it takes writes, and 0 where a write triggers
an action or clears bits. (DESIGN CHOICE, log entry 99) -/
def State.kept (s : State) (win : Window) (reg : Nat) : BitVec 64 :=
  let chtx (d o : Nat) : BitVec 64 := if 0x20000 ≤ o ∧ o < 0x20040 then ((s.die d).chtx[(o - 0x20000) / 8]?).getD 0 else 0
  match win with
  | .hub => if reg < 0x1000 ∨ reg = 0xE00110 then 0 else if 0x20000 ≤ reg ∧ reg < 0x20100 then chtx 12 reg else s.register win reg
  | .die d => chtx d reg
  | .counters _ => if reg = 0x20 then 0 else s.register win reg
  | .func _ => if reg < 0x10000 then 0 else s.register win reg
  | _ => s.register win reg

/-- A register's value with `n` bytes of it from byte k on written. -/
def mergeBytes (old v : BitVec 64) (k n : Nat) : BitVec 64 :=
  let m : BitVec 64 := BitVec.ofNat 64 (2 ^ (8 * n) - 1) <<< (8 * k)
  (old &&& ~~~m) ||| ((v <<< (8 * k)) &&& m)

/-- A write of some bytes within one register, least significant first (R4). -/
def State.writePiece (s : State) (win : Window) (off bytes : Nat) (v : BitVec 64) : Out :=
  let r := regAt win off
  if off = r.1 ∧ r.2 ≤ bytes then s.writeRegister win r.1 v
  else s.writeRegister win r.1 (mergeBytes (s.kept win r.1) v (off - r.1) bytes)

/-- PRIVILEGED_REGISTER_WRITE (R4 to R6): a write of some bytes to the registers of a window by an agent that reaches them;
reserved bits and read-only fields ignore it, and a command register carries out its command. A package that boot has left in reset
takes none (R472). A write of 8 bytes at two
registers of 4 writes both, the lower first. A write in a queue's PORT that is no beat sets TORN (R208). (DEDUCED, log entry 60)
(DESIGN CHOICE, log entry 99) -/
def execPrivilegedRegisterWrite (win : Window) (off : Nat) (v : RegWrite) (s : State) : Out :=
  let bytes := v.bytes
  let v := v.bits
  let r := regAt win off
  let n := r.1 + r.2 - off
  if s.hub.stage = 7 then .next s
  else match win with
  | .func f =>
    if off < 0x10000 ∧ off % 0x1000 < 0x200 then
      match s.fnCtx f with
      | some c => execQueuePortBeat c (off / 0x1000) (off % 0x1000) (leBytes bytes v.toNat) s
      | none => .next s
    else s.writePiece win off (min n bytes) v
  | _ =>
    if bytes ≤ n then s.writePiece win off bytes v
    else
      match s.writePiece win off n v with
      | .next t => t.writePiece win (off + n) (min (bytes - n) 4) (v >>> (8 * n))
      | o => o

end Sys2Proof.Machine
end

