-- ==== Sys2Proof/Machine/Dispatch.lean ====
section
/-! DEFINITION. The dispatch of an instruction or event to its meaning, one arm per constructor. -/

namespace Sys2Proof.Machine

def exec (i : Instr) (s : State) : Host.Outcome State Fault Refusal :=
  match i with
  | .iadd d a b => Sys2Proof.Machine.execIadd d a b s
  | .isub d a b => Sys2Proof.Machine.execIsub d a b s
  | .imul d a b => Sys2Proof.Machine.execImul d a b s
  | .imulh d a b => Sys2Proof.Machine.execImulh d a b s
  | .imulhu d a b => Sys2Proof.Machine.execImulhu d a b s
  | .imin d a b => Sys2Proof.Machine.execImin d a b s
  | .imax d a b => Sys2Proof.Machine.execImax d a b s
  | .iminu d a b => Sys2Proof.Machine.execIminu d a b s
  | .imaxu d a b => Sys2Proof.Machine.execImaxu d a b s
  | .iabs d a => Sys2Proof.Machine.execIabs d a s
  | .iadds d a b => Sys2Proof.Machine.execIadds d a b s
  | .isubs d a b => Sys2Proof.Machine.execIsubs d a b s
  | .iaddsu d a b => Sys2Proof.Machine.execIaddsu d a b s
  | .isubsu d a b => Sys2Proof.Machine.execIsubsu d a b s
  | .and d a b => Sys2Proof.Machine.execAnd d a b s
  | .or d a b => Sys2Proof.Machine.execOr d a b s
  | .xor d a b => Sys2Proof.Machine.execXor d a b s
  | .andn d a b => Sys2Proof.Machine.execAndn d a b s
  | .orn d a b => Sys2Proof.Machine.execOrn d a b s
  | .shl d a b => Sys2Proof.Machine.execShl d a b s
  | .shr d a b => Sys2Proof.Machine.execShr d a b s
  | .sar d a b => Sys2Proof.Machine.execSar d a b s
  | .rotl d a b => Sys2Proof.Machine.execRotl d a b s
  | .popc d a => Sys2Proof.Machine.execPopc d a s
  | .clz d a => Sys2Proof.Machine.execClz d a s
  | .brev d a => Sys2Proof.Machine.execBrev d a s
  | .mov d b => Sys2Proof.Machine.execMov d b s
  | .fadd d a b => Sys2Proof.Machine.execFadd d a b s
  | .fsub d a b => Sys2Proof.Machine.execFsub d a b s
  | .fmul d a b => Sys2Proof.Machine.execFmul d a b s
  | .fmin d a b => Sys2Proof.Machine.execFmin d a b s
  | .fmax d a b => Sys2Proof.Machine.execFmax d a b s
  | .fabs d a => Sys2Proof.Machine.execFabs d a s
  | .ffloor d a => Sys2Proof.Machine.execFfloor d a s
  | .fceil d a => Sys2Proof.Machine.execFceil d a s
  | .ftrunc d a => Sys2Proof.Machine.execFtrunc d a s
  | .frint d a => Sys2Proof.Machine.execFrint d a s
  | .hadd2 d a b => Sys2Proof.Machine.execHadd2 d a b s
  | .hmul2 d a b => Sys2Proof.Machine.execHmul2 d a b s
  | .hmin2 d a b => Sys2Proof.Machine.execHmin2 d a b s
  | .hmax2 d a b => Sys2Proof.Machine.execHmax2 d a b s
  | .badd2 d a b => Sys2Proof.Machine.execBadd2 d a b s
  | .bmul2 d a b => Sys2Proof.Machine.execBmul2 d a b s
  | .i2f d a => Sys2Proof.Machine.execI2f d a s
  | .u2f d a => Sys2Proof.Machine.execU2f d a s
  | .f2i d a => Sys2Proof.Machine.execF2i d a s
  | .f2u d a => Sys2Proof.Machine.execF2u d a s
  | .f2h d a b => Sys2Proof.Machine.execF2h d a b s
  | .h2f d a b => Sys2Proof.Machine.execH2f d a b s
  | .f2b d a b => Sys2Proof.Machine.execF2b d a b s
  | .b2f d a b => Sys2Proof.Machine.execB2f d a b s
  | .nop => Sys2Proof.Machine.execNop s
  | .uadd d a b => Sys2Proof.Machine.execUadd d a b s
  | .usub d a b => Sys2Proof.Machine.execUsub d a b s
  | .umul d a b => Sys2Proof.Machine.execUmul d a b s
  | .umulh d a b => Sys2Proof.Machine.execUmulh d a b s
  | .umin d a b => Sys2Proof.Machine.execUmin d a b s
  | .umax d a b => Sys2Proof.Machine.execUmax d a b s
  | .uminu d a b => Sys2Proof.Machine.execUminu d a b s
  | .umaxu d a b => Sys2Proof.Machine.execUmaxu d a b s
  | .uand d a b => Sys2Proof.Machine.execUand d a b s
  | .uor d a b => Sys2Proof.Machine.execUor d a b s
  | .uxor d a b => Sys2Proof.Machine.execUxor d a b s
  | .uandn d a b => Sys2Proof.Machine.execUandn d a b s
  | .ushl d a b => Sys2Proof.Machine.execUshl d a b s
  | .ushr d a b => Sys2Proof.Machine.execUshr d a b s
  | .usar d a b => Sys2Proof.Machine.execUsar d a b s
  | .upopc d a => Sys2Proof.Machine.execUpopc d a s
  | .uclz d a => Sys2Proof.Machine.execUclz d a s
  | .umov d b => Sys2Proof.Machine.execUmov d b s
  | .unop => Sys2Proof.Machine.execUnop s
  | .imac g d a b c => Sys2Proof.Machine.execImac g d a b c s
  | .imacw g d a b c u => Sys2Proof.Machine.execImacw g d a b c u s
  | .isum3 g d a b c => Sys2Proof.Machine.execIsum3 g d a b c s
  | .idot8 g d a b c ua ub => Sys2Proof.Machine.execIdot8 g d a b c ua ub s
  | .iabda g d a b c u => Sys2Proof.Machine.execIabda g d a b c u s
  | .iaddc g d a b cin cout => Sys2Proof.Machine.execIaddc g d a b cin cout s
  | .isubb g d a b cin cout => Sys2Proof.Machine.execIsubb g d a b cin cout s
  | .iaddw g d a b ty k => Sys2Proof.Machine.execIaddw g d a b ty k s
  | .lea g d a b stg w sh => Sys2Proof.Machine.execLea g d a b stg w sh s
  | .bfx g d a b stg => Sys2Proof.Machine.execBfx g d a b stg s
  | .bfi g d a b c => Sys2Proof.Machine.execBfi g d a b c s
  | .bytex g d a b c => Sys2Proof.Machine.execBytex g d a b c s
  | .sel g d a b pneg p => Sys2Proof.Machine.execSel g d a b pneg p s
  | .isetp g a b pd pc pcneg bop u cmp => Sys2Proof.Machine.execIsetp g a b pd pc pcneg bop u cmp s
  | .movlo g d imm => Sys2Proof.Machine.execMovlo g d imm s
  | .movhi g d imm => Sys2Proof.Machine.execMovhi g d imm s
  | .ptab g pd pa pb pc table => Sys2Proof.Machine.execPtab g pd pa pb pc table s
  | .p2v g d => Sys2Proof.Machine.execP2v g d s
  | .v2p g a b => Sys2Proof.Machine.execV2p g a b s
  | .ffma g d a b c np nc => Sys2Proof.Machine.execFfma g d a b c np nc s
  | .hfma2 g d a b c np nc => Sys2Proof.Machine.execHfma2 g d a b c np nc s
  | .bfma2 g d a b c np nc => Sys2Proof.Machine.execBfma2 g d a b c np nc s
  | .fsetp g a b pd pc pcneg bop u cmp => Sys2Proof.Machine.execFsetp g a b pd pc pcneg bop u cmp s
  | .fclass g a pd mask => Sys2Proof.Machine.execFclass g a pd mask s
  | .fdot2 g d a b c bf => Sys2Proof.Machine.execFdot2 g d a b c bf s
  | .cvtn g d a n k isrc => Sys2Proof.Machine.execCvtn g d a n k isrc s
  | .cvtw g d a n k idst => Sys2Proof.Machine.execCvtw g d a n k idst s
  | .frcp g la d a => Sys2Proof.Machine.execFrcp g la d a s
  | .frsq g la d a => Sys2Proof.Machine.execFrsq g la d a s
  | .fsqrt g la d a => Sys2Proof.Machine.execFsqrt g la d a s
  | .fexp2 g la d a => Sys2Proof.Machine.execFexp2 g la d a s
  | .flog2 g la d a => Sys2Proof.Machine.execFlog2 g la d a s
  | .fsint g la d a => Sys2Proof.Machine.execFsint g la d a s
  | .fcost g la d a => Sys2Proof.Machine.execFcost g la d a s
  | .fldexp g d a b => Sys2Proof.Machine.execFldexp g d a b s
  | .shfl g la d a b c op all sm => Sys2Proof.Machine.execShfl g la d a b c op all sm s
  | .vote g la pd pneg p op all sm => Sys2Proof.Machine.execVote g la pd pneg p op all sm s
  | .ballot g la d pneg p all sm => Sys2Proof.Machine.execBallot g la d pneg p all sm s
  | .matchv g la d a all sm => Sys2Proof.Machine.execMatchv g la d a all sm s
  | .redux g la d a c op all sm => Sys2Proof.Machine.execRedux g la d a c op all sm s
  | .scanx g la d a c ex op all sm => Sys2Proof.Machine.execScanx g la d a c ex op all sm s
  | .bra g off => Sys2Proof.Machine.execBra g off s
  | .jmpi g a => Sys2Proof.Machine.execJmpi g a s
  | .call g off => Sys2Proof.Machine.execCall g off s
  | .calli g a => Sys2Proof.Machine.execCalli g a s
  | .ret g => Sys2Proof.Machine.execRet g s
  | .exitT g => Sys2Proof.Machine.execExitT g s
  | .join g n => Sys2Proof.Machine.execJoin g n s
  | .yield g => Sys2Proof.Machine.execYield g s
  | .grow g n => Sys2Proof.Machine.execGrow g n s
  | .shrink g n => Sys2Proof.Machine.execShrink g n s
  | .monw g a size sext ord off64 gr hint scope imm => Sys2Proof.Machine.execMonw g a size sext ord off64 gr hint scope imm s
  | .mwait g b pd p => Sys2Proof.Machine.execMwait g b pd p s
  | .trap g imm => Sys2Proof.Machine.execTrap g imm s
  | .bkpt g imm => Sys2Proof.Machine.execBkpt g imm s
  | .rdctr g la d sl => Sys2Proof.Machine.execRdctr g la d sl s
  | .ld g la d a size sext ord off64 gr hint scope imm => Sys2Proof.Machine.execLd g la d a size sext ord off64 gr hint scope imm s
  | .st g d a size sext ord off64 gr hint scope imm => Sys2Proof.Machine.execSt g d a size sext ord off64 gr hint scope imm s
  | .ldx g la d a size sext ord off64 gr hint scope imm => Sys2Proof.Machine.execLdx g la d a size sext ord off64 gr hint scope imm s
  | .pld g la d a size sext ord off64 gr hint scope imm => Sys2Proof.Machine.execPld g la d a size sext ord off64 gr hint scope imm s
  | .pst g d a size sext ord off64 gr hint scope imm => Sys2Proof.Machine.execPst g d a size sext ord off64 gr hint scope imm s
  | .atom g la d a size sext ord off64 gr hint scope imm => Sys2Proof.Machine.execAtom g la d a size sext ord off64 gr hint scope imm s
  | .atomc g la d a size sext ord off64 gr hint scope imm => Sys2Proof.Machine.execAtomc g la d a size sext ord off64 gr hint scope imm s
  | .red g d a size sext ord off64 gr hint scope imm => Sys2Proof.Machine.execRed g d a size sext ord off64 gr hint scope imm s
  | .patom g la d a size sext ord off64 gr hint scope imm => Sys2Proof.Machine.execPatom g la d a size sext ord off64 gr hint scope imm s
  | .fence g kind scope => Sys2Proof.Machine.execFence g kind scope s
  | .cflush g a size sext ord off64 gr hint scope imm => Sys2Proof.Machine.execCflush g a size sext ord off64 gr hint scope imm s
  | .cinv g a size sext ord off64 gr hint scope imm => Sys2Proof.Machine.execCinv g a size sext ord off64 gr hint scope imm s
  | .pref g a size sext ord off64 gr hint scope imm => Sys2Proof.Machine.execPref g a size sext ord off64 gr hint scope imm s
  | .pprobe g la d a size sext ord off64 gr hint scope imm => Sys2Proof.Machine.execPprobe g la d a size sext ord off64 gr hint scope imm s
  | .phint g kind a size sext ord off64 gr hint scope imm => Sys2Proof.Machine.execPhint g kind a size sext ord off64 gr hint scope imm s
  | .umac g d a b sb => Sys2Proof.Machine.execUmac g d a b sb s
  | .umovlo g d imm => Sys2Proof.Machine.execUmovlo g d imm s
  | .umovhi g d imm => Sys2Proof.Machine.execUmovhi g d imm s
  | .usetp g a b pd pc pcneg bop u cmp => Sys2Proof.Machine.execUsetp g a b pd pc pcneg bop u cmp s
  | .usel g d a b qneg q => Sys2Proof.Machine.execUsel g d a b qneg q s
  | .ubfx g d a b stg => Sys2Proof.Machine.execUbfx g d a b stg s
  | .ubfi g d a b sb => Sys2Proof.Machine.execUbfi g d a b sb s
  | .umovs g d sl => Sys2Proof.Machine.execUmovs g d sl s
  | .v2s g la d a vs => Sys2Proof.Machine.execV2s g la d a vs s
  | .uld g la d a size sext ord gr hint scope imm => Sys2Proof.Machine.execUld g la d a size sext ord gr hint scope imm s
  | .ust g d a size sext ord gr hint scope imm => Sys2Proof.Machine.execUst g d a size sext ord gr hint scope imm s
  | .uatom g la d a size sext ord gr hint scope imm => Sys2Proof.Machine.execUatom g la d a size sext ord gr hint scope imm s
  | .ufence g kind scope => Sys2Proof.Machine.execUfence g kind scope s
  | .ubra g off => Sys2Proof.Machine.execUbra g off s
  | .ujmpi g a => Sys2Proof.Machine.execUjmpi g a s
  | .ucall g off => Sys2Proof.Machine.execUcall g off s
  | .uret g => Sys2Proof.Machine.execUret g s
  | .uexit g => Sys2Proof.Machine.execUexit g s
  | .utrap g imm => Sys2Proof.Machine.execUtrap g imm s
  | .gnarrow g a dst gs sb perms gset gi => Sys2Proof.Machine.execGnarrow g a dst gs sb perms gset gi s
  | .ginfo g la d sl gs => Sys2Proof.Machine.execGinfo g la d sl gs s
  | .pinfo g la d sl => Sys2Proof.Machine.execPinfo g la d sl s
  | .gdchk g d a op n arg => Sys2Proof.Machine.execGdchk g d a op n arg s
  | .shape g a n => Sys2Proof.Machine.execShape g a n s
  | .xcopy g d a dir n gr hint scope k stg off64 get => Sys2Proof.Machine.execXcopy g d a dir n gr hint scope k stg off64 get s
  | .xgath g d a n gr hint scope k sm => Sys2Proof.Machine.execXgath g d a n gr hint scope k sm s
  | .xscat g d a n gr hint scope k sm => Sys2Proof.Machine.execXscat g d a n gr hint scope k sm s
  | .xstat g la d sl k => Sys2Proof.Machine.execXstat g la d sl k s
  | .binit g d a r k n => Sys2Proof.Machine.execBinit g d a r k n s
  | .barv g a k win stg scope => Sys2Proof.Machine.execBarv g a k win stg scope s
  | .bard g a k win stg scope => Sys2Proof.Machine.execBard g a k win stg scope s
  | .bwait g a k win stg par e => Sys2Proof.Machine.execBwait g a k win stg par e s
  | .btry g la a k win stg qd par e => Sys2Proof.Machine.execBtry g la a k win stg qd par e s
  | .bexp g a k win stg n => Sys2Proof.Machine.execBexp g a k win stg n s
  | .bdrop g a k win stg => Sys2Proof.Machine.execBdrop g a k win stg s
  | .blkbar g => Sys2Proof.Machine.execBlkbar g s
  | .clubar g => Sys2Proof.Machine.execClubar g s
  | .diebar g => Sys2Proof.Machine.execDiebar g s
  | .gsig g a => Sys2Proof.Machine.execGsig g a s
  | .gwait g a sb => Sys2Proof.Machine.execGwait g a sb s
  | .gtry g la d a qd sb => Sys2Proof.Machine.execGtry g la d a qd sb s
  | .gpost g a sig wd sb => Sys2Proof.Machine.execGpost g a sig wd sb s
  | .gread g la d a wd => Sys2Proof.Machine.execGread g la d a wd s
  | .gquery g la d a sl => Sys2Proof.Machine.execGquery g la d a sl s
  | .launch g a q gr => Sys2Proof.Machine.execLaunch g a q gr s
  | .qstat g la d q => Sys2Proof.Machine.execQstat g la d q s
  | .evsig g a set sb => Sys2Proof.Machine.execEvsig g a set sb s
  | .evwait g a sb => Sys2Proof.Machine.execEvwait g a sb s
  | .tzero g a an k e => Sys2Proof.Machine.execTzero g a an k e s
  | .tmma g d a kc an fa fb ch am k e z ci => Sys2Proof.Machine.execTmma g d a kc an fa fb ch am k e z ci s
  | .tmmas g d a kc an fa fb k e z sl => Sys2Proof.Machine.execTmmas g d a kc an fa fb k e z sl s
  | .tdrain g d a an fd gd ge ci k e z => Sys2Proof.Machine.execTdrain g d a an fd gd ge ci k e z s
  | .tfence g => Sys2Proof.Machine.execTfence g s
  | .twait g a all an => Sys2Proof.Machine.execTwait g a all an s
  | .tstat g la d a all an => Sys2Proof.Machine.execTstat g la d a all an s
  | .joinTimeout gid t => Sys2Proof.Machine.execJoinTimeout gid t s
  | .yieldRelease gid t => Sys2Proof.Machine.execYieldRelease gid t s
  | .mwaitTimeout gid t => Sys2Proof.Machine.execMwaitTimeout gid t s
  | .groupLoaded gid => Sys2Proof.Machine.execGroupLoaded gid s
  | .stageSetPlace kid pos => Sys2Proof.Machine.execStageSetPlace kid pos s
  | .residentDispatch kid => Sys2Proof.Machine.execResidentDispatch kid s
  | .blockRetire bid => Sys2Proof.Machine.execBlockRetire bid s
  | .kernelCompletion kid => Sys2Proof.Machine.execKernelCompletion kid s
  | .priorityPreemption kid => Sys2Proof.Machine.execPriorityPreemption kid s
  | .hangWatchdog ctx => Sys2Proof.Machine.execHangWatchdog ctx s
  | .snapshotComplete x => Sys2Proof.Machine.execSnapshotComplete x s
  | .copyStart cid => Sys2Proof.Machine.execCopyStart cid s
  | .copySector cid => Sys2Proof.Machine.execCopySector cid s
  | .copyLand cid => Sys2Proof.Machine.execCopyLand cid s
  | .haltDrainDeadline ctx => Sys2Proof.Machine.execHaltDrainDeadline ctx s
  | .tileOpStart oid => Sys2Proof.Machine.execTileOpStart oid s
  | .tileChunk oid => Sys2Proof.Machine.execTileChunk oid s
  | .tileRowGroup oid => Sys2Proof.Machine.execTileRowGroup oid s
  | .tileOpComplete oid => Sys2Proof.Machine.execTileOpComplete oid s
  | .tlbiPh1 die => Sys2Proof.Machine.execTlbiPh1 die s
  | .tlbiAck die => Sys2Proof.Machine.execTlbiAck die s
  | .tlbiAckCollect die => Sys2Proof.Machine.execTlbiAckCollect die s
  | .ownershipRequest page dev wr => Sys2Proof.Machine.execOwnershipRequest page dev wr s
  | .ownershipFlush page dev => Sys2Proof.Machine.execOwnershipFlush page dev s
  | .counterWindow die => Sys2Proof.Machine.execCounterWindow die s
  | .cooldownEnd die region => Sys2Proof.Machine.execCooldownEnd die region s
  | .groupStop gid => Sys2Proof.Machine.execGroupStop gid s
  | .reconvergenceTimeout gid => Sys2Proof.Machine.execReconvergenceTimeout gid s
  | .haltingEnd ctx => Sys2Proof.Machine.execHaltingEnd ctx s
  | .saveDone ctx => Sys2Proof.Machine.execSaveDone ctx s
  | .restoreDone ctx => Sys2Proof.Machine.execRestoreDone ctx s
  | .reserveRestore bid => Sys2Proof.Machine.execReserveRestore bid s
  | .autorecl part kid => Sys2Proof.Machine.execAutorecl part kid s
  | .scrubComplete u => Sys2Proof.Machine.execScrubComplete u s
  | .shadowCopyDone cg => Sys2Proof.Machine.execShadowCopyDone cg s
  | .sweepComplete part => Sys2Proof.Machine.execSweepComplete part s
  | .shiftCommit part => Sys2Proof.Machine.execShiftCommit part s
  | .gateToken g e => Sys2Proof.Machine.execGateToken g e s
  | .gateStallTimeout who => Sys2Proof.Machine.execGateStallTimeout who s
  | .chanterDeliver die => Sys2Proof.Machine.execChanterDeliver die s
  | .heartbeatTimeout die => Sys2Proof.Machine.execHeartbeatTimeout die s
  | .fenceComplete die => Sys2Proof.Machine.execFenceComplete die s
  | .errorDetect e => Sys2Proof.Machine.execErrorDetect e s
  | .rollbackRestore bid => Sys2Proof.Machine.execRollbackRestore bid s
  | .instructionComplete who k => Sys2Proof.Machine.execInstructionComplete who k s
  | .collectiveExchange gid pc => Sys2Proof.Machine.execCollectiveExchange gid pc s
  | .queuePortBeat ctx q off data => Sys2Proof.Machine.execQueuePortBeat ctx q off data s
  | .eventCounterWrite ctx n v => Sys2Proof.Machine.execEventCounterWrite ctx n v s
  | .privilegedRegisterWrite win off v => Sys2Proof.Machine.execPrivilegedRegisterWrite win off v s
  | .kernelAdmit => Sys2Proof.Machine.execKernelAdmit s
  | .hubWalk die core ctx va => Sys2Proof.Machine.execHubWalk die core ctx va s
  | .accessRequestPop die => Sys2Proof.Machine.execAccessRequestPop die s
  | .occclr die slice => Sys2Proof.Machine.execOccclr die slice s
  | .create die ctx arg => Sys2Proof.Machine.execCreate die ctx arg s
  | .enable die ctx => Sys2Proof.Machine.execEnable die ctx s
  | .halt die ctx arg => Sys2Proof.Machine.execHalt die ctx arg s
  | .resume die ctx => Sys2Proof.Machine.execResume die ctx s
  | .save die ctx => Sys2Proof.Machine.execSave die ctx s
  | .restore die ctx arg => Sys2Proof.Machine.execRestore die ctx arg s
  | .kill die ctx => Sys2Proof.Machine.execKill die ctx s
  | .destroy die ctx => Sys2Proof.Machine.execDestroy die ctx s
  | .form part => Sys2Proof.Machine.execForm part s
  | .activate part => Sys2Proof.Machine.execActivate part s
  | .partGrow part u gear => Sys2Proof.Machine.execPartGrow part u gear s
  | .partShrink part u arg => Sys2Proof.Machine.execPartShrink part u arg s
  | .lend part peer u arg => Sys2Proof.Machine.execLend part peer u arg s
  | .setmode part force arg => Sys2Proof.Machine.execSetmode part force arg s
  | .setmap part force arg => Sys2Proof.Machine.execSetmap part force arg s
  | .partReset part => Sys2Proof.Machine.execPartReset part s
  | .dissolve part force => Sys2Proof.Machine.execDissolve part force s
  | .move part peer => Sys2Proof.Machine.execMove part peer s
  | .qopen part ctx q prio => Sys2Proof.Machine.execQopen part ctx q prio s
  | .qclose part ctx q => Sys2Proof.Machine.execQclose part ctx q s
  | .clrredir part slot => Sys2Proof.Machine.execClrredir part slot s
  | .revoke part u => Sys2Proof.Machine.execRevoke part u s
  | .gateOpen g part => Sys2Proof.Machine.execGateOpen g part s
  | .gateClose g => Sys2Proof.Machine.execGateClose g s
  | .setacl g e arg => Sys2Proof.Machine.execSetacl g e arg s
  | .setresp g resp => Sys2Proof.Machine.execSetresp g resp s
  | .exportGate g => Sys2Proof.Machine.execExportGate g s
  | .importGate g => Sys2Proof.Machine.execImportGate g s
  | .portEnable link => Sys2Proof.Machine.execPortEnable link s
  | .linkTrainingDone link lanes => Sys2Proof.Machine.execLinkTrainingDone link lanes s
  | .flitReceive link linkOk payload crc wr pa ctx => Sys2Proof.Machine.execFlitReceive link linkOk payload crc wr pa ctx s
  | .retryLimit link => Sys2Proof.Machine.execRetryLimit link s
  | .chtx die v => Sys2Proof.Machine.execChtx die v s
  | .popInbox die => Sys2Proof.Machine.execPopInbox die s
  | .heartbeat die => Sys2Proof.Machine.execHeartbeat die s
  | .dieFence die => Sys2Proof.Machine.execDieFence die s
  | .rejoin die => Sys2Proof.Machine.execRejoin die s
  | .packageReset => Sys2Proof.Machine.execPackageReset s
  | .bootStepDone ok => Sys2Proof.Machine.execBootStepDone ok s
  | .attest => Sys2Proof.Machine.execAttest s
  | .attestDone => Sys2Proof.Machine.execAttestDone s
  | .temperatureSample die temp => Sys2Proof.Machine.execTemperatureSample die temp s
  | .supplyChange mv => Sys2Proof.Machine.execSupplyChange mv s
  | .copierCopyComplete job => Sys2Proof.Machine.execCopierCopyComplete job s
  | .saddleHostPeerAccess x => Sys2Proof.Machine.execSaddleHostPeerAccess x s
  | .pageRequestResponse ctx page => Sys2Proof.Machine.execPageRequestResponse ctx page s
  | .packagePowerSample watts => Sys2Proof.Machine.execPackagePowerSample watts s
  | .supplyOutOfRange1ms => Sys2Proof.Machine.execSupplyOutOfRange1ms s

end Sys2Proof.Machine
end

