-- ==== Sys2Proof/Machine/Fetch.lean ====
section
/-! DEFINITION. Fetching an instruction with its prefix run (R29 to R33, R57 to R59) and the checks of R62 that come
before its effect. -/

namespace Sys2Proof.Machine

/-! ## Words -/

/-- What fetching one word meets. -/
inductive FetchRes where
  | word (w : Nat)
  | trap (c : Cause) (va : Nat)
  | wait
  deriving DecidableEq, Repr

/-- A byte as instruction fetch finds it: the line of the die L2 where it holds the byte, else its home (R34; no
instruction cache is modelled, log entry 40). -/
def State.fetchByte (s : State) (die pa : Nat) : Byte :=
  ((s.line? die (lineOf pa)).bind fun l => l.byte? (pa % 128)).getD (s.cohByte pa)

/-- The checks of a fetch through the code grant, in the order of R33: GRANT_STALE, GRANT_BOUNDS, GRANT_PERM (R347). -/
def fetchCheck (a : Acc) (g : Grant) (off : Nat) : Option Cause :=
  if g.tag ∧ (g.part ≠ a.part ∨ g.ctxNo ≠ a.ctx) then some .grantStale
  else if g.tag = false ∨ g.len < off + 4 then some .grantBounds
  else if g.ex = false then some .grantPerm
  else none

/-- The four bytes at a translated address as instruction fetch finds them, with what their consumption reports (R254); a bound page
of another partition is read at its rim home (R430 item 2). A fetch that reaches no home, or that the hub drops, finds bytes that
nothing defines (R415, R454; DESIGN CHOICE, log entry 82). (DESIGN CHOICE, log entry 40) -/
def State.fetchPa (s : State) (a : Acc) (e : BitVec 64) (pa : Nat) (bid : Option Nat) : State × List Byte :=
  let pa := s.replicaPa e pa
  let gone := s.lost a e pa 4 false true
  let s := s.consume a e pa 4 true bid
  if gone then s.freeBytes 4
  else if s.foreign a e pa then (s.dropForeign a pa).freeBytes 4
  else if s.atGateHome a e then
    let s := if leafCls e = 0 then s.cohShareAll (lineOf pa) else s
    (s, (List.range 4).map fun i => s.homeByte (pa + i))
  else (s, (List.range 4).map fun i => s.fetchByte a.die (pa + i))

/-- One word of the code grant (R29, R33): MISALIGN, the checks of the grant, translation; then its four bytes. MISALIGN goes before the checks of the grant, which the spec does not order.
(DEDUCED, log entry 69) (DEDUCED, log entry 70) (DESIGN CHOICE, log entry 85) -/
def State.fetchWord (s : State) (who : Agent) (g : Grant) (off : Nat) : State × FetchRes :=
  let a := s.accOf who
  let va := g.base + off
  if off % 4 ≠ 0 ∨ va % 4 ≠ 0 then (s, .trap .misalign va)
  else
    match fetchCheck a g off with
    | some c => (s, .trap c va)
    | none =>
      match s.lookRead a .fetch va 4 true (s.bidOf who) with
      | (s, .fault c) => (s, .trap c va)
      | (s, .wait) => (s, .wait)
      | (s, .poison) => (s, .wait)
      | (s, .ok pa e) => match s.fetchPa { a with core := none } e pa (s.bidOf who) with
        | (s, b) => (s, .word (leNat b))

/-- What was fetched at a PC: the prefixes with their addresses, where the run ends, and the words after it, none
where the run reaches the end of the code grant (R57). -/
structure Fetched where
  pres : List (Nat × Nat)
  ipc : Nat
  words : List Nat
  deriving DecidableEq, Repr

/-- The words from an address on, after some prefixes (R33, R57). -/
def State.fetchRun (s : State) (who : Agent) (g : Grant) : Nat → Nat → List (Nat × Nat) → State × (Fetched ⊕ FetchRes)
  | 0, at_, pres => (s, .inl { pres := pres, ipc := at_, words := [] })
  | fuel + 1, at_, pres =>
    if pres ≠ [] ∧ g.len < at_ + 4 then (s, .inl { pres := pres, ipc := at_, words := [] })
    else
      match s.fetchWord who g at_ with
      | (s, .word w) =>
        match wordClass w with
        | .mod | .rep => s.fetchRun who g fuel (at_ + 4) (pres ++ [(at_, w)])
        | .lx | .ux =>
          match s.fetchWord who g (at_ + 4) with
          | (s, .word c) => (s, .inl { pres := pres, ipc := at_, words := [w, c] })
          | (s, r) => (s, .inr r)
        | _ => (s, .inl { pres := pres, ipc := at_, words := [w] })
      | (s, r) => (s, .inr r)

/-! ## Decode checks -/

/-- What stands at a PC. -/
inductive Decoded where
  | run (r : Run)
  | trap (c : Cause) (pc : Word) (val : Nat)
  | wait
  deriving DecidableEq, Repr

/-- A prefix word whose own fields break R51 or R53, or that a cadence core does not have (R57, R64). -/
def badPrefix (cadence : Bool) (w : Nat) : Bool :=
  match wordClass w with
  | .mod => cadence || (decodeMod w).isNone
  | .rep => (decodeRep w).isNone
  | _ => false

/-- The iterations of an instruction, with its stepped fields; none where one has no register or breaks a rule (R54, R55). -/
def iterations (i : Instr) (rep : Option RepP) : Option (List Instr) :=
  match rep with
  | none => some [i]
  | some r => (List.range (r.cnt.toNat + 1)).foldr (fun it o =>
      match o, i.stepRep r it with
      | some l, some j => if j.wf then some (j :: l) else none
      | _, _ => none) (some [])

/-- The instructions that a cadence core lacks (R64). -/
def onCadence : Instr → Bool
  | .v2s .. | .grow .. | .shrink .. => false
  | i => i.isUniform

/-- The instructions of a cadence core alone (R64, R329). -/
def cadenceOnly : Instr → Bool
  | .tzero .. | .tmma .. | .tmmas .. | .tdrain .. | .tfence .. | .twait .. | .tstat .. => true
  | _ => false

/-- The decode checks that rest on the launch and on the kind of core: element indices (R158, R159), tile slots (R324,
R329), undeclared guards (R466), mask and result registers of width 64 (R185, R187), and R64. -/
def launchOk (k : Kernel) (cadence : Bool) (i : Instr) : Bool :=
  let even (x : Nat) : Bool := k.width != 64 || x % 2 == 0
  let wordOk (a : BitVec 8) (win : BitVec 1) : Bool := if cadence then win == 0 else a == 0
  (if cadence then onCadence i else !cadenceOnly i) &&
  match i with
  | .cvtn _ _ _ n kk _ => elementOk (slotFmt (k.slot n.toNat)) kk.toNat
  | .cvtw _ _ _ n kk _ => elementOk (slotFmt (k.slot n.toNat)) kk.toNat
  | .gdchk _ _ _ op n _ => op != 0 || bitAt k.gdmask n.toNat
  | .shfl _ _ _ _ _ _ _ all sm => all == 1 || even sm.toNat
  | .vote _ _ _ _ _ _ all sm => all == 1 || even sm.toNat
  | .redux _ _ _ _ _ _ all sm => all == 1 || even sm.toNat
  | .scanx _ _ _ _ _ _ _ all sm => all == 1 || even sm.toNat
  | .ballot _ _ d _ _ all sm => even d.toNat && (all == 1 || even sm.toNat)
  | .matchv _ _ d _ all sm => even d.toNat && (all == 1 || even sm.toNat)
  | .binit _ _ a .. => cadence || a == 0
  | .barv _ a _ win .. => wordOk a win
  | .bard _ a _ win .. => wordOk a win
  | .bwait _ a _ win .. => wordOk a win
  | .btry _ _ a _ win .. => wordOk a win
  | .bexp _ a _ win .. => wordOk a win
  | .bdrop _ a _ win .. => wordOk a win
  | i => tileSlotsOk k i

/-- The guard of an instruction that a cadence core may not perform (R62 step 4), a copy or a barrier of groups (R279, R312);
with that guard false it does nothing (R45, R290). -/
def privOnCadence : Instr → Option (BitVec 4)
  | .shape g .. | .xcopy g .. | .xgath g .. | .xscat g .. | .xstat g .. | .blkbar g | .clubar g | .diebar g => some g
  | _ => none

/-- The address of the lowest orphan of a run before an instruction (R57): a prefix with another of its kind in the run, or
that the instruction does not accept. (DEDUCED, log entry 25) -/
def lowestOrphan (pres : List (Nat × Nat)) (i : Instr) : Option Nat :=
  let kind (c : WordClass) : List (Nat × Nat) := pres.filter fun p => wordClass p.2 == c
  (pres.find? fun p => match wordClass p.2 with
    | .mod => decide (1 < (kind .mod).length) || i.modMark == .none || i.isControl
    | _ => decide (1 < (kind .rep).length) || !i.acceptsRep || i.isControl).map (·.1)

/-- The checks of R62 steps 2 to 4 on what was fetched at a PC: ILLEGAL_ENCODING, ORPHAN_PREFIX, PRIV where the guard is true;
`u` is what the agent's uniform guards read. (DEDUCED, log entry 25) -/
def decodeRun (k : Kernel) (cadence : Bool) (u : UFile) (pc : Nat) (f : Fetched) : Decoded :=
  let word (n : Nat) : Word := BitVec.ofNat 32 n
  let illegal : Decoded := .trap .illegalEncoding (word pc) 0
  if f.pres.any fun p => badPrefix cadence p.2 then illegal
  else
    match f.words with
    | [] => .trap .orphanPrefix (word pc) 0
    | w :: _ =>
      if wordClass w = .cont ∨ wordClass w = .reserved then
        (if f.pres = [] then illegal else .trap .orphanPrefix (word pc) 0)
      else
        match decode f.words with
        | .error _ => illegal
        | .ok i =>
          let mods := f.pres.filterMap fun p => if wordClass p.2 = .mod then decodeMod p.2 else none
          let reps := f.pres.filterMap fun p => if wordClass p.2 = .rep then decodeRep p.2 else none
          let rep := if i.acceptsRep then reps.head? else none
          if !launchOk k cadence i then illegal
          else if i.modMark ≠ .none ∧ (mods.any fun m => !m.okFor i.modMark) then illegal
          else if (iterations i rep).isNone then illegal
          else
            match lowestOrphan f.pres i with
            | some at_ => .trap .orphanPrefix (word at_) 0
            | none =>
              if cadence && (privOnCadence i).any u.guard then .trap .priv (word pc) 0
              else .run { ins := i, pre := mods.head?, rep := rep, ipc := word f.ipc, next := word (f.ipc + 4 * f.words.length) }

/-- An agent is a cadence stream. -/
def isStream : Agent → Bool
  | .stream _ => true
  | .group _ => false

/-- The most words that a prefix run can hold: those of the first 4 GiB of a code grant (R163). -/
def runFuel : Nat := 2 ^ 30

/-- What stands at a PC of an agent (R29 to R33, R62). -/
def State.decodeAt (s : State) (who : Agent) (pc : Word) : State × Decoded :=
  match s.kernels[s.kidOf who]?, s.ufile who with
  | some k, some u =>
    match s.fetchRun who k.codeGrant runFuel pc.toNat [] with
    | (s, .inl f) => (s, decodeRun k (isStream who) u pc.toNat f)
    | (s, .inr (.trap c va)) => (s, .trap c pc va)
    | (s, .inr _) => (s, .wait)
  | _, _ => (s, .wait)

/-- The V registers that a run names in any of its iterations lie below a ceiling (R44, R55). -/
def Run.belowCeiling (r : Run) (vregs : Nat) : Bool :=
  match iterations r.ins r.rep with
  | some l => l.all fun i => i.vregs.all fun v => decide (v < vregs)
  | none => false

end Sys2Proof.Machine
end

