-- ==== Sys2Proof/Machine/Picker.lean ====
section
/-! DEFINITION. The picker of a quadrant and the issue of one instruction (R165 to R172), and the turn of a cadence
stream (R184, R335). -/

namespace Sys2Proof.Machine

/-! ## Entries (R166) -/

/-- An entry of a picker: a group, a PC with one value of PROG and CSP, its ready threads by GLANE, and the tick since
which the oldest of them is ready. -/
structure Entry where
  gid : Nat
  bid : Nat
  slot : Nat
  grpix : Nat
  pc : Word
  prog : Nat
  csp : Nat
  lanes : List Nat
  since : Nat
  deriving DecidableEq, Repr

/-- The ready threads of a group that stand where a thread stands. -/
def State.sameEntry (s : State) (g : Group) (t : Thread) : List Nat :=
  indices g.threads.length fun u => match g.threads[u]? with
    | some x => x.pc == t.pc && x.prog == t.prog && x.csp == t.csp && s.readyThread g x
    | none => false

/-- The entries of one group: one for each thread that is the first of its entry. -/
def State.groupEntries (s : State) (gid : Nat) (g : Group) : List Entry :=
  (List.range g.threads.length).filterMap fun u =>
    match g.threads[u]? with
    | none => none
    | some t =>
      let l := s.sameEntry g t
      if l.head? = some u then
        some { gid := gid, bid := g.bid, slot := g.slot, grpix := g.grpix, pc := t.pc, prog := t.prog, csp := t.csp, lanes := l,
               since := l.foldl (fun n v => match g.threads[v]? with
                 | some x => min n x.ready
                 | none => n) t.ready }
      else none

/-- The entries of a quadrant of a core. -/
def State.entries' (s : State) (core q : Nat) : List Entry :=
  (List.range s.groups.length).flatMap fun gid =>
    match s.groups[gid]? with
    | some g => if quadrantOf g.slot = q ∧ s.coreOf g = core ∧ s.issues g = true then s.groupEntries gid g else []
    | none => []

/-- The greatest age an entry has, in clocks (R166). -/
def maxAge : Nat := 4096

/-- The age of an entry in clocks (R166). -/
def State.age (s : State) (e : Entry) : Nat := min maxAge ((s.tick - e.since) / coreTick)

/-- The order in which the picker serves entries (R166): the first component that differs decides, lower first. At the
greatest age the slots are served round-robin after the one served last. Entries of one group at one PC go by PROG and then by
CSP, which the spec does not order. (DESIGN CHOICE, log entry 87) -/
def State.rank (s : State) (last : Nat) (e : Entry) : List Nat :=
  let turn := if s.age e = maxAge then (e.slot + 191 - last) % 192 else e.slot
  [maxAge - s.age e, turn, e.grpix, e.pc.toNat, e.prog, e.csp]

/-- A lexicographic comparison. -/
def lexLt : List Nat → List Nat → Bool
  | [], [] => false
  | [], _ => true
  | _, [] => false
  | a :: r, b :: t => decide (a < b) || (a == b && lexLt r t)

/-- An entry put into a list that is in serving order. -/
def State.insertEntry (s : State) (last : Nat) (e : Entry) : List Entry → List Entry
  | [] => [e]
  | x :: r => if lexLt (s.rank last e) (s.rank last x) then e :: x :: r else x :: s.insertEntry last e r

/-- Entries in serving order (R166). -/
def State.served (s : State) (last : Nat) (l : List Entry) : List Entry := l.foldr (s.insertEntry last) []

/-- The live threads of a group that stand at a PC under a PROG and CSP (R168). -/
def Group.standing (g : Group) (e : Entry) : List Nat :=
  indices g.threads.length fun u => match g.threads[u]? with
    | some x => x.live && x.pc == e.pc && x.prog == e.prog && x.csp == e.csp
    | none => false

/-- The threads of an entry that a uniform instruction can be issued for: every live thread that stands there has to be ready, and
those that came to it while others waited in it perform it in a later issue than those (R168, R431). Threads that share a stamp have
issued it together and go on together. -/
def Group.together (g : Group) (e : Entry) : List Nat :=
  let all := g.standing e
  let stamp (u : Nat) : Option Nat := (g.threads[u]?).bind (·.wait.stamp)
  match e.lanes.filterMap stamp with
  | [] => if all = e.lanes then e.lanes else []
  | k :: ks =>
    let old := all.filter fun u => stamp u == some (ks.foldl min k)
    if old.all e.lanes.contains then old else []

/-- The threads of an entry that an instruction can be issued for (R168); a collective waits for the thread's earlier one (R186;
DESIGN CHOICE, log entry 88). -/
def State.entryLanes (s : State) (e : Entry) (i : Instr) : List Nat :=
  match s.groups[e.gid]? with
  | none => []
  | some g =>
    if i.isUniform then g.together e
    else if i.isCollective then e.lanes.filter fun u => ((g.threads[u]?).map (·.coll.isNone)).getD false
    else e.lanes

/-- What stands before a thread of a group at a PC: the repeated instruction that it has started, which is not fetched again
(R56), else what is decoded there. -/
def State.standsAt (s : State) (gid u : Nat) (pc : Word) : State × Decoded :=
  match (s.thread? gid u).bind (·.going) with
  | some r => (s, .run r)
  | none => s.decodeAt (.group gid) pc

/-- What stands before an entry. -/
def State.before (s : State) (e : Entry) : State × Decoded := s.standsAt e.gid ((e.lanes.head?).getD 0) e.pc

/-- The picker can issue an entry. -/
def State.issuable (s : State) (e : Entry) : Bool :=
  match s.before e with
  | (_, .run r) => s.entryLanes e r.ins != []
  | (_, .trap ..) => true
  | (s', .wait) => s' != s

/-- The entries of a quadrant in the order in which its picker serves them (R166). -/
def State.candidates (s : State) (core q : Nat) : List Entry := s.served (s.picker core q).last (s.entries' core q)

/-! ## The threads of an issue (R168, R170) -/

/-- The lead's own threads: all of them for a uniform instruction, those of one slot for a lane instruction (R168). -/
def State.leadLanes (s : State) (e : Entry) (i : Instr) : List (Nat × Nat) :=
  let l := s.entryLanes e i
  let lower := l.filter (· < 32)
  (if i.isUniform ∨ lower = [] then l else lower).map fun u => (e.gid, u)

/-- The home lane of a thread. -/
def State.homeOf (s : State) (l : Nat × Nat) : Nat := ((s.groups[l.1]?).map fun g => g.homeLane l.2).getD 0

/-- The threads that join an issue by packing (R170), in the order of R166, each in a home lane that is free. -/
def State.packed (s : State) (core q : Nat) (e : Entry) (i : Instr) (lead : List (Nat × Nat)) : List (Nat × Nat) :=
  if !i.packable || i.isUniform then []
  else
    let wide := ((s.groups[e.gid]?).map fun g => g.width == 64).getD false
    let cands := (s.candidates core q).filter fun x =>
      x.bid == e.bid && x.pc == e.pc && x.prog == e.prog && (x.gid != e.gid || wide)
    let ts := (cands.flatMap fun x => x.lanes.map fun u => (x.gid, u)).filter fun l => !lead.contains l
    (ts.foldl (fun (acc : List Nat × List (Nat × Nat)) l =>
      if acc.1.contains (s.homeOf l) then acc else (s.homeOf l :: acc.1, acc.2 ++ [l])) (lead.map s.homeOf, [])).2

/-- A thread put into a list that is in ascending home lane. -/
def State.insertLane (s : State) (l : Nat × Nat) : List (Nat × Nat) → List (Nat × Nat)
  | [] => [l]
  | x :: r => if s.homeOf l < s.homeOf x then l :: x :: r else x :: s.insertLane l r

/-- Threads in ascending home lane. -/
def State.byLane (s : State) (l : List (Nat × Nat)) : List (Nat × Nat) := l.foldr s.insertLane []

/-! ## Issue -/

/-- The start of an instruction in a thread's stream: windows that are used up complete and the others shrink; the wait of a
lane that is tested again ends (R60). A REP or a memory instruction that goes on from its PROG has started before. -/
def Thread.begin' (t : Thread) : Thread :=
  let t := if t.prog = 0 ∧ t.wait = .none then
      let t := t.completeIf fun p => p.left == 0
      { t with pend := windowStep t.pend }
    else t
  { t with wait := match t.wait with
      | .held _ _ => .none
      | .lane _ => .none
      | w => w }

/-- The uniform results whose windows are used up completed (R60). -/
def UFile.settle (u : UFile) : UFile := u.completeIf fun p => p.left == 0

/-- The start of an instruction in a group's or a stream's uniform results (R60). -/
def UFile.begin' (u : UFile) : UFile := { u.settle with pend := windowStep u.settle.pend }

/-- The current issue of a group set, its threads and its groups at the start of the instruction; `cut` is the number of lanes after
which this step leaves it. -/
def State.startIssue (s : State) (gid : Nat) (pc : Word) (prog : Nat) (r : Run) (cut : Option Nat) (lanes : List (Nat × Nat)) : State :=
  let again := lanes.all fun l => ((s.thread? l.1 l.2).map fun t => t.prog != 0 || t.wait != .none).getD true
  let s := { s with issue := { who := .group gid, lanes := lanes, pc := pc, ipc := r.ipc, next := r.next, iter := prog, pre := r.pre, rep := r.rep, again := again, cut := cut } }
  let fresh (gid : Nat) : Bool := lanes.any fun l => l.1 == gid && ((s.thread? l.1 l.2).map fun t => t.prog == 0 && t.wait == .none).getD false
  let s := ((lanes.map (·.1)).dedup.filter fresh).foldl (fun s gid => s.modU (.group gid) (·.begin')) s
  s.onLanes fun _ _ _ t => t.begin'

/-- After an issue: its threads are ready again 1 clock later, 4 clocks after a control transfer (R165), and keep a repeated
instruction that goes on (R56); those that joined by packing count it (R396). -/
def State.endIssue (s : State) (tick : Nat) (r : Run) (lanes joined : List (Nat × Nat)) : State :=
  let at_ := tick + (if r.ins.isControl then 4 else 1) * coreTick
  let s := lanes.foldl (fun s l => s.modThread l.1 l.2 fun t =>
    { t with ready := at_, going := if r.rep.isSome ∧ t.prog ≠ 0 ∧ t.standing = none then some r else none }) s
  joined.foldl (fun s l => s.modThread l.1 l.2 fun t => { t with tpack := t.tpack + 1 }) s

/-- A step that goes on where the first one answers a next state. -/
def andThen (o : Out) (f : State → State) : Out :=
  match o with
  | .next s => .next (f s)
  | .fault r => .fault r
  | .refused r => .refused r

/-- The register fields of an instruction stepped for an iteration (R54). -/
def Run.stepped (r : Run) (it : Nat) : Instr :=
  match r.rep with
  | none => r.ins
  | some rp => (r.ins.stepRep rp it).getD r.ins

/-- The picker's own count of an issue (R166, R179). -/
def State.countIssue (s : State) (core q : Nat) (e : Entry) : State :=
  let p := s.picker core q
  let p' : Picker := { issues := p.issues + 1, last := if s.age e = maxAge then e.slot else p.last }
  { s with pickers := tset s.pickers (4 * core + q) p' }

/-- A cause raised at the decode of an entry: its threads stand at the PC given (R32, R57, R171). -/
def State.trapEntry (s : State) (e : Entry) (c : Cause) (pc : Word) (val : Nat) : State :=
  e.lanes.foldl (fun s u => (s.modThread e.gid u fun t => { t with pc := pc }).standAt e.gid u c false val) s

/-- An instruction issued for an entry (R168 to R171): lanes above their ceiling are trapped (R44), the others perform it. -/
def State.issueRun (s : State) (core q : Nat) (cut : Option Nat) (e : Entry) (r : Run) : Out :=
  let lead := s.leadLanes e r.ins
  let joined := s.packed core q e r.ins lead
  let lanes := s.byLane (lead ++ joined)
  let fits (l : Nat × Nat) : Bool := ((s.groups[l.1]?).map fun g => r.belowCeiling g.vregs).getD false
  let ok := lanes.filter fits
  let s1 := s.countIssue core q e
  let s2 := (lanes.filter fun l => !fits l).foldl (fun s l => s.standAt l.1 l.2 .regCeiling false 0) s1
  if ok = [] then .next s2
  else
    let i := r.stepped e.prog
    andThen (exec i (s2.startIssue e.gid e.pc e.prog r cut ok)) fun t => t.endIssue s.tick r ok (joined.filter fits)

/-- A thread waits where it waited before, with nothing of its instruction done. -/
def Thread.waitsStill (t x : Thread) : Bool :=
  t.wait != .none && x.wait != .none && x.pc == t.pc && x.prog == t.prog && x.standing.isNone && x.live

/-- An instruction tested again in its wait, and still waiting: no issue was made of it (R190). -/
def State.stillWaits (s t : State) (e : Entry) : Bool :=
  e.lanes.all fun u => match s.thread? e.gid u, t.thread? e.gid u with
    | some x, some y => x.waitsStill y
    | _, _ => false

/-- The issue was left after some of its lanes: the step that takes its last lanes counts it. (DEDUCED, log entry 105) -/
def State.leftCut (s : State) : Bool := s.issue.lanes.any fun l => ((s.thread? l.1 l.2).map fun t => t.wait == .lane true).getD false

/-- The picker serves the first of some entries that can issue; one that is tested again and still waits takes no issue slot
(R166, R190). -/
def State.serve (s : State) (core q : Nat) (cut : Option Nat) : List Entry → Out
  | [] => .next s
  | e :: rest =>
    if !s.issuable e then s.serve core q cut rest
    else
      match s.before e with
      | (s1, .run r) =>
        match s1.issueRun core q cut e r with
        | .next t =>
          if s.stillWaits t e then State.serve { t with pickers := s.pickers } core q cut rest
          else .next (if cut.isSome && t.leftCut then { t with pickers := s.pickers } else t)
        | o => o
      | (s1, .trap c pc val) => .next ((s1.countIssue core q e).trapEntry e c pc val)
      | (s1, .wait) => s1.serve core q cut rest

/-- The turn of a quadrant: its picker serves one entry, if one can issue (R166). (DEDUCED, log entry 105) -/
def State.quadrantTurn (s : State) (core q : Nat) (cut : Option Nat) : Out := s.serve core q cut (s.candidates core q)

/-! ## Waits that are over (R165, R190, R365, R370) -/

/-- A thread waits in a lane access or a uniform instruction, whose wait is not known to be over. -/
def Thread.blocked (t : Thread) : Bool := match t.wait with
  | .lane woken => !woken
  | .uni _ woken => !woken
  | _ => false

/-- A blocked thread's instruction would go on if it were issued now: its thread would not wait, or it would ask for a page or
raise a trap. -/
def State.wouldGo (s : State) (gid u : Nat) (g : Group) (t : Thread) : Bool :=
  let lanes := indices g.threads.length fun v => match g.threads[v]? with
    | some x => x.live && x.blocked && x.pc == t.pc && x.prog == t.prog && x.csp == t.csp && x.wait.stamp == t.wait.stamp
    | none => false
  match s.standsAt gid u t.pc with
  | (_, .run r) =>
    match exec (r.stepped t.prog) (s.startIssue gid t.pc t.prog r none (lanes.map fun v => (gid, v))) with
    | .next y => !(((y.thread? gid u).map t.waitsStill).getD false) || y.owns != s.owns || y.hub.pageReqs != s.hub.pageReqs
    | _ => true
  | (_, .trap ..) => true
  | (y, .wait) => y != s

/-- A wait marked as over. -/
def Wait.over : Wait → Wait
  | .lane _ => .lane true
  | .uni k _ => .uni k true
  | w => w

/-- The waits of groups that are over are marked, and the class U traps that awaited a thread's instructions are taken (R61,
R165). (DESIGN CHOICE, log entry 3) -/
def State.wakeWaits (s : State) : State :=
  let woken : List Group := s.groups.mapIdx fun gid g =>
    if s.issues g = true ∧ g.threads.any Thread.blocked = true then
      { g with threads := g.threads.mapIdx fun u t =>
          if t.live = true ∧ t.standing = none ∧ t.blocked = true ∧ s.wouldGo gid u g t = true then { t with wait := t.wait.over } else t }
    else g
  let due : List (Nat × Nat) := s.groups.zipIdx.flatMap fun x =>
    if s.issues x.1 then (indices x.1.threads.length fun u => match x.1.threads[u]? with
      | some { wait := .due .., .. } => true
      | _ => false).map fun u => (x.2, u)
    else []
  due.foldl (fun s l => s.deliverDue l.1 l.2) { s with groups := woken }

/-! ## Cadence streams -/

/-- A stream may issue: running on a serving die in a running context, no cause standing and no rollback of its position awaited
(R320, R381, R469). -/
def State.streamReady (s : State) (x : Stream) : Bool :=
  x.sst == .running && x.standing.isNone && !s.deadDie x.die && (s.ctx (s.ctxOfKernel x.kid)).st == .running &&
    s.blocks.all fun b => b.kid != x.kid || b.pos != x.pos || b.trigger.isNone

/-- The current issue of a stream set. -/
def State.startStream (s : State) (sid : Nat) (pc : Word) (r : Run) (it : Nat) : State :=
  let again := it != 0 || ((s.streams[sid]?).map fun x => x.wait != .none).getD false
  { s with issue := { who := .stream sid, lanes := [], pc := pc, ipc := r.ipc, next := r.next, iter := it, pre := r.pre, rep := r.rep, again := again, cut := none } }

/-- The iterations of a stream's instruction from a given one on, n of them (R54). -/
def State.streamIters (s : State) (sid : Nat) (pc : Word) (r : Run) : Nat → Nat → Out
  | 0, _ => .next s
  | n + 1, it =>
    match exec (r.stepped it) (s.startStream sid pc r it) with
    | .next s => s.streamIters sid pc r n (it + 1)
    | o => o

/-- The turn of a cadence stream: a RANGE_GUARD that awaits delivery is taken before its next instruction, in a wait too, which is
withdrawn (R335); else the instruction at its PC is performed, decoded with the results whose windows are used up (R60). -/
def State.streamTurn (s : State) (sid : Nat) : Out :=
  match s.streams[sid]? with
  | none => .next s
  | some x =>
    if !s.streamReady x then .next s
    else
      match x.rgWait with
      | some n =>
        let s := ((s.withdraw (.stream sid)).modStream sid fun x => { x with wait := .none }).userTrapStream sid .rangeGuard n x.pc
        .next (s.modStream sid fun y => if y.standing.isSome then y else { y with rgWait := none })
      | none =>
        match (if x.wait = .none then s.modU (.stream sid) (·.settle) else s).decodeAt (.stream sid) x.pc with
        | (s, .run r) =>
          let s := if x.wait = .none then s.modU (.stream sid) (·.begin') else s
          s.streamIters sid x.pc r (match r.rep with
            | some p => p.cnt.toNat + 1
            | none => 1) 0
        | (s, .trap c pc val) => .next ((s.modStream sid fun x => { x with pc := pc }).standStream sid c false val)
        | (s, .wait) => .next s

end Sys2Proof.Machine
end

