-- ==== Sys2Proof/Machine/Schedule.lean ====
section
/-! DEFINITION. The rounds of the package: time goes on by one core clock, eligible and throttled time are counted (R223,
R477), and the turns that are enabled are put on the agenda, the machine's own events first. -/

namespace Sys2Proof.Machine

/-! ## Time -/

/-- Issue on a die is gated in this clock by its duty: d of every 8 clocks issue (R477). (DEDUCED, log entry 75) -/
def State.gated (s : State) (die : Nat) : Bool := decide ((s.die die).duty ≤ s.tick / coreTick % 8)

/-- The derailleur lifts throttling for a context that halts and for a cluster that is revoked: the bounds of R381 and R406 apply at
duty 8 (R477). (DEDUCED, log entry 75) -/
def State.lifted (s : State) (ctx die clu : Nat) : Bool :=
  (s.ctx ctx).st == .halting || s.hub.revs.any fun v => v.unit_ == .cluster die clu

/-- The engines of a cluster are gated in this clock for a context. -/
def State.gatedFor (s : State) (ctx die clu : Nat) : Bool := s.gated die && !s.lifted ctx die clu

/-- The dies on which a context holds a group slot or a cadence stream that runs (R223). -/
def State.busyDies (s : State) (ctx : Nat) : List Nat :=
  (s.groups.filterMap fun g => match s.blocks[g.bid]? with
    | some b => if b.bst = .placed ∧ g.gst ≠ .ended ∧ g.gst ≠ .saved ∧ s.ctxOfKernel b.kid = ctx then some b.die else none
    | none => none) ++
  s.streams.filterMap fun x => if x.sst = .running ∧ s.ctxOfKernel x.kid = ctx then some x.die else none

/-- A running context that holds a slot or a stream: throttled time counts in THROT, other time is eligible (R223, R396).
(DEDUCED, log entry 67) -/
def State.passTime (s : State) (ns ctx : Nat) : State :=
  let ds := s.busyDies ctx
  if (s.ctx ctx).st ≠ .running ∨ ds = [] then s
  else if ds.any s.gated then s.bump ctx 11 ns
  else s.modCtx ctx fun c => { c with elig := c.elig + ns, dog := c.dog + ns }

/-- A thread that is not ready will be so no earlier than now (R166). -/
def State.notReady (s : State) (g : Group) (t : Thread) : Thread :=
  if s.issues g && s.readyThread g { t with ready := 0 } then t else { t with ready := max t.ready s.tick }

/-- One core clock passes; the times of a die at duty d lengthen by 8/d (R477). (DESIGN CHOICE, log entry 10)
(DEDUCED, log entry 75) -/
def State.advanceClock (s : State) : State :=
  let s' : State := { s with tick := s.tick + coreTick, dies := s.dies.map fun (d : Die) => { d with lag := d.lag + coreTick * (8 - d.duty) } }
  let s' := (s'.ctxs.map (·.1)).foldl (fun st c => st.passTime (st.clock - s.clock) c) s'
  { s' with groups := s'.groups.map fun g => if g.gst = .running then { g with threads := g.threads.map (s'.notReady g) } else g }

/-! ## The events that the machine makes itself -/

/-- Performing an event now would change something. (DESIGN CHOICE, log entry 71) -/
def State.moves (s : State) (e : Instr) : Bool :=
  match exec e s with
  | .next s' => s' != s
  | _ => true

/-- The LOADING groups on serving dies start, those of lower stages first (R198). -/
def State.loadedEvents (s : State) : List Instr :=
  let l : List (Nat × Nat) := s.groups.zipIdx.filterMap fun x => match s.blocks[x.1.bid]? with
    | some b => if x.1.gst = .loading ∧ s.deadDie b.die = false then some (b.stage, x.2) else none
    | none => none
  (List.range (l.foldl (fun n x => max n (x.1 + 1)) 0)).flatMap fun st => (l.filter fun x => x.1 == st).map fun x => .groupLoaded x.2

/-- The events of a group and of its threads. -/
def Group.events (gid : Nat) (g : Group) : List Instr :=
  match g.gst with
  | .loading => [.groupStop gid, .reconvergenceTimeout gid]
  | .running =>
    [.groupStop gid, .reconvergenceTimeout gid] ++
      ((g.threads.filterMap fun t => t.coll.map (·.pc)).dedup.map fun pc => .collectiveExchange gid pc) ++
      (g.threads.zipIdx.flatMap fun x => match x.1.wait with
        | .join _ => [.joinTimeout gid x.2]
        | .yield _ => [.yieldRelease gid x.2]
        | .mwait .. => [.mwaitTimeout gid x.2]
        | _ => [])
  | _ => []

/-- The dispatch events of a kernel. -/
def State.kernelEvents (s : State) (kid : Nat) (k : Kernel) : List Instr :=
  [.residentDispatch kid] ++ ((List.range k.positions.length).map fun p => .stageSetPlace kid p) ++
    [.priorityPreemption kid, .autorecl (s.ctx k.ctx).part kid]

/-- The completions of kernels, in ascending queue number (R205). -/
def State.completionEvents (s : State) : List Instr :=
  (List.range 16).flatMap fun q => (indices s.kernels.length fun i => match s.kernels[i]? with
    | some k => k.queue == q && k.kst != .complete && k.kst != .discarded
    | none => false).map .kernelCompletion

/-- The events of a block. -/
def Block.events (bid : Nat) (b : Block) : List Instr :=
  (if b.trigger.isSome then [.rollbackRestore bid] else []) ++ (if b.snapWriting.isSome then [.snapshotComplete (.block bid)] else []) ++
  if b.bst = .placed then [.blockRetire bid] else []

/-- The events of a copy. -/
def Copy.events (cid : Nat) (c : Copy) : List Instr :=
  match c.cst with
  | .queued => [.copyStart cid]
  | .running => [.copySector cid, .copyLand cid]
  | _ => []

/-- The events of a tile operation. -/
def TileOp.events (oid : Nat) (o : TileOp) : List Instr :=
  match o.ost with
  | .queued => [.tileOpStart oid]
  | .running => [.tileChunk oid, .tileRowGroup oid, .tileOpComplete oid]
  | _ => []

/-- The events of a cadence stream (R467). -/
def Stream.events (sid : Nat) (x : Stream) : List Instr := if x.snapWriting.isSome then [.snapshotComplete (.stream sid)] else []

/-- The engines of a block's cluster run in this clock (R451, R477). -/
def State.engineOn (s : State) (bid : Nat) : Bool :=
  match s.blocks[bid]? with
  | some b => !s.deadDie b.die && !s.gatedFor (s.ctxOfKernel b.kid) b.die b.clu
  | none => false

/-- The events of a context (R223, R294, R381, R388, R393). -/
def ctxEvents (c : Nat) : List Instr := [.hangWatchdog c, .haltDrainDeadline c, .haltingEnd c, .saveDone c, .restoreDone c]

/-- The events of a die (R361, R364, R445, R450, R451); with WIN 0 the counts never restart. (DESIGN CHOICE, log entry 106) -/
def State.dieEvents (s : State) (d : Nat) : List Instr :=
  let x := s.die d
  (if s.crosses (x.win.toNat * usTick) then [.counterWindow d] else []) ++ (x.regions.map fun r => .cooldownEnd d r.region) ++
    [.tlbiPh1 d, .tlbiAck d, .tlbiAckCollect d, .chanterDeliver d, .heartbeatTimeout d, .fenceComplete d]

/-- The events of the pages shared between devices: a request that waits, and this device's own flush (R369). -/
def ownEvents (x : Nat × PageOwn) : List Instr :=
  (match x.2.waiting with
    | w :: _ => [.ownershipRequest (x.1, x.2.lvl) w.1 w.2]
    | [] => []) ++ (if x.2.flushing.contains 0 then [.ownershipFlush x.1 0] else [])

/-- The events of a unit that comes back or is scrubbed (R406, R408, R409). -/
def unitEvents (u : UnitName) (r : UnitRec) : List Instr :=
  if r.cond = 3 ∨ r.cond = 4 then
    (match u with
      | .cg n => [.shadowCopyDone n]
      | _ => []) ++ [.scrubComplete u]
  else []

/-- The events of a gate (R428). -/
def gateEvents (x : Nat × Gate) : List Instr :=
  ((List.range 8).map fun e => .gateToken x.1 e) ++ x.2.stalled.map fun q => .gateStallTimeout q.who

/-- The events of the hub: admission, the end of an attestation, and an input that stays out of its range (R211, R475, R478). -/
def State.hubEvents (s : State) : List Instr :=
  [.kernelAdmit] ++ (if s.hub.attSts = 1 then [.attestDone] else []) ++ (if s.hub.supplyBad then [] else [.supplyOutOfRange1ms])

/-- The machine's own events that may happen in this clock. (DESIGN CHOICE, log entry 71) -/
def State.ownEvents (s : State) : List Instr :=
  s.loadedEvents ++
  (s.groups.zipIdx.flatMap fun x => if (s.blocks[x.1.bid]?).any fun b => !s.deadDie b.die then x.1.events x.2 else []) ++
  (s.copies.zipIdx.flatMap fun x => if s.engineOn x.1.bid then x.1.events x.2 else []) ++
  (s.tileOps.zipIdx.flatMap fun x => if s.engineOn x.1.bid then x.1.events x.2 else []) ++
  (s.streams.zipIdx.flatMap fun x => if s.deadDie x.1.die then [] else x.1.events x.2) ++
  (s.blocks.zipIdx.flatMap fun x => if s.deadDie x.1.die then [] else x.1.events x.2) ++ s.completionEvents ++
  (s.dispatchOrder.flatMap fun i => match s.kernels[i]? with
    | some k => s.kernelEvents i k
    | none => []) ++
  (s.blocks.zipIdx.flatMap fun x => if x.1.bst = .reserve then [.reserveRestore x.2] else []) ++
  (s.ctxs.flatMap fun x => ctxEvents x.1) ++
  ((List.range 13).flatMap s.dieEvents) ++
  (s.owns.flatMap Machine.ownEvents) ++
  (s.clusters.zipIdx.flatMap fun x => unitEvents (.cluster (x.2 / 9) (x.2 % 9)) x.1) ++
  (s.slices.zipIdx.flatMap fun x => unitEvents (.slice (x.2 / 32) (x.2 % 32)) x.1) ++
  (s.cgs.zipIdx.flatMap fun x => unitEvents (.cg x.2) x.1) ++
  ((List.range 24).flatMap fun p => if (s.part p).formed then [.sweepComplete p, .shiftCommit p] else []) ++
  (s.gates.flatMap gateEvents) ++ s.hubEvents

/-- The commands of the derailleur that go on (R416 to R419, R422). -/
def State.drTurns (s : State) : List Turn :=
  (s.hub.drPend.toList ++ ((indices 24 fun p => ((s.part p).resetting || s.resetsNext p) && s.hub.drPend != some (.reset p)).map DrCmd.reset)).map .derailleur

/-- The quadrants that have an entry and whose core issues in this clock. -/
def State.quadrants (s : State) : List (Nat × Nat) :=
  let all := (s.groups.filter fun g => g.gst == .running).map fun g => (s.coreOf g, quadrantOf g.slot)
  let on (x : Nat × Nat) : Bool := s.groups.any fun g => g.gst == .running && s.coreOf g == x.1 && quadrantOf g.slot == x.2 &&
    !s.gatedFor (((s.blocks[g.bid]?).map fun b => s.ctxOfKernel b.kid).getD 0) (x.1 / 36) (x.1 % 36 / 4)
  all.dedup.filter fun x => on x && s.entries' x.1 x.2 != []

/-- The turns of one clock: the events that change something, the derailleur, the streams and the quadrants.
(DESIGN CHOICE, log entry 3) -/
def State.turns (s : State) : List Turn :=
  ((s.ownEvents.filter s.moves).map .event) ++ s.drTurns ++
  ((indices s.streams.length fun i => match s.streams[i]? with
    | some x => s.streamReady x && !s.gatedFor (s.ctxOfKernel x.kid) x.die x.clu
    | none => false).map .stream) ++
  s.quadrants.map fun x => .quadrant x.1 x.2 none

/-- A new round: one clock passes and its turns go on the agenda. (DESIGN CHOICE, log entry 3) -/
def State.round (s : State) : State :=
  let s := s.advanceClock.wakeWaits
  { s with agenda := s.turns }

/-! ## Turns -/

/-- The derailleur goes on with a command. -/
def drContinue (c : DrCmd) (s : State) : Out :=
  match c with
  | .setmode part force arg => execSetmode part force arg s
  | .setmap part force arg => execSetmap part force arg s
  | .reset part => execPartReset part s
  | .dissolve part force => execDissolve part force s
  | .move part peer _ => execMove part peer s

/-- What a package that boot has left in reset still takes: a reset, the training of its ports and what its sensors read (R472,
R477, R478). -/
def inReset : Instr → Bool
  | .packageReset | .linkTrainingDone .. | .temperatureSample .. | .supplyChange .. => true
  | _ => false

/-- One turn. An event turn performs an event; no instruction form is one. -/
def State.turn (s : State) (t : Turn) : Out :=
  match t with
  | .event e => if e.isEvent ∧ (s.hub.stage ≠ 7 ∨ inReset e = true) then exec e s else .next s
  | .quadrant core q cut => s.quadrantTurn core q cut
  | .stream sid => s.streamTurn sid
  | .derailleur c => drContinue c s

end Sys2Proof.Machine
end

