-- ==== Sys2Proof/Machine/Step.lean ====
section
/-! DEFINITION. One step of the package, and the placing of one instruction where the next step fetches it. -/

namespace Sys2Proof.Machine

/-- One step: the oldest error that waits is acted on (R461); else the next turn of the agenda is taken; with the agenda
empty a new round begins. (DESIGN CHOICE, log entry 3) (DESIGN CHOICE, log entry 77) -/
def step (s : State) : Host.Outcome State Fault Refusal :=
  match s.hub.errors with
  | e :: _ => exec (.errorDetect e) s
  | [] =>
    match s.agenda with
    | t :: rest => { s with agenda := rest }.turn t
    | [] => .next s.round

/-- The first core that holds no group. -/
def State.idleCore (s : State) : Nat := ((List.range 288).find? fun c => s.groupsOn c == []).getD 0

/-- The launch record that withFetchWord places: one block of one group of width 32, VREGS 128, all guards declared, a code
grant over the first 64 KiB (R192, R345). (DESIGN CHOICE, log entry 19) -/
def fetchRecord : List Byte :=
  leBytes 4 1 ++ leBytes 4 (16 * 2 ^ 16 + 2 ^ 10 + 32) ++ leBytes 8 0 ++
    leBytes 8 (1 + 2 ^ 8 + 2 ^ 16 + 32 * 2 ^ 24 + 2 ^ 32 + 128 * 2 ^ 48) ++ leBytes 8 (1 + 2 ^ 16 + 2 ^ 32) ++
    leBytes 4 (0xFFFF * 2 ^ 16) ++ leBytes 12 0 ++ leBytes 208 0 ++
    leBytes 16 (Grant.make 0 65536 9 0 0 0 0).bits.toNat ++ leBytes 240 0

/-- The leaf under which that code is fetched: V, LEAF, class SYN, RD and X, frame 0 (R356). (DESIGN CHOICE, log entry 19) -/
def fetchLeaf : BitVec 64 := BitVec.ofNat 64 (2 ^ 63 + 2 ^ 62 + 2 ^ 60 + 2 ^ 57 + 2 ^ 55)

/-- The state with an instruction where the next step fetches it. The package loads its programs from memory through the
queues of its contexts; this stands for that load: context 0 runs a kernel whose code lies at physical address 0, one
block of it is placed on a core that holds no group, its translation is held there, and the next turn is that
quadrant's, or for an instruction of a cadence core that stream's. (DESIGN CHOICE, log entry 19) -/
def State.withFetchWord (s : State) (nbits w : Nat) : State :=
  let w := w % 2 ^ nbits
  let c := s.idleCore
  let kid := s.kernels.length
  let bid := s.blocks.length
  let k : Kernel :=
    { ctx := 0, queue := 0, inQueue := true, record := fetchRecord, kst := .draining, parent := none, parentGrants := none,
      positions := [{ bound := some (c / 36, c % 36 / 4), next := 1, since := none, freed := false }], code := 0, retired := 0, faulted := 0, prio := 0 }
  let g := k.entryGroup bid 0 0 0
  let x : Stream :=
    { kid := kid, pos := 0, die := c / 36, clu := c % 36 / 4, sst := .running, pc := 0, u := k.entryFile, rstack := [], hcsp := none,
      tps := [], tileSeq := 0, rgWait := none, wait := .none, trap := TrapRec.zero, standing := none,
      snapLatest := none, snapWriting := none, log := [], replay := [] }
  let entry (core : Option Nat) : TlbEntry := { die := c / 36, core := core, asid := 0, base := 0, lvl := 0, leaf := fetchLeaf }
  let tile := wordClass (w % 2 ^ 32) == .ux && decide (0x48 ≤ w / 2 ^ 22 % 128) && decide (w / 2 ^ 22 % 128 < 0x4F)
  let live (d : Die) : Die := if d.st = .fenced ∨ d.st = .failed then { d with st := .serving } else d
  { (s.modCtx 0 fun _ => { Ctx.free with st := .running }) with
    mem := s.mem.writeN 0 (leBytes 8 w),
    l2 := s.l2.filter fun x => x.1 % 2 ^ 45 != 0,
    poison := s.poison.filter (· != 0),
    tlb := entry (some c) :: entry none :: s.tlb,
    dies := (s.dies.modify (c / 36) live).modify 8 live,
    cgs := s.cgs.modify 0 fun r => { r with cond := 1, owner := 0, redir := false },
    kernels := s.kernels ++ [k],
    blocks := s.blocks ++ [k.entryBlock kid 0 0 0 (c / 36) (c % 36 / 4) (c % 4)],
    groups := s.groups ++ [{ g with gst := .running, threads := g.threads.map fun t => { t with ready := s.tick } }],
    streams := s.streams ++ [x],
    hub := { s.hub with errors := [] },
    agenda := [if tile then .stream s.streams.length else .quadrant c 0 none] }

end Sys2Proof.Machine
end

