-- ==== Sys2Proof/Laws/PerInstr.lean ====
section
/-! SUPPORT. Statements made for every instruction, one lemma per constructor. -/

namespace Sys2Proof.Laws.Encoding

/-- A constructor is either an event, which has no words, or has one word (R36, R38) or two (R37, R39). -/
def Statement (i : Instr) : Prop :=
  (i.isEvent = true ∧ encode i = []) ∨ (i.isEvent = false ∧ ((encode i).length = 1 ∨ (encode i).length = 2))

theorem iadd (d : BitVec 7) (a : BitVec 7) (b : BitVec 8) : Statement (.iadd d a b) := .inr ⟨rfl, .inl rfl⟩
theorem isub (d : BitVec 7) (a : BitVec 7) (b : BitVec 8) : Statement (.isub d a b) := .inr ⟨rfl, .inl rfl⟩
theorem imul (d : BitVec 7) (a : BitVec 7) (b : BitVec 8) : Statement (.imul d a b) := .inr ⟨rfl, .inl rfl⟩
theorem imulh (d : BitVec 7) (a : BitVec 7) (b : BitVec 8) : Statement (.imulh d a b) := .inr ⟨rfl, .inl rfl⟩
theorem imulhu (d : BitVec 7) (a : BitVec 7) (b : BitVec 8) : Statement (.imulhu d a b) := .inr ⟨rfl, .inl rfl⟩
theorem imin (d : BitVec 7) (a : BitVec 7) (b : BitVec 8) : Statement (.imin d a b) := .inr ⟨rfl, .inl rfl⟩
theorem imax (d : BitVec 7) (a : BitVec 7) (b : BitVec 8) : Statement (.imax d a b) := .inr ⟨rfl, .inl rfl⟩
theorem iminu (d : BitVec 7) (a : BitVec 7) (b : BitVec 8) : Statement (.iminu d a b) := .inr ⟨rfl, .inl rfl⟩
theorem imaxu (d : BitVec 7) (a : BitVec 7) (b : BitVec 8) : Statement (.imaxu d a b) := .inr ⟨rfl, .inl rfl⟩
theorem iabs (d : BitVec 7) (a : BitVec 7) : Statement (.iabs d a) := .inr ⟨rfl, .inl rfl⟩
theorem iadds (d : BitVec 7) (a : BitVec 7) (b : BitVec 8) : Statement (.iadds d a b) := .inr ⟨rfl, .inl rfl⟩
theorem isubs (d : BitVec 7) (a : BitVec 7) (b : BitVec 8) : Statement (.isubs d a b) := .inr ⟨rfl, .inl rfl⟩
theorem iaddsu (d : BitVec 7) (a : BitVec 7) (b : BitVec 8) : Statement (.iaddsu d a b) := .inr ⟨rfl, .inl rfl⟩
theorem isubsu (d : BitVec 7) (a : BitVec 7) (b : BitVec 8) : Statement (.isubsu d a b) := .inr ⟨rfl, .inl rfl⟩
theorem and (d : BitVec 7) (a : BitVec 7) (b : BitVec 8) : Statement (.and d a b) := .inr ⟨rfl, .inl rfl⟩
theorem or (d : BitVec 7) (a : BitVec 7) (b : BitVec 8) : Statement (.or d a b) := .inr ⟨rfl, .inl rfl⟩
theorem xor (d : BitVec 7) (a : BitVec 7) (b : BitVec 8) : Statement (.xor d a b) := .inr ⟨rfl, .inl rfl⟩
theorem andn (d : BitVec 7) (a : BitVec 7) (b : BitVec 8) : Statement (.andn d a b) := .inr ⟨rfl, .inl rfl⟩
theorem orn (d : BitVec 7) (a : BitVec 7) (b : BitVec 8) : Statement (.orn d a b) := .inr ⟨rfl, .inl rfl⟩
theorem shl (d : BitVec 7) (a : BitVec 7) (b : BitVec 8) : Statement (.shl d a b) := .inr ⟨rfl, .inl rfl⟩
theorem shr (d : BitVec 7) (a : BitVec 7) (b : BitVec 8) : Statement (.shr d a b) := .inr ⟨rfl, .inl rfl⟩
theorem sar (d : BitVec 7) (a : BitVec 7) (b : BitVec 8) : Statement (.sar d a b) := .inr ⟨rfl, .inl rfl⟩
theorem rotl (d : BitVec 7) (a : BitVec 7) (b : BitVec 8) : Statement (.rotl d a b) := .inr ⟨rfl, .inl rfl⟩
theorem popc (d : BitVec 7) (a : BitVec 7) : Statement (.popc d a) := .inr ⟨rfl, .inl rfl⟩
theorem clz (d : BitVec 7) (a : BitVec 7) : Statement (.clz d a) := .inr ⟨rfl, .inl rfl⟩
theorem brev (d : BitVec 7) (a : BitVec 7) : Statement (.brev d a) := .inr ⟨rfl, .inl rfl⟩
theorem mov (d : BitVec 7) (b : BitVec 8) : Statement (.mov d b) := .inr ⟨rfl, .inl rfl⟩
theorem fadd (d : BitVec 7) (a : BitVec 7) (b : BitVec 8) : Statement (.fadd d a b) := .inr ⟨rfl, .inl rfl⟩
theorem fsub (d : BitVec 7) (a : BitVec 7) (b : BitVec 8) : Statement (.fsub d a b) := .inr ⟨rfl, .inl rfl⟩
theorem fmul (d : BitVec 7) (a : BitVec 7) (b : BitVec 8) : Statement (.fmul d a b) := .inr ⟨rfl, .inl rfl⟩
theorem fmin (d : BitVec 7) (a : BitVec 7) (b : BitVec 8) : Statement (.fmin d a b) := .inr ⟨rfl, .inl rfl⟩
theorem fmax (d : BitVec 7) (a : BitVec 7) (b : BitVec 8) : Statement (.fmax d a b) := .inr ⟨rfl, .inl rfl⟩
theorem fabs (d : BitVec 7) (a : BitVec 7) : Statement (.fabs d a) := .inr ⟨rfl, .inl rfl⟩
theorem ffloor (d : BitVec 7) (a : BitVec 7) : Statement (.ffloor d a) := .inr ⟨rfl, .inl rfl⟩
theorem fceil (d : BitVec 7) (a : BitVec 7) : Statement (.fceil d a) := .inr ⟨rfl, .inl rfl⟩
theorem ftrunc (d : BitVec 7) (a : BitVec 7) : Statement (.ftrunc d a) := .inr ⟨rfl, .inl rfl⟩
theorem frint (d : BitVec 7) (a : BitVec 7) : Statement (.frint d a) := .inr ⟨rfl, .inl rfl⟩
theorem hadd2 (d : BitVec 7) (a : BitVec 7) (b : BitVec 8) : Statement (.hadd2 d a b) := .inr ⟨rfl, .inl rfl⟩
theorem hmul2 (d : BitVec 7) (a : BitVec 7) (b : BitVec 8) : Statement (.hmul2 d a b) := .inr ⟨rfl, .inl rfl⟩
theorem hmin2 (d : BitVec 7) (a : BitVec 7) (b : BitVec 8) : Statement (.hmin2 d a b) := .inr ⟨rfl, .inl rfl⟩
theorem hmax2 (d : BitVec 7) (a : BitVec 7) (b : BitVec 8) : Statement (.hmax2 d a b) := .inr ⟨rfl, .inl rfl⟩
theorem badd2 (d : BitVec 7) (a : BitVec 7) (b : BitVec 8) : Statement (.badd2 d a b) := .inr ⟨rfl, .inl rfl⟩
theorem bmul2 (d : BitVec 7) (a : BitVec 7) (b : BitVec 8) : Statement (.bmul2 d a b) := .inr ⟨rfl, .inl rfl⟩
theorem i2f (d : BitVec 7) (a : BitVec 7) : Statement (.i2f d a) := .inr ⟨rfl, .inl rfl⟩
theorem u2f (d : BitVec 7) (a : BitVec 7) : Statement (.u2f d a) := .inr ⟨rfl, .inl rfl⟩
theorem f2i (d : BitVec 7) (a : BitVec 7) : Statement (.f2i d a) := .inr ⟨rfl, .inl rfl⟩
theorem f2u (d : BitVec 7) (a : BitVec 7) : Statement (.f2u d a) := .inr ⟨rfl, .inl rfl⟩
theorem f2h (d : BitVec 7) (a : BitVec 7) (b : BitVec 8) : Statement (.f2h d a b) := .inr ⟨rfl, .inl rfl⟩
theorem h2f (d : BitVec 7) (a : BitVec 7) (b : BitVec 8) : Statement (.h2f d a b) := .inr ⟨rfl, .inl rfl⟩
theorem f2b (d : BitVec 7) (a : BitVec 7) (b : BitVec 8) : Statement (.f2b d a b) := .inr ⟨rfl, .inl rfl⟩
theorem b2f (d : BitVec 7) (a : BitVec 7) (b : BitVec 8) : Statement (.b2f d a b) := .inr ⟨rfl, .inl rfl⟩
theorem nop : Statement (.nop) := .inr ⟨rfl, .inl rfl⟩
theorem uadd (d : BitVec 8) (a : BitVec 8) (b : BitVec 6) : Statement (.uadd d a b) := .inr ⟨rfl, .inl rfl⟩
theorem usub (d : BitVec 8) (a : BitVec 8) (b : BitVec 6) : Statement (.usub d a b) := .inr ⟨rfl, .inl rfl⟩
theorem umul (d : BitVec 8) (a : BitVec 8) (b : BitVec 6) : Statement (.umul d a b) := .inr ⟨rfl, .inl rfl⟩
theorem umulh (d : BitVec 8) (a : BitVec 8) (b : BitVec 6) : Statement (.umulh d a b) := .inr ⟨rfl, .inl rfl⟩
theorem umin (d : BitVec 8) (a : BitVec 8) (b : BitVec 6) : Statement (.umin d a b) := .inr ⟨rfl, .inl rfl⟩
theorem umax (d : BitVec 8) (a : BitVec 8) (b : BitVec 6) : Statement (.umax d a b) := .inr ⟨rfl, .inl rfl⟩
theorem uminu (d : BitVec 8) (a : BitVec 8) (b : BitVec 6) : Statement (.uminu d a b) := .inr ⟨rfl, .inl rfl⟩
theorem umaxu (d : BitVec 8) (a : BitVec 8) (b : BitVec 6) : Statement (.umaxu d a b) := .inr ⟨rfl, .inl rfl⟩
theorem uand (d : BitVec 8) (a : BitVec 8) (b : BitVec 6) : Statement (.uand d a b) := .inr ⟨rfl, .inl rfl⟩
theorem uor (d : BitVec 8) (a : BitVec 8) (b : BitVec 6) : Statement (.uor d a b) := .inr ⟨rfl, .inl rfl⟩
theorem uxor (d : BitVec 8) (a : BitVec 8) (b : BitVec 6) : Statement (.uxor d a b) := .inr ⟨rfl, .inl rfl⟩
theorem uandn (d : BitVec 8) (a : BitVec 8) (b : BitVec 6) : Statement (.uandn d a b) := .inr ⟨rfl, .inl rfl⟩
theorem ushl (d : BitVec 8) (a : BitVec 8) (b : BitVec 6) : Statement (.ushl d a b) := .inr ⟨rfl, .inl rfl⟩
theorem ushr (d : BitVec 8) (a : BitVec 8) (b : BitVec 6) : Statement (.ushr d a b) := .inr ⟨rfl, .inl rfl⟩
theorem usar (d : BitVec 8) (a : BitVec 8) (b : BitVec 6) : Statement (.usar d a b) := .inr ⟨rfl, .inl rfl⟩
theorem upopc (d : BitVec 8) (a : BitVec 8) : Statement (.upopc d a) := .inr ⟨rfl, .inl rfl⟩
theorem uclz (d : BitVec 8) (a : BitVec 8) : Statement (.uclz d a) := .inr ⟨rfl, .inl rfl⟩
theorem umov (d : BitVec 8) (b : BitVec 6) : Statement (.umov d b) := .inr ⟨rfl, .inl rfl⟩
theorem unop : Statement (.unop) := .inr ⟨rfl, .inl rfl⟩
theorem imac (g : BitVec 4) (d : BitVec 7) (a : BitVec 7) (b : BitVec 8) (c : BitVec 8) : Statement (.imac g d a b c) := .inr ⟨rfl, .inr rfl⟩
theorem imacw (g : BitVec 4) (d : BitVec 7) (a : BitVec 7) (b : BitVec 8) (c : BitVec 8) (u : BitVec 1) : Statement (.imacw g d a b c u) := .inr ⟨rfl, .inr rfl⟩
theorem isum3 (g : BitVec 4) (d : BitVec 7) (a : BitVec 7) (b : BitVec 8) (c : BitVec 8) : Statement (.isum3 g d a b c) := .inr ⟨rfl, .inr rfl⟩
theorem idot8 (g : BitVec 4) (d : BitVec 7) (a : BitVec 7) (b : BitVec 8) (c : BitVec 8) (ua : BitVec 1) (ub : BitVec 1) : Statement (.idot8 g d a b c ua ub) := .inr ⟨rfl, .inr rfl⟩
theorem iabda (g : BitVec 4) (d : BitVec 7) (a : BitVec 7) (b : BitVec 8) (c : BitVec 8) (u : BitVec 1) : Statement (.iabda g d a b c u) := .inr ⟨rfl, .inr rfl⟩
theorem iaddc (g : BitVec 4) (d : BitVec 7) (a : BitVec 7) (b : BitVec 8) (cin : BitVec 3) (cout : BitVec 3) : Statement (.iaddc g d a b cin cout) := .inr ⟨rfl, .inr rfl⟩
theorem isubb (g : BitVec 4) (d : BitVec 7) (a : BitVec 7) (b : BitVec 8) (cin : BitVec 3) (cout : BitVec 3) : Statement (.isubb g d a b cin cout) := .inr ⟨rfl, .inr rfl⟩
theorem iaddw (g : BitVec 4) (d : BitVec 7) (a : BitVec 7) (b : BitVec 8) (ty : BitVec 2) (k : BitVec 2) : Statement (.iaddw g d a b ty k) := .inr ⟨rfl, .inr rfl⟩
theorem lea (g : BitVec 4) (d : BitVec 7) (a : BitVec 7) (b : BitVec 8) (s : BitVec 1) (w : BitVec 1) (sh : BitVec 5) : Statement (.lea g d a b s w sh) := .inr ⟨rfl, .inr rfl⟩
theorem bfx (g : BitVec 4) (d : BitVec 7) (a : BitVec 7) (b : BitVec 8) (s : BitVec 1) : Statement (.bfx g d a b s) := .inr ⟨rfl, .inr rfl⟩
theorem bfi (g : BitVec 4) (d : BitVec 7) (a : BitVec 7) (b : BitVec 8) (c : BitVec 8) : Statement (.bfi g d a b c) := .inr ⟨rfl, .inr rfl⟩
theorem bytex (g : BitVec 4) (d : BitVec 7) (a : BitVec 7) (b : BitVec 8) (c : BitVec 8) : Statement (.bytex g d a b c) := .inr ⟨rfl, .inr rfl⟩
theorem sel (g : BitVec 4) (d : BitVec 7) (a : BitVec 7) (b : BitVec 8) (pneg : BitVec 1) (p : BitVec 3) : Statement (.sel g d a b pneg p) := .inr ⟨rfl, .inr rfl⟩
theorem isetp (g : BitVec 4) (a : BitVec 7) (b : BitVec 8) (pd : BitVec 3) (pc : BitVec 3) (pcneg : BitVec 1) (bop : BitVec 2) (u : BitVec 1) (cmp : BitVec 3) : Statement (.isetp g a b pd pc pcneg bop u cmp) := .inr ⟨rfl, .inr rfl⟩
theorem movlo (g : BitVec 4) (d : BitVec 7) (imm : BitVec 16) : Statement (.movlo g d imm) := .inr ⟨rfl, .inr rfl⟩
theorem movhi (g : BitVec 4) (d : BitVec 7) (imm : BitVec 16) : Statement (.movhi g d imm) := .inr ⟨rfl, .inr rfl⟩
theorem ptab (g : BitVec 4) (pd : BitVec 3) (pa : BitVec 3) (pb : BitVec 3) (pc : BitVec 3) (table : BitVec 8) : Statement (.ptab g pd pa pb pc table) := .inr ⟨rfl, .inr rfl⟩
theorem p2v (g : BitVec 4) (d : BitVec 7) : Statement (.p2v g d) := .inr ⟨rfl, .inr rfl⟩
theorem v2p (g : BitVec 4) (a : BitVec 7) (b : BitVec 8) : Statement (.v2p g a b) := .inr ⟨rfl, .inr rfl⟩
theorem ffma (g : BitVec 4) (d : BitVec 7) (a : BitVec 7) (b : BitVec 8) (c : BitVec 8) (np : BitVec 1) (nc : BitVec 1) : Statement (.ffma g d a b c np nc) := .inr ⟨rfl, .inr rfl⟩
theorem hfma2 (g : BitVec 4) (d : BitVec 7) (a : BitVec 7) (b : BitVec 8) (c : BitVec 8) (np : BitVec 1) (nc : BitVec 1) : Statement (.hfma2 g d a b c np nc) := .inr ⟨rfl, .inr rfl⟩
theorem bfma2 (g : BitVec 4) (d : BitVec 7) (a : BitVec 7) (b : BitVec 8) (c : BitVec 8) (np : BitVec 1) (nc : BitVec 1) : Statement (.bfma2 g d a b c np nc) := .inr ⟨rfl, .inr rfl⟩
theorem fsetp (g : BitVec 4) (a : BitVec 7) (b : BitVec 8) (pd : BitVec 3) (pc : BitVec 3) (pcneg : BitVec 1) (bop : BitVec 2) (u : BitVec 1) (cmp : BitVec 3) : Statement (.fsetp g a b pd pc pcneg bop u cmp) := .inr ⟨rfl, .inr rfl⟩
theorem fclass (g : BitVec 4) (a : BitVec 7) (pd : BitVec 3) (mask : BitVec 10) : Statement (.fclass g a pd mask) := .inr ⟨rfl, .inr rfl⟩
theorem fdot2 (g : BitVec 4) (d : BitVec 7) (a : BitVec 7) (b : BitVec 8) (c : BitVec 8) (bf : BitVec 1) : Statement (.fdot2 g d a b c bf) := .inr ⟨rfl, .inr rfl⟩
theorem cvtn (g : BitVec 4) (d : BitVec 7) (a : BitVec 7) (n : BitVec 3) (k : BitVec 2) (isrc : BitVec 1) : Statement (.cvtn g d a n k isrc) := .inr ⟨rfl, .inr rfl⟩
theorem cvtw (g : BitVec 4) (d : BitVec 7) (a : BitVec 7) (n : BitVec 3) (k : BitVec 2) (idst : BitVec 1) : Statement (.cvtw g d a n k idst) := .inr ⟨rfl, .inr rfl⟩
theorem frcp (g : BitVec 4) (la : BitVec 4) (d : BitVec 7) (a : BitVec 7) : Statement (.frcp g la d a) := .inr ⟨rfl, .inr rfl⟩
theorem frsq (g : BitVec 4) (la : BitVec 4) (d : BitVec 7) (a : BitVec 7) : Statement (.frsq g la d a) := .inr ⟨rfl, .inr rfl⟩
theorem fsqrt (g : BitVec 4) (la : BitVec 4) (d : BitVec 7) (a : BitVec 7) : Statement (.fsqrt g la d a) := .inr ⟨rfl, .inr rfl⟩
theorem fexp2 (g : BitVec 4) (la : BitVec 4) (d : BitVec 7) (a : BitVec 7) : Statement (.fexp2 g la d a) := .inr ⟨rfl, .inr rfl⟩
theorem flog2 (g : BitVec 4) (la : BitVec 4) (d : BitVec 7) (a : BitVec 7) : Statement (.flog2 g la d a) := .inr ⟨rfl, .inr rfl⟩
theorem fsint (g : BitVec 4) (la : BitVec 4) (d : BitVec 7) (a : BitVec 7) : Statement (.fsint g la d a) := .inr ⟨rfl, .inr rfl⟩
theorem fcost (g : BitVec 4) (la : BitVec 4) (d : BitVec 7) (a : BitVec 7) : Statement (.fcost g la d a) := .inr ⟨rfl, .inr rfl⟩
theorem fldexp (g : BitVec 4) (d : BitVec 7) (a : BitVec 7) (b : BitVec 8) : Statement (.fldexp g d a b) := .inr ⟨rfl, .inr rfl⟩
theorem shfl (g : BitVec 4) (la : BitVec 4) (d : BitVec 7) (a : BitVec 7) (b : BitVec 8) (c : BitVec 8) (op : BitVec 2) (all : BitVec 1) (sm : BitVec 8) : Statement (.shfl g la d a b c op all sm) := .inr ⟨rfl, .inr rfl⟩
theorem vote (g : BitVec 4) (la : BitVec 4) (pd : BitVec 3) (pneg : BitVec 1) (p : BitVec 3) (op : BitVec 2) (all : BitVec 1) (sm : BitVec 8) : Statement (.vote g la pd pneg p op all sm) := .inr ⟨rfl, .inr rfl⟩
theorem ballot (g : BitVec 4) (la : BitVec 4) (d : BitVec 7) (pneg : BitVec 1) (p : BitVec 3) (all : BitVec 1) (sm : BitVec 8) : Statement (.ballot g la d pneg p all sm) := .inr ⟨rfl, .inr rfl⟩
theorem matchv (g : BitVec 4) (la : BitVec 4) (d : BitVec 7) (a : BitVec 7) (all : BitVec 1) (sm : BitVec 8) : Statement (.matchv g la d a all sm) := .inr ⟨rfl, .inr rfl⟩
theorem redux (g : BitVec 4) (la : BitVec 4) (d : BitVec 7) (a : BitVec 7) (c : BitVec 8) (op : BitVec 3) (all : BitVec 1) (sm : BitVec 8) : Statement (.redux g la d a c op all sm) := .inr ⟨rfl, .inr rfl⟩
theorem scanx (g : BitVec 4) (la : BitVec 4) (d : BitVec 7) (a : BitVec 7) (c : BitVec 8) (ex : BitVec 1) (op : BitVec 3) (all : BitVec 1) (sm : BitVec 8) : Statement (.scanx g la d a c ex op all sm) := .inr ⟨rfl, .inr rfl⟩
theorem bra (g : BitVec 4) (off : BitVec 21) : Statement (.bra g off) := .inr ⟨rfl, .inr rfl⟩
theorem jmpi (g : BitVec 4) (a : BitVec 7) : Statement (.jmpi g a) := .inr ⟨rfl, .inr rfl⟩
theorem call (g : BitVec 4) (off : BitVec 21) : Statement (.call g off) := .inr ⟨rfl, .inr rfl⟩
theorem calli (g : BitVec 4) (a : BitVec 7) : Statement (.calli g a) := .inr ⟨rfl, .inr rfl⟩
theorem ret (g : BitVec 4) : Statement (.ret g) := .inr ⟨rfl, .inr rfl⟩
theorem exitT (g : BitVec 4) : Statement (.exitT g) := .inr ⟨rfl, .inr rfl⟩
theorem join (g : BitVec 4) (n : BitVec 16) : Statement (.join g n) := .inr ⟨rfl, .inr rfl⟩
theorem yield (g : BitVec 4) : Statement (.yield g) := .inr ⟨rfl, .inr rfl⟩
theorem grow (g : BitVec 4) (n : BitVec 4) : Statement (.grow g n) := .inr ⟨rfl, .inr rfl⟩
theorem shrink (g : BitVec 4) (n : BitVec 4) : Statement (.shrink g n) := .inr ⟨rfl, .inr rfl⟩
theorem monw (g : BitVec 4) (a : BitVec 7) (size : BitVec 3) (sext : BitVec 1) (ord : BitVec 2) (off64 : BitVec 1) (gr : BitVec 4) (hint : BitVec 2) (scope : BitVec 3) (imm : BitVec 12) : Statement (.monw g a size sext ord off64 gr hint scope imm) := .inr ⟨rfl, .inr rfl⟩
theorem mwait (g : BitVec 4) (b : BitVec 8) (pd : BitVec 3) (p : BitVec 1) : Statement (.mwait g b pd p) := .inr ⟨rfl, .inr rfl⟩
theorem trap (g : BitVec 4) (imm : BitVec 16) : Statement (.trap g imm) := .inr ⟨rfl, .inr rfl⟩
theorem bkpt (g : BitVec 4) (imm : BitVec 16) : Statement (.bkpt g imm) := .inr ⟨rfl, .inr rfl⟩
theorem rdctr (g : BitVec 4) (la : BitVec 4) (d : BitVec 7) (sl : BitVec 8) : Statement (.rdctr g la d sl) := .inr ⟨rfl, .inr rfl⟩
theorem ld (g : BitVec 4) (la : BitVec 4) (d : BitVec 7) (a : BitVec 7) (size : BitVec 3) (sext : BitVec 1) (ord : BitVec 2) (off64 : BitVec 1) (gr : BitVec 4) (hint : BitVec 2) (scope : BitVec 3) (imm : BitVec 12) : Statement (.ld g la d a size sext ord off64 gr hint scope imm) := .inr ⟨rfl, .inr rfl⟩
theorem st (g : BitVec 4) (d : BitVec 7) (a : BitVec 7) (size : BitVec 3) (sext : BitVec 1) (ord : BitVec 2) (off64 : BitVec 1) (gr : BitVec 4) (hint : BitVec 2) (scope : BitVec 3) (imm : BitVec 12) : Statement (.st g d a size sext ord off64 gr hint scope imm) := .inr ⟨rfl, .inr rfl⟩
theorem ldx (g : BitVec 4) (la : BitVec 4) (d : BitVec 7) (a : BitVec 7) (size : BitVec 3) (sext : BitVec 1) (ord : BitVec 2) (off64 : BitVec 1) (gr : BitVec 4) (hint : BitVec 2) (scope : BitVec 3) (imm : BitVec 12) : Statement (.ldx g la d a size sext ord off64 gr hint scope imm) := .inr ⟨rfl, .inr rfl⟩
theorem pld (g : BitVec 4) (la : BitVec 4) (d : BitVec 7) (a : BitVec 7) (size : BitVec 3) (sext : BitVec 1) (ord : BitVec 2) (off64 : BitVec 1) (gr : BitVec 4) (hint : BitVec 2) (scope : BitVec 3) (imm : BitVec 12) : Statement (.pld g la d a size sext ord off64 gr hint scope imm) := .inr ⟨rfl, .inr rfl⟩
theorem pst (g : BitVec 4) (d : BitVec 7) (a : BitVec 7) (size : BitVec 3) (sext : BitVec 1) (ord : BitVec 2) (off64 : BitVec 1) (gr : BitVec 4) (hint : BitVec 2) (scope : BitVec 3) (imm : BitVec 12) : Statement (.pst g d a size sext ord off64 gr hint scope imm) := .inr ⟨rfl, .inr rfl⟩
theorem atom (g : BitVec 4) (la : BitVec 4) (d : BitVec 7) (a : BitVec 7) (size : BitVec 3) (sext : BitVec 1) (ord : BitVec 2) (off64 : BitVec 1) (gr : BitVec 4) (hint : BitVec 2) (scope : BitVec 3) (imm : BitVec 12) : Statement (.atom g la d a size sext ord off64 gr hint scope imm) := .inr ⟨rfl, .inr rfl⟩
theorem atomc (g : BitVec 4) (la : BitVec 4) (d : BitVec 7) (a : BitVec 7) (size : BitVec 3) (sext : BitVec 1) (ord : BitVec 2) (off64 : BitVec 1) (gr : BitVec 4) (hint : BitVec 2) (scope : BitVec 3) (imm : BitVec 12) : Statement (.atomc g la d a size sext ord off64 gr hint scope imm) := .inr ⟨rfl, .inr rfl⟩
theorem red (g : BitVec 4) (d : BitVec 7) (a : BitVec 7) (size : BitVec 3) (sext : BitVec 1) (ord : BitVec 2) (off64 : BitVec 1) (gr : BitVec 4) (hint : BitVec 2) (scope : BitVec 3) (imm : BitVec 12) : Statement (.red g d a size sext ord off64 gr hint scope imm) := .inr ⟨rfl, .inr rfl⟩
theorem patom (g : BitVec 4) (la : BitVec 4) (d : BitVec 7) (a : BitVec 7) (size : BitVec 3) (sext : BitVec 1) (ord : BitVec 2) (off64 : BitVec 1) (gr : BitVec 4) (hint : BitVec 2) (scope : BitVec 3) (imm : BitVec 12) : Statement (.patom g la d a size sext ord off64 gr hint scope imm) := .inr ⟨rfl, .inr rfl⟩
theorem fence (g : BitVec 4) (kind : BitVec 2) (scope : BitVec 3) : Statement (.fence g kind scope) := .inr ⟨rfl, .inr rfl⟩
theorem cflush (g : BitVec 4) (a : BitVec 7) (size : BitVec 3) (sext : BitVec 1) (ord : BitVec 2) (off64 : BitVec 1) (gr : BitVec 4) (hint : BitVec 2) (scope : BitVec 3) (imm : BitVec 12) : Statement (.cflush g a size sext ord off64 gr hint scope imm) := .inr ⟨rfl, .inr rfl⟩
theorem cinv (g : BitVec 4) (a : BitVec 7) (size : BitVec 3) (sext : BitVec 1) (ord : BitVec 2) (off64 : BitVec 1) (gr : BitVec 4) (hint : BitVec 2) (scope : BitVec 3) (imm : BitVec 12) : Statement (.cinv g a size sext ord off64 gr hint scope imm) := .inr ⟨rfl, .inr rfl⟩
theorem pref (g : BitVec 4) (a : BitVec 7) (size : BitVec 3) (sext : BitVec 1) (ord : BitVec 2) (off64 : BitVec 1) (gr : BitVec 4) (hint : BitVec 2) (scope : BitVec 3) (imm : BitVec 12) : Statement (.pref g a size sext ord off64 gr hint scope imm) := .inr ⟨rfl, .inr rfl⟩
theorem pprobe (g : BitVec 4) (la : BitVec 4) (d : BitVec 7) (a : BitVec 7) (size : BitVec 3) (sext : BitVec 1) (ord : BitVec 2) (off64 : BitVec 1) (gr : BitVec 4) (hint : BitVec 2) (scope : BitVec 3) (imm : BitVec 12) : Statement (.pprobe g la d a size sext ord off64 gr hint scope imm) := .inr ⟨rfl, .inr rfl⟩
theorem phint (g : BitVec 4) (kind : BitVec 2) (a : BitVec 7) (size : BitVec 3) (sext : BitVec 1) (ord : BitVec 2) (off64 : BitVec 1) (gr : BitVec 4) (hint : BitVec 2) (scope : BitVec 3) (imm : BitVec 12) : Statement (.phint g kind a size sext ord off64 gr hint scope imm) := .inr ⟨rfl, .inr rfl⟩
theorem umac (g : BitVec 4) (d : BitVec 8) (a : BitVec 8) (b : BitVec 6) (sb : BitVec 8) : Statement (.umac g d a b sb) := .inr ⟨rfl, .inr rfl⟩
theorem umovlo (g : BitVec 4) (d : BitVec 8) (imm : BitVec 16) : Statement (.umovlo g d imm) := .inr ⟨rfl, .inr rfl⟩
theorem umovhi (g : BitVec 4) (d : BitVec 8) (imm : BitVec 16) : Statement (.umovhi g d imm) := .inr ⟨rfl, .inr rfl⟩
theorem usetp (g : BitVec 4) (a : BitVec 8) (b : BitVec 6) (pd : BitVec 3) (pc : BitVec 3) (pcneg : BitVec 1) (bop : BitVec 2) (u : BitVec 1) (cmp : BitVec 3) : Statement (.usetp g a b pd pc pcneg bop u cmp) := .inr ⟨rfl, .inr rfl⟩
theorem usel (g : BitVec 4) (d : BitVec 8) (a : BitVec 8) (b : BitVec 6) (qneg : BitVec 1) (q : BitVec 3) : Statement (.usel g d a b qneg q) := .inr ⟨rfl, .inr rfl⟩
theorem ubfx (g : BitVec 4) (d : BitVec 8) (a : BitVec 8) (b : BitVec 6) (s : BitVec 1) : Statement (.ubfx g d a b s) := .inr ⟨rfl, .inr rfl⟩
theorem ubfi (g : BitVec 4) (d : BitVec 8) (a : BitVec 8) (b : BitVec 6) (sb : BitVec 8) : Statement (.ubfi g d a b sb) := .inr ⟨rfl, .inr rfl⟩
theorem umovs (g : BitVec 4) (d : BitVec 8) (sl : BitVec 6) : Statement (.umovs g d sl) := .inr ⟨rfl, .inr rfl⟩
theorem v2s (g : BitVec 4) (la : BitVec 4) (d : BitVec 8) (a : BitVec 8) (vs : BitVec 7) : Statement (.v2s g la d a vs) := .inr ⟨rfl, .inr rfl⟩
theorem uld (g : BitVec 4) (la : BitVec 4) (d : BitVec 8) (a : BitVec 8) (size : BitVec 3) (sext : BitVec 1) (ord : BitVec 2) (gr : BitVec 4) (hint : BitVec 2) (scope : BitVec 3) (imm : BitVec 12) : Statement (.uld g la d a size sext ord gr hint scope imm) := .inr ⟨rfl, .inr rfl⟩
theorem ust (g : BitVec 4) (d : BitVec 8) (a : BitVec 8) (size : BitVec 3) (sext : BitVec 1) (ord : BitVec 2) (gr : BitVec 4) (hint : BitVec 2) (scope : BitVec 3) (imm : BitVec 12) : Statement (.ust g d a size sext ord gr hint scope imm) := .inr ⟨rfl, .inr rfl⟩
theorem uatom (g : BitVec 4) (la : BitVec 4) (d : BitVec 8) (a : BitVec 8) (size : BitVec 3) (sext : BitVec 1) (ord : BitVec 2) (gr : BitVec 4) (hint : BitVec 2) (scope : BitVec 3) (imm : BitVec 12) : Statement (.uatom g la d a size sext ord gr hint scope imm) := .inr ⟨rfl, .inr rfl⟩
theorem ufence (g : BitVec 4) (kind : BitVec 2) (scope : BitVec 3) : Statement (.ufence g kind scope) := .inr ⟨rfl, .inr rfl⟩
theorem ubra (g : BitVec 4) (off : BitVec 21) : Statement (.ubra g off) := .inr ⟨rfl, .inr rfl⟩
theorem ujmpi (g : BitVec 4) (a : BitVec 8) : Statement (.ujmpi g a) := .inr ⟨rfl, .inr rfl⟩
theorem ucall (g : BitVec 4) (off : BitVec 21) : Statement (.ucall g off) := .inr ⟨rfl, .inr rfl⟩
theorem uret (g : BitVec 4) : Statement (.uret g) := .inr ⟨rfl, .inr rfl⟩
theorem uexit (g : BitVec 4) : Statement (.uexit g) := .inr ⟨rfl, .inr rfl⟩
theorem utrap (g : BitVec 4) (imm : BitVec 16) : Statement (.utrap g imm) := .inr ⟨rfl, .inr rfl⟩
theorem gnarrow (g : BitVec 4) (a : BitVec 8) (dst : BitVec 1) (gs : BitVec 4) (sb : BitVec 8) (perms : BitVec 4) (gset : BitVec 1) (gi : BitVec 4) : Statement (.gnarrow g a dst gs sb perms gset gi) := .inr ⟨rfl, .inr rfl⟩
theorem ginfo (g : BitVec 4) (la : BitVec 4) (d : BitVec 8) (sl : BitVec 2) (gs : BitVec 4) : Statement (.ginfo g la d sl gs) := .inr ⟨rfl, .inr rfl⟩
theorem pinfo (g : BitVec 4) (la : BitVec 4) (d : BitVec 8) (sl : BitVec 6) : Statement (.pinfo g la d sl) := .inr ⟨rfl, .inr rfl⟩
theorem gdchk (g : BitVec 4) (d : BitVec 8) (a : BitVec 8) (op : BitVec 2) (n : BitVec 4) (arg : BitVec 16) : Statement (.gdchk g d a op n arg) := .inr ⟨rfl, .inr rfl⟩
theorem shape (g : BitVec 4) (a : BitVec 8) (n : BitVec 4) : Statement (.shape g a n) := .inr ⟨rfl, .inr rfl⟩
theorem xcopy (g : BitVec 4) (d : BitVec 8) (a : BitVec 8) (dir : BitVec 2) (n : BitVec 4) (gr : BitVec 4) (hint : BitVec 2) (scope : BitVec 3) (k : BitVec 4) (s : BitVec 3) (off64 : BitVec 1) (get : BitVec 1) : Statement (.xcopy g d a dir n gr hint scope k s off64 get) := .inr ⟨rfl, .inr rfl⟩
theorem xgath (g : BitVec 4) (d : BitVec 8) (a : BitVec 8) (n : BitVec 4) (gr : BitVec 4) (hint : BitVec 2) (scope : BitVec 3) (k : BitVec 4) (sm : BitVec 8) : Statement (.xgath g d a n gr hint scope k sm) := .inr ⟨rfl, .inr rfl⟩
theorem xscat (g : BitVec 4) (d : BitVec 8) (a : BitVec 8) (n : BitVec 4) (gr : BitVec 4) (hint : BitVec 2) (scope : BitVec 3) (k : BitVec 4) (sm : BitVec 8) : Statement (.xscat g d a n gr hint scope k sm) := .inr ⟨rfl, .inr rfl⟩
theorem xstat (g : BitVec 4) (la : BitVec 4) (d : BitVec 8) (sl : BitVec 2) (k : BitVec 4) : Statement (.xstat g la d sl k) := .inr ⟨rfl, .inr rfl⟩
theorem binit (g : BitVec 4) (d : BitVec 8) (a : BitVec 8) (r : BitVec 1) (k : BitVec 4) (n : BitVec 12) : Statement (.binit g d a r k n) := .inr ⟨rfl, .inr rfl⟩
theorem barv (g : BitVec 4) (a : BitVec 8) (k : BitVec 4) (win : BitVec 1) (s : BitVec 3) (scope : BitVec 3) : Statement (.barv g a k win s scope) := .inr ⟨rfl, .inr rfl⟩
theorem bard (g : BitVec 4) (a : BitVec 8) (k : BitVec 4) (win : BitVec 1) (s : BitVec 3) (scope : BitVec 3) : Statement (.bard g a k win s scope) := .inr ⟨rfl, .inr rfl⟩
theorem bwait (g : BitVec 4) (a : BitVec 8) (k : BitVec 4) (win : BitVec 1) (s : BitVec 3) (par : BitVec 1) (e : BitVec 1) : Statement (.bwait g a k win s par e) := .inr ⟨rfl, .inr rfl⟩
theorem btry (g : BitVec 4) (la : BitVec 4) (a : BitVec 8) (k : BitVec 4) (win : BitVec 1) (s : BitVec 3) (qd : BitVec 3) (par : BitVec 1) (e : BitVec 1) : Statement (.btry g la a k win s qd par e) := .inr ⟨rfl, .inr rfl⟩
theorem bexp (g : BitVec 4) (a : BitVec 8) (k : BitVec 4) (win : BitVec 1) (s : BitVec 3) (n : BitVec 9) : Statement (.bexp g a k win s n) := .inr ⟨rfl, .inr rfl⟩
theorem bdrop (g : BitVec 4) (a : BitVec 8) (k : BitVec 4) (win : BitVec 1) (s : BitVec 3) : Statement (.bdrop g a k win s) := .inr ⟨rfl, .inr rfl⟩
theorem blkbar (g : BitVec 4) : Statement (.blkbar g) := .inr ⟨rfl, .inr rfl⟩
theorem clubar (g : BitVec 4) : Statement (.clubar g) := .inr ⟨rfl, .inr rfl⟩
theorem diebar (g : BitVec 4) : Statement (.diebar g) := .inr ⟨rfl, .inr rfl⟩
theorem gsig (g : BitVec 4) (a : BitVec 8) : Statement (.gsig g a) := .inr ⟨rfl, .inr rfl⟩
theorem gwait (g : BitVec 4) (a : BitVec 8) (sb : BitVec 8) : Statement (.gwait g a sb) := .inr ⟨rfl, .inr rfl⟩
theorem gtry (g : BitVec 4) (la : BitVec 4) (d : BitVec 8) (a : BitVec 8) (qd : BitVec 3) (sb : BitVec 8) : Statement (.gtry g la d a qd sb) := .inr ⟨rfl, .inr rfl⟩
theorem gpost (g : BitVec 4) (a : BitVec 8) (sig : BitVec 1) (wd : BitVec 3) (sb : BitVec 8) : Statement (.gpost g a sig wd sb) := .inr ⟨rfl, .inr rfl⟩
theorem gread (g : BitVec 4) (la : BitVec 4) (d : BitVec 8) (a : BitVec 8) (wd : BitVec 3) : Statement (.gread g la d a wd) := .inr ⟨rfl, .inr rfl⟩
theorem gquery (g : BitVec 4) (la : BitVec 4) (d : BitVec 8) (a : BitVec 8) (sl : BitVec 3) : Statement (.gquery g la d a sl) := .inr ⟨rfl, .inr rfl⟩
theorem launch (g : BitVec 4) (a : BitVec 8) (q : BitVec 4) (gr : BitVec 4) : Statement (.launch g a q gr) := .inr ⟨rfl, .inr rfl⟩
theorem qstat (g : BitVec 4) (la : BitVec 4) (d : BitVec 8) (q : BitVec 4) : Statement (.qstat g la d q) := .inr ⟨rfl, .inr rfl⟩
theorem evsig (g : BitVec 4) (a : BitVec 8) (set : BitVec 1) (sb : BitVec 8) : Statement (.evsig g a set sb) := .inr ⟨rfl, .inr rfl⟩
theorem evwait (g : BitVec 4) (a : BitVec 8) (sb : BitVec 8) : Statement (.evwait g a sb) := .inr ⟨rfl, .inr rfl⟩
theorem tzero (g : BitVec 4) (a : BitVec 8) (an : BitVec 4) (k : BitVec 4) (e : BitVec 1) : Statement (.tzero g a an k e) := .inr ⟨rfl, .inr rfl⟩
theorem tmma (g : BitVec 4) (d : BitVec 8) (a : BitVec 8) (kc : BitVec 2) (an : BitVec 4) (fa : BitVec 3) (fb : BitVec 3) (ch : BitVec 1) (am : BitVec 4) (k : BitVec 4) (e : BitVec 1) (z : BitVec 1) (ci : BitVec 1) : Statement (.tmma g d a kc an fa fb ch am k e z ci) := .inr ⟨rfl, .inr rfl⟩
theorem tmmas (g : BitVec 4) (d : BitVec 8) (a : BitVec 8) (kc : BitVec 2) (an : BitVec 4) (fa : BitVec 3) (fb : BitVec 3) (k : BitVec 4) (e : BitVec 1) (z : BitVec 1) (sl : BitVec 2) : Statement (.tmmas g d a kc an fa fb k e z sl) := .inr ⟨rfl, .inr rfl⟩
theorem tdrain (g : BitVec 4) (d : BitVec 8) (a : BitVec 8) (an : BitVec 4) (fd : BitVec 3) (gd : BitVec 4) (ge : BitVec 1) (ci : BitVec 1) (k : BitVec 4) (e : BitVec 1) (z : BitVec 1) : Statement (.tdrain g d a an fd gd ge ci k e z) := .inr ⟨rfl, .inr rfl⟩
theorem tfence (g : BitVec 4) : Statement (.tfence g) := .inr ⟨rfl, .inr rfl⟩
theorem twait (g : BitVec 4) (a : BitVec 8) (all : BitVec 1) (an : BitVec 4) : Statement (.twait g a all an) := .inr ⟨rfl, .inr rfl⟩
theorem tstat (g : BitVec 4) (la : BitVec 4) (d : BitVec 8) (a : BitVec 8) (all : BitVec 1) (an : BitVec 4) : Statement (.tstat g la d a all an) := .inr ⟨rfl, .inr rfl⟩
theorem joinTimeout (gid : Nat) (t : Nat) : Statement (.joinTimeout gid t) := .inl ⟨rfl, rfl⟩
theorem yieldRelease (gid : Nat) (t : Nat) : Statement (.yieldRelease gid t) := .inl ⟨rfl, rfl⟩
theorem mwaitTimeout (gid : Nat) (t : Nat) : Statement (.mwaitTimeout gid t) := .inl ⟨rfl, rfl⟩
theorem groupLoaded (gid : Nat) : Statement (.groupLoaded gid) := .inl ⟨rfl, rfl⟩
theorem stageSetPlace (kid : Nat) (pos : Nat) : Statement (.stageSetPlace kid pos) := .inl ⟨rfl, rfl⟩
theorem residentDispatch (kid : Nat) : Statement (.residentDispatch kid) := .inl ⟨rfl, rfl⟩
theorem blockRetire (bid : Nat) : Statement (.blockRetire bid) := .inl ⟨rfl, rfl⟩
theorem kernelCompletion (kid : Nat) : Statement (.kernelCompletion kid) := .inl ⟨rfl, rfl⟩
theorem priorityPreemption (kid : Nat) : Statement (.priorityPreemption kid) := .inl ⟨rfl, rfl⟩
theorem hangWatchdog (ctx : Nat) : Statement (.hangWatchdog ctx) := .inl ⟨rfl, rfl⟩
theorem snapshotComplete (x : SnapOwner) : Statement (.snapshotComplete x) := .inl ⟨rfl, rfl⟩
theorem copyStart (cid : Nat) : Statement (.copyStart cid) := .inl ⟨rfl, rfl⟩
theorem copySector (cid : Nat) : Statement (.copySector cid) := .inl ⟨rfl, rfl⟩
theorem copyLand (cid : Nat) : Statement (.copyLand cid) := .inl ⟨rfl, rfl⟩
theorem haltDrainDeadline (ctx : Nat) : Statement (.haltDrainDeadline ctx) := .inl ⟨rfl, rfl⟩
theorem tileOpStart (oid : Nat) : Statement (.tileOpStart oid) := .inl ⟨rfl, rfl⟩
theorem tileChunk (oid : Nat) : Statement (.tileChunk oid) := .inl ⟨rfl, rfl⟩
theorem tileRowGroup (oid : Nat) : Statement (.tileRowGroup oid) := .inl ⟨rfl, rfl⟩
theorem tileOpComplete (oid : Nat) : Statement (.tileOpComplete oid) := .inl ⟨rfl, rfl⟩
theorem tlbiPh1 (die : Nat) : Statement (.tlbiPh1 die) := .inl ⟨rfl, rfl⟩
theorem tlbiAck (die : Nat) : Statement (.tlbiAck die) := .inl ⟨rfl, rfl⟩
theorem tlbiAckCollect (die : Nat) : Statement (.tlbiAckCollect die) := .inl ⟨rfl, rfl⟩
theorem ownershipRequest (page : Nat × Nat) (dev : Nat) (wr : Bool) : Statement (.ownershipRequest page dev wr) := .inl ⟨rfl, rfl⟩
theorem ownershipFlush (page : Nat) (dev : Nat) : Statement (.ownershipFlush page dev) := .inl ⟨rfl, rfl⟩
theorem counterWindow (die : Nat) : Statement (.counterWindow die) := .inl ⟨rfl, rfl⟩
theorem cooldownEnd (die : Nat) (region : Nat) : Statement (.cooldownEnd die region) := .inl ⟨rfl, rfl⟩
theorem groupStop (gid : Nat) : Statement (.groupStop gid) := .inl ⟨rfl, rfl⟩
theorem reconvergenceTimeout (gid : Nat) : Statement (.reconvergenceTimeout gid) := .inl ⟨rfl, rfl⟩
theorem haltingEnd (ctx : Nat) : Statement (.haltingEnd ctx) := .inl ⟨rfl, rfl⟩
theorem saveDone (ctx : Nat) : Statement (.saveDone ctx) := .inl ⟨rfl, rfl⟩
theorem restoreDone (ctx : Nat) : Statement (.restoreDone ctx) := .inl ⟨rfl, rfl⟩
theorem reserveRestore (bid : Nat) : Statement (.reserveRestore bid) := .inl ⟨rfl, rfl⟩
theorem autorecl (part : Nat) (kid : Nat) : Statement (.autorecl part kid) := .inl ⟨rfl, rfl⟩
theorem scrubComplete (u : UnitName) : Statement (.scrubComplete u) := .inl ⟨rfl, rfl⟩
theorem shadowCopyDone (cg : Nat) : Statement (.shadowCopyDone cg) := .inl ⟨rfl, rfl⟩
theorem sweepComplete (part : Nat) : Statement (.sweepComplete part) := .inl ⟨rfl, rfl⟩
theorem shiftCommit (part : Nat) : Statement (.shiftCommit part) := .inl ⟨rfl, rfl⟩
theorem gateToken (g : Nat) (e : Nat) : Statement (.gateToken g e) := .inl ⟨rfl, rfl⟩
theorem gateStallTimeout (who : Agent) : Statement (.gateStallTimeout who) := .inl ⟨rfl, rfl⟩
theorem chanterDeliver (die : Nat) : Statement (.chanterDeliver die) := .inl ⟨rfl, rfl⟩
theorem heartbeatTimeout (die : Nat) : Statement (.heartbeatTimeout die) := .inl ⟨rfl, rfl⟩
theorem fenceComplete (die : Nat) : Statement (.fenceComplete die) := .inl ⟨rfl, rfl⟩
theorem errorDetect (e : ErrorReport) : Statement (.errorDetect e) := .inl ⟨rfl, rfl⟩
theorem rollbackRestore (bid : Nat) : Statement (.rollbackRestore bid) := .inl ⟨rfl, rfl⟩
theorem instructionComplete (who : Agent) (k : Nat) : Statement (.instructionComplete who k) := .inl ⟨rfl, rfl⟩
theorem collectiveExchange (gid : Nat) (pc : Word) : Statement (.collectiveExchange gid pc) := .inl ⟨rfl, rfl⟩
theorem queuePortBeat (ctx : Nat) (q : Nat) (off : Nat) (data : List Byte) : Statement (.queuePortBeat ctx q off data) := .inl ⟨rfl, rfl⟩
theorem eventCounterWrite (ctx : Nat) (n : Nat) (v : BitVec 64) : Statement (.eventCounterWrite ctx n v) := .inl ⟨rfl, rfl⟩
theorem privilegedRegisterWrite (win : Window) (off : Nat) (v : RegWrite) : Statement (.privilegedRegisterWrite win off v) := .inl ⟨rfl, rfl⟩
theorem kernelAdmit : Statement (.kernelAdmit) := .inl ⟨rfl, rfl⟩
theorem hubWalk (die : Nat) (core : Nat) (ctx : Nat) (va : Nat) : Statement (.hubWalk die core ctx va) := .inl ⟨rfl, rfl⟩
theorem accessRequestPop (die : Nat) : Statement (.accessRequestPop die) := .inl ⟨rfl, rfl⟩
theorem occclr (die : Nat) (slice : Nat) : Statement (.occclr die slice) := .inl ⟨rfl, rfl⟩
theorem create (die : Nat) (ctx : Nat) (arg : Nat) : Statement (.create die ctx arg) := .inl ⟨rfl, rfl⟩
theorem enable (die : Nat) (ctx : Nat) : Statement (.enable die ctx) := .inl ⟨rfl, rfl⟩
theorem halt (die : Nat) (ctx : Nat) (arg : Nat) : Statement (.halt die ctx arg) := .inl ⟨rfl, rfl⟩
theorem resume (die : Nat) (ctx : Nat) : Statement (.resume die ctx) := .inl ⟨rfl, rfl⟩
theorem save (die : Nat) (ctx : Nat) : Statement (.save die ctx) := .inl ⟨rfl, rfl⟩
theorem restore (die : Nat) (ctx : Nat) (arg : Nat) : Statement (.restore die ctx arg) := .inl ⟨rfl, rfl⟩
theorem kill (die : Nat) (ctx : Nat) : Statement (.kill die ctx) := .inl ⟨rfl, rfl⟩
theorem destroy (die : Nat) (ctx : Nat) : Statement (.destroy die ctx) := .inl ⟨rfl, rfl⟩
theorem form (part : Nat) : Statement (.form part) := .inl ⟨rfl, rfl⟩
theorem activate (part : Nat) : Statement (.activate part) := .inl ⟨rfl, rfl⟩
theorem partGrow (part : Nat) (u : UnitName) (gear : Bool) : Statement (.partGrow part u gear) := .inl ⟨rfl, rfl⟩
theorem partShrink (part : Nat) (u : UnitName) (arg : Nat) : Statement (.partShrink part u arg) := .inl ⟨rfl, rfl⟩
theorem lend (part : Nat) (peer : Nat) (u : UnitName) (arg : Nat) : Statement (.lend part peer u arg) := .inl ⟨rfl, rfl⟩
theorem setmode (part : Nat) (force : Bool) (arg : Word) : Statement (.setmode part force arg) := .inl ⟨rfl, rfl⟩
theorem setmap (part : Nat) (force : Bool) (arg : Word) : Statement (.setmap part force arg) := .inl ⟨rfl, rfl⟩
theorem partReset (part : Nat) : Statement (.partReset part) := .inl ⟨rfl, rfl⟩
theorem dissolve (part : Nat) (force : Bool) : Statement (.dissolve part force) := .inl ⟨rfl, rfl⟩
theorem move (part : Nat) (peer : Nat) : Statement (.move part peer) := .inl ⟨rfl, rfl⟩
theorem qopen (part : Nat) (ctx : Nat) (q : Nat) (prio : Nat) : Statement (.qopen part ctx q prio) := .inl ⟨rfl, rfl⟩
theorem qclose (part : Nat) (ctx : Nat) (q : Nat) : Statement (.qclose part ctx q) := .inl ⟨rfl, rfl⟩
theorem clrredir (part : Nat) (slot : Nat) : Statement (.clrredir part slot) := .inl ⟨rfl, rfl⟩
theorem revoke (part : Nat) (u : UnitName) : Statement (.revoke part u) := .inl ⟨rfl, rfl⟩
theorem gateOpen (g : Nat) (part : Nat) : Statement (.gateOpen g part) := .inl ⟨rfl, rfl⟩
theorem gateClose (g : Nat) : Statement (.gateClose g) := .inl ⟨rfl, rfl⟩
theorem setacl (g : Nat) (e : Nat) (arg : Word) : Statement (.setacl g e arg) := .inl ⟨rfl, rfl⟩
theorem setresp (g : Nat) (resp : Bool) : Statement (.setresp g resp) := .inl ⟨rfl, rfl⟩
theorem exportGate (g : Nat) : Statement (.exportGate g) := .inl ⟨rfl, rfl⟩
theorem importGate (g : Nat) : Statement (.importGate g) := .inl ⟨rfl, rfl⟩
theorem portEnable (link : Nat) : Statement (.portEnable link) := .inl ⟨rfl, rfl⟩
theorem linkTrainingDone (link : Nat) (lanes : Nat × Nat) : Statement (.linkTrainingDone link lanes) := .inl ⟨rfl, rfl⟩
theorem flitReceive (link : Nat) (linkOk : Bool) (payload : List (List Byte)) (crc : List (BitVec 16)) (wr : List Bool) (pa : List Nat) (ctx : List (Nat × Option Nat)) : Statement (.flitReceive link linkOk payload crc wr pa ctx) := .inl ⟨rfl, rfl⟩
theorem retryLimit (link : Nat) : Statement (.retryLimit link) := .inl ⟨rfl, rfl⟩
theorem chtx (die : Nat) (v : BitVec 64) : Statement (.chtx die v) := .inl ⟨rfl, rfl⟩
theorem popInbox (die : Nat) : Statement (.popInbox die) := .inl ⟨rfl, rfl⟩
theorem heartbeat (die : Nat) : Statement (.heartbeat die) := .inl ⟨rfl, rfl⟩
theorem dieFence (die : Nat) : Statement (.dieFence die) := .inl ⟨rfl, rfl⟩
theorem rejoin (die : Nat) : Statement (.rejoin die) := .inl ⟨rfl, rfl⟩
theorem packageReset : Statement (.packageReset) := .inl ⟨rfl, rfl⟩
theorem bootStepDone (ok : List (Option BootImage)) : Statement (.bootStepDone ok) := .inl ⟨rfl, rfl⟩
theorem attest : Statement (.attest) := .inl ⟨rfl, rfl⟩
theorem attestDone : Statement (.attestDone) := .inl ⟨rfl, rfl⟩
theorem temperatureSample (die : Nat) (temp : BitVec 16) : Statement (.temperatureSample die temp) := .inl ⟨rfl, rfl⟩
theorem supplyChange (mv : Nat) : Statement (.supplyChange mv) := .inl ⟨rfl, rfl⟩
theorem copierCopyComplete (job : CopierJob) : Statement (.copierCopyComplete job) := .inl ⟨rfl, rfl⟩
theorem saddleHostPeerAccess (x : OutsideAccess) : Statement (.saddleHostPeerAccess x) := .inl ⟨rfl, rfl⟩
theorem pageRequestResponse (ctx : Nat) (page : Nat) : Statement (.pageRequestResponse ctx page) := .inl ⟨rfl, rfl⟩
theorem packagePowerSample (watts : Nat) : Statement (.packagePowerSample watts) := .inl ⟨rfl, rfl⟩
theorem supplyOutOfRange1ms : Statement (.supplyOutOfRange1ms) := .inl ⟨rfl, rfl⟩

end Sys2Proof.Laws.Encoding
end

