-- ==== Sys2Proof/Safety.lean ====
section
/-! DEFINITION. What counts as a safe run, the invariant of the state, and the forms of change that the statements speak of:
which threads, registers and bytes an instruction may change. -/

namespace Sys2Proof

open Machine

/-- The package keeps the shape that reset gives it: the counts of dies, links, partitions and units (R2, R424), and memory
in its canonical form. -/
def Machine.State.Inv (s : Machine.State) : Prop :=
  s.mem.wf = true ∧ s.dies.length = 13 ∧ s.links.length = 30 ∧ s.parts.length = 24 ∧ s.clusters.length = 72 ∧
    s.slices.length = 256 ∧ s.cgs.length = 96

/-- A run of n steps is safe if it meets no fault and no refusal. -/
def Safe (n : Nat) (s : Machine.State) : Prop := ∃ t, core.run n s = .next t

/-! ## Changes of threads -/

/-- From s to t only the threads of the lanes of the issue have changed, each into what f makes of it; every other thread, the
uniform registers, the special and exception registers, and every byte of memory are as before. -/
structure OnlyLanes (s t : State) (f : Lane → Thread) : Prop where
  others : { t with groups := s.groups } = s
  groups : t.groups.length = s.groups.length
  group : ∀ (gid : Nat) (g : Group), s.groups[gid]? = some g → ∃ g' : Group, t.groups[gid]? = some g' ∧
    { g' with threads := g.threads } = g ∧
    g'.threads.length = g.threads.length
  thread : ∀ gid g ti th, s.groups[gid]? = some g → g.threads[ti]? = some th →
    t.thread? gid ti = some (if (gid, ti) ∈ s.issue.lanes then f { g := g, ti := ti, t := th } else th)
  memory : ∀ a, t.mem.read a = s.mem.read a

/-- The instruction answers a next state in which only the threads of the issue's lanes have changed, each as f says. -/
def LaneForm (i : Instr) (s : State) (f : Lane → Thread) : Prop := ∃ t, exec i s = .next t ∧ OnlyLanes s t f

/-- A lane whose guard is true takes the effect w on its thread, and every lane goes on to the next iteration or the next
instruction (R45, R56, R168). -/
def guarded (s : State) (g : BitVec 4) (w : Lane → Thread) (l : Lane) : Thread := s.issue.advance (if l.guard g then w l else l.t)

/-- A lane form that writes the value x to V[d] under a guard, and nothing else. -/
def WritesV (i : Instr) (s : State) (g : BitVec 4) (d : BitVec 7) (x : Lane → Word) : Prop :=
  LaneForm i s (guarded s g fun l => l.t.putV d.toNat (x l))

/-- A lane form that writes a 64-bit value to the pair V[d]:V[d + 1] under a guard, and nothing else. -/
def WritesV2 (i : Instr) (s : State) (g : BitVec 4) (d : BitVec 7) (x : Lane → BitVec 64) : Prop :=
  LaneForm i s (guarded s g fun l => l.t.putV2 d.toNat (x l))

/-- A lane form that writes the predicate P[pd] under a guard, and nothing else; a write to code 7 is discarded. -/
def WritesP (i : Instr) (s : State) (g : BitVec 4) (pd : BitVec 3) (x : Lane → Bool) : Prop :=
  LaneForm i s (guarded s g fun l => l.t.putP pd.toNat (x l))

/-! ## Changes of uniform registers -/

/-- Where the stream of an issue goes on: at the same instruction while a REP has iterations left. -/
def streamNext (i : Machine.Issue) (pc : Word) : Word :=
  match i.rep with
  | some r => if i.iter < r.cnt.toNat then pc else i.next
  | none => i.next

/-- From s to t only the uniform registers of the agent of the issue have changed, into what f makes of them, and the agent
has gone on: the threads of the issue's lanes for a group, the PC of the stream for a stream. Nothing else has changed. -/
structure OnlyUniform (s t : State) (f : UFile → UFile) : Prop where
  others : { t with groups := s.groups, streams := s.streams } = s
  groups : t.groups.length = s.groups.length
  streams : t.streams.length = s.streams.length
  group : ∀ (gid : Nat) (g : Group), s.groups[gid]? = some g → ∃ g' : Group, t.groups[gid]? = some g' ∧
    { g' with threads := g.threads, u := g.u } = g ∧ g'.threads.length = g.threads.length
  stream : ∀ (sid : Nat) (x : Stream), s.streams[sid]? = some x → ∃ x' : Stream, t.streams[sid]? = some x' ∧
    { x' with u := x.u, pc := x.pc } = x ∧
    x'.pc = if s.issue.who = .stream sid then streamNext s.issue x.pc else x.pc
  file : ∀ who u, s.ufile who = some u → t.ufile who = some (if who = s.issue.who then f u else u)
  thread : ∀ gid ti th, s.thread? gid ti = some th → t.thread? gid ti =
    some (if isStream s.issue.who = false ∧ (gid, ti) ∈ s.issue.lanes then s.issue.advance th else th)
  memory : ∀ a, t.mem.read a = s.mem.read a

/-- The instruction answers a next state in which only the agent's uniform registers have changed, as f says. -/
def UniformForm (i : Instr) (s : State) (f : UFile → UFile) : Prop := ∃ t, exec i s = .next t ∧ OnlyUniform s t f

/-- A uniform form that writes the value x to S[d] under a guard, and nothing else (R168). -/
def WritesS (i : Instr) (s : State) (g : BitVec 4) (d : BitVec 8) (x : UFile → Word) : Prop :=
  UniformForm i s fun u => if u.guard g then u.putS d.toNat (x u) else u

/-! ## Accesses -/

/-- The issue is of one lane, whose guard is true. -/
structure OneLane (s : State) (g : BitVec 4) (gid ti : Nat) (x : Group) (th : Thread) : Prop where
  who : s.issue.who = .group gid
  lanes : s.issue.lanes = [(gid, ti)]
  group : s.groups[gid]? = some x
  thread : x.threads[ti]? = some th
  guard : Lane.guard { g := x, ti := ti, t := th } g = true

/-- The scope of an instruction is used as it stands: it is not SYS, or the context is privileged (R227). -/
def scopeFree (s : State) (who : Agent) (scope : BitVec 3) : Prop := scope ≠ 4 ∨ (s.ctx (s.ctxOf who)).priv = true

/-- No rollback has an operation of the agent left to replay (R469). -/
abbrev notReplaying (s : State) (who : Agent) : Prop := s.replayOf who = []

/-- The words that a replay log keeps of n bytes (R468). -/
def logged (n : Nat) (b : List Byte) : List Word := (List.range (n / 4)).map fun i => BitVec.ofNat 32 (leNat b / 2 ^ (32 * i))

/-- The thread after its lane was performed: it goes on, its wait over (R265). -/
def doneThread (i : Machine.Issue) (t : Thread) : Thread := { i.advance t with wait := .none }

/-- The registers that n bytes loaded at register d give (R267): up to 32 bits extended into one register, else one word a
register. -/
def loaded (d : Nat) (size : BitVec 3) (sext : BitVec 1) (b : List Byte) : List (Nat × Word) :=
  if size.toNat < 3 then
    [(d, if sext = 1 then (BitVec.ofNat (8 * 2 ^ size.toNat) (leNat b)).signExtend 32 else BitVec.ofNat 32 (leNat b))]
  else (List.range (2 ^ size.toNat / 4)).map fun i => (d + i, BitVec.ofNat 32 (leNat b / 2 ^ (32 * i)))

/-- The n bytes that registers from d give a store (R268): byte i is byte i modulo 4 of register d + i / 4. -/
def stored (get : Nat → Word) (d n : Nat) : List Byte :=
  (List.range n).map fun i => (get (d + i / 4)).extractLsb' (8 * (i % 4)) 8

/-- The byte of an address as the L2 cache of a die serves it: the line's valid byte, else the byte at its home. -/
def byteAt (s : State) (die pa : Nat) : Byte := ((s.line? die (lineOf pa)).bind fun l => l.byte? (pa % 128)).getD (s.homeByte pa)

/-- A thread with the marks of its monitor left out of sight: what a store of another thread may change in it (R188). -/
def sameButMonitor (t t' : Thread) : Prop := { t' with monitor := t.monitor } = t

/-! ## Values -/

/-- An integer clamped to INT32 (R80). -/
def inS32 (x : Int) : Word := BitVec.ofInt 32 (max (-2147483648) (min 2147483647 x))

/-- An integer clamped to UINT32 (R80). -/
def inU32 (x : Int) : Word := BitVec.ofInt 32 (max 0 (min 4294967295 x))

/-- A 32-bit result under MOD sat: the low 32 bits of the exact value, or the value clamped to INT32 (R81). -/
def exactS (i : Machine.Issue) (x : Int) : Word := if i.sat then inS32 x else BitVec.ofInt 32 x

/-- A 32-bit result under MOD sat of an unsigned form (R81). -/
def exactU (i : Machine.Issue) (x : Int) : Word := if i.sat then inU32 x else BitVec.ofInt 32 x

end Sys2Proof
end

