-- ==== Sys2Proof/Certificates/Slice0/Obligations.lean ====
section
/-! DEFINITION. The statements for the provers. -/

open Sys2Proof Sys2Proof.Machine

/-! ## Register forms of integers -/

/-- Every two-operand integer form of R122, each lane form and its uniform twin: A is V[a] or S[a], B the selected operand; the
result is the exact value's low 32 bits, clamped under MOD sat or always.
IADDC and ISUBB (R134): the register receives the low 32 bits, the predicate of cout the carry or borrow; code 7 of cin
supplies 0 and code 7 of cout discards. -/
def Obligations.IntegerArithmeticForms : Prop :=
  ((∀ (s : State) (d a : BitVec 7) (b : BitVec 8),
    let A (l : Lane) : Word := l.t.getV a.toNat
    let B (l : Lane) : Word := l.sel b .int
    let W (i : Instr) (x : Lane → Word) : Prop := WritesV i s always d x
    W (.iadd d a b) (fun l => if s.issue.sat then inS32 ((A l).toInt + (B l).toInt) else A l + B l) ∧
    W (.isub d a b) (fun l => if s.issue.sat then inS32 ((A l).toInt - (B l).toInt) else A l - B l) ∧
    W (.imul d a b) (fun l => if s.issue.sat then inS32 ((A l).toInt * (B l).toInt) else A l * B l) ∧
    W (.imulh d a b) (fun l => BitVec.ofInt 32 ((A l).toInt * (B l).toInt / 4294967296)) ∧
    W (.imulhu d a b) (fun l => BitVec.ofNat 32 ((A l).toNat * (B l).toNat / 4294967296)) ∧
    W (.imin d a b) (fun l => if (A l).toInt ≤ (B l).toInt then A l else B l) ∧
    W (.imax d a b) (fun l => if (A l).toInt ≤ (B l).toInt then B l else A l) ∧
    W (.iminu d a b) (fun l => if (A l).toNat ≤ (B l).toNat then A l else B l) ∧
    W (.imaxu d a b) (fun l => if (A l).toNat ≤ (B l).toNat then B l else A l) ∧
    W (.iabs d a) (fun l => if s.issue.sat then inS32 |(A l).toInt| else if (A l).toInt < 0 then -(A l) else A l) ∧
    W (.iadds d a b) (fun l => inS32 ((A l).toInt + (B l).toInt)) ∧
    W (.isubs d a b) (fun l => inS32 ((A l).toInt - (B l).toInt)) ∧
    W (.iaddsu d a b) (fun l => inU32 ((A l).toNat + (B l).toNat)) ∧
    W (.isubsu d a b) (fun l => inU32 ((A l).toNat - (B l).toNat))) ∧
  (∀ (s : State) (d a : BitVec 8) (b : BitVec 6),
    let A (u : UFile) : Word := u.getS a.toNat
    let B (u : UFile) : Word := u.bu b
    let W (i : Instr) (x : UFile → Word) : Prop := WritesS i s always d x
    W (.uadd d a b) (fun u => if s.issue.sat then inS32 ((A u).toInt + (B u).toInt) else A u + B u) ∧
    W (.usub d a b) (fun u => if s.issue.sat then inS32 ((A u).toInt - (B u).toInt) else A u - B u) ∧
    W (.umul d a b) (fun u => if s.issue.sat then inS32 ((A u).toInt * (B u).toInt) else A u * B u) ∧
    W (.umulh d a b) (fun u => BitVec.ofInt 32 ((A u).toInt * (B u).toInt / 4294967296)) ∧
    W (.umin d a b) (fun u => if (A u).toInt ≤ (B u).toInt then A u else B u) ∧
    W (.umax d a b) (fun u => if (A u).toInt ≤ (B u).toInt then B u else A u) ∧
    W (.uminu d a b) (fun u => if (A u).toNat ≤ (B u).toNat then A u else B u) ∧
    W (.umaxu d a b) (fun u => if (A u).toNat ≤ (B u).toNat then B u else A u))) ∧
  (∀ (s : State) (g : BitVec 4) (d a : BitVec 7) (b : BitVec 8) (cin cout : BitVec 3),
    let ci (l : Lane) : Nat := if cin = 7 then 0 else if l.t.p.getLsbD cin.toNat then 1 else 0
    let A (l : Lane) : Word := l.t.getV a.toNat
    let B (l : Lane) : Word := l.sel b .int
    LaneForm (.iaddc g d a b cin cout) s (guarded s g fun l =>
      (l.t.putV d.toNat (A l + B l + BitVec.ofNat 32 (ci l))).putP cout.toNat (decide (2 ^ 32 ≤ (A l).toNat + (B l).toNat + ci l))) ∧
    LaneForm (.isubb g d a b cin cout) s (guarded s g fun l =>
      (l.t.putV d.toNat (A l - B l - BitVec.ofNat 32 (ci l))).putP cout.toNat (decide ((A l).toNat < (B l).toNat + ci l))))

/-- Every logic, shift and move form of R123, lane and uniform, and NOP and UNOP (R63), which change no register. -/
def Obligations.LogicShiftAndMoveForms : Prop :=
  (∀ (s : State) (d a : BitVec 7) (b : BitVec 8),
    let A (l : Lane) : Word := l.t.getV a.toNat
    let B (l : Lane) : Word := l.sel b .int
    let W (i : Instr) (x : Lane → Word) : Prop := WritesV i s always d x
    W (.and d a b) (fun l => A l &&& B l) ∧ W (.or d a b) (fun l => A l ||| B l) ∧ W (.xor d a b) (fun l => A l ^^^ B l) ∧
    W (.andn d a b) (fun l => A l &&& ~~~(B l)) ∧ W (.orn d a b) (fun l => A l ||| ~~~(B l)) ∧
    W (.shl d a b) (fun l => A l <<< (B l).toNat) ∧ W (.shr d a b) (fun l => A l >>> (B l).toNat) ∧
    W (.sar d a b) (fun l => (A l).sshiftRight (B l).toNat) ∧ W (.rotl d a b) (fun l => (A l).rotateLeft (B l).toNat) ∧
    W (.popc d a) (fun l => BitVec.ofNat 32 ((List.range 32).countP fun i => (A l).getLsbD i)) ∧
    W (.clz d a) (fun l => BitVec.ofNat 32 (if A l = 0 then 32 else 31 - Nat.log2 (A l).toNat)) ∧
    W (.brev d a) (fun l => (A l).reverse) ∧ W (.mov d b) (fun l => B l) ∧
    LaneForm .nop s (guarded s always fun l => l.t)) ∧
  (∀ (s : State) (d a : BitVec 8) (b : BitVec 6),
    let A (u : UFile) : Word := u.getS a.toNat
    let B (u : UFile) : Word := u.bu b
    let W (i : Instr) (x : UFile → Word) : Prop := WritesS i s always d x
    W (.uand d a b) (fun u => A u &&& B u) ∧ W (.uor d a b) (fun u => A u ||| B u) ∧ W (.uxor d a b) (fun u => A u ^^^ B u) ∧
    W (.uandn d a b) (fun u => A u &&& ~~~(B u)) ∧ W (.ushl d a b) (fun u => A u <<< (B u).toNat) ∧
    W (.ushr d a b) (fun u => A u >>> (B u).toNat) ∧ W (.usar d a b) (fun u => (A u).sshiftRight (B u).toNat) ∧
    W (.upopc d a) (fun u => BitVec.ofNat 32 ((List.range 32).countP fun i => (A u).getLsbD i)) ∧
    W (.uclz d a) (fun u => BitVec.ofNat 32 (if A u = 0 then 32 else 31 - Nat.log2 (A u).toNat)) ∧
    W (.umov d b) (fun u => B u) ∧ UniformForm .unop s fun u => u)

/-- The three-source integer forms: IMAC, ISUM3, IABDA (R126), IMACW (R127), IDOT8 (R128), IADDW (R129), LEA (R130) and UMAC
(R139), each with its exact value and its clamp under MOD sat. -/
def Obligations.MultiplyAddForms : Prop :=
  (∀ (s : State) (g : BitVec 4) (d a : BitVec 7) (b c : BitVec 8) (u ua ub : BitVec 1) (ty k : BitVec 2) (sg : BitVec 1) (sh : BitVec 5),
    let A (l : Lane) : Word := l.t.getV a.toNat
    let B (l : Lane) : Word := l.sel b .int
    let C (l : Lane) : Int := (l.sel c .int).toInt
    let byte (x : Word) (n : Nat) : BitVec 8 := x.extractLsb' (8 * n) 8
    let el (un : BitVec 1) (x : Word) (n : Nat) : Int := if un = 1 then (byte x n).toNat else (byte x n).toInt
    WritesV (.imac g d a b c) s g d (fun l => exactS s.issue ((A l).toInt * (B l).toInt + C l)) ∧
    WritesV (.isum3 g d a b c) s g d (fun l => exactS s.issue ((A l).toInt + (B l).toInt + C l)) ∧
    WritesV (.iabda g d a b c u) s g d (fun l =>
      if u = 1 then exactU s.issue (|((A l).toNat : Int) - (B l).toNat| + C l) else exactS s.issue (|(A l).toInt - (B l).toInt| + C l)) ∧
    WritesV2 (.imacw g d a b c u) s g d (fun l =>
      let e : Int := if u = 1 then (A l).toNat * (B l).toNat else (A l).toInt * (B l).toInt
      let x : Int := e + l.sel2 c (u == 0)
      BitVec.ofInt 64 (if s.issue.sat then (if u = 1 then max 0 (min (2 ^ 64 - 1) x) else max (-2 ^ 63) (min (2 ^ 63 - 1) x)) else x)) ∧
    WritesV (.idot8 g d a b c ua ub) s g d (fun l =>
      exactS s.issue (C l + el ua (A l) 0 * el ub (B l) 0 + el ua (A l) 1 * el ub (B l) 1 + el ua (A l) 2 * el ub (B l) 2 +
        el ua (A l) 3 * el ub (B l) 3)) ∧
    WritesV (.iaddw g d a b ty k) s g d (fun l => exactS s.issue ((A l).toInt + (match ty.toNat with
      | 0 => ((byte (B l) k.toNat).toNat : Int)
      | 1 => (byte (B l) k.toNat).toInt
      | 2 => (((B l).extractLsb' (16 * (k.toNat % 2)) 16).toNat : Int)
      | _ => ((B l).extractLsb' (16 * (k.toNat % 2)) 16).toInt))) ∧
    WritesV (.lea g d a b sg 0 sh) s g d (fun l => A l + (B l <<< sh.toNat)) ∧
    WritesV2 (.lea g d a b sg 1 sh) s g d (fun l =>
      l.t.getV2 a.toNat + ((if sg = 1 then (B l).signExtend 64 else (B l).setWidth 64) <<< sh.toNat))) ∧
  (∀ (s : State) (g : BitVec 4) (d a sb : BitVec 8) (b : BitVec 6),
    WritesS (.umac g d a b sb) s g d fun u => exactS s.issue ((u.getS a.toNat).toInt * (u.bu b).toInt + (u.getS sb.toNat).toInt))

/-- BFX, BFI, BYTEX and SEL (R131, R132, R133), MOVLO and MOVHI (R138), and the uniform UBFX, UBFI, USEL, UMOVLO and UMOVHI
(R138, R139). -/
def Obligations.FieldAndSelectionForms : Prop :=
  let bfx (sg : BitVec 1) (A B : Word) : Word :=
    let pos := (B.extractLsb' 0 8).toNat
    let n := min (B.extractLsb' 8 8).toNat (32 - pos)
    if 32 ≤ pos ∨ B.extractLsb' 8 8 = 0 then 0
    else if sg = 1 then (A.extractLsb' pos n).signExtend 32 else (A.extractLsb' pos n).setWidth 32
  let bfi (A B C : Word) : Word :=
    let pos := (B.extractLsb' 0 8).toNat
    let n := min (B.extractLsb' 8 8).toNat (32 - pos)
    let mask : Word := BitVec.ofNat 32 ((2 ^ n - 1) * 2 ^ pos)
    if 32 ≤ pos ∨ B.extractLsb' 8 8 = 0 then C else (C &&& ~~~mask) ||| ((A <<< pos) &&& mask)
  let bytex (A B : Word) (s : BitVec 8) : BitVec 8 :=
    let x := (B ++ A).extractLsb' (8 * (s.toNat % 8)) 8
    if s.extractLsb' 3 2 = 0 then x else if s.extractLsb' 3 2 = 1 then (if x.msb then 0xFF else 0) else if s.extractLsb' 3 2 = 2 then 0 else 0xFF
  (∀ (s : State) (g : BitVec 4) (d a : BitVec 7) (b c : BitVec 8) (sg pneg : BitVec 1) (p : BitVec 3) (imm : BitVec 16),
    let A (l : Lane) : Word := l.t.getV a.toNat
    let B (l : Lane) : Word := l.sel b .int
    let C (l : Lane) : Word := l.sel c .int
    WritesV (.bfx g d a b sg) s g d (fun l => bfx sg (A l) (B l)) ∧
    WritesV (.bfi g d a b c) s g d (fun l => bfi (A l) (B l) (C l)) ∧
    WritesV (.bytex g d a b c) s g d (fun l =>
      bytex (A l) (B l) ((C l).extractLsb' 24 8) ++ bytex (A l) (B l) ((C l).extractLsb' 16 8) ++
        bytex (A l) (B l) ((C l).extractLsb' 8 8) ++ bytex (A l) (B l) ((C l).extractLsb' 0 8)) ∧
    WritesV (.sel g d a b pneg p) s g d (fun l => if (l.t.getP p.toNat) ^^ (pneg == 1) then A l else B l) ∧
    WritesV (.movlo g d imm) s g d (fun _ => imm.setWidth 32) ∧
    WritesV (.movhi g d imm) s g d (fun l => imm ++ (l.t.getV d.toNat).extractLsb' 0 16)) ∧
  (∀ (s : State) (g : BitVec 4) (d a sb : BitVec 8) (b : BitVec 6) (sg qneg : BitVec 1) (q : BitVec 3) (imm : BitVec 16),
    let A (u : UFile) : Word := u.getS a.toNat
    WritesS (.ubfx g d a b sg) s g d (fun u => bfx sg (A u) (u.bu b)) ∧
    WritesS (.ubfi g d a b sb) s g d (fun u => bfi (A u) (u.bu b) (u.getS sb.toNat)) ∧
    WritesS (.usel g d a b qneg q) s g d (fun u => if (u.getQ q.toNat) ^^ (qneg == 1) then A u else u.bu b) ∧
    WritesS (.umovlo g d imm) s g d (fun _ => imm.setWidth 32) ∧
    WritesS (.umovhi g d imm) s g d (fun u => imm ++ (u.getS d.toNat).extractLsb' 0 16))

/-- ISETP and USETP (R135), PTAB (R136), P2V and V2P (R137).
A register file keeps what is written and nothing else changes (R110): a V or S register written holds the value if the
file reaches it, every other register keeps its own, a predicate written holds the value and the others keep theirs, and a write to
PT or QT is discarded. -/
def Obligations.PredicateForms : Prop :=
  (let holds (cmp : BitVec 3) (u : BitVec 1) (A B : Word) : Bool :=
    let x : Int := if u = 1 then A.toNat else A.toInt
    let y : Int := if u = 1 then B.toNat else B.toInt
    if cmp = 0 then decide (x = y) else if cmp = 1 then decide (x ≠ y) else if cmp = 2 then decide (x < y)
    else if cmp = 3 then decide (x ≤ y) else if cmp = 4 then decide (y < x) else decide (y ≤ x)
  let bop (o : BitVec 2) (c k : Bool) : Bool := if o = 0 then c && k else if o = 1 then c || k else c ^^ k
  (∀ (s : State) (g : BitVec 4) (d a : BitVec 7) (b : BitVec 8) (pd pc pa pb : BitVec 3) (pcneg u : BitVec 1) (o : BitVec 2)
      (cmp : BitVec 3) (table : BitVec 8),
    WritesP (.isetp g a b pd pc pcneg o u cmp) s g pd (fun l =>
      bop o (holds cmp u (l.t.getV a.toNat) (l.sel b .int)) ((l.t.getP pc.toNat) ^^ (pcneg == 1))) ∧
    WritesP (.ptab g pd pa pb pc table) s g pd (fun l =>
      table.getLsbD ((if l.t.getP pa.toNat then 1 else 0) + (if l.t.getP pb.toNat then 2 else 0) + (if l.t.getP pc.toNat then 4 else 0))) ∧
    WritesV (.p2v g d) s g d (fun l => l.t.p.setWidth 32) ∧
    LaneForm (.v2p g a b) s (guarded s g fun l =>
      { l.t with
        p := ((l.t.p &&& ~~~((l.sel b .int).extractLsb' 0 7)) ||| ((l.t.getV a.toNat).extractLsb' 0 7 &&& (l.sel b .int).extractLsb' 0 7)),
        pend := l.t.pend.map fun x => { x with preds := x.preds.filter fun r => !(decide (r.1 < 7) && (l.sel b .int).getLsbD r.1) } })) ∧
  (∀ (s : State) (g : BitVec 4) (a : BitVec 8) (b : BitVec 6) (pd pc : BitVec 3) (pcneg u : BitVec 1) (o : BitVec 2) (cmp : BitVec 3),
    UniformForm (.usetp g a b pd pc pcneg o u cmp) s fun f =>
      if f.guard g then f.putQ pd.toNat (bop o (holds cmp u (f.getS a.toNat) (f.bu b)) ((f.getQ pc.toNat) ^^ (pcneg == 1))) else f)) ∧
  ((∀ (t : Thread) (d r : Nat) (x : Word), (t.putV d x).getV r = if r = d ∧ d < t.v.length then x else t.getV r) ∧
  (∀ (t : Thread) (d r : Nat) (b : Bool), (t.putP d b).getP r = if r = d ∧ d < 7 then b else t.getP r) ∧
  (∀ (t : Thread) (d : Nat) (b : Bool), 7 ≤ d → t.putP d b = t) ∧
  (∀ (u : UFile) (d r : Nat) (x : Word), (u.putS d x).getS r = if r = d ∧ d < u.s.length then x else u.getS r) ∧
  (∀ (u : UFile) (d r : Nat) (b : Bool), (u.putQ d b).getQ r = if r = d ∧ d < 4 then b else u.getQ r) ∧
  (∀ (u : UFile) (d : Nat) (b : Bool), 4 ≤ d → u.putQ d b = u) ∧
  (∀ (t : Thread) (d : Nat) (x : BitVec 64), d + 1 < t.v.length → (t.putV2 d x).getV2 d = x))

/-! ## Register forms of floating-point numbers -/

/-- The FP32 forms of R146 to R148 and FFMA, FDOT2 and FLDEXP (R150 to R152): operands flushed under MOD ftz, the exact result
rounded once in the mode of MOD rnd (RNE by default), flushed again and clamped under MOD sat (R142).
FSETP and FCLASS (R153, R154): an ordered comparison is false on a NaN and an unordered one true; a class test sets the
predicate when the mask holds the value's class bit.
Where a clause rests on a choice of the model and not on the spec, it is that of log entry 113. -/
def Obligations.Fp32Forms : Prop :=
  (∀ (s : State) (g : BitVec 4) (d a : BitVec 7) (b c : BitVec 8) (np nc bf : BitVec 1),
    let md := s.issue.md
    let rm := rmode md.rnd .rne
    let finish (y : Nat) : Word := BitVec.ofNat 32 (fp32.clamp md.sat (fp32.ftz md.ftz y))
    let round (x : Machine.Num) : Word := finish (fp32.rnd rm x)
    let val (x : Word) : Machine.Num := fp32.dec (fp32.ftz md.ftz x.toNat)
    let A (l : Lane) : Word := l.t.getV a.toNat
    let B (l : Lane) : Word := l.sel b .f32
    let signed (n : BitVec 1) (x : Machine.Num) : Machine.Num := if n = 1 then x.flip else x
    WritesV (.fadd d a b) s always d (fun l => round ((val (A l)).add rm (val (B l)))) ∧
    WritesV (.fsub d a b) s always d (fun l => round ((val (A l)).add rm (val (B l)).flip)) ∧
    WritesV (.fmul d a b) s always d (fun l => round ((val (A l)).mul (val (B l)))) ∧
    WritesV (.fmin d a b) s always d (fun l =>
      finish (fp32.minmax false (fp32.ftz md.ftz (A l).toNat) (fp32.ftz md.ftz (B l).toNat))) ∧
    WritesV (.fmax d a b) s always d (fun l =>
      finish (fp32.minmax true (fp32.ftz md.ftz (A l).toNat) (fp32.ftz md.ftz (B l).toNat))) ∧
    WritesV (.fabs d a) s always d (fun l => if val (A l) = .nan then finish 0x7FC00000 else
      finish (fp32.ftz md.ftz (A l).toNat % 2 ^ 31)) ∧
    WritesV (.ffloor d a) s always d (fun l => finish (fp32.rnd .rne (fp32.integral .rdn (fp32.ftz md.ftz (A l).toNat)))) ∧
    WritesV (.fceil d a) s always d (fun l => finish (fp32.rnd .rne (fp32.integral .rup (fp32.ftz md.ftz (A l).toNat)))) ∧
    WritesV (.ftrunc d a) s always d (fun l => finish (fp32.rnd .rne (fp32.integral .rz (fp32.ftz md.ftz (A l).toNat)))) ∧
    WritesV (.frint d a) s always d (fun l => finish (fp32.rnd .rne (fp32.integral rm (fp32.ftz md.ftz (A l).toNat)))) ∧
    WritesV (.ffma g d a b c np nc) s g d (fun l =>
      round ((signed np ((val (A l)).mul (val (B l)))).add rm (signed nc (val (l.sel c .f32))))) ∧
    WritesV (.fdot2 g d a b c bf) s g d (fun l =>
      let f := if bf = 1 then bf16 else fp16
      let el (x : Word) (k : Nat) : Machine.Num := f.dec (f.ftz md.ftz (half x k))
      let y := l.sel b (.pair f)
      round ((((el (A l) 0).mul (el y 0)).add rm ((el (A l) 1).mul (el y 1))).add rm (val (l.sel c .f32)))) ∧
    WritesV (.fldexp g d a b) s g d (fun l => round (match val (A l) with
      | .fin n m e => .fin n m (e + (l.sel b .int).toInt)
      | x => x))) ∧
  (∀ (s : State) (g : BitVec 4) (a : BitVec 7) (b : BitVec 8) (pd pc : BitVec 3) (pcneg u : BitVec 1) (o : BitVec 2) (cmp : BitVec 3)
    (mask : BitVec 10),
    let flush (x : Word) : Nat := fp32.ftz s.issue.md.ftz x.toNat
    let A (l : Lane) : Word := l.t.getV a.toNat
    let x (l : Lane) : Machine.Num := fp32.dec (flush (A l))
    let y (l : Lane) : Machine.Num := fp32.dec (flush (l.sel b .f32))
    let nan (l : Lane) : Bool := x l == .nan || y l == .nan
    let ordered (l : Lane) : Bool :=
      if cmp = 0 then (x l).cmp (y l) == .eq else if cmp = 1 then (x l).cmp (y l) != .eq else if cmp = 2 then (x l).cmp (y l) == .lt
      else if cmp = 3 then (x l).cmp (y l) != .gt else if cmp = 4 then (x l).cmp (y l) == .gt else if cmp = 5 then (x l).cmp (y l) != .lt
      else cmp == 6
    let holds (l : Lane) : Bool := if nan l then (if cmp = 6 then false else if cmp = 7 then true else u == 1) else ordered l
    let k (l : Lane) : Bool := (l.t.getP pc.toNat) ^^ (pcneg == 1)
    WritesP (.fsetp g a b pd pc pcneg o u cmp) s g pd (fun l =>
      if o = 0 then holds l && k l else if o = 1 then holds l || k l else holds l ^^ k l) ∧
    WritesP (.fclass g a pd mask) s g pd (fun l => mask.getLsbD (classBit (flush (A l)))))

/-- The packed forms of R149 and HFMA2 and BFMA2 (R150): each half of the pair takes the FP16 or BF16 result of R142 on its own.
The conversions of R157: integers to FP32 rounded in the mode of MOD, FP32 to integers with default RZ and the clamps of R90
and R144, and halves in and out, with operands and results flushed under MOD ftz; and CVTN and CVTW through a format slot (R158, R159), which replace and read one element.
Where a clause rests on a choice of the model and not on the spec, it is that of log entries 11, 83, 84. -/
def Obligations.PackedAndConversionForms : Prop :=
  (∀ (s : State) (g : BitVec 4) (d a : BitVec 7) (b c : BitVec 8) (np nc : BitVec 1),
    let md := s.issue.md
    let rm := rmode md.rnd .rne
    let pairOf (h : Nat → Nat) : Word := BitVec.ofNat 16 (h 1) ++ BitVec.ofNat 16 (h 0)
    let finish (f : Fmt) (y : Nat) : Nat := f.clamp md.sat (f.ftz md.ftz y)
    let val (f : Fmt) (x : Word) (h : Nat) : Machine.Num := f.dec (f.ftz md.ftz (half x h))
    let A (l : Lane) : Word := l.t.getV a.toNat
    let B (f : Fmt) (l : Lane) : Word := l.sel b (.pair f)
    let add (f : Fmt) (l : Lane) : Word := pairOf fun h => finish f (f.rnd rm ((val f (A l) h).add rm (val f (B f l) h)))
    let mul (f : Fmt) (l : Lane) : Word := pairOf fun h => finish f (f.rnd rm ((val f (A l) h).mul (val f (B f l) h)))
    let signed (n : BitVec 1) (x : Machine.Num) : Machine.Num := if n = 1 then x.flip else x
    let fma (f : Fmt) (l : Lane) : Word := pairOf fun h => finish f (f.rnd rm
      ((signed np ((val f (A l) h).mul (val f (B f l) h))).add rm (signed nc (val f (l.sel c (.pair f)) h))))
    WritesV (.hadd2 d a b) s always d (add fp16) ∧ WritesV (.badd2 d a b) s always d (add bf16) ∧
    WritesV (.hmul2 d a b) s always d (mul fp16) ∧ WritesV (.bmul2 d a b) s always d (mul bf16) ∧
    WritesV (.hmin2 d a b) s always d (fun l => pairOf fun h =>
      finish fp16 (fp16.minmax false (fp16.ftz md.ftz (half (A l) h)) (fp16.ftz md.ftz (half (B fp16 l) h)))) ∧
    WritesV (.hmax2 d a b) s always d (fun l => pairOf fun h =>
      finish fp16 (fp16.minmax true (fp16.ftz md.ftz (half (A l) h)) (fp16.ftz md.ftz (half (B fp16 l) h)))) ∧
    WritesV (.hfma2 g d a b c np nc) s g d (fma fp16) ∧ WritesV (.bfma2 g d a b c np nc) s g d (fma bf16)) ∧
  (∀ (s : State) (g : BitVec 4) (d a : BitVec 7) (b : BitVec 8) (n : BitVec 3) (k : BitVec 2) (i : BitVec 1),
    let md := s.issue.md
    let rm := rmode md.rnd .rne
    let round (f : Fmt) (x : Machine.Num) : Nat := f.clamp md.sat (f.ftz md.ftz (f.rnd rm x))
    let A (l : Lane) : Word := l.t.getV a.toNat
    let B (l : Lane) : Word := l.sel b .f32
    let toInt (lo hi : Int) (x : Word) : Word :=
      let y := (fp32.dec (fp32.ftz md.ftz x.toNat)).toRange (rmode md.rnd .rz) lo hi
      BitVec.ofInt 32 (if md.sat = 2 then max 0 (min 1 y) else if md.sat = 3 then max (-1) (min 1 y) else y)
    let narrow (f : Fmt) (l : Lane) : Word :=
      BitVec.ofNat 16 (round f (fp32.dec (fp32.ftz md.ftz (B l).toNat))) ++ BitVec.ofNat 16 (round f (fp32.dec (fp32.ftz md.ftz (A l).toNat)))
    let widen (f : Fmt) (l : Lane) : Word := BitVec.ofNat 32 (fp32.clamp md.sat (fp32.ftz md.ftz (fp32.rnd .rne
      (f.dec (f.ftz md.ftz (half (A l) (b.toNat - 0xC0)))))))
    let slot (l : Lane) : Nat := ((s.kernelOf l.g.bid).map (·.slot n.toNat)).getD 0
    let bits (l : Lane) : Nat := fmtBits (slotFmt (slot l))
    WritesV (.i2f d a) s always d (fun l => BitVec.ofNat 32 (round fp32 (Machine.Num.ofInt (A l).toInt))) ∧
    WritesV (.u2f d a) s always d (fun l => BitVec.ofNat 32 (round fp32 (Machine.Num.ofInt (A l).toNat))) ∧
    WritesV (.f2i d a) s always d (fun l => toInt (-2147483648) 2147483647 (A l)) ∧
    WritesV (.f2u d a) s always d (fun l => toInt 0 4294967295 (A l)) ∧
    WritesV (.f2h d a b) s always d (narrow fp16) ∧ WritesV (.f2b d a b) s always d (narrow bf16) ∧
    WritesV (.h2f d a b) s always d (widen fp16) ∧ WritesV (.b2f d a b) s always d (widen bf16) ∧
    (∃ e : Lane → Word, WritesV (.cvtn g d a n k i) s g d e ∧ ∀ (l : Lane) (j : Nat), k.toNat < 32 / bits l →
      (e l).getLsbD j = if bits l * k.toNat ≤ j ∧ j < bits l * (k.toNat + 1)
        then (cvtnElement md (slot l) (i == 1) (A l)).testBit (j - bits l * k.toNat) else (l.t.getV d.toNat).getLsbD j) ∧
    WritesV (.cvtw g d a n k i) s g d (fun l =>
      cvtwWord md (slot l) (i == 1) ((A l).extractLsb' (bits l * k.toNat) (bits l)).toNat))

/-- The seven special functions (R155): with LA 0, the result for a V register is a fixed function of the input bits and the MOD of
the issue, written before the thread goes on; with a window the register keeps its value and the result is left incomplete
(R60).
What the special functions give (R155, R156), for every MOD, with the operand flushed and the result flushed and clamped as R142
has it: the special values of R156, and for every other finite operand a value whose error against every number of an enclosure
of the exact function is within the bound of R155; the enclosures of FRCP and FRSQ hold the exact value, and FSQRT is the rounded root.
Where a clause rests on a choice of the model and not on the spec, it is that of log entries 8, 9. -/
def Obligations.SpecialFunctions : Prop :=
  (∀ (s : State) (g la : BitVec 4) (d a : BitVec 7),
    let late (f : SpecialFn) : Lane → Thread := guarded s g fun l =>
      let x := specialFn f s.issue.md (l.t.getV a.toNat)
      let last : Bool := match s.issue.rep with
        | some r => decide (r.cnt.toNat ≤ s.issue.iter)
        | none => true
      if la = 0 ∨ last = false then l.t.putV d.toNat x
      else { l.t with pend := l.t.pend ++ [{ left := la.toNat, known := true, regs := [(d.toNat, x)], preds := [] }] }
    LaneForm (.frcp g la d a) s (late .rcp) ∧ LaneForm (.frsq g la d a) s (late .rsq) ∧ LaneForm (.fsqrt g la d a) s (late .sqrt) ∧
    LaneForm (.fexp2 g la d a) s (late .exp2) ∧ LaneForm (.flog2 g la d a) s (late .log2) ∧ LaneForm (.fsint g la d a) s (late .sint) ∧
    LaneForm (.fcost g la d a) s (late .cost)) ∧
  ((∀ (md : FMod) (x : Word),
    let v := fp32.dec (fp32.ftz md.ftz x.toNat)
    let gives (f : SpecialFn) (y : Nat) : Prop := specialFn f md x = BitVec.ofNat 32 (fp32.clamp md.sat (fp32.ftz md.ftz y))
    let nan : Nat := 0x7FC00000
    let inf : Nat := 0x7F800000
    let one : Nat := 0x3F800000
    let minus (n : Bool) (y : Nat) : Nat := if n then 0x80000000 + y else y
    let near (f : SpecialFn) (X : Encl) (tol : Int) : Prop := ∃ y, gives f y ∧ X.near tol (fp32.dec y) = true
    (v = .nan → ∀ f, gives f nan) ∧
    (∀ n, v = .inf n → gives .rcp (minus n 0) ∧ gives .rsq (if n then nan else 0) ∧ gives .sqrt (if n then nan else inf) ∧
      gives .exp2 (if n then 0 else inf) ∧ gives .log2 (if n then nan else inf) ∧ gives .sint nan ∧ gives .cost nan) ∧
    (∀ n, v = .zero n → gives .rcp (minus n inf) ∧ gives .rsq (minus n inf) ∧ gives .sqrt (minus n 0) ∧ gives .exp2 one ∧
      gives .log2 (minus true inf) ∧ gives .sint (minus n 0) ∧ gives .cost one) ∧
    (∀ m e, v = .fin true m e → gives .rsq nan ∧ gives .sqrt nan ∧ gives .log2 nan) ∧
    (∀ m e, v = .fin false m e → gives .sqrt (fp32.rnd (rmode md.rnd .rne) (sqrtSticky m e))) ∧
    (∀ n (j : Nat) e, v = .fin n (2 ^ j) e →
      (-127 ≤ j + e → j + e ≤ 126 → gives .rcp (minus n ((127 - (j + e)).toNat * 2 ^ 23))) ∧
      (n = false → (j + e) % 2 = 0 → gives .rsq ((127 - (j + e) / 2).toNat * 2 ^ 23) ∧ gives .sqrt ((127 + (j + e) / 2).toNat * 2 ^ 23)) ∧
      (n = false → gives .log2 (fp32.rnd .rne (Machine.Num.ofInt (j + e))))) ∧
    (∀ n m e, v = .fin n m e →
      let d := 2 ^ (-e).toNat
      let M := m * 2 ^ e.toNat
      let k : Int := Nat.log2 m + e
      let pow : Prop := m = 2 ^ Nat.log2 m
      (M % d = 0 → (n = true → M / d ≤ 149 → gives .exp2 (fp32.rnd .rne (.fin false 1 (-((M / d : Nat) : Int))))) ∧
        (n = false → M / d ≤ 127 → gives .exp2 (fp32.rnd .rne (.fin false 1 ((M / d : Nat) : Int))))) ∧
      (n = false → 128 * d ≤ M → gives .exp2 inf) ∧ (n = true → 150 * d < M → gives .exp2 0) ∧
      (M % d = 0 → gives .sint 0 ∧ gives .cost one) ∧
      (M % d ≠ 0 → 2 * M % d = 0 → gives .sint 0 ∧ gives .cost (minus true one)) ∧
      (2 * M % d ≠ 0 → 4 * M % d = 0 → gives .sint (minus ((4 * M / d % 4 == 3) != n) one) ∧ gives .cost 0) ∧
      (k < -128 ∨ (k = -128 ∧ pow) → gives .rcp (minus n inf)) ∧
      (-128 ≤ k → ¬ (pow ∧ k ≤ 126) → let X := enclRcp m e
        near .rcp (if n then { X with lo := -X.hi, hi := -X.lo } else X) X.ulp) ∧
      (n = false → ¬ (pow ∧ k % 2 = 0) → near .rsq (enclRsq m e) (enclRsq m e).ulp) ∧
      (M % d ≠ 0 → (n = false → M < 128 * d) → (n = true → M ≤ 150 * d) → near .exp2 (enclExp2 n m e) (2 * (enclExp2 n m e).ulp)) ∧
      (n = false → ¬ pow → near .log2 (enclLog2 m e) (if k = 0 ∨ k = -1 then 2 ^ 106 else 2 * (enclLog2 m e).ulp)) ∧
      (4 * M % d ≠ 0 → near .sint (enclTrig false n m e) (2 ^ 106) ∧ near .cost (enclTrig true n m e) (2 ^ 106)))) ∧
  (∀ (m : Nat) (e : Int), 0 < m →
    (enclRcp m e).scale = -e - Nat.log2 m ∧ (enclRcp m e).lo * m ≤ 2 ^ 128 * 2 ^ Nat.log2 m ∧ 2 ^ 128 * 2 ^ Nat.log2 m ≤ (enclRcp m e).hi * m ∧
    (let m' : Int := if e % 2 = 0 then m else 2 * m
     let k := Nat.log2 m'.toNat / 2
     (enclRsq m e).scale = -((e - e % 2) / 2) - k ∧
     (enclRsq m e).lo ^ 2 * m' ≤ 2 ^ 256 * 2 ^ (2 * k) ∧ 2 ^ 256 * 2 ^ (2 * k) ≤ (enclRsq m e).hi ^ 2 * m')))

/-- A value that a format holds is rounded to itself in every mode (R82, R87, R96), for binary32, binary16, the upper half of
a binary32, and the tapered formats T8 and T6.
A NaN operand gives the canonical NaN of the format (R83), and the rounded result of any mode lies on the side of the value
that the mode names (R87): never above the value towards −∞, never below it towards +∞. -/
def Obligations.Rounding : Prop :=
  ((∀ f ∈ [fp32, fp16, bf16], ∀ (rm : Rm) (x : Nat), x < 2 * f.signBit → f.dec x ≠ .nan → f.rnd rm (f.dec x) = x) ∧
  (∀ (n : Nat) (rm : Rm) (x : Nat), n = 7 ∨ n = 5 → x < 2 ^ (n + 1) → taperRnd n rm (taperDec n x) = x)) ∧
  ((∀ (x : Machine.Num) (rm : Rm), Machine.Num.nan.add rm x = .nan ∧ x.add rm .nan = .nan ∧ Machine.Num.nan.mul x = .nan ∧ x.mul .nan = .nan) ∧
  (∀ rm, fp32.rnd rm .nan = 0x7FC00000 ∧ fp16.rnd rm .nan = 0x7E00 ∧ bf16.rnd rm .nan = 0x7FC0) ∧
  (∀ (neg : Bool) (m : Nat) (e s : Int), s ≤ e → ∀ rm, roundAt rm neg m e s = m * 2 ^ (e - s).toNat) ∧
  (∀ (m d : Nat), let down := roundAt .rz false m 0 d
    down * 2 ^ d ≤ m ∧ m < (down + 1) * 2 ^ d ∧ roundAt .rdn false m 0 d = down ∧ roundAt .rup true m 0 d = down ∧
    roundAt .rup false m 0 d = (if m % 2 ^ d = 0 then down else down + 1) ∧
    roundAt .rdn true m 0 d = (if m % 2 ^ d = 0 then down else down + 1)))

/-! ## Control flow of lanes and groups -/

/-- BRA and JMPI (R175): each lane whose guard is true goes to its target, the branch target being the address of the first word
plus 4 times the sign-extended body, every other lane to the next instruction; nothing but PC, PROG and the count of instructions
changes.
YIELD (R179): a lane whose guard is true goes on to the next instruction and waits until its quadrant has made 64 more issues;
the others pass through. YIELD_RELEASE ends the wait when the issues are made or no group of the quadrant that may issue has a
ready thread of another entry (another group, PC, PROG or CSP) than the thread's own, and not otherwise.
Where a clause rests on a choice of the model and not on the spec, it is that of log entry 72. -/
def Obligations.LaneBranchesAndYield : Prop :=
  (∀ (s : State) (g : BitVec 4) (off : BitVec 21) (a : BitVec 7),
    let go (target : Lane → Word) (l : Lane) : Thread :=
      { l.t with pc := if l.guard g then target l else s.issue.next, prog := 0, tinsn := l.t.tinsn + 1 }
    LaneForm (.bra g off) s (go fun _ => s.issue.ipc + BitVec.ofInt 32 (4 * off.toInt)) ∧
    LaneForm (.jmpi g a) s (go fun l => l.t.getV a.toNat)) ∧
  ((∀ (s : State) (g : BitVec 4),
    LaneForm (.yield g) s fun l =>
      if l.guard g then
        { s.issue.advance l.t with wait := .yield ((s.picker (s.coreOf l.g) (quadrantOf l.g.slot)).issues + 64) }
      else s.issue.advance l.t) ∧
  (∀ (s : State) (gid ti : Nat) (g : Group) (th : Thread) (limit : Nat),
    s.groups[gid]? = some g → g.threads[ti]? = some th → th.wait = .yield limit →
    let another (hid : Nat) (h : Group) (x : Thread) : Prop := s.groups[hid]? = some h ∧ s.coreOf h = s.coreOf g ∧
      quadrantOf h.slot = quadrantOf g.slot ∧ s.issues h = true ∧ x ∈ h.threads ∧ s.readyThread h x = true ∧
      (hid, x.pc, x.prog, x.csp) ≠ (gid, th.pc, th.prog, th.csp)
    ((limit ≤ (s.picker (s.coreOf g) (quadrantOf g.slot)).issues ∨ ¬ ∃ hid h x, another hid h x) →
      exec (.yieldRelease gid ti) s = .next (s.modThread gid ti fun t => { t with wait := .none, ready := s.tick })) ∧
    (¬ limit ≤ (s.picker (s.coreOf g) (quadrantOf g.slot)).issues →
      (∃ hid h x, another hid h x) →
      exec (.yieldRelease gid ti) s = .next s)))

/-- EXIT (R177): it answers a next state for every state. Every lane whose guard is true ends, its monitor dropped, and where no
thread of its group has arrived at a collective its known results are written; every other lane of the issue goes on to the next
instruction; a group whose last live thread has ended is ENDED; threads outside the issue stay live as they are, and nothing
outside the groups changes.
JOIN (R178): when every live thread of the group stands at the instruction and has arrived, all of them go on together; else
a lane whose guard is true waits there until its clocks have passed, and the others go on. JOIN_TIMEOUT lets a thread whose clocks
have passed move on, and no other.
Where a clause rests on a choice of the model and not on the spec, it is that of log entry 13. -/
def Obligations.ExitAndJoin : Prop :=
  (∀ (s : State) (g : BitVec 4), ∃ t, exec (.exitT g) s = .next t ∧ { t with groups := s.groups } = s ∧
    t.groups.length = s.groups.length ∧
    ∀ (gid : Nat) (x : Group), s.groups[gid]? = some x → ∃ y : Group, t.groups[gid]? = some y ∧
      y.threads.length = x.threads.length ∧ y.width = x.width ∧ y.vregs = x.vregs ∧
      (∀ (ti : Nat) (th : Thread), x.threads[ti]? = some th → ∃ th' : Thread, y.threads[ti]? = some th' ∧
        (((gid, ti) ∈ s.issue.lanes ∧ Lane.guard { g := x, ti := ti, t := th } g) → th'.live = false ∧ th'.monitor = none ∧
          ((∀ r ∈ x.threads, r.coll = none) → th' = { th.completeAll with live := false, monitor := none, wait := .none, going := none })) ∧
        (¬ ((gid, ti) ∈ s.issue.lanes ∧ Lane.guard { g := x, ti := ti, t := th } g) → th'.live = th.live ∧ th'.monitor = th.monitor) ∧
        ((gid, ti) ∈ s.issue.lanes → Lane.guard { g := x, ti := ti, t := th } g = false → th'.pc = (s.issue.advance th).pc)) ∧
      ((∃ ti, (gid, ti) ∈ s.issue.lanes) → y.liveLanes = [] → y.gst = .ended)) ∧
  ((∀ (s : State) (g : BitVec 4) (n : BitVec 16) (gid : Nat) (x : Group), s.groups[gid]? = some x → s.issue.lanes ≠ [] →
    (∀ l ∈ s.issue.lanes, l.1 = gid) → (∀ ti th, (gid, ti) ∈ s.issue.lanes → x.threads[ti]? = some th → th.live ∧ th.pc = s.issue.pc) →
    let arrived (ti : Nat) (th : Thread) : Bool := decide ((gid, ti) ∈ s.issue.lanes) || th.joining
    let all : Prop := ∀ ti th, x.threads[ti]? = some th → th.live → th.pc = s.issue.pc ∧ arrived ti th
    let on (ti : Nat) (th : Thread) : Bool := decide ((gid, ti) ∈ s.issue.lanes) && Lane.guard { g := x, ti := ti, t := th } g
    ∃ t, exec (.join g n) s = .next t ∧ { t with groups := s.groups } = s ∧ (∀ j, j ≠ gid → t.groups[j]? = s.groups[j]?) ∧
      ∀ ti th, x.threads[ti]? = some th →
        (th.live = false ∨ th.pc ≠ s.issue.pc → t.thread? gid ti = some th) ∧
        (th.live = true → th.pc = s.issue.pc → all →
          t.thread? gid ti = some (s.issue.advance (if on ti th || th.joining then { th with wait := .none } else th))) ∧
        (th.live = true → th.pc = s.issue.pc → ¬ all → t.thread? gid ti = some (
          if th.joining then th else if on ti th then { th with wait := .join (s.tick + 10 * n.toNat) }
          else if (gid, ti) ∈ s.issue.lanes then s.issue.advance th else th))) ∧
  (∀ (s : State) (gid ti : Nat) (th : Thread) (limit : Nat), s.thread? gid ti = some th → th.wait = .join limit →
    exec (.joinTimeout gid ti) s = .next (if limit ≤ s.tick
      then s.modThread gid ti fun t => { t with wait := .none, pc := t.pc + 8, prog := 0, tinsn := t.tinsn + 1 } else s)))

/-- GROW and SHRINK (R180, R181). The last live thread to arrive makes the group's request: a GROW waits with the clock after this
one and the registers that it asks for. A request whose clock has come, with no older request on the core and room in the register
file, is granted: the ceiling rises by 8n, the new registers read 0, the others keep their values, and every live thread goes on.
SHRINK is granted at once where every incomplete result is known: these are written, and the highest 8n registers are gone. A
ceiling above 128 or VRU, or below 8, raises REG_CEILING in every live thread. Nothing outside the group changes in a grant. -/
def Obligations.GrowAndShrink : Prop :=
  ∀ (s : State) (g n : BitVec 4) (gid : Nat) (x : Group), s.groups[gid]? = some x → s.issue.lanes ≠ [] →
    (∀ l ∈ s.issue.lanes, l.1 = gid) → x.liveLanes ≠ [] → n ≠ 0 →
    (∀ l ∈ s.issue.lanes, ∀ th, x.threads[l.2]? = some th → th.live) →
    (∀ ti th, x.threads[ti]? = some th → th.live = true → (gid, ti) ∈ s.issue.lanes ∧ th.pc = s.issue.pc) →
    let vru := ((s.kernelOf x.bid).map (·.vru)).getD 0
    let more := x.vregs + 8 * n.toNat
    let fewer := x.vregs - 8 * n.toNat
    let waits (w : Wait) : Prop := ∀ (ti : Nat) (th : Thread), x.threads[ti]? = some th → th.live = true → th.wait = w
    let fits : Prop := more ≤ 128 ∧ 4 * more * x.width ≤ vru * 65536
    let on (th : Thread) : Thread := { th with wait := .none, pc := s.issue.next, prog := 0, tinsn := th.tinsn + 1 }
    let after (i : Instr) (c : Nat) (f : Thread → Thread) : Prop := ∃ (t : State) (y : Group), exec i s = .next t ∧ { t with groups := s.groups } = s ∧
      (∀ j, j ≠ gid → t.groups[j]? = s.groups[j]?) ∧ t.groups[gid]? = some y ∧ y.vregs = c ∧
      ∀ (ti : Nat) (th : Thread), x.threads[ti]? = some th → th.live = true → y.threads[ti]? = some (f th)
    let ceiling (i : Instr) : Prop := ∃ t, exec i s = .next t ∧ ∀ (ti : Nat) (th : Thread), x.threads[ti]? = some th → th.live = true →
      ∃ th' : Thread, t.thread? gid ti = some th' ∧ th'.pc = th.pc ∧ th'.v = th.v ∧ th'.standing.map (·.cause) = some Cause.regCeiling.code
    (waits .none → fits → after (.grow g n) x.vregs fun th => { th with wait := .resize (some (s.tick + 1)) (8 * n.toNat) }) ∧
    (∀ k, waits (.resize (some k) (8 * n.toNat)) → fits → k ≤ s.tick → s.olderRequest (s.coreOf x) (k * 192 + x.slot) = false →
      s.fileUsed (s.coreOf x) + 4 * (8 * n.toNat) * x.width ≤ vru * 65536 →
      after (.grow g n) more fun th => { on th with v := th.v ++ List.replicate (8 * n.toNat) 0 }) ∧
    (8 * n.toNat + 8 ≤ x.vregs → (∀ th ∈ x.threads, ∀ p ∈ th.pend, p.known = true) →
      after (.shrink g n) fewer fun th => { on th.completeAll with v := th.completeAll.v.take fewer }) ∧
    (¬ fits → ceiling (.grow g n)) ∧ (x.vregs < 8 * n.toNat + 8 → ceiling (.shrink g n))

/-- Calls and returns of lanes (R175), the lanes of the issue one after another from the lowest: with the guard true CALL and CALLI
push the address of the next instruction and go to the target, RET goes to the popped address; when the push or the pop traps, the
lane is trapped at the instruction and does not move, and when it waits for a page, the lane waits there. A lane whose guard is false
goes on.
The call stack (R164, R175, R379): a push below CSP 4 and a pop above the slice raise STACK_LIMIT with the address of the slot
and change nothing; a push
that passes the checks stores the address at offset THRIX × slice + CSP − 4 of G15 and lowers CSP by 4; a pop raises CSP by 4 and
ends the handler when CSP reaches the depth at which it was entered.
Where a clause rests on a choice of the model and not on the spec, it is that of log entry 26. -/
def Obligations.LaneCallsAndReturns : Prop :=
  ((∀ (s : State) (g : BitVec 4) (off : BitVec 21) (a : BitVec 7),
    let land (u : State) (l : Nat × Nat) (pc : Word) : State := u.modThread l.1 l.2 fun t => { t with pc := pc, prog := 0, tinsn := t.tinsn + 1, wait := .none }
    let each (f : Lane → State → Nat × Nat → State) (u : State) (l : Nat × Nat) : State :=
      match u.groups[l.1]?, u.thread? l.1 l.2 with
      | some x, some th =>
        let n : Lane := { g := x, ti := l.2, t := th }
        if n.guard g then f n u l else u.modThread l.1 l.2 u.issue.advance
      | _, _ => u
    let out (r : State × StackRes) (l : Nat × Nat) (go : State → Word → State) : State :=
      match r with
      | (w, .ok v) => go w v
      | (w, .trap c va) => w.trapLane l.1 l.2 c va
      | (w, .wait) => w.modThread l.1 l.2 fun t => { t with wait := .lane false }
      | (w, .poison) => w
    let call (aim : Lane → Word) := each fun n u l => out (u.push l.1 l.2 u.issue.next) l fun w _ => land w l (aim n)
    exec (.call g off) s = .next (s.issue.lanes.foldl (call fun _ => s.issue.ipc + BitVec.ofInt 32 (4 * off.toInt)) s) ∧
    exec (.calli g a) s = .next (s.issue.lanes.foldl (call fun n => n.t.getV a.toNat) s) ∧
    exec (.ret g) s = .next (s.issue.lanes.foldl (each fun _ u l => out (u.pop l.1 l.2) l fun w v => land w l v) s)) ∧
  ∀ (s : State) (g : BitVec 4) (off : BitVec 21) (a : BitVec 7) (gid ti : Nat) (x : Group) (th : Thread),
    s.issue.lanes = [(gid, ti)] → s.groups[gid]? = some x → x.threads[ti]? = some th →
    let l : Lane := { g := x, ti := ti, t := th }
    let target : Word := s.issue.ipc + BitVec.ofInt 32 (4 * off.toInt)
    let land (u : State) (pc : Word) : State := u.modThread gid ti fun t => { t with pc := pc, prog := 0, tinsn := t.tinsn + 1, wait := .none }
    (l.guard g = true → ∀ u v, s.push gid ti s.issue.next = (u, .ok v) →
      exec (.call g off) s = .next (land u target) ∧ exec (.calli g a) s = .next (land u (th.getV a.toNat))) ∧
    (l.guard g = true → ∀ u c va, s.push gid ti s.issue.next = (u, .trap c va) →
      exec (.call g off) s = .next (u.trapLane gid ti c va) ∧ exec (.calli g a) s = .next (u.trapLane gid ti c va)) ∧
    (l.guard g = true → ∀ u v, s.pop gid ti = (u, .ok v) → exec (.ret g) s = .next (land u v)) ∧
    (l.guard g = true → ∀ u c va, s.pop gid ti = (u, .trap c va) → exec (.ret g) s = .next (u.trapLane gid ti c va)) ∧
    (l.guard g = false → ∀ i ∈ [Instr.call g off, .calli g a, .ret g],
      exec i s = .next (s.modThread gid ti s.issue.advance))) ∧
  (∀ (s : State) (gid ti : Nat) (x : Group) (th : Thread) (v : Word), s.groups[gid]? = some x → x.threads[ti]? = some th →
    let a := s.accOf (.group gid)
    let g15 := x.u.getG 15
    let slice := s.sliceSize x
    let va (o : Nat) : Nat := g15.base + (x.thrix ti * slice + o)
    (th.csp < 4 → s.push gid ti v =
      (s, .trap .stackLimit (((g15.base : Int) + ((x.thrix ti * slice + th.csp : Nat) - 4)) % 2 ^ 64).toNat)) ∧
    (slice < th.csp + 4 → s.pop gid ti =
      (s, .trap .stackLimit (((g15.base : Int) + (x.thrix ti * slice + th.csp : Nat)) % 2 ^ 64).toNat)) ∧
    (4 ≤ th.csp → grantCheck a g15 g15.wr (x.thrix ti * slice + (th.csp - 4) : Nat) 4 = none → va (th.csp - 4) % 4 = 0 →
      ∀ u pa e, s.look a .write (va (th.csp - 4)) = (u, .ok pa e) →
        s.push gid ti v = ((u.writePa (u.accOf (.group gid)) e pa 0 (leBytes 4 v.toNat)).modThread gid ti
          fun t => { t with csp := t.csp - 4 }, .ok v)) ∧
    (th.csp + 4 ≤ slice → grantCheck a g15 g15.rd (x.thrix ti * slice + th.csp : Nat) 4 = none → va th.csp % 4 = 0 →
      ∀ u pa e, s.lookRead a .read (va th.csp) 4 false (some x.bid) = (u, .ok pa e) → ∃ w b,
        u.readPa (u.accOf (.group gid)) e pa 4 0 false (some x.bid) = (w, b) ∧
        s.pop gid ti = (w.modThread gid ti fun t => { t with csp := t.csp + 4, hcsp := t.hcsp.filter fun h => decide (t.csp + 4 < h) },
          .ok (BitVec.ofNat 32 (leNat b)))) ∧
    (∀ u c va', s.look a .write (va (th.csp - 4)) = (u, .fault c) → 4 ≤ th.csp →
      grantCheck a g15 g15.wr (x.thrix ti * slice + (th.csp - 4) : Nat) 4 = none → va (th.csp - 4) % 4 = 0 → va' = va (th.csp - 4) →
      s.push gid ti v = (u, .trap c va')))

/-- Uniform control flow (R182 to R184): with the guard true UBRA and UJMPI send every participant, or the stream, to the target,
and else to the next instruction; on a stream UCALL pushes the next address onto its return stack of 32 entries and URET pops it,
a full or an empty stack raising STACK_LIMIT; UEXIT ends every live thread of the group, or the stream once no tile operation of
its own is open.
Uniform calls and returns of a group (R182): with the guard true every participant acts as in CALL and RET, one after another;
with one participant it is the call and the return of that lane.
Where a clause rests on a choice of the model and not on the spec, it is that of log entry 26. -/
def Obligations.UniformControl : Prop :=
  ((∀ (s : State) (g : BitVec 4) (off : BitVec 21) (a : BitVec 8) (u : UFile), s.ufile s.issue.who = some u →
    let target : Word := s.issue.ipc + BitVec.ofInt 32 (4 * off.toInt)
    exec (.ubra g off) s = .next (s.gotoU (if u.guard g then target else s.issue.next)) ∧
    exec (.ujmpi g a) s = .next (s.gotoU (if u.guard g then u.getS a.toNat else s.issue.next)) ∧
    (u.guard g = false → ∀ i ∈ [Instr.ucall g off, .uret g, .uexit g], exec i s = .next (s.gotoU s.issue.next))) ∧
  (∀ (s : State) (pc : Word), ((∃ k, s.issue.who = .group k) → OnlyLanes s (s.gotoU pc) fun l =>
      { l.t with pc := pc, prog := 0, tinsn := l.t.tinsn + 1 }) ∧
    (∀ sid, s.issue.who = .stream sid → s.gotoU pc = s.modStream sid fun x => { x with pc := pc })) ∧
  (∀ (s : State) (g : BitVec 4) (off : BitVec 21) (sid : Nat) (x : Stream), s.issue.who = .stream sid → s.streams[sid]? = some x →
    x.u.guard g = true →
    (x.rstack.length < 32 → exec (.ucall g off) s = .next (s.modStream sid fun y =>
      { y with rstack := s.issue.next :: y.rstack, pc := s.issue.ipc + BitVec.ofInt 32 (4 * off.toInt) })) ∧
    (32 ≤ x.rstack.length → exec (.ucall g off) s = .next (s.standStream sid .stackLimit false 0)) ∧
    (x.rstack = [] → exec (.uret g) s = .next (s.standStream sid .stackLimit false 0)) ∧
    (∀ p r, x.rstack = p :: r → exec (.uret g) s = .next (s.modStream sid fun y =>
      { y with rstack := r, pc := p, hcsp := y.hcsp.filter fun h => decide (h < r.length) })) ∧
    ((∀ o ∈ s.tileOps, o.sid = sid → o.open' = false) → ∃ t y, exec (.uexit g) s = .next t ∧ t.streams[sid]? = some y ∧
      y.sst = .ended ∧ { t with streams := s.streams, ctxs := s.ctxs } = s ∧ (∀ c, c ≠ s.ctxOfKernel x.kid → t.ctx c = s.ctx c) ∧
      { t.ctx (s.ctxOfKernel x.kid) with st := (s.ctx (s.ctxOfKernel x.kid)).st } = s.ctx (s.ctxOfKernel x.kid))) ∧
  (∀ (s : State) (g : BitVec 4) (gid : Nat) (x : Group), s.issue.who = .group gid → s.groups[gid]? = some x → x.u.guard g = true →
    ∃ t y, exec (.uexit g) s = .next t ∧ { t with groups := s.groups, ctxs := s.ctxs, gates := s.gates } = s ∧ t.groups[gid]? = some y ∧ y.gst = .ended ∧ y.liveLanes = [])) ∧
  ((∀ (s : State) (g : BitVec 4) (off : BitVec 21) (k : Nat) (x : Group), s.issue.who = .group k → s.groups[k]? = some x →
    x.u.guard g = true →
    let out (r : State × StackRes) (l : Nat × Nat) (aim : Word → Word) : State :=
      match r with
      | (w, .ok v) => w.modThread l.1 l.2 fun t => { t with pc := aim v, prog := 0, tinsn := t.tinsn + 1, wait := .none }
      | (w, .trap c va) => w.trapLane l.1 l.2 c va
      | (w, .wait) => w.modThread l.1 l.2 fun t => { t with wait := .lane false }
      | (w, .poison) => w
    let each (f : State → Nat × Nat → State) (u : State) (l : Nat × Nat) : State :=
      if (u.groups[l.1]?.bind fun y => y.threads[l.2]?).isSome then f u l else u
    exec (.ucall g off) s = .next (s.issue.lanes.foldl (each fun u l =>
      out (u.push l.1 l.2 u.issue.next) l fun _ => s.issue.ipc + BitVec.ofInt 32 (4 * off.toInt)) s) ∧
    exec (.uret g) s = .next (s.issue.lanes.foldl (each fun u l => out (u.pop l.1 l.2) l id) s)) ∧
  ∀ (s : State) (g : BitVec 4) (off : BitVec 21) (gid ti : Nat) (x : Group) (th : Thread),
    s.issue.who = .group gid → s.issue.lanes = [(gid, ti)] → s.groups[gid]? = some x → x.threads[ti]? = some th →
    x.u.guard g = true →
    let land (u : State) (pc : Word) : State := u.modThread gid ti fun t => { t with pc := pc, prog := 0, tinsn := t.tinsn + 1, wait := .none }
    (∀ u v, s.push gid ti s.issue.next = (u, .ok v) →
      exec (.ucall g off) s = .next (land u (s.issue.ipc + BitVec.ofInt 32 (4 * off.toInt)))) ∧
    (∀ u v, s.pop gid ti = (u, .ok v) → exec (.uret g) s = .next (land u v)))

/-- Monitors (R188, R189): MWAIT of a thread whose monitor is unarmed, written or lost goes on, the monitor dropped and the
predicate cleared in the form with p; a thread whose monitor still stands waits, for the given number of microseconds or, for 0,
without a limit. MWAIT_TIMEOUT ends the wait of a thread whose time has passed and whose monitor still stands: with p the predicate
is set and the thread goes on, else the cause MWAIT_TIMEOUT is raised; before that time, and with the monitor written or lost, it
changes nothing.
Where a clause rests on a choice of the model and not on the spec, it is that of log entry 14. -/
def Obligations.MonitorWaits : Prop :=
  (∀ (s : State) (g : BitVec 4) (b : BitVec 8) (pd : BitVec 3) (p : BitVec 1),
    LaneForm (.mwait g b pd p) s fun l =>
      if l.guard g = false then s.issue.advance l.t
      else if (l.t.monitor.all fun m => m.written || m.lost) then
        s.issue.advance (let t := { l.t with monitor := none, wait := .none }
          if p = 1 then t.putP pd.toNat false else t)
      else { l.t with wait := match l.t.wait with
        | .mwait x y z w => .mwait x y z w
        | _ => .mwait (if l.sel b .int = 0 then none else some (s.clockOn (s.accOf s.issue.who).die + (l.sel b .int).toNat * 1000)) (p == 1) pd.toNat (l.sel b .int).toNat }) ∧
  (∀ (s : State) (gid ti : Nat) (th : Thread) (limit pd us : Nat) (p : Bool), s.thread? gid ti = some th →
    th.wait = .mwait (some limit) p pd us →
    let stands : Prop := ∃ m : Monitor, th.monitor = some m ∧ m.written = false ∧ m.lost = false
    let now : Nat := s.clockOn (s.accOf (.group gid)).die
    (now < limit ∨ ¬ stands → exec (.mwaitTimeout gid ti) s = .next s) ∧
    (limit ≤ now → stands → p = true → exec (.mwaitTimeout gid ti) s = .next (s.modThread gid ti fun t =>
      { ({ t with monitor := none, wait := .none }.putP pd true) with pc := t.pc + 8, prog := 0, tinsn := t.tinsn + 1 })) ∧
    (limit ≤ now → stands → p = false → exec (.mwaitTimeout gid ti) s = .next (s.userTrap gid ti .mwaitTimeout us (th.pc + 8))))

/-! ## Collectives -/

/-- The collectives (R185 to R187) of a group that stands together: every live lane issues it with a true guard, no window open,
no earlier arrival and every live lane in the mask. The exchange forms at once, each lane gets the result over all live lanes as members, and
nothing else changes: SHFL the value of the lane that it names, or C; VOTE all, any or all equal; BALLOT and MATCH a mask over
one or, for width 64, two registers; REDUX C combined with the value of every member, SCANX with those of the members up to or
before the lane.
A collective with any window la, any member mask, in a diverged group and with guards of either value (R185, R186): a lane whose
guard is true and that has no earlier arrival arrives with its operands and its mask, S[sm] or all ones cut to the width, and goes on
with one more incomplete, unknown result; a lane with an earlier arrival stays; a lane whose guard is false goes on. Then the exchange
at the PC forms where it can, as COLLECTIVE_EXCHANGE forms it (LargestExchange).
The exchange at a PC (R186) is formed by the largest set of arrived threads that holds the named set of each of its own:
COLLECTIVE_EXCHANGE completes exactly those, and leaves every other thread and all else as it is. The result of a thread (R187) is
taken over the members that its own mask names, in lane order: it is written at once where the window of the instruction is used up,
else it stays incomplete and known, but for the registers that a later instruction has taken from it.
Where a clause rests on a choice of the model and not on the spec, it is that of log entry 89. -/
def Obligations.Collectives : Prop :=
  (∀ (s : State) (g : BitVec 4) (gid : Nat) (x : Group) (d a : BitVec 7) (b c : BitVec 8) (op : BitVec 2) (rop : BitVec 3)
    (all pneg ex : BitVec 1) (sm : BitVec 8) (pd p : BitVec 3),
    s.issue.who = .group gid → s.groups[gid]? = some x → x.threads.length = x.width → x.width ≤ 64 →
    (∀ l ∈ s.issue.lanes, l.1 = gid) →
    (∀ ti th, x.threads[ti]? = some th → (th.live = true ↔ (gid, ti) ∈ s.issue.lanes)) →
    (∀ ti th, x.threads[ti]? = some th → th.live = true →
      th.launched = true ∧ th.pend = [] ∧ Lane.guard { g := x, ti := ti, t := th } g = true) → (∀ th ∈ x.threads, th.coll = none) →
    (all = 1 ∨ ∀ u ∈ x.liveLanes, (if x.width = 64 then x.u.getS2 sm.toNat else (x.u.getS sm.toNat).setWidth 64).getLsbD u = true) →
    let A (u : Nat) : Word := ((x.threads[u]?).map fun t => t.getV a.toNat).getD 0
    let C (l : Lane) : Word := l.sel c .int
    let P (u : Nat) : Bool := ((x.threads[u]?).map fun t => t.getP p.toNat ^^ (pneg == 1)).getD false
    let f (v w : Word) : Word :=
      if rop = 0 then v + w
      else if rop = 1 then (if v.toInt ≤ w.toInt then v else w) else if rop = 2 then (if v.toInt ≤ w.toInt then w else v)
      else if rop = 3 then (if v.toNat ≤ w.toNat then v else w) else if rop = 4 then (if v.toNat ≤ w.toNat then w else v)
      else if rop = 5 then v &&& w else if rop = 6 then v ||| w else v ^^^ w
    let mask (m : BitVec 64) (l : Lane) : Thread :=
      if x.width = 64 then l.t.putV2 d.toNat m else l.t.putV d.toNat (m.setWidth 32)
    let form (i : Instr) (r : Lane → Thread) : Prop := LaneForm i s fun l => s.issue.advance (r l)
    form (.shfl g 0 d a b c op all sm) (fun l =>
      let B : Int := (l.sel b .int).toInt
      let j : Int := if op = 0 then B else if op = 1 then l.ti - B else if op = 2 then l.ti + B
        else (BitVec.ofNat 32 l.ti ^^^ l.sel b .int).toInt
      l.t.putV d.toNat (if 0 ≤ j ∧ j.toNat ∈ x.liveLanes then A j.toNat else C l)) ∧
    form (.vote g 0 pd pneg p op all sm) (fun l => l.t.putP pd.toNat
      (if op = 0 then decide (∀ u ∈ x.liveLanes, P u = true) else if op = 1 then decide (∃ u ∈ x.liveLanes, P u = true)
        else decide (∀ u ∈ x.liveLanes, ∀ v ∈ x.liveLanes, P u = P v))) ∧
    (∃ m : BitVec 64, (∀ u, m.getLsbD u = (decide (u ∈ x.liveLanes) && P u)) ∧ form (.ballot g 0 d pneg p all sm) (mask m)) ∧
    (∃ m : Nat → BitVec 64, (∀ t u, (m t).getLsbD u = (decide (u ∈ x.liveLanes) && A u == A t)) ∧
      form (.matchv g 0 d a all sm) fun l => mask (m l.ti) l) ∧
    form (.redux g 0 d a c rop all sm) (fun l => l.t.putV d.toNat ((x.liveLanes.map A).foldl f (C l))) ∧
    form (.scanx g 0 d a c ex rop all sm) (fun l => l.t.putV d.toNat
      (((x.liveLanes.filter fun u => decide (u < l.ti) || (u == l.ti && ex == 0)).map A).foldl f (C l)))) ∧
  (∀ (s : State) (g la : BitVec 4) (gid : Nat) (d a : BitVec 7) (b c : BitVec 8) (op : BitVec 2) (rop : BitVec 3)
    (all pneg ex : BitVec 1) (sm : BitVec 8) (pd p : BitVec 3),
    s.issue.who = .group gid → (∀ l ∈ s.issue.lanes, l.1 = gid) →
    let mask (l : Lane) : Nat := (if all = 1 then 2 ^ 64 - 1 else if l.g.width = 64 then (l.g.u.getS2 sm.toNat).toNat
      else (l.g.u.getS sm.toNat).toNat) % 2 ^ l.g.width
    let arrives (i : Instr) (v sel fill : Lane → Word) (rs : Lane → List Nat) (ps : List Nat) : Prop := ∃ w : State,
      OnlyLanes s w (fun l => if l.guard g = false then s.issue.advance l.t else if l.t.coll.isSome then l.t
        else s.issue.advance { l.t with
          coll := some { pc := s.issue.ipc, ins := i, val := v l, sel := sel l, fill := fill l, mask := mask l },
          pend := l.t.pend ++ [{ left := la.toNat, known := false, regs := (rs l).map fun r => (r, 0), preds := ps.map fun q => (q, false) }] }) ∧
      exec i s = exec (.collectiveExchange gid s.issue.ipc) w
    let A (l : Lane) : Word := l.t.getV a.toNat
    let P (l : Lane) : Word := if l.t.getP p.toNat ^^ (pneg == 1) then 1 else 0
    let none (_ : Lane) : Word := 0
    let one (_ : Lane) : List Nat := [d.toNat]
    let wide (l : Lane) : List Nat := if l.g.width = 64 then [d.toNat, d.toNat + 1] else [d.toNat]
    arrives (.shfl g la d a b c op all sm) A (fun l => l.sel b .int) (fun l => l.sel c .int) one [] ∧
    arrives (.vote g la pd pneg p op all sm) P none none (fun _ => []) [pd.toNat] ∧
    arrives (.ballot g la d pneg p all sm) P none none wide [] ∧ arrives (.matchv g la d a all sm) A none none wide [] ∧
    arrives (.redux g la d a c rop all sm) A none (fun l => l.sel c .int) one [] ∧
    arrives (.scanx g la d a c ex rop all sm) A none (fun l => l.sel c .int) one []) ∧
  (∀ (s : State) (gid : Nat) (pc : Word) (x : Group), s.groups[gid]? = some x →
    let coll (t : Nat) : Option CollArr := (x.threads[t]?).bind (·.coll)
    let mem (t : Nat) : List Nat := (List.range x.threads.length).filter fun u => u == t ||
      ((coll t).any fun c => c.mask.testBit u) && (x.threads[u]?).any fun v => v.launched && v.live
    let closed (X : Nat → Prop) : Prop := ∀ t, X t → (∃ c, coll t = some c ∧ c.pc = pc) ∧ ∀ u ∈ mem t, X u
    let val (u : Nat) : Word := ((coll u).map (·.val)).getD 0
    let f (op : BitVec 3) (v w : Word) : Word :=
      if op = 0 then v + w
      else if op = 1 then (if v.toInt ≤ w.toInt then v else w) else if op = 2 then (if v.toInt ≤ w.toInt then w else v)
      else if op = 3 then (if v.toNat ≤ w.toNat then v else w) else if op = 4 then (if v.toNat ≤ w.toNat then w else v)
      else if op = 5 then v &&& w else if op = 6 then v ||| w else v ^^^ w
    let mask (d : BitVec 7) (m : List Nat) : List (Nat × Word) :=
      let n := (m.map fun u => 2 ^ u).sum
      if x.width = 64 then [(d.toNat, BitVec.ofNat 32 n), (d.toNat + 1, BitVec.ofNat 32 (n / 2 ^ 32))] else [(d.toNat, BitVec.ofNat 32 n)]
    let result (t : Nat) (c : CollArr) : List (Nat × Word) × List (Nat × Bool) := match c.ins with
      | .shfl _ _ d _ _ _ op _ _ =>
        let j : Int := if op = 0 then c.sel.toInt else if op = 1 then t - c.sel.toInt else if op = 2 then t + c.sel.toInt
          else (BitVec.ofNat 32 t ^^^ c.sel).toInt
        ([(d.toNat, if 0 ≤ j ∧ j.toNat ∈ mem t then val j.toNat else c.fill)], [])
      | .vote _ _ pd _ _ op _ _ => ([], [(pd.toNat, if op = 0 then decide (∀ u ∈ mem t, val u = 1)
          else if op = 1 then decide (∃ u ∈ mem t, val u = 1) else decide (∀ u ∈ mem t, ∀ v ∈ mem t, (val u = 1 ↔ val v = 1)))])
      | .ballot _ _ d _ _ _ _ => (mask d ((mem t).filter fun u => val u == 1), [])
      | .matchv _ _ d _ _ _ => (mask d ((mem t).filter fun u => val u == val t), [])
      | .redux _ _ d _ _ op _ _ => ([(d.toNat, ((mem t).map val).foldl (f op) c.fill)], [])
      | .scanx _ _ d _ _ e op _ _ =>
        ([(d.toNat, (((mem t).filter fun u => decide (u < t) || (u == t && e == 0)).map val).foldl (f op) c.fill)], [])
      | _ => ([], [])
    ∃ (t : State) (X : Nat → Prop) (y : Group), exec (.collectiveExchange gid pc) s = .next t ∧ { t with groups := s.groups } = s ∧
      t.groups[gid]? = some y ∧ y.threads.length = x.threads.length ∧ closed X ∧ (∀ Y, closed Y → ∀ u, Y u → X u) ∧
      (∀ h, h ≠ gid → t.groups[h]? = s.groups[h]?) ∧
      ∀ (u : Nat) (th : Thread), x.threads[u]? = some th → ∃ th' : Thread, y.threads[u]? = some th' ∧
        (X u → th'.coll = none ∧ th'.pc = th.pc ∧ ∀ p ∈ th'.pend, p.known = true) ∧ (¬ X u → th' = th) ∧
        (∀ c q p, X u → th.coll = some c → th.live = true → th.pend = q ++ [p] → p.known = false →
          (∀ r ∈ q, r.known = true ∧ 0 < r.left) →
          let p' : Pend := { p with known := true, regs := (result u c).1.filter fun r => p.regs.any fun w => w.1 == r.1,
                                    preds := (result u c).2.filter fun r => p.preds.any fun w => w.1 == r.1 }
          (0 < p.left → th' = { th with coll := none, pend := q ++ [p'] }) ∧
          (p.left = 0 → q = [] → th' = { th with coll := none, pend := [] }.complete1 p')))

/-! ## Traps of instructions, counters and special registers -/

/-- Taking a class U cause (R376, R378), with one lane in the issue and no incomplete instruction: TRAP and UTRAP under a true guard. With a handler,
outside of it and with the push done, the thread is in its handler: CSP as it was is saved as hcsp, the trap record holds the
cause, the PC of the instruction, the immediate and PROG, and the PC is UVEC with PROG 0. Without a handler, or inside one, the
cause stands at the instruction and the context halts. BKPT with BKEN 1 raises BREAKPOINT, of class H; with BKEN 0 it does
nothing; a lane whose guard is false goes on.
A cadence stream takes UTRAP through the same UVEC (R380): the next address is pushed onto its return stack, whose depth is
kept as the handler's; a full stack raises STACK_LIMIT with value 0, and no handler, or a trap inside one, leaves the cause standing.
Where a clause rests on a choice of the model and not on the spec, it is that of log entry 26. -/
def Obligations.Traps : Prop :=
  (∀ (s : State) (g : BitVec 4) (imm : BitVec 16) (gid ti : Nat) (x : Group) (th : Thread),
    s.issue.who = .group gid → s.issue.lanes = [(gid, ti)] → s.groups[gid]? = some x → x.threads[ti]? = some th →
    th.pend = [] → x.u.pend = [] →
    let c := s.ctx (s.ctxOf (.group gid))
    let l : Lane := { g := x, ti := ti, t := th }
    let enter (u : State) : State := u.modThread gid ti fun t =>
      { t with hcsp := some th.csp, trap := { cause := 0x14, pc := th.pc, val := imm.setWidth 64, prog := th.prog },
               wait := .none, pc := c.uvec, prog := 0, tinsn := th.tinsn + 1 }
    let stand (code : BitVec 8) (esc : Bool) : State := (s.modThread gid ti fun t => { t with
      standing := some { cause := code, esc := esc, val := imm.setWidth 64, at_ := s.clock }, wait := .none }).halt (s.ctxOf (.group gid)) .fault
    (l.guard g = true → c.uvec ≠ 0xFFFFFFFF → th.hcsp = none → 4 ≤ th.csp → ∀ u v, s.push gid ti s.issue.next = (u, .ok v) →
      exec (.trap g imm) s = .next (enter u)) ∧
    (x.u.guard g = true → c.uvec ≠ 0xFFFFFFFF → th.hcsp = none → 4 ≤ th.csp → ∀ u v, s.push gid ti s.issue.next = (u, .ok v) →
      exec (.utrap g imm) s = .next (enter u)) ∧
    (l.guard g = true → c.uvec = 0xFFFFFFFF ∨ th.hcsp.isSome = true → exec (.trap g imm) s = .next (stand 0x14 true)) ∧
    (x.u.guard g = true → c.uvec = 0xFFFFFFFF ∨ th.hcsp.isSome = true → exec (.utrap g imm) s = .next (stand 0x14 true)) ∧
    (l.guard g = true → c.bken = true → exec (.bkpt g imm) s = .next (stand 0x15 false)) ∧
    (c.bken = false → exec (.bkpt g imm) s = .next (s.modThread gid ti s.issue.advance)) ∧
    (l.guard g = false → ∀ i ∈ [Instr.trap g imm, .bkpt g imm], exec i s = .next (s.modThread gid ti s.issue.advance))) ∧
  (∀ (s : State) (g : BitVec 4) (imm : BitVec 16) (sid : Nat) (x : Stream), s.issue.who = .stream sid → s.streams[sid]? = some x →
    x.u.guard g = true →
    let uvec := (s.ctx (s.ctxOf (.stream sid))).uvec
    let stand (code : BitVec 8) (val : BitVec 64) : State := (s.modStream sid fun y => { y with
      standing := some { cause := code, esc := true, val := val, at_ := s.clock }, wait := .none }).halt (s.ctxOf (.stream sid)) .fault
    (uvec ≠ 0xFFFFFFFF → x.hcsp = none → x.rstack.length < 32 → ∃ (t : State) (y : Stream), exec (.utrap g imm) s = .next t ∧
      { t with streams := s.streams } = s ∧ t.streams[sid]? = some y ∧ y.pc = uvec ∧ y.rstack = s.issue.next :: x.rstack ∧
      y.hcsp = some x.rstack.length ∧ y.trap = { cause := 0x14, pc := x.pc, val := imm.setWidth 64, prog := 0 }) ∧
    (uvec ≠ 0xFFFFFFFF → x.hcsp = none → 32 ≤ x.rstack.length → exec (.utrap g imm) s = .next (stand 0x16 0)) ∧
    (uvec = 0xFFFFFFFF ∨ x.hcsp.isSome = true → exec (.utrap g imm) s = .next (stand 0x14 (imm.setWidth 64))))

/-- RDCTR (R396): each lane whose guard is true gets the counter of its selector in the pair V[d]:V[d + 1], at once for la 0 and
else when its window ends; nothing else changes.
UMOVS (R120, R121): in a group of block b of kernel k each code reads its special register; on a cadence core the codes of a
core read 0 and CORE reads 4. PROG (0x15) is that of the handler of the first participant, or of the stream, and 0 outside one.
Code 0x16 gives the pair S[d]:S[d + 1]; nothing else changes.
V2S (R140): S[d] receives the register of the thread whose GLANE is S[a] modulo the width, or 0 where that thread was never
launched; with la the write waits for its window.
Where a clause rests on a choice of the model and not on the spec, it is that of log entry 86. -/
def Obligations.CountersAndSpecialRegisters : Prop :=
  (∀ (s : State) (g la : BitVec 4) (d : BitVec 7) (sel : BitVec 8) (gid : Nat), (∀ l ∈ s.issue.lanes, l.1 = gid) →
    let c := s.ctx (s.ctxOf (.group gid))
    let x (t : Thread) : BitVec 64 :=
      let rec' := if t.hcsp.isSome then t.trap else TrapRec.zero
      if sel = 0x00 then BitVec.ofNat 64 (s.tick / 12) else if sel = 0x01 then BitVec.ofNat 64 c.elig
      else if sel = 0x02 then BitVec.ofNat 64 t.tinsn else if sel = 0x03 then BitVec.ofNat 64 t.tpack
      else if sel = 0x80 then rec'.cause.setWidth 64 else if sel = 0x81 then rec'.pc.setWidth 64
      else if sel = 0x82 then rec'.val else if sel = 0x83 then BitVec.ofNat 64 rec'.prog
      else BitVec.ofNat 64 ((c.perf[sel.toNat - 16]?).getD 0)
    let regs (l : Lane) : List (Nat × Word) := [(d.toNat, (x l.t).setWidth 32), (d.toNat + 1, (x l.t).extractLsb' 32 32)]
    LaneForm (.rdctr g la d sel) s (guarded s g fun l =>
      if la = 0 then l.t.putV2 d.toNat (x l.t)
      else { l.t with pend := l.t.pend ++ [{ left := la.toNat, known := true, regs := regs l, preds := [] }] })) ∧
  ((∀ (s : State) (g : BitVec 4) (d : BitVec 8) (gid : Nat) (x : Group) (b : Block) (k : Kernel), s.issue.who = .group gid →
    s.groups[gid]? = some x → s.blocks[x.bid]? = some b → s.kernels[b.kid]? = some k →
    (∀ e ∈ [((0x00 : BitVec 6), k.ctx), (0x01, (s.ctx k.ctx).part), (0x02, b.pos / k.nclu), (0x03, k.ndie), (0x04, b.pos % k.nclu),
        (0x05, k.nclu), (0x06, b.core), (0x07, b.coord % k.nblk 0), (0x08, b.coord / k.nblk 0 % k.nblk 1),
        (0x09, b.coord / (k.nblk 0 * k.nblk 1)), (0x0A, k.nblk 0), (0x0B, k.nblk 1), (0x0C, k.nblk 2), (0x0D, b.stage),
        (0x0E, k.nstage), (0x0F, x.grpix), (0x10, k.ngrp), (0x11, x.width), (0x12, x.vregs), (0x13, b.padsz), (0x14, k.accn)],
      WritesS (.umovs g d e.1) s g d fun _ => BitVec.ofNat 32 e.2) ∧
    UniformForm (.umovs g d 0x16) s (fun u => if u.guard g then u.putS2 d.toNat (BitVec.ofNat 64 (s.tick / 12)) else u) ∧
    (∀ ti th r, s.issue.lanes = (gid, ti) :: r → x.threads[ti]? = some th →
      WritesS (.umovs g d 0x15) s g d fun _ => BitVec.ofNat 32 (if th.hcsp.isSome then th.trap.prog else 0))) ∧
  (∀ (s : State) (g : BitVec 4) (d : BitVec 8) (sid : Nat) (x : Stream) (k : Kernel), s.issue.who = .stream sid →
    s.streams[sid]? = some x → s.kernels[x.kid]? = some k →
    (∀ e ∈ [((0x00 : BitVec 6), k.ctx), (0x01, (s.ctx k.ctx).part), (0x02, x.pos / k.nclu), (0x03, k.ndie), (0x04, x.pos % k.nclu),
        (0x05, k.nclu), (0x06, 4), (0x07, 0), (0x08, 0), (0x09, 0), (0x0A, k.nblk 0), (0x0B, k.nblk 1), (0x0C, k.nblk 2), (0x0D, 0),
        (0x0E, k.nstage), (0x0F, 0), (0x10, 0), (0x11, 0), (0x12, 0), (0x13, 0), (0x14, 0),
        (0x15, if x.hcsp.isSome then x.trap.prog else 0)],
      WritesS (.umovs g d e.1) s g d fun _ => BitVec.ofNat 32 e.2) ∧
    UniformForm (.umovs g d 0x16) s (fun u => if u.guard g then u.putS2 d.toNat (BitVec.ofNat 64 (s.tick / 12)) else u))) ∧
  (∀ (s : State) (g la : BitVec 4) (d a : BitVec 8) (vs : BitVec 7) (gid : Nat) (x : Group), s.issue.who = .group gid →
    s.groups[gid]? = some x → x.threads.length = x.width → 0 < x.width →
    ∀ th, x.threads[(x.u.getS a.toNat).toNat % x.width]? = some th →
    let w : Word := if th.launched then th.getV vs.toNat else 0
    UniformForm (.v2s g la d a vs) s fun u => if u.guard g then
      (if la = 0 then u.putS d.toNat w
        else { u with pend := u.pend ++ [{ left := la.toNat, known := true, regs := [(d.toNat, w)], preds := [] }] }) else u)

/-- INSTRUCTION_COMPLETE (R60, R61): the result that it names is written early if it is known: the k-th of the uniform results,
or, counting on from these, the one of a thread; older incomplete results lose what it writes; an unknown one stays. GROUP_LOADED (R161) lets a LOADING group run, and changes
no other.
Where a clause rests on a choice of the model and not on the spec, it is that of log entries 10, 21. -/
def Obligations.CompletionsAndLoading : Prop :=
  let rest (l : List Pend) (k : Nat) (p : Pend) : List Pend :=
    ((l.take k).map fun q => { q with regs := q.regs.filter fun r => !(p.regs.any fun w => w.1 == r.1),
                                      preds := q.preds.filter fun r => !(p.preds.any fun w => w.1 == r.1) }) ++ l.drop (k + 1)
  (∀ (s : State) (who : Agent) (u : UFile) (k : Nat) (p : Pend), s.ufile who = some u → u.pend[k]? = some p →
    (p.known = true → exec (.instructionComplete who k) s =
      .next (s.modU who fun v => { v.complete1 p with pend := rest v.pend k p })) ∧
    (p.known = false → exec (.instructionComplete who k) s = .next s)) ∧
  (∀ (s : State) (gid ti k : Nat) (x : Group) (th : Thread) (p : Pend), s.groups[gid]? = some x → x.threads[ti]? = some th →
    th.pend[k]? = some p →
    exec (.instructionComplete (.group gid) (x.u.pend.length + ((x.threads.take ti).map fun t => t.pend.length).sum + k)) s =
      .next (if p.known then s.modThread gid ti fun t => { t.complete1 p with pend := rest t.pend k p } else s)) ∧
  (∀ (s : State) (gid : Nat) (x : Group), s.groups[gid]? = some x →
    (x.gst = .loading → ∃ (t : State) (y : Group), exec (.groupLoaded gid) s = .next t ∧ { t with groups := s.groups } = s ∧
      t.groups[gid]? = some y ∧ y.gst = .running ∧ { y with gst := .loading, threads := x.threads } = x ∧
      (∀ (ti : Nat) (th : Thread), x.threads[ti]? = some th → y.threads[ti]? = some { th with ready := s.tick })) ∧
    (x.gst ≠ .loading → exec (.groupLoaded gid) s = .next s))

/-! ## Accesses of lanes through a grant -/

/-- The checks of a lane before any access (R264, R347), in their order: GRANT_STALE, GRANT_PERM, GRANT_BOUNDS, MISALIGN. The
cause stands at the instruction with the address as its value, and no memory is touched.
Where the checks pass and the access does not (R265, R357, R365): a fault stands at the instruction with the address, a lane
that meets a migrating page or a hand-over waits, and poison whose consumption ends what the agent does leaves the lane undone
(R376); PROG holds the lane each time.
Where a clause rests on a choice of the model and not on the spec, it is that of log entries 26, 69. -/
def Obligations.AccessChecks : Prop :=
  (∀ (s : State) (g la : BitVec 4) (d a : BitVec 7) (size : BitVec 3) (sext o64 : BitVec 1) (ord hint : BitVec 2) (gr : BitVec 4)
    (scope : BitVec 3) (imm : BitVec 12) (gid ti : Nat) (x : Group) (th : Thread), OneLane s g gid ti x th →
    scopeFree s (.group gid) scope →
    let n : Nat := 2 ^ size.toNat
    let gt := x.u.getG gr.toNat
    let idx : Nat := if o64 = 1 then (th.getV2 a.toNat).toNat else (th.getV a.toNat).toNat
    let ac := s.accOf (.group gid)
    let full : Int := imm.toInt
    let short : Int := (imm.extractLsb' 0 8).toInt
    ∀ e ∈ [(Instr.ld g la d a size sext ord o64 gr hint scope imm, gt.rd, n, full * n),
        (.ldx g la d a size sext ord o64 gr hint scope imm, gt.rd, n, full * n),
        (.st g d a size sext ord o64 gr hint scope imm, gt.wr, n, full * n),
        (.atom g la d a size sext ord o64 gr hint scope imm, gt.at', n, short * n),
        (.atomc g la d a size sext ord o64 gr hint scope imm, gt.at', n, full * n),
        (.red g d a size sext ord o64 gr hint scope imm, gt.at', n, short * n),
        (.monw g a size sext ord o64 gr hint scope imm, gt.rd, 4, full * 4),
        (.cflush g a size sext ord o64 gr hint scope imm, gt.rd, 1, full),
        (.cinv g a size sext ord o64 gr hint scope imm, gt.rd, 1, full),
        (.pprobe g la d a size sext ord o64 gr hint scope imm, gt.rd || gt.wr || gt.at', 1, full),
        (.phint g hint a size sext ord o64 gr hint scope imm, gt.rd || gt.wr || gt.at', 1, full)],
      let off : Int := idx + e.2.2.2
      let va : Nat := ((gt.base : Int) + off).toNat
      let stale : Prop := gt.tag = true ∧ (gt.part ≠ ac.part ∨ gt.ctxNo ≠ ac.ctx)
      let perm : Prop := gt.tag = true ∧ e.2.1 = false
      let bounds : Prop := gt.tag = false ∨ off < 0 ∨ (gt.len : Int) < off + e.2.2.1
      (stale → exec e.1 s = .next (s.standAt gid ti .grantStale false va)) ∧
      (¬ stale → perm → exec e.1 s = .next (s.standAt gid ti .grantPerm false va)) ∧
      (¬ stale → ¬ perm → bounds → exec e.1 s = .next (s.standAt gid ti .grantBounds false va)) ∧
      (¬ stale → ¬ perm → ¬ bounds → va % e.2.2.1 ≠ 0 → exec e.1 s = .next (s.standAt gid ti .misalign false va))) ∧
  (∀ (s : State) (g la : BitVec 4) (d a : BitVec 7) (size : BitVec 3) (sext o64 : BitVec 1) (ord hint : BitVec 2) (gr : BitVec 4)
    (scope : BitVec 3) (imm : BitVec 12) (gid ti : Nat) (x : Group) (th : Thread), OneLane s g gid ti x th →
    scopeFree s (.group gid) scope →
    let n : Nat := 2 ^ size.toNat
    let gt := x.u.getG gr.toNat
    let idx : Nat := if o64 = 1 then (th.getV2 a.toNat).toNat else (th.getV a.toNat).toNat
    let ac := s.accOf (.group gid)
    let full : Int := imm.toInt
    let short : Int := (imm.extractLsb' 0 8).toInt
    gt.ge = false →
    ∀ e ∈ [(Instr.ld g la d a size sext ord o64 gr hint scope imm, AccKind.read, some false, gt.rd, n, full * n),
        (.ldx g la d a size sext ord o64 gr hint scope imm, .read, some true, gt.rd, n, full * n),
        (.st g d a size sext ord o64 gr hint scope imm, .write, none, gt.wr, n, full * n),
        (.atom g la d a size sext ord o64 gr hint scope imm, atomKind (imm.toNat / 256), some true, gt.at', n, short * n),
        (.atomc g la d a size sext ord o64 gr hint scope imm, .atomic, some true, gt.at', n, full * n),
        (.red g d a size sext ord o64 gr hint scope imm, atomKind (imm.toNat / 256), some true, gt.at', n, short * n),
        (.monw g a size sext ord o64 gr hint scope imm, .read, none, gt.rd, 4, full * 4),
        (.cflush g a size sext ord o64 gr hint scope imm, .flush, none, gt.rd, 1, full),
        (.cinv g a size sext ord o64 gr hint scope imm, .flush, none, gt.rd, 1, full)],
      let off : Int := idx + e.2.2.2.2.2
      let va : Nat := ((gt.base : Int) + off).toNat
      grantCheck ac gt e.2.2.2.1 off e.2.2.2.2.1 = none → va % e.2.2.2.2.1 = 0 →
        let found := s.lookFor ac e.2.1 va e.2.2.2.2.1 e.2.2.1 (some x.bid)
        let held (w : Wait) : State := found.1.modThread gid ti fun t => { t with prog := x.homeLane ti, wait := w }
        (∀ c, found.2 = .fault c → exec e.1 s = .next ((held .none).standAt gid ti c false va)) ∧
        (found.2 = .wait → exec e.1 s = .next (held (.lane false))) ∧
        (found.2 = .poison → exec e.1 s = .next (held .none)))

/-- Loads and stores of a lane whose address passes its checks (R267 to R269): LD gives the registers the bytes read at the
translated address and LDX those at the site of its scope, after the acquire that the order asks for; ST writes the low bytes of
the registers there, after the release; MONW arms the monitor on the line (R188), and the lane goes on.
The lanes of an issue of LD, LDX, ST, ATOM, ATOMC or RED (R264 to R266). Lanes whose guard is false go on. If a lane fails one of
its checks, each lane that fails is trapped and none is performed. Else the lanes are performed in ascending order, each translated,
checked and acting on what those before it have left; a lane that is performed goes on. At the first lane that faults, waits, meets
poison that stops it, or lies after the place where the issue is cut, that lane and the higher ones take its home lane as PROG, the
higher ones held for it, and it is trapped or waits; the lanes before it stay performed.
What a store changes when its line is in the die L2 (R240, R253): with the translation held, on a page that is not COH, the
stored bytes read as the data through the slice, and every other byte as a die L2 or its home serves it, every byte of memory,
every register of every thread but what going on changes, and every uniform register is as before; a monitor on the line is
marked.
What a load of one lane returns when a cache holds it (R253), on a page that is neither COH nor RSH: the bytes of the core's L1
if it has all of them, else those of the line in the die L2. Memory, every byte as a die L2 or its home serves it, and every register
but the load's own are as before; a fill may lose a monitor on the L1 line that it replaces (R189).
Where a clause rests on a choice of the model and not on the spec, it is that of log entries 12, 105. -/
def Obligations.LoadsAndStores : Prop :=
  (∀ (s : State) (g la : BitVec 4) (d a : BitVec 7) (size : BitVec 3) (sext o64 : BitVec 1) (ord hint : BitVec 2) (gr : BitVec 4)
    (scope : BitVec 3) (imm : BitVec 12) (gid ti : Nat) (x : Group) (th : Thread), OneLane s g gid ti x th →
    scopeFree s (.group gid) scope → size.toNat < 5 →
    let n : Nat := 2 ^ size.toNat
    let gt := x.u.getG gr.toNat
    let idx : Nat := if o64 = 1 then (th.getV2 a.toNat).toNat else (th.getV a.toNat).toNat
    let ac := s.accOf (.group gid)
    let off (k : Nat) : Int := idx + imm.toInt * k
    let va (k : Nat) : Nat := ((gt.base : Int) + off k).toNat
    let on (u : State) (f : Thread → Thread) : State := u.modThread gid ti fun t => doneThread s.issue (f t)
    let acq (u : State) : State := if ord = 1 then u.acquire ac scope.toNat else u
    (grantCheck ac gt gt.rd (off n) n = none → va n % n = 0 → ∀ u pa e,
      (s.lookRead ac .read (va n) n false (some x.bid) = (u, .ok pa e) → ∀ w b, (acq u).readPa ac e pa n hint.toNat false (some x.bid) = (w, b) →
        exec (.ld g la d a size sext ord o64 gr hint scope imm) s = .next (on w fun t => t.late la.toNat (loaded d.toNat size sext b) [])) ∧
      (s.lookRead ac .read (va n) n true (some x.bid) = (u, .ok pa e) → ∀ w b,
        (acq u).atomicPa ac e pa n scope.toNat (some x.bid) false (fun _ => none) = (w, b) →
        exec (.ldx g la d a size sext ord o64 gr hint scope imm) s = .next (on w fun t => t.late la.toNat (loaded d.toNat size 0 b) []))) ∧
    (grantCheck ac gt gt.wr (off n) n = none → va n % n = 0 → gt.ge = false → (s.kernelOf x.bid).isSome = true →
      ∀ u pa e, s.look ac .write (va n) = (u, .ok pa e) →
      exec (.st g d a size sext ord o64 gr hint scope imm) s = .next (on
        ((if ord = 2 then u.release ac scope.toNat else u).writePa ac e pa hint.toNat (stored th.getV d.toNat n)) id)) ∧
    (grantCheck ac gt gt.rd (off 4) 4 = none → va 4 % 4 = 0 → ∀ u pa e, s.look ac .read (va 4) = (u, .ok pa e) →
      exec (.monw g a size sext ord o64 gr hint scope imm) s = .next (on u fun t =>
        { t with monitor := some { line := pa / 128, written := false, lost := false } }))) ∧
  (∀ (s : State) (g la : BitVec 4) (d a : BitVec 7) (size : BitVec 3) (sext o64 : BitVec 1) (ord hint : BitVec 2) (gr : BitVec 4)
    (scope : BitVec 3) (imm : BitVec 12) (gid : Nat), s.issue.who = .group gid → (∀ l ∈ s.issue.lanes, l.1 = gid) →
    scopeFree s (.group gid) scope → size.toNat < 5 →
    (∀ x, s.groups[gid]? = some x → (x.u.getG gr.toNat).ge = false ∧ (s.kernelOf x.bid).isSome = true) →
    let n : Nat := 2 ^ size.toNat
    let lane (u : State) (ti : Nat) : Option Lane := (u.groups[gid]?).bind fun x => (x.threads[ti]?).map fun th => { g := x, ti := ti, t := th }
    let on (u : State) (ti : Nat) (f : Thread → Thread) : State := u.modThread gid ti f
    let guard (l : Nat × Nat) : Bool := (lane s l.2).any fun y => y.guard g
    let ts := s.issue.lanes.filter guard
    let s' := (s.issue.lanes.filter fun l => !guard l).foldl (fun u l => on u l.2 (doneThread s.issue)) s
    let acq (u : State) : State := if ord = 1 then u.acquire (u.accOf (.group gid)) scope.toNat else u
    let rel (u : State) : State := if ord = 2 then u.release (u.accOf (.group gid)) scope.toNat else u
    let read (u : State) (l : Lane) (pa : Nat) (e : BitVec 64) : Option State :=
      let r := (acq u).readPa (u.accOf (.group gid)) e pa n hint.toNat false (some l.g.bid)
      some (on r.1 l.ti fun t => t.late la.toNat (loaded d.toNat size sext r.2) [])
    let readx (u : State) (l : Lane) (pa : Nat) (e : BitVec 64) : Option State :=
      let r := (acq u).atomicPa (u.accOf (.group gid)) e pa n scope.toNat (some l.g.bid) false fun _ => none
      some (on r.1 l.ti fun t => t.late la.toNat (loaded d.toNat size 0 r.2) [])
    let write (u : State) (l : Lane) (pa : Nat) (e : BitVec 64) : Option State :=
      if (l.g.u.getG gr.toNat).ge = false ∧ (u.kernelOf l.g.bid).isSome = true then
        some ((rel u).writePa (u.accOf (.group gid)) e pa hint.toNat (stored l.t.getV d.toNat n)) else none
    let swap (op code : Nat) (ret : Bool) (u : State) (l : Lane) (pa : Nat) (e : BitVec 64) : Option State :=
      match u.replayOp (.group gid) (some l.ti) code pa with
      | (w, .perform) =>
        let r := (if ord = 1 then acq w else rel w).atomicPa (w.accOf (.group gid)) e pa n scope.toNat (w.bidOf (.group gid)) true fun o =>
          (aopNew op n (leNat o) (leNat (stored l.t.getV d.toNat n)) (leNat (stored l.t.getV (d.toNat + n / 4) n))).map fun v =>
            (List.range n).map fun i => BitVec.ofNat 8 (v / 256 ^ i)
        let w := r.1.logOp (.group gid) (some l.ti) code pa (logged n r.2)
        some (if ret then on w l.ti fun t => t.late la.toNat (loaded d.toNat size 0 r.2) [] else w)
      | _ => none
    let op : Nat := imm.toNat / 256
    let short : Int := (imm.extractLsb' 0 8).toInt
    ∀ e ∈ [(Instr.ld g la d a size sext ord o64 gr hint scope imm, AccKind.read, some false, imm.toInt, (fun (q : Grant) => q.rd), read),
        (.ldx g la d a size sext ord o64 gr hint scope imm, .read, some true, imm.toInt, (·.rd), readx),
        (.st g d a size sext ord o64 gr hint scope imm, .write, none, imm.toInt, (·.wr), write),
        (.atom g la d a size sext ord o64 gr hint scope imm, atomKind op, some true, short, (·.at'), swap op 0 true),
        (.atomc g la d a size sext ord o64 gr hint scope imm, .atomic, some true, imm.toInt, (·.at'), swap 10 1 true),
        (.red g d a size sext ord o64 gr hint scope imm, atomKind op, some true, short, (·.at'), swap op 2 false)],
      let off (l : Lane) : Int := (if o64 = 1 then ((l.t.getV2 a.toNat).toNat : Int) else (l.t.getV a.toNat).toNat) + e.2.2.2.1 * n
      let va (l : Lane) : Nat := (((l.g.u.getG gr.toNat).base : Int) + off l).toNat
      let check (l : Lane) : Option Cause :=
        match grantCheck (s'.accOf (.group gid)) (l.g.u.getG gr.toNat) (e.2.2.2.2.1 (l.g.u.getG gr.toNat)) (off l) n with
        | some c => some c
        | none => if va l % n = 0 then none else some .misalign
      let bad := ts.filterMap fun r => (lane s' r.2).bind fun l => (check l).map fun c => (r.2, c, va l)
      let one (u : State) (r : Nat × Nat) (l : Lane) : Option (State × LaneEnd) :=
        if s.issue.leaves gid r.2 then some (u, .later)
        else match u.lookFor (u.accOf (.group gid)) e.2.1 (va l) n e.2.2.1 (some l.g.bid) with
          | (w, .fault c) => some (w, .trap c (va l))
          | (w, .wait) => some (w, .wait)
          | (w, .poison) => some (w, .poison)
          | (w, .ok pa lf) => (e.2.2.2.2.2 w l pa lf).map fun v => (v, .done)
      let go (u : State) (r : Nat × Nat) : Option State :=
        match lane u r.2 with
        | none => some u
        | some l => (one u r l).bind fun x => if x.2 = .done then some (on x.1 r.2 (doneThread x.1.issue)) else none
      (bad ≠ [] → exec e.1 s = .next (bad.foldl (fun u f => u.standAt gid f.1 f.2.1 false f.2.2) s')) ∧
      (bad = [] → (∀ u, ts.foldlM go s' = some u → exec e.1 s = .next u) ∧
        ∀ pre r post u l w stop, ts = pre ++ r :: post → pre.foldlM go s' = some u → lane u r.2 = some l → one u r l = some (w, stop) →
          stop ≠ .done →
          let f := l.g.homeLane r.2
          let held := post.foldl (fun v q => on v q.2 fun t => { t with prog := f, wait := .held gid r.2 })
            (on w r.2 fun t => { t with prog := f, wait := match stop with
              | .wait => .lane false
              | .later => .lane true
              | _ => .none })
          exec e.1 s = .next (match stop with
            | .trap c v => held.standAt gid r.2 c false v
            | _ => held))) ∧
  (∀ (s : State) (g : BitVec 4) (d a : BitVec 7) (size : BitVec 3) (sext o64 : BitVec 1) (gr : BitVec 4)
    (scope : BitVec 3) (imm : BitVec 12) (gid ti core : Nat) (x : Group) (th : Thread) (pa : Nat) (e : BitVec 64) (l : L2Line),
    OneLane s g gid ti x th → scopeFree s (.group gid) scope → size.toNat < 4 → (s.kernelOf x.bid).isSome = true →
    let n : Nat := 2 ^ size.toNat
    let gt := x.u.getG gr.toNat
    let idx : Nat := if o64 = 1 then (th.getV2 a.toNat).toNat else (th.getV a.toNat).toNat
    let ac := s.accOf (.group gid)
    let off : Int := idx + imm.toInt * n
    let va : Nat := ((gt.base : Int) + off).toNat
    grantCheck ac gt gt.wr off n = none → va % n = 0 → gt.ge = false → s.look ac .write va = (s, .ok pa e) →
    ac.die < 8 → ac.core = some core → pa < 2 ^ 52 → pa % n = 0 → leafCls e ≠ 0 → s.rucHome ac e = ac.die →
    s.atGateHome ac e = false → s.lost ac e pa n true true = false → s.foreign ac e pa = false → s.line? ac.die (lineOf pa) = some l → l.cells ≠ [] →
    l.part = ac.part → l.tag = ac.ctx → l.slice = s.sliceOf ac.part ac.die (lineOf pa) →
    ∃ t, exec (.st g d a size sext 0 o64 gr 0 scope imm) s = .next t ∧ t.mem = s.mem ∧
      (∀ i < n, byteAt t ac.die (pa + i) = (th.getV (d.toNat + i / 4)).extractLsb' (8 * (i % 4)) 8) ∧
      (∀ die p, die < 16 → p < 2 ^ 52 → ¬ (die = ac.die ∧ pa ≤ p ∧ p < pa + n) → byteAt t die p = byteAt s die p) ∧
      (∀ (k : Nat) (y : Group), s.groups[k]? = some y → ∃ y' : Group, t.groups[k]? = some y' ∧ y'.u = y.u ∧ y'.gst = y.gst ∧
        y'.vregs = y.vregs ∧ y'.threads.length = y.threads.length) ∧
      (∀ (k j : Nat) (u : Thread), s.thread? k j = some u → ∃ u' : Thread, t.thread? k j = some u' ∧
        sameButMonitor (if (k, j) = (gid, ti) then doneThread s.issue u else u) u' ∧
        (∀ m, u.monitor = some m → m.line = lineOf pa → ∃ m', u'.monitor = some m' ∧ m'.line = m.line ∧ m'.written = true))) ∧
  (∀ (s : State) (g la : BitVec 4) (d a : BitVec 7) (size : BitVec 3) (sext o64 : BitVec 1) (hint : BitVec 2) (gr : BitVec 4)
    (scope : BitVec 3) (imm : BitVec 12) (gid ti core : Nat) (x : Group) (th : Thread) (pa : Nat) (e : BitVec 64) (l : L2Line) (b : List Byte),
    OneLane s g gid ti x th → scopeFree s (.group gid) scope → size.toNat < 5 →
    let n : Nat := 2 ^ size.toNat
    let gt := x.u.getG gr.toNat
    let idx : Nat := if o64 = 1 then (th.getV2 a.toNat).toNat else (th.getV a.toNat).toNat
    let ac := s.accOf (.group gid)
    let off : Int := idx + imm.toInt * n
    let va : Nat := ((gt.base : Int) + off).toNat
    grantCheck ac gt gt.rd off n = none → va % n = 0 → s.look ac .read va = (s, .ok pa e) → b.length = n →
    ac.die < 8 → ac.core = some core → pa < 2 ^ 52 → pa % n = 0 → leafCls e ≠ 0 → leafCls e ≠ 3 → s.rucHome ac e = ac.die →
    s.atGateHome ac e = false → s.foreign ac e pa = false → s.poisoned ac e pa n false = false → s.line? ac.die (lineOf pa) = some l →
    l.part = ac.part → l.tag = ac.ctx → l.slice = s.sliceOf ac.part ac.die (lineOf pa) →
    ((∀ i < n, ∃ c, s.l1Byte? core (pa + i) = some c ∧ b[i]? = some c.val) ∨
      ((∃ i < n, s.l1Byte? core (pa + i) = none) ∧ ∀ i < n, ∃ c, l.byte? (pa % 128 + i) = some c ∧ b[i]? = some c)) →
    ∃ t, exec (.ld g la d a size sext 0 o64 gr hint scope imm) s = .next t ∧ t.mem = s.mem ∧
      (∀ die p, die < 16 → p < 2 ^ 52 → byteAt t die p = byteAt s die p) ∧
      (∀ (k j : Nat) (u : Thread), s.thread? k j = some u → ∃ u' : Thread, t.thread? k j = some u' ∧
        sameButMonitor (if (k, j) = (gid, ti) then doneThread s.issue (u.late la.toNat (loaded d.toNat size sext b) []) else u) u') ∧
      (∀ (k : Nat) (y : Group), s.groups[k]? = some y → ∃ y' : Group, t.groups[k]? = some y' ∧ { y' with threads := y.threads } = y))

/-! ## Atomics -/

/-- The value that an atomic writes (R271), at 32 and 64 bits: add modulo the width, the signed and unsigned smaller and greater,
and, or, xor, exchange, at 32 bits the sum of two FP32 values to the nearest with subnormals kept, and for compare-and-swap the new
value where the old one equals the comparand and nothing else.
ATOM, ATOMC and RED of a lane whose address passes its checks (R272, R273, R275): after the acquire or release of the order,
the bytes at the site of the scope become the operation's value, none on a failed comparison; ATOM and ATOMC give the old value
to the register, RED gives nothing; the old value joins the replay log of a protected block (R468). A host page takes only add, exch and cas: any other raises PAGE_CLASS, whatever the page's MIG
or GATED bit says (R357).
Where a clause rests on a choice of the model and not on the spec, it is that of log entries 12, 16. -/
def Obligations.Atomics : Prop :=
  (∀ (w : Nat), w = 32 ∨ w = 64 → ∀ (old v v2 : BitVec w),
    let r (op : Nat) : Option Nat := aopNew op (w / 8) old.toNat v.toNat v2.toNat
    r 0 = some (old + v).toNat ∧ r 1 = some (if old.toInt ≤ v.toInt then old else v).toNat ∧
    r 2 = some (if old.toInt ≤ v.toInt then v else old).toNat ∧ r 3 = some (if old.toNat ≤ v.toNat then old else v).toNat ∧
    r 4 = some (if old.toNat ≤ v.toNat then v else old).toNat ∧ r 5 = some (old &&& v).toNat ∧ r 6 = some (old ||| v).toNat ∧
    r 7 = some (old ^^^ v).toNat ∧ r 8 = some v.toNat ∧ (r 10 = if old = v then some v2.toNat else none) ∧
    (w = 32 → r 9 = some (fp32.rnd .rne ((fp32.dec old.toNat).add .rne (fp32.dec v.toNat))))) ∧
  (∀ (s : State) (g la : BitVec 4) (d a : BitVec 7) (size : BitVec 3) (sext o64 : BitVec 1) (ord hint : BitVec 2) (gr : BitVec 4)
    (scope : BitVec 3) (imm : BitVec 12) (gid ti : Nat) (x : Group) (th : Thread), OneLane s g gid ti x th →
    scopeFree s (.group gid) scope → notReplaying s (.group gid) → size = 2 ∨ size = 3 →
    let n : Nat := 2 ^ size.toNat
    let gt := x.u.getG gr.toNat
    let idx : Nat := if o64 = 1 then (th.getV2 a.toNat).toNat else (th.getV a.toNat).toNat
    let ac := s.accOf (.group gid)
    let v := leNat (stored th.getV d.toNat n)
    let v2 := leNat (stored th.getV (d.toNat + n / 4) n)
    let on (u : State) (f : Thread → Thread) : State := u.modThread gid ti fun t => doneThread s.issue (f t)
    let old (b : List Byte) (t : Thread) : Thread := t.late la.toNat (loaded d.toNat size 0 b) []
    ∀ e ∈ [(Instr.atom g la d a size sext ord o64 gr hint scope imm, (imm.extractLsb' 0 8).toInt, imm.toNat / 256, 0, old),
        (.atomc g la d a size sext ord o64 gr hint scope imm, imm.toInt, 10, 1, old),
        (.red g d a size sext ord o64 gr hint scope imm, (imm.extractLsb' 0 8).toInt, imm.toNat / 256, 2, fun _ t => t)],
      let off : Int := idx + e.2.1 * n
      let va : Nat := ((gt.base : Int) + off).toNat
      grantCheck ac gt gt.at' off n = none → va % n = 0 →
        (∀ u pa lf, s.lookRead ac (atomKind e.2.2.1) va n true (some x.bid) = (u, .ok pa lf) →
          let u' := if ord = 1 then u.acquire ac scope.toNat else if ord = 2 then u.release ac scope.toNat else u
          ∀ w b, u'.atomicPa ac lf pa n scope.toNat (some x.bid) true
            (fun o => (aopNew e.2.2.1 n (leNat o) v v2).map fun r => (List.range n).map fun i => BitVec.ofNat 8 (r / 256 ^ i)) = (w, b) →
          exec e.1 s = .next (on (w.logOp (.group gid) (some ti) e.2.2.2.1 pa (logged n b)) (e.2.2.2.2 b))) ∧
        (∀ u lvl lf, s.translate ac va = (u, .leaf lvl lf) → leafRd lf = true → leafW lf = true → paKind (leafPa lf) = .host →
          e.2.2.1 ∉ [0, 8, 10] → exec e.1 s = .next
            ((u.modThread gid ti fun t => { t with prog := x.homeLane ti, wait := .none }).standAt gid ti .pageClass false va)))

/-! ## Uniform accesses -/

/-- ULD, UST and UATOM of an agent whose guard is true and whose address passes the checks of a single lane (R279): the group, or the
stream, for which BLOCK acts as CLUSTER (R226), accesses once and goes on; with a false guard it only goes on.
Where a clause rests on a choice of the model and not on the spec, it is that of log entries 12, 16. -/
def Obligations.UniformAccesses : Prop :=
  ∀ (s : State) (g la : BitVec 4) (d a : BitVec 8) (size : BitVec 3) (sext : BitVec 1) (ord hint : BitVec 2) (gr : BitVec 4)
    (scope : BitVec 3) (imm : BitVec 12) (u : UFile) (k : Kernel), s.ufile s.issue.who = some u →
    s.kernels[s.kidOf s.issue.who]? = some k → scopeFree s s.issue.who scope → size.toNat < 5 →
    let n : Nat := 2 ^ size.toNat
    let gt := u.getG gr.toNat
    let ac := s.accOf s.issue.who
    let sc := if isStream s.issue.who then max scope.toNat 1 else scope.toNat
    let off (i : Int) : Int := (u.getS a.toNat).toNat + i * n
    let va (i : Int) : Nat := ((gt.base : Int) + off i).toNat
    let short : Int := (imm.extractLsb' 0 8).toInt
    let on (w : State) : State := w.unwaitU.advanceU
    (u.guard g = true → gt.ge = false →
      (grantCheck ac gt gt.rd (off imm.toInt) n = none → va imm.toInt % n = 0 → ∀ w pa e,
        s.lookRead ac .read (va imm.toInt) n false (s.bidOf s.issue.who) = (w, .ok pa e) →
        ∀ y b, (if ord = 1 then w.acquire ac sc else w).readPa ac e pa n hint.toNat false (s.bidOf s.issue.who) = (y, b) →
        exec (.uld g la d a size sext ord gr hint scope imm) s = .next (on (y.modU s.issue.who fun u =>
          u.late la.toNat (loaded d.toNat size sext b) []))) ∧
      (grantCheck ac gt gt.wr (off imm.toInt) n = none → va imm.toInt % n = 0 → ∀ w pa e, s.look ac .write (va imm.toInt) = (w, .ok pa e) →
        exec (.ust g d a size sext ord gr hint scope imm) s = .next (on
          ((if ord = 2 then w.release ac sc else w).writePa ac e pa hint.toNat (stored u.getS d.toNat n)))) ∧
      (grantCheck ac gt gt.at' (off short) n = none → va short % n = 0 → notReplaying s s.issue.who → size = 2 ∨ size = 3 →
        ∀ w pa e, s.lookRead ac (atomKind (imm.toNat / 256)) (va short) n true (s.bidOf s.issue.who) = (w, .ok pa e) →
        ∀ y b, (if ord = 1 then w.acquire ac sc else if ord = 2 then w.release ac sc else w).atomicPa ac e pa n sc (s.bidOf s.issue.who) true
            (fun o => (aopNew (imm.toNat / 256) n (leNat o) (leNat (stored u.getS d.toNat n)) (leNat (stored u.getS (d.toNat + n / 4) n))).map
              fun r => (List.range n).map fun i => BitVec.ofNat 8 (r / 256 ^ i)) = (y, b) →
        exec (.uatom g la d a size sext ord gr hint scope imm) s = .next (on ((y.logOp s.issue.who none 3 pa (logged n b)).modU
          s.issue.who fun u => u.late la.toNat (loaded d.toNat size 0 b) [])))) ∧
    (u.guard g = false → ∀ i ∈ [Instr.uld g la d a size sext ord gr hint scope imm, .ust g d a size sext ord gr hint scope imm,
        .uatom g la d a size sext ord gr hint scope imm], exec i s = .next s.advanceU)

/-! ## Guarded stores, pads, fences and maintenance -/

/-- ST through a grant with a range guard (R464, R465) of a lane whose checks pass: data whose words all pass is stored as it is;
failing data sets the guard's bit of GDFLAG and is stored unchanged by FLAG, clamped by CLAMP, and by TRAP unchanged with
RANGE_GUARD after it; ROLLBACK performs nothing and asks for the rollback of the block.
PLD, PST and PATOM (R270) with order relaxed, away from the storage of tile operations: with the pad found and the offset
aligned and inside, PLD reads the bytes of the pad, PST writes the bytes of the registers and no other byte of the pad, PATOM does its
operation on the bytes; nothing else changes. Else MISALIGN, PAD_BOUNDS, or for a write into the barrier words BARRIER_MISUSE stands
at the instruction. The pad of a block that is saved is waited for.
A pad named through the window (R270) of a stage that the launch does not have, or whose block in the same set does not stand, is
in the reserve or saved: an aligned PLD, PST or PATOM raises PAD_BOUNDS there.
The lanes of an issue of PLD, PST or PATOM (R265, R266, R270). Lanes whose guard is false go on. If a lane fails one of its checks,
each lane that fails is trapped and none is performed. Else the lanes act in ascending order, each on the pad that those before it have
left, after the acquire or the release that the order field names; at the first lane whose pad has been moved away, or that meets poison
which stops it, or that lies after the place where the issue is cut, that lane and the higher ones take its home lane as PROG, the
higher ones held for it.
Where a clause rests on a choice of the model and not on the spec, it is that of log entries 26, 94, 95, 105. -/
def Obligations.GuardsAndPads : Prop :=
  (∀ (s : State) (g : BitVec 4) (d a : BitVec 7) (size : BitVec 3) (sext o64 : BitVec 1) (ord hint : BitVec 2) (gr : BitVec 4)
    (scope : BitVec 3) (imm : BitVec 12) (gid ti : Nat) (x : Group) (th : Thread) (k : Kernel), OneLane s g gid ti x th →
    scopeFree s (.group gid) scope → size.toNat < 5 → s.kernelOf x.bid = some k → s.issue.rep = none → th.standing = none →
    s.issue.next ≠ s.issue.pc →
    let n : Nat := 2 ^ size.toNat
    let gt := x.u.getG gr.toNat
    let idx : Nat := if o64 = 1 then (th.getV2 a.toNat).toNat else (th.getV a.toNat).toNat
    let ac := s.accOf (.group gid)
    let off : Int := idx + imm.toInt * n
    let va : Nat := ((gt.base : Int) + off).toNat
    let word (i : Nat) : Nat := (th.getV (d.toNat + i)).toNat
    let fails (i : Nat) : Bool := !k.guardPass gt.gi (fp32.dec (word i))
    let some' : Prop := ∃ i < n / 4, fails i = true
    let flag (u : State) : State := u.modU (.group gid) fun f => { f with gdflag := f.gdflag ||| BitVec.ofNat 16 (2 ^ gt.gi) }
    let put (u : State) (pa : Nat) (e : BitVec 64) (data : List Byte) : State :=
      ((if ord = 2 then u.release ac scope.toNat else u).writePa ac e pa hint.toNat data).modThread gid ti (doneThread s.issue)
    let clamp (i : Nat) : Nat := if fails i then
      (if fp32.dec (word i) = .nan ∨ (fp32.dec (word i)).cmp (fp32.dec (k.gdlo gt.gi)) = .lt then k.gdlo gt.gi else k.gdhi gt.gi) else word i
    let i : Instr := .st g d a size sext ord o64 gr hint scope imm
    grantCheck ac gt gt.wr off n = none → va % n = 0 → gt.ge = true →
    (∀ u pa e, s.look ac .write va = (u, .ok pa e) →
      (¬ some' → exec i s = .next (put u pa e (stored th.getV d.toNat n))) ∧
      (some' → k.gdact gt.gi = 0 → exec i s = .next (put (flag u) pa e (stored th.getV d.toNat n))) ∧
      (some' → k.gdact gt.gi = 1 → exec i s = .next (put (flag u) pa e ((List.range (n / 4)).flatMap fun j => leBytes 4 (clamp j)))) ∧
      (some' → k.gdact gt.gi = 2 → exec i s = .next (((put (flag u) pa e (stored th.getV d.toNat n)).modThread gid ti fun t =>
        { t with pc := s.issue.pc, tinsn := t.tinsn - 1 }).userTrap gid ti .rangeGuard gt.gi s.issue.next))) ∧
    (some' → k.gdact gt.gi = 3 → exec i s = .next ((flag s).modBlock x.bid fun b => { b with trigger := match b.trigger with
      | some y => some y
      | none => some (.guard (.group gid) ti gt.gi) }))) ∧
  (∀ (s : State) (g la : BitVec 4) (d a : BitVec 7) (size : BitVec 3) (sext o64 : BitVec 1) (hint : BitVec 2) (gr : BitVec 4)
    (scope : BitVec 3) (imm : BitVec 12) (gid ti bid : Nat) (x : Group) (th : Thread) (b : Block) (k : Kernel), OneLane s g gid ti x th →
    size.toNat < 5 → s.padTarget x.bid gr = some bid → s.blocks[bid]? = some b → s.kernelOf bid = some k →
    let n : Nat := 2 ^ size.toNat
    let idx : Nat := if o64 = 1 then (th.getV2 a.toNat).toNat else (th.getV a.toNat).toNat
    let full : Int := idx + imm.toInt * n
    let short : Int := idx + (imm.extractLsb' 0 8).toInt * n
    let on (u : State) (f : Thread → Thread) : State := u.modThread gid ti fun t => doneThread s.issue (f t)
    let bytes (o m : Nat) : List Byte := (List.range m).map fun i => b.padByte (o + i)
    let idle (o : Nat) : Prop := ∀ q ∈ s.tileOps, q.touches k bid o n = false
    let new (o : Nat) : Option Nat := aopNew (imm.toNat / 256) n (leNat (bytes o n)) (leNat (stored th.getV d.toNat n))
      (leNat (stored th.getV (d.toNat + n / 4) n))
    let store (o : Nat) (data : List Byte) : State := s.modBlock bid fun y => { y with
      pad := y.pad.writeN o data, padPoison := y.padPoison.filter fun p => decide (p < o) || decide (o + data.length ≤ p) }
    let stand (c : Cause) (o : Int) : State := s.standAt gid ti c false (o % 2 ^ 64).toNat
    let pld := Instr.pld g la d a size sext 0 o64 gr hint scope imm
    let pst := Instr.pst g d a size sext 0 o64 gr hint scope imm
    let patom := Instr.patom g la d a size sext 0 o64 gr hint scope imm
    (b.bst = .placed → full % n = 0 → 0 ≤ full → full + n ≤ b.padsz → b.padPoison = [] → idle full.toNat → exec pld s = .next
      (on s fun t => t.late la.toNat (loaded d.toNat size sext (bytes full.toNat n)) [])) ∧
    (b.bst = .placed → full % n = 0 → 0 ≤ full → full + n + 128 ≤ b.padsz → idle full.toNat →
      exec pst s = .next (on (store full.toNat (stored th.getV d.toNat n)) id)) ∧
    (b.bst = .placed → short % n = 0 → 0 ≤ short → short + n + 128 ≤ b.padsz → b.padPoison = [] → idle short.toNat → exec patom s = .next
      (on (((new short.toNat).map fun r => store short.toNat (leBytes n r)).getD s) fun t =>
        t.late la.toNat (loaded d.toNat size 0 (bytes short.toNat n)) [])) ∧
    (∀ o data p, b.pad.wf = true → o + data.length + 128 ≤ b.padsz → ∀ y, (store o data).blocks[bid]? = some y →
      y.padByte p = if o ≤ p ∧ p < o + data.length then (data[p - o]?).getD 0 else b.padByte p) ∧
    (∀ e ∈ [(pld, full, false), (pst, full, true), (patom, short, true)],
      (e.2.1 % n ≠ 0 → exec e.1 s = .next (stand .misalign e.2.1)) ∧
      (b.bst ≠ .placed → e.2.1 % n = 0 → 0 ≤ e.2.1 → e.2.1 + n + 128 ≤ (b.padsz : Int) → exec e.1 s = .next
        (s.modThread gid ti fun t => { t with prog := x.homeLane ti, wait := .lane false })) ∧
      (e.2.1 % n = 0 → e.2.1 < 0 ∨ (b.padsz : Int) < e.2.1 + n → exec e.1 s = .next (stand .padBounds e.2.1)) ∧
      (e.2.1 % n = 0 → 0 ≤ e.2.1 → e.2.1 + n ≤ (b.padsz : Int) → (b.padsz : Int) < e.2.1 + n + 128 → e.2.2 = true →
        exec e.1 s = .next (stand .barrierMisuse e.2.1)))) ∧
  (∀ (s : State) (g la : BitVec 4) (d a : BitVec 7) (size : BitVec 3) (sext o64 : BitVec 1) (ord hint : BitVec 2) (gr : BitVec 4)
    (scope : BitVec 3) (imm : BitVec 12) (gid ti : Nat) (x : Group) (th : Thread) (b : Block) (k : Kernel), OneLane s g gid ti x th →
    s.blocks[x.bid]? = some b → s.kernelOf x.bid = some k → 8 ≤ gr.toNat →
    (k.nstage ≤ gr.toNat - 8 ∨ ∀ c ∈ s.blocks, c.kid = b.kid → c.pos = b.pos → c.coord = b.coord → c.stage = gr.toNat - 8 →
      c.bst ≠ .placed ∧ c.bst ≠ .reserve ∧ c.bst ≠ .saved) →
    let n : Nat := 2 ^ size.toNat
    let idx : Nat := if o64 = 1 then (th.getV2 a.toNat).toNat else (th.getV a.toNat).toNat
    ∀ e ∈ [(Instr.pld g la d a size sext ord o64 gr hint scope imm, imm.toInt), (.pst g d a size sext ord o64 gr hint scope imm, imm.toInt),
        (.patom g la d a size sext ord o64 gr hint scope imm, (imm.extractLsb' 0 8).toInt)],
      let off : Int := idx + e.2 * n
      off % n = 0 → exec e.1 s = .next (s.standAt gid ti .padBounds false (off % 2 ^ 64).toNat)) ∧
  (∀ (s : State) (g la : BitVec 4) (d a : BitVec 7) (size : BitVec 3) (sext o64 : BitVec 1) (ord hint : BitVec 2) (gr : BitVec 4)
    (scope : BitVec 3) (imm : BitVec 12) (gid : Nat), (∀ l ∈ s.issue.lanes, l.1 = gid) → size.toNat < 5 →
    let n : Nat := 2 ^ size.toNat
    let lane (u : State) (ti : Nat) : Option Lane := (u.groups[gid]?).bind fun x => (x.threads[ti]?).map fun th => { g := x, ti := ti, t := th }
    let on (u : State) (ti : Nat) (f : Thread → Thread) : State := u.modThread gid ti f
    let guard (l : Nat × Nat) : Bool := (lane s l.2).any fun y => y.guard g
    let ts := s.issue.lanes.filter guard
    let s' := (s.issue.lanes.filter fun l => !guard l).foldl (fun u l => on u l.2 (doneThread s.issue)) s
    let acq (u : State) : State := if ord = 1 then u.acquire (u.accOf (.group gid)) scope.toNat else u
    let rel (u : State) : State := if ord = 2 then u.release (u.accOf (.group gid)) scope.toNat else u
    let bytes (u : State) (bid o : Nat) : List Byte :=
      match u.blocks[bid]? with
      | some b => (List.range n).map fun i => b.padByte (o + i)
      | none => []
    let read (u : State) (l : Lane) (bid o : Nat) : State :=
      on (acq u) l.ti fun t => t.late la.toNat (loaded d.toNat size sext (bytes (acq u) bid o)) []
    let write (u : State) (l : Lane) (bid o : Nat) : State := (rel u).padStore bid o (stored l.t.getV d.toNat n)
    let swap (u : State) (l : Lane) (bid o : Nat) : State :=
      let u := if ord = 1 then acq u else rel u
      let old := bytes u bid o
      let v := match aopNew (imm.toNat / 256) n (leNat old) (leNat (stored l.t.getV d.toNat n)) (leNat (stored l.t.getV (d.toNat + n / 4) n)) with
        | some r => u.padStore bid o (leBytes n r)
        | none => u
      on v l.ti fun t => t.late la.toNat (loaded d.toNat size 0 (leBytes n (leNat old))) []
    ∀ e ∈ [(Instr.pld g la d a size sext ord o64 gr hint scope imm, true, false, imm.toInt, read),
        (.pst g d a size sext ord o64 gr hint scope imm, false, true, imm.toInt, write),
        (.patom g la d a size sext ord o64 gr hint scope imm, true, true, (imm.extractLsb' 0 8).toInt, swap)],
      let off (l : Lane) : Int := (if o64 = 1 then ((l.t.getV2 a.toNat).toNat : Int) else (l.t.getV a.toNat).toNat) + e.2.2.2.1 * n
      let bad := ts.filterMap fun r => (lane s' r.2).bind fun l => match s'.padCheck l.g.bid gr (off l) n e.2.2.1 with
        | .error c => some (r.2, c, (off l % 2 ^ 64).toNat)
        | .ok _ => none
      let one (u : State) (r : Nat × Nat) (l : Lane) : Option (State × LaneEnd) :=
        if s.issue.leaves gid r.2 then some (u, .later)
        else match u.padCheck l.g.bid gr (off l) n e.2.2.1 with
          | .error _ => none
          | .ok bid =>
            if u.placed bid = false then some (u, .wait)
            else if e.2.1 = true ∧ u.padEnds bid (off l).toNat n l.g.bid = true then
              some (u.consumePad bid (off l).toNat n l.g.bid, .poison)
            else some (e.2.2.2.2 (if e.2.1 then (u.padLook bid (off l).toNat n).consumePad bid (off l).toNat n l.g.bid else u) l bid
              (off l).toNat, .done)
      let go (u : State) (r : Nat × Nat) : Option State :=
        match lane u r.2 with
        | none => some u
        | some l => (one u r l).bind fun x => if x.2 = .done then some (on x.1 r.2 (doneThread x.1.issue)) else none
      (bad ≠ [] → exec e.1 s = .next (bad.foldl (fun u f => u.standAt gid f.1 f.2.1 false f.2.2) s')) ∧
      (bad = [] → (∀ u, ts.foldlM go s' = some u → exec e.1 s = .next u) ∧
        ∀ pre r post u l w stop, ts = pre ++ r :: post → pre.foldlM go s' = some u → lane u r.2 = some l → one u r l = some (w, stop) →
          stop ≠ .done →
          let f := l.g.homeLane r.2
          exec e.1 s = .next (post.foldl (fun v q => on v q.2 fun t => { t with prog := f, wait := .held gid r.2 })
            (on w r.2 fun t => { t with prog := f, wait := match stop with
              | .wait => .lane false
              | .later => .lane true
              | _ => .none }))))

/-- FENCE and UFENCE (R238, R276): a release for rel, ar and sc, an acquire for acq, ar and sc, at the scope, and the agent goes
on. SYS outside a privileged context (R227) raises SCOPE under a strict context, launch or partition, and else acts at PART and the
issue is counted once, with the PC.
CFLUSH and CINV (R277) of a lane whose address passes its checks: at BLOCK nothing; at CLUSTER and DIE the ownership of the
line's words returns to the slice of the die whose L2 serves the line; from PART on that line is written back too; CINV then drops the
line's words that L1s of that die owned and every word of it in the core's L1, from PART on the line of the L2, and at SYS a host line of the rim. An RSH page
is served by its replica. PREF (R278) never traps and writes no register: only caches, what they write back, counters and lost
monitors may change, and nothing where no translation is held, a grant check fails, or the leaf or its gate gives no read.
Where a clause rests on a choice of the model and not on the spec, it is that of log entries 5, 26, 81. -/
def Obligations.FencesAndMaintenance : Prop :=
  (∀ (s : State) (g : BitVec 4) (kind : BitVec 2) (scope : BitVec 3) (k : Kernel), s.kernels[s.kidOf s.issue.who]? = some k →
    let who := s.issue.who
    let ctx := s.ctxOf who
    let ac := s.accOf who
    let c := s.ctx ctx
    let strict : Prop := c.strict = true ∨ k.strict = true ∨ (s.part c.part).mode.getLsbD 2 = true
    let fence (u : State) (sc : Nat) : State :=
      let u := if kind = 0 then u else u.release ac sc
      if kind = 1 then u else u.acquire ac sc
    let count (u : State) : State := if s.issue.again then u else u.modCtx ctx fun c => { c with clampN := c.clampN + 1, clampPc := some s.issue.pc }
    (∀ gid ti x th, OneLane s g gid ti x th →
      (scopeFree s who scope → exec (.fence g kind scope) s = .next ((fence s scope.toNat).modThread gid ti (doneThread s.issue))) ∧
      (scope = 4 → c.priv = false → strict → exec (.fence g kind scope) s = .next (s.standAt gid ti .scope false 0)) ∧
      (scope = 4 → c.priv = false → ¬ strict → exec (.fence g kind scope) s =
        .next ((fence (count s) 3).modThread gid ti (doneThread s.issue)))) ∧
    (∀ u, s.ufile who = some u → u.guard g = true →
      let sc (m : Nat) : Nat := if isStream who then max m 1 else m
      (scopeFree s who scope → exec (.ufence g kind scope) s = .next (fence s (sc scope.toNat)).advanceU) ∧
      (scope = 4 → c.priv = false → strict → exec (.ufence g kind scope) s = .next (s.trapU .scope 0)) ∧
      (scope = 4 → c.priv = false → ¬ strict → exec (.ufence g kind scope) s = .next (fence (count s) 3).advanceU)) ∧
    (∀ u, s.ufile who = some u → u.guard g = false → exec (.ufence g kind scope) s = .next s.advanceU)) ∧
  (∀ (s : State) (g : BitVec 4) (a : BitVec 7) (size : BitVec 3) (sext o64 : BitVec 1) (ord hint : BitVec 2) (gr : BitVec 4)
    (scope : BitVec 3) (imm : BitVec 12) (gid ti : Nat) (x : Group) (th : Thread), OneLane s g gid ti x th →
    scopeFree s (.group gid) scope →
    let gt := x.u.getG gr.toNat
    let idx : Nat := if o64 = 1 then (th.getV2 a.toNat).toNat else (th.getV a.toNat).toNat
    let ac := s.accOf (.group gid)
    let off : Int := idx + imm.toInt
    let va : Nat := ((gt.base : Int) + off).toNat
    let on (u : State) : State := u.modThread gid ti (doneThread s.issue)
    (grantCheck ac gt gt.rd off 1 = none → ∀ u pa e, s.look ac .flush va = (u, .ok pa e) →
      let line := u.replicaPa e pa / 128
      let d := if leafCls e = 2 then u.rucHome ac e else ac.die
      let owned (core o : Nat) : Bool :=
        ((u.l1Line? core line).map fun y => y.cells.any fun q => q.1 / 4 == o / 4 && q.2.owned).getD false
      let back (v : State) : State := (if scope.toNat < 3 then v else v.writeBack d line).unown d line none 0 128
      let lose (v : State) : State := v.filterL1 fun core l o _ =>
        !(l == line && (some core == ac.core || (coreDie core == d && owned core o)))
      let host (v : State) : State := if 4 ≤ scope.toNat ∧ 2 ^ 44 ≤ line ∧ line < 2 ^ 45 then v.dropLine (8 + line % 4) line else v
      (scope = 0 → exec (.cflush g a size sext ord o64 gr hint scope imm) s = .next (on u) ∧
        exec (.cinv g a size sext ord o64 gr hint scope imm) s = .next (on u)) ∧
      (scope ≠ 0 → exec (.cflush g a size sext ord o64 gr hint scope imm) s = .next (on (back u)) ∧
        exec (.cinv g a size sext ord o64 gr hint scope imm) s = .next
          (on (if scope.toNat < 3 then lose (back u) else host ((lose (back u)).dropLine d line))))) ∧
    (∃ t, exec (.pref g a size sext ord o64 gr hint scope imm) s = .next t ∧
      { t with ctxs := s.ctxs, l1 := s.l1, l2 := s.l2, mem := s.mem, poison := s.poison, hub := s.hub, dies := s.dies, groups := s.groups } = s ∧
      (∀ (k : Nat) (y : Group), (on s).groups[k]? = some y → ∃ y' : Group, t.groups[k]? = some y' ∧ { y' with threads := y.threads } = y) ∧
      (∀ (k j : Nat) (u : Thread), (on s).thread? k j = some u → ∃ u' : Thread, t.thread? k j = some u' ∧ sameButMonitor u u') ∧
      (grantCheck ac gt (gt.rd || gt.wr || gt.at') off 1 ≠ none ∨ s.heldLeaf ac va = none ∨
        (∃ lvl e, s.heldLeaf ac va = some (lvl, e) ∧ (leafRd e = false ∨ s.gatedCheck ac.part .read e ≠ none)) → t = on s)))

/-! ## Pages and grants -/

/-- PPROBE (R367) of a lane whose grant passes: the translation is made, its caches filled, and V[d] receives what the leaf says, 0
where there is none or the partition lacks the gate's rights. PHINT (R368): .mig posts a request unless the region is in its
cooldown, and starts the cooldown, .cool starts it, .clr sets the count to 0; a lane without a leaf, or whose partition lacks the gate's
rights of a load, is dropped.
Where a clause rests on a choice of the model and not on the spec, it is that of log entries 96, 106. -/
def Obligations.ProbesAndHints : Prop :=
  ∀ (s : State) (g la : BitVec 4) (d a : BitVec 7) (size : BitVec 3) (sext o64 : BitVec 1) (ord hint kind : BitVec 2) (gr : BitVec 4)
    (scope : BitVec 3) (imm : BitVec 12) (gid ti : Nat) (x : Group) (th : Thread), OneLane s g gid ti x th →
    let gt := x.u.getG gr.toNat
    let idx : Nat := if o64 = 1 then (th.getV2 a.toNat).toNat else (th.getV a.toNat).toNat
    let ac := s.accOf (.group gid)
    let off : Int := idx + imm.toInt
    let va : Nat := ((gt.base : Int) + off).toNat
    let on (u : State) (f : Thread → Thread) : State := u.modThread gid ti fun t => doneThread s.issue (f t)
    let ppr := Instr.pprobe g la d a size sext ord o64 gr hint scope imm
    let phi := Instr.phint g kind a size sext ord o64 gr hint scope imm
    let give (u : State) (w : Word) : State := on u fun t => t.late la.toNat [(d.toNat, w)] []
    grantCheck ac gt (gt.rd || gt.wr || gt.at') off 1 = none →
    (∀ u lvl e, s.translate ac va = (u, .leaf lvl e) →
      let frame := u.redirect ac.part ((e.extractLsb' 16 36).toNat * 2 ^ 16 + va % levelSize lvl)
      let bit (i : Nat) : Bool := e.getLsbD i
      let r := frame / 2 ^ 21
      (∃ w : Word, (u.gatedCheck ac.part .read e = none → exec ppr s = .next (give u w)) ∧ w.getLsbD 0 = true ∧
        w.extractLsb' 1 2 = e.extractLsb' 60 2 ∧ w.getLsbD 3 = bit 59 ∧ w.getLsbD 6 = bit 57 ∧ w.getLsbD 5 = bit 56 ∧
        w.getLsbD 4 = bit 55 ∧ w.getLsbD 7 = bit 58 ∧ (lvl < 4 → w.extractLsb' 8 2 = BitVec.ofNat 2 lvl) ∧
        (lvl < 4 → w.getLsbD 10 = u.remote ac.die frame) ∧ (lvl < 4 → w.getLsbD 11 = bit 54) ∧
        (lvl < 4 → w.getLsbD 12 = (!bit 54 || (u.pageOwn (u.ownPage frame lvl)).excl == some 0)) ∧
        (lvl < 4 → (w.extractLsb' 16 7).toNat = if frame < 0xC000000000 then frame / 2 ^ 33 else 127)) ∧
      (∀ c, u.gatedCheck ac.part .read e = some c → exec ppr s = .next (give u 0) ∧ exec phi s = .next (on u id)) ∧
      (u.gatedCheck ac.part .read e = none → kind = 0 → exec phi s = .next (on (u.modDie ac.die fun y => if y.cooling r then y else
        let z := if y.reqs.length < 64 then { y with
            reqs := y.reqs ++ [{ region := r, count := ((y.regions.find? fun q => q.region == r).map (·.count)).getD 0, hint := true }] }
          else { y with ovf := true }
        z.putRegion { region := r, count := 0, cool := some (u.clockOn ac.die + z.cool.toNat * 1000) }) id)) ∧
      (u.gatedCheck ac.part .read e = none → kind = 1 → exec phi s = .next (on (u.modDie ac.die fun z =>
        z.putRegion { region := r, count := 0, cool := some (u.clockOn ac.die + z.cool.toNat * 1000) }) id)) ∧
      (u.gatedCheck ac.part .read e = none → kind = 2 → exec phi s = .next (on (u.modDie ac.die fun z =>
        { z with regions := z.regions.map fun q => if q.region = r then { q with count := 0 } else q }) id))) ∧
    (∀ u w, s.translate ac va = (u, w) → (∀ lvl e, w ≠ .leaf lvl e) → exec ppr s = .next (give u 0) ∧ exec phi s = .next (on u id)) ∧
    ∀ (z : Die) (e : Region), (z.regions.filter fun q => q.region != e.region).length < 4096 →
      z.putRegion e = { z with regions := e :: z.regions.filter fun q => q.region != e.region }

/-- GNARROW (R350): with the guard true, the traps in their order, then a null grant for a length of 0, else the source's grant
moved by the offset with the length and permissions asked for, under its own guard or the one attached; G13 or G14 receives it and
nothing else changes.
GINFO (R352), PINFO .id, .counts of clamped issues and of their PC (R421), and GDCHK (R466): each writes its value under the
guard, at once or when its window ends, and nothing else.
Where a clause rests on a choice of the model and not on the spec, it is that of log entry 26. -/
def Obligations.GrantNarrowingAndInformation : Prop :=
  (∀ (s : State) (g : BitVec 4) (a sb : BitVec 8) (dst gset : BitVec 1) (gs perms gi : BitVec 4) (u : UFile) (k : Kernel),
    s.ufile s.issue.who = some u → s.kernels[s.kidOf s.issue.who]? = some k →
    let i : Instr := .gnarrow g a dst gs sb perms gset gi
    let src := u.getG gs.toNat
    let off := (u.getS2 a.toNat).toNat
    let len := (u.getS2 sb.toNat).toNat
    let ac := s.accOf s.issue.who
    let va := (src.base + off) % 2 ^ 64
    let stale : Prop := src.part ≠ ac.part ∨ src.ctxNo ≠ ac.ctx
    let more : Prop := perms &&& BitVec.ofNat 4 src.perms ≠ perms
    let reguard : Prop := gset = 1 ∧ (src.ge = true ∨ bitAt k.gdmask gi.toNat = false)
    let give (x : Grant) : State := (s.modU s.issue.who fun v => { v with g := v.g.set (if dst = 0 then 13 else 14) x }).advanceU
    (u.guard g = false → exec i s = .next s.advanceU) ∧
    (u.guard g = true →
      (src.tag = false → exec i s = .next (s.trapU .grantBounds va)) ∧
      (src.tag = true → stale → exec i s = .next (s.trapU .grantStale va)) ∧
      (src.tag = true → ¬ stale → len = 0 → exec i s = .next (give { tag := false, bits := 0 })) ∧
      (src.tag = true → ¬ stale → len ≠ 0 → src.len < off + len → exec i s = .next (s.trapU .grantBounds va)) ∧
      (src.tag = true → ¬ stale → len ≠ 0 → off + len ≤ src.len → more ∨ reguard → exec i s = .next (s.trapU .grantPerm va)) ∧
      (src.tag = true → ¬ stale → len ≠ 0 → off + len ≤ src.len → ¬ more → ¬ reguard → src.base + off < 2 ^ 57 →
        ∃ x : Grant, exec i s = .next (give x) ∧ x.tag = true ∧ x.base = src.base + off ∧ x.len = len ∧ x.perms = perms.toNat ∧
          x.part = src.part ∧ x.ctxNo = src.ctxNo ∧
          (gset = 1 → x.ge = true ∧ x.gi = gi.toNat) ∧ (gset = 0 → x.ge = src.ge ∧ x.gi = src.gi)))) ∧
  (∀ (s : State) (g la : BitVec 4) (d a : BitVec 8) (gs n : BitVec 4) (arg : BitVec 16) (k : Kernel),
    s.kernels[s.kidOf s.issue.who]? = some k →
    let give (f : UFile → List (Nat × Word)) (u : UFile) : UFile := if u.guard g then
      (if la = 0 then (f u).foldl (fun v r => v.putS r.1 r.2) u
        else { u with pend := u.pend ++ [{ left := la.toNat, known := true, regs := f u, preds := [] }] }) else u
    let pr (x : Nat) : List (Nat × Word) := [(d.toNat, BitVec.ofNat 32 x), (d.toNat + 1, BitVec.ofNat 32 (x / 2 ^ 32))]
    let one (x : Nat) : List (Nat × Word) := [(d.toNat, BitVec.ofNat 32 x)]
    let c := s.ctx (s.ctxOf s.issue.who)
    UniformForm (.ginfo g la d 0 gs) s (give fun u => pr (if (u.getG gs.toNat).tag then (u.getG gs.toNat).base else 0)) ∧
    UniformForm (.ginfo g la d 1 gs) s (give fun u => pr (if (u.getG gs.toNat).tag then (u.getG gs.toNat).len else 0)) ∧
    UniformForm (.ginfo g la d 2 gs) s (give fun u => let q := u.getG gs.toNat
      pr (q.perms + 2 ^ 4 * b2n q.ge + 2 ^ 5 * q.gi + 2 ^ 9 * q.part + 2 ^ 14 * q.ctxNo + 2 ^ 26 * b2n q.tag)) ∧
    UniformForm (.pinfo g la d 0x00) s (give fun _ => one (c.part + 2 ^ 8 * s.partState c.part + 2 ^ 16 * (s.part c.part).epoch.toNat)) ∧
    UniformForm (.pinfo g la d 0x07) s (give fun _ => one (min c.clampN 0xFFFFFFFF)) ∧
    UniformForm (.pinfo g la d 0x08) s (give fun _ => one (match c.clampPc with
      | some pc => pc.toNat
      | none => 0xFFFFFFFF)) ∧
    UniformForm (.gdchk g d a 0 n arg) s (fun u => if u.guard g then
      u.putQ arg.toNat (k.guardPass n.toNat (fp32.dec (u.getS a.toNat).toNat)) else u) ∧
    UniformForm (.gdchk g d a 1 n arg) s (fun u => if u.guard g then u.putS d.toNat (u.gdflag.setWidth 32) else u) ∧
    UniformForm (.gdchk g d a 2 n arg) s (fun u => if u.guard g then
      { u.putS d.toNat (u.gdflag.setWidth 32) with gdflag := u.gdflag &&& ~~~arg } else u))

/-! ## Shapes and copies -/

/-- SHAPE (R281, R285): in a group, a record whose reserved bits are 0, whose element size, strides, pitch and extents fit and whose
multicast names a group that the launch declares becomes the shape entry of the block; any other raises SHAPE_INVALID; a cadence
stream has no shapes (PRIV).
XCOPY, XGATH and XSCAT of a group whose guard is true (R287 to R291): the copy is made of the group's registers as they stand at
issue. A copy that fails a check of R290 raises the cause of the first that fails, in their order SHAPE_INVALID, SCOPE (R227), the
grant's causes, MISALIGN, PAD_BOUNDS, BARRIER_MISUSE, and does nothing else; with all passed it waits while the block has 32 copies or
the cluster 128, and else it joins the queue behind a release at CLUSTER and the group goes on.
XSTAT (R298) of a group: the copies of the group, of the block, or aimed at the word, that have not landed, and above them how
many of these are stopped, where each count is below 64 and fits its field; a cadence stream raises PRIV where its guard is true.
SHAPE, XCOPY, XGATH, XSCAT and XSTAT only go on where the guard is false (R45).
Where a clause rests on a choice of the model and not on the spec, it is that of log entries 26, 96, 108. -/
def Obligations.CopyIssue : Prop :=
  (∀ (s : State) (g n : BitVec 4) (a : BitVec 8), s.uguard g = true →
    (∀ (gid : Nat) (x : Group) (k : Kernel), s.issue.who = .group gid → s.groups[gid]? = some x → s.kernelOf x.bid = some k →
      let w (i : Nat) : Word := x.u.getS (a.toNat + i)
      let z : Nat := 2 ^ ((w 0).extractLsb' 0 3).toNat
      let nd := ((w 0).extractLsb' 4 2).toNat
      let e (i : Nat) : Nat := ((w (1 + i / 2)).extractLsb' (16 * (i % 2)) 16).toNat + 1
      let st (i : Nat) : Nat := (w (2 + i)).toNat
      let pp := (w 6).toNat
      let tr := (w 0).getLsbD 6
      let mg := ((w 0).extractLsb' 8 2).toNat
      let row := (if tr then e 1 else e 0) * z
      let fits : Prop := (w 0).toNat < 1024 ∧ (w 0).getLsbD 3 = false ∧ z ≤ 16 ∧ pp < 2 ^ 24 ∧ w 7 = 0 ∧
        (∀ i ∈ [1, 2, 3], st i % z = 0) ∧ pp % 16 = 0 ∧ (nd = 0 → pp = 0) ∧ (nd ≠ 0 → row ≤ pp) ∧
        (∀ i ∈ [1, 2, 3], nd < i → e i = 1 ∧ st i = 0) ∧ (tr = true → nd ≠ 0 ∧ z < 8) ∧
        (if (w 0).getLsbD 7 then k.mcast mg ≠ 0 else mg = 0)
      (fits → exec (.shape g a n) s = .next (s.modBlock x.bid fun b => { b with
        shapes := b.shapes.set n.toNat (some [w 0, w 1, w 2, w 3, w 4, w 5, w 6, w 7]) }).advanceU) ∧
      (¬ fits → exec (.shape g a n) s = .next (s.trapU .shapeInvalid 0))) ∧
    (∀ sid, s.issue.who = .stream sid → exec (.shape g a n) s = .next (s.trapU .priv 0))) ∧
  (∀ (s : State) (g : BitVec 4) (d a sm : BitVec 8) (dir hint : BitVec 2) (n gr k : BitVec 4) (scope st : BitVec 3) (o64 get : BitVec 1)
    (gid : Nat) (x : Group) (b : Block) (ke : Kernel), s.issue.who = .group gid → s.groups[gid]? = some x → s.blocks[x.bid]? = some b →
    s.kernels[b.kid]? = some ke → x.u.guard g = true →
    let entry := (b.shapes[n.toNat]?).join
    let h := entry.getD (List.replicate 8 0)
    let gt := x.u.getG gr.toNat
    let base : Copy := { gid := gid, bid := x.bid, kind := 0, dir := dir.toNat, k := k.toNat, gix := gr.toNat, grant := gt, scope := 0, hint := hint.toNat, stage := st.toNat, get := get == 1, off64 := o64 == 1, far := if o64 = 1 then (x.u.getS2 a.toNat).toNat else (x.u.getS a.toNat).toNat, pbase := (x.u.getS d.toNat).toNat, mask := 0, shape := h, cst := .queued, prog := 0, cause := 0, tval := 0, recips := s.recipients x.bid ke h, ctx := ke.ctx, slot := none }
    let masked (kind : Nat) : Copy := { base with kind := kind, dir := 0, stage := 0, get := false, off64 := false, far := (x.u.getS a.toNat).toNat, mask := (x.u.getS2 sm.toNat).toNat % 2 ^ min 64 (shE h 1) }
    let c0 := s.ctx (s.ctxOf (.group gid))
    let free := scopeFree s (.group gid) scope
    let strict : Prop := c0.strict = true ∨ ke.strict = true ∨ (s.part c0.part).mode.getLsbD 2 = true
    ∀ e ∈ [(Instr.xcopy g d a dir n gr hint scope k st o64 get, base, dir != 1), (.xgath g d a n gr hint scope k sm, masked 1, true),
        (.xscat g d a n gr hint scope k sm, masked 2, false)],
      let c := e.2.1
      let into : Bool := e.2.2
      let pads : Prop := c.kind = 0 ∧ c.dir = 2
      let va := gt.base + c.far
      let room (i off span : Nat) : Prop := ∃ y : Block, s.blocks[i]? = some y ∧ off + span + 128 ≤ y.padsz
      let badShape : Prop := entry = none ∨ (shMc h = true ∧ ¬ (c.kind = 0 ∧ c.dir = 0)) ∨
        (c.kind ≠ 0 ∧ (shNdim h ≠ 1 ∨ shTr h = true ∨ shMc h = true ∨ 64 < shE h 1)) ∨ (pads ∧ shTr h = true)
      let grants : Option Cause := grantCheck (s.accOf (.group gid)) gt (if into then gt.rd else gt.wr) c.far (shMemSpan h)
      let odd : Prop := (¬ pads ∧ va % shZ h ≠ 0) ∨ c.pbase % 16 ≠ 0 ∨ (pads ∧ c.far % shZ h ≠ 0)
      let fit : Prop := (∀ i ∈ c.recips, room i c.pbase (shPadSpan h)) ∧
        (pads → room x.bid c.pbase (shPadSpan h) ∧ ∃ f, s.padTarget x.bid (BitVec.ofNat 4 (8 + c.stage)) = some f ∧ room f c.far (shMemSpan h))
      let accepts : Prop := ∀ i ∈ c.recips, (s.word i k.toNat).init = true ∧ -512 ≤ (s.word i k.toNat).tx - s.copiesAt i k.toNat - 1
      let passes : Prop := ¬ badShape ∧ free ∧ (pads ∨ grants = none) ∧ ¬ odd ∧ fit ∧ accepts
      (badShape → exec e.1 s = .next (s.trapU .shapeInvalid 0)) ∧
      (¬ badShape → scope = 4 → c0.priv = false → strict → exec e.1 s = .next (s.trapU .scope 0)) ∧
      (¬ badShape → free → ¬ pads → ∀ z, grants = some z → exec e.1 s = .next (s.trapU z va)) ∧
      (¬ badShape → free → pads ∨ grants = none → odd → exec e.1 s = .next (s.trapU .misalign va)) ∧
      (¬ badShape → free → pads ∨ grants = none → ¬ odd → ¬ fit → exec e.1 s = .next (s.trapU .padBounds c.pbase)) ∧
      (¬ badShape → free → pads ∨ grants = none → ¬ odd → fit → ¬ accepts → exec e.1 s = .next (s.trapU .barrierMisuse 0)) ∧
      (passes → 32 ≤ s.blockCopies x.bid ∨ 128 ≤ s.clusterCopies b → exec e.1 s = .next s.waitU) ∧
      (passes → s.blockCopies x.bid < 32 → s.clusterCopies b < 128 → exec e.1 s =
        .next (({ (s.release (s.accOf (.group gid)) 1) with copies := s.copies ++ [{ c with scope := scope.toNat }] } : State).unwaitU.advanceU))) ∧
  (∀ (s : State) (g la k : BitVec 4) (d : BitVec 8) (sl : BitVec 2),
    (∀ (gid : Nat) (x : Group), s.issue.who = .group gid → s.groups[gid]? = some x →
      let mine (c : Copy) : Bool := (c.cst == .queued || c.cst == .running || c.cst == .stopped) &&
        (if sl = 0 then c.gid == gid else if sl = 1 then c.bid == x.bid else c.k == k.toNat && c.recips.contains x.bid)
      s.copies.countP mine < 64 →
      let w : Word := BitVec.ofNat 32 (s.copies.countP mine + 256 * s.copies.countP fun c => mine c && c.cst == .stopped)
      ∃ t, exec (.xstat g la d sl k) s = .next t ∧ OnlyUniform { s with free := s.free + 2 } t fun u => if u.guard g then
        (if la = 0 then u.putS d.toNat w
          else { u with pend := u.pend ++ [{ left := la.toNat, known := true, regs := [(d.toNat, w)], preds := [] }] }) else u) ∧
    (∀ sid, s.issue.who = .stream sid → s.uguard g = true → exec (.xstat g la d sl k) s = .next (s.trapU .priv 0)) ∧
    (s.uguard g = false → ∀ (a d' sm : BitVec 8) (dir hint : BitVec 2) (n gr : BitVec 4) (scope st : BitVec 3) (o64 get : BitVec 1),
      ∀ i ∈ [Instr.shape g a n, .xcopy g d' a dir n gr hint scope k st o64 get, .xgath g d' a n gr hint scope k sm,
        .xscat g d' a n gr hint scope k sm], exec i s = .next s.advanceU))

/-- The life of a copy (R292 to R297): COPY_START lets a queued copy of a running context run; COPY_SECTOR of a copy between memory and
pads looks up every far element before it writes any, stops the copy with the cause and the address where one faults and leaves PROG,
and else moves the elements of the sector in order and advances PROG by one: to pads, the bytes read at the far address into the pad of
every recipient, from the pad of the block, its bytes to the far address; no register of a thread changes, no pad but those of the
recipients, and none at all where the copy goes to memory. COPY_LAND, every sector written, is a release at the copy's scope and makes
the word of the one recipient take its transfer. A copy to the pad of a block that has been moved away waits.
A copy between two pads of different blocks through the window (R283, R292): a sector whose elements lie apart writes each
element's bytes from the source pad, and no other byte of the destination's; nothing else of any block changes.
HALT_DRAIN_DEADLINE (R294) where no block is stopped alone: 2 microseconds after the line of a context was raised, and not before,
its copies that have not landed stop at their sector boundary, their progress kept.
Where a clause rests on a choice of the model and not on the spec, it is that of log entries 29, 95. -/
def Obligations.CopyProgress : Prop :=
  (∀ (s : State) (cid : Nat) (c : Copy) (b : Block), s.copies[cid]? = some c → s.blocks[c.bid]? = some b → (s.ctx c.ctx).st = .running →
    (c.cst = .queued → exec (.copyStart cid) s = .next (s.modCopy cid fun y => { y with cst := .running })) ∧
    (c.cst ≠ .queued → exec (.copyStart cid) s = .next s) ∧
    ((∃ i ∈ c.recips, s.placed i = false) → exec (.copySector cid) s = .next s ∧ exec (.copyLand cid) s = .next s) ∧
    (c.cst = .running → c.prog < c.sectors → c.window = false → (∀ i ∈ c.recips, s.placed i = true) → (c.toPad = true ∨ b.padPoison = []) →
      let a := s.accAt c.ctx b.die b.clu none
      let vas := (c.sector c.prog).map fun e => c.grant.base + c.far + (c.place e).1
      let found := s.copyLook a (if c.toPad then .read else .write) (shZ c.shape) (if c.toPad then some true else none) c.bid vas
      let stop (x : Cause) (v : Nat) : State := found.1.modCopy cid fun y => { y with cst := .stopped, cause := x.code, tval := BitVec.ofNat 64 v }
      (∀ x v, found.2 = .trap x v → exec (.copySector cid) s = .next ((stop x v).halt c.ctx .fault)) ∧
      (found.2 = .wait → exec (.copySector cid) s = .next found.1) ∧
      (found.2 = .poison → exec (.copySector cid) s = .next (stop .poison ((vas.head?).getD 0))) ∧
      (found.2 = .done →
        let z := shZ c.shape
        let move (u : State) (e : Nat) : State :=
          let po := c.pbase + (c.place e).2
          match u.look a (if c.toPad then .read else .write) (c.grant.base + c.far + (c.place e).1) with
          | (v, .ok pa lf) =>
            if c.toPad then
              let r := v.readPa a lf pa z c.hint true (some c.bid)
              c.recips.foldl (fun y i => y.padStore i po r.2) r.1
            else
              let v := (v.padLook c.bid po z).consumePad c.bid po z c.bid
              v.writePa a lf pa c.hint (match v.blocks[c.bid]? with
                | some y => (List.range z).map fun i => y.padByte (po + i)
                | none => [])
          | (v, _) => v
        let t := (((c.sector c.prog).foldl move found.1).modCopy cid fun y => { y with prog := y.prog + 1 }).bump c.ctx 9 ((c.sector c.prog).length * z)
        exec (.copySector cid) s = .next t ∧ t.copies = s.copies.set cid { c with prog := c.prog + 1 } ∧
        ((∀ o ∈ s.tileOps, o.exposed = false) →
          (∀ (k j : Nat) (u : Thread), s.thread? k j = some u → ∃ u' : Thread, t.thread? k j = some u' ∧ sameButMonitor u u') ∧
          (∀ i y, s.blocks[i]? = some y → ∃ y' : Block, t.blocks[i]? = some y' ∧ { y' with pad := y.pad, padPoison := y.padPoison } = y ∧
            (c.toPad = false ∨ i ∉ c.recips → y' = y) ∧
            (y.pad.wf = true → (∀ e ∈ c.sector c.prog, c.pbase + (c.place e).2 + z + 128 ≤ y.padsz) →
              ∀ p, (∀ e ∈ c.sector c.prog, p < c.pbase + (c.place e).2 ∨ c.pbase + (c.place e).2 + z ≤ p) → y'.padByte p = y.padByte p))))) ∧
    (c.cst = .running → c.sectors ≤ c.prog → ∀ (r : Nat) (y : Block) (x : Group), c.recips = [r] → s.blocks[r]? = some y → y.bst = .placed →
      s.groups[c.gid]? = some x → x.bards = [] → y.halt = none → b.halt = none →
      ∃ (t : State) (y' : Block), exec (.copyLand cid) s = .next t ∧ t.copies = s.copies.set cid { c with cst := .landed } ∧
        t.blocks[r]? = some y' ∧ y' = y.settle c.k ((y.word c.k).transfer c.scope (if c.kind = 0 then 0 else c.rows.length)) ∧
        (∀ i, i ≠ r → t.blocks[i]? = s.blocks[i]?))) ∧
  (∀ (s : State) (cid f : Nat) (c : Copy) (src dst : Nat) (sb db : Block) (k : Kernel), s.copies[cid]? = some c →
    (s.ctx c.ctx).st = .running → c.cst = .running → c.prog < c.sectors → c.window = true →
    s.padTarget c.bid (BitVec.ofNat 4 (8 + c.stage)) = some f → (src, dst) = (if c.get then (f, c.bid) else (c.bid, f)) → src ≠ dst →
    s.blocks[src]? = some sb → s.blocks[dst]? = some db → s.kernelOf dst = some k → sb.padPoison = [] → db.pad.wf = true →
    (∀ o ∈ s.tileOps, o.exposed = false) → s.placed f = true → (∀ i ∈ c.recips, s.placed i = true) →
    let z := shZ c.shape
    let from' (e : Nat) : Nat := if c.get then c.far + (c.place e).1 else c.pbase + (c.place e).2
    let into (e : Nat) : Nat := if c.get then c.pbase + (c.place e).2 else c.far + (c.place e).1
    (∀ e ∈ c.sector c.prog, into e + z + 128 ≤ db.padsz) →
    (∀ e ∈ c.sector c.prog, ∀ e' ∈ c.sector c.prog, e ≠ e' → into e + z ≤ into e' ∨ into e' + z ≤ into e) →
    ∃ (t : State) (db' : Block), exec (.copySector cid) s = .next t ∧ t.copies = s.copies.set cid { c with prog := c.prog + 1 } ∧
      t.blocks[dst]? = some db' ∧ { db' with pad := db.pad, padPoison := db.padPoison } = db ∧
      (∀ e ∈ c.sector c.prog, ∀ i < z, db'.padByte (into e + i) = sb.padByte (from' e + i)) ∧
      (∀ p, (∀ e ∈ c.sector c.prog, p < into e ∨ into e + z ≤ p) → db'.padByte p = db.padByte p) ∧
      (∀ i, i ≠ dst → t.blocks[i]? = s.blocks[i]?) ∧ t.groups = s.groups ∧ t.mem = s.mem) ∧
  (∀ (s : State) (ctx : Nat) (l : HaltLine), (s.ctx ctx).line = some l → (∀ b ∈ s.blocks, b.halt = none) →
    (s.clock < l.at_ + 2000 → exec (.haltDrainDeadline ctx) s = .next s) ∧
    (l.at_ + 2000 ≤ s.clock → ∃ t, exec (.haltDrainDeadline ctx) s = .next t ∧ { t with copies := s.copies, ctxs := s.ctxs } = s ∧
      (t.ctx ctx).line = some { l with drained := true } ∧ t.copies.length = s.copies.length ∧
      ∀ (i : Nat) (c : Copy), s.copies[i]? = some c → t.copies[i]? = some (if c.ctx = ctx ∧ (c.cst = .queued ∨ c.cst = .running)
        then { c with cst := .stopped } else c)))

/-! ## Barriers -/

/-- The layout of a barrier word (R300) and the test of its site (R302): a word keeps its fields; when ARR reaches EXP and TX is 0
the phase flips, LWS and LC take WS and CC, and WS, CC and ARR start again at 0, held arrivals then being performed; the count of the
word's completed phases goes up with it.
Barrier instructions of a group or a cadence stream on a word of a block (R304 to R310), with the guard true and the block found:
BINIT sets a word that is not in use to count N, phase 0; BARV is one member arrival behind a release; BEXP adds to TX; BDROP lowers
EXP; BWAIT goes on once the phase differs from the issuer's parity, acquires (the tile operations too whose arrivals belong to completed
phases of the word) and follows it, and else waits; BTRY answers the same test
in a predicate. What the rules forbid raises BARRIER_MISUSE. A word of a block that is not yet placed is waited for.
A word that no barrier instruction can reach (R304, R319): through the window that of a stage which the launch does not have, or
whose block in the same set has retired or does not exist yet, and on a cadence core that of a handle which names no coordinate or stage
of the launch, or a block that has retired: PAD_BOUNDS.
Where a clause rests on a choice of the model and not on the spec, it is that of log entries 23, 26, 95, 114. -/
def Obligations.BarrierInstructions : Prop :=
  ((∀ w : BWord, w.ws < 8 → w.lws < 8 → -512 ≤ w.tx → w.tx < 512 → w.exp < 4096 → w.arr < 4096 → w.cc < 2048 → w.lc < 2048 →
    BWord.ofBits w.toBits = w ∧ w.toBits.getLsbD 63 = w.ph ∧ w.toBits.getLsbD 62 = w.init ∧
    (w.toBits.extractLsb' 34 12).toNat = w.exp ∧ (w.toBits.extractLsb' 22 12).toNat = w.arr ∧
    (w.toBits.extractLsb' 46 10).toInt = w.tx ∧ (w.toBits.extractLsb' 0 11).toNat = w.lc) ∧
  (∀ (b : Block) (k : Nat) (w : BWord), k < b.words.length → w.ws < 8 → w.lws < 8 → -512 ≤ w.tx → w.tx < 512 → 0 < w.exp → w.exp < 4096 →
    w.arr < 4096 → w.cc < 2048 → w.lc < 2048 → b.heldOn k = [] →
    (¬ (w.init = true ∧ w.exp ≤ w.arr ∧ w.tx = 0) → (b.settle k w).word k = w ∧ (b.settle k w).held = b.held) ∧
    (w.init = true → w.exp ≤ w.arr → w.tx = 0 →
      (b.settle k w).word k = { w with ph := !w.ph, lws := w.ws, ws := 0, lc := w.cc, cc := 0, arr := 0 }) ∧
    (∀ j, j ≠ k → (b.settle k w).word j = b.word j ∧ (b.settle k w).phase j = b.phase j) ∧
    (k < b.phases.length → (b.settle k w).phase k = if w.init = true ∧ w.exp ≤ w.arr ∧ w.tx = 0 then b.phase k + 1 else b.phase k) ∧
    { b.settle k w with words := b.words, held := b.held, phases := b.phases } = b)) ∧
  (∀ (s : State) (g la : BitVec 4) (d a : BitVec 8) (r win par e : BitVec 1) (k : BitVec 4) (n : BitVec 12) (n9 : BitVec 9)
    (st scope qd : BitVec 3) (bid : Nat) (f : UFile) (b : Block), s.ufile s.issue.who = some f →
    f.guard g = true → s.blocks[bid]? = some b → scopeFree s s.issue.who scope →
    let who := s.issue.who
    let w := b.word k.toNat
    let ac := s.accOf who
    let kn := k.toNat
    let h := (f.getS a.toNat).toNat
    let own := if isStream who then max scope.toNat 1 else scope.toNat
    let sc := if win = 1 then max own 1 else own
    let tp : Bool := match who with
      | .group gid => ((s.groups[gid]?).map fun y => y.tp.getLsbD kn).getD false
      | .stream sid => ((s.streams[sid]?).map fun y => ((tfind y.tps h).getD 0).getLsbD kn).getD false
    let setTp (u : State) (v : Bool) : State := match who with
      | .group gid => u.modGroup gid fun y => { y with tp := setBit y.tp kn v }
      | .stream sid => u.modStream sid fun y => { y with tps := tset y.tps h (setBit ((tfind y.tps h).getD 0) kn v) }
    let whole : Prop := match who with
      | .group gid => ∀ x, s.groups[gid]? = some x → ∀ t ∈ x.liveLanes, (gid, t) ∈ s.issue.lanes
      | .stream _ => True
    let parity : Bool := if e = 1 then par == 1 else tp
    let on (u : State) : State := u.unwaitU.advanceU
    let misuse := s.trapU .barrierMisuse 0
    let pass (u : State) : State :=
      let u := (u.acquire ac w.lws).acquireTiles fun o => o.bid == bid && o.word == some kn && o.phase.any fun p => decide (p < b.phase kn)
      if e = 1 then u else setTp u w.ph
    let cnt := if r = 1 then (f.getS d.toNat).toNat % 4096 else n.toNat
    let busy : Prop := w.init = true ∧ (w.arr ≠ 0 ∨ w.tx ≠ 0 ∨ w.cc ≠ 0 ∨ b.heldOn kn ≠ [] ∨ s.copiesAt bid kn ≠ 0 ∨ s.bardsAt bid kn ≠ 0 ∨ s.tilesAt bid kn ≠ 0)
    (s.barTarget 0 0 a = .block bid →
      (busy ∨ cnt = 0 → exec (.binit g d a r k n) s = .next misuse) ∧
      (¬ busy → cnt ≠ 0 → exec (.binit g d a r k n) s = .next (on (setTp (s.modBlock bid fun y => { y with
        words := y.words.set kn (BitVec.ofNat 64 (2 ^ 62 + cnt * 2 ^ 34)) }) false)))) ∧
    (s.barTarget win.toNat st.toNat a = .block bid →
      (whole → w.init = true → w.arr < w.exp → exec (.barv g a k win st scope) s =
        .next (on ((s.release ac sc).wordOp bid kn fun v => { v with arr := v.arr + 1, ws := max v.ws sc }))) ∧
      (¬ whole ∨ w.init = false ∨ w.exp ≤ w.arr → exec (.barv g a k win st scope) s = .next misuse) ∧
      (w.init = true → w.tx + n9.toNat ≤ 511 → exec (.bexp g a k win st n9) s =
        .next (on (s.wordOp bid kn fun v => { v with tx := v.tx + n9.toNat }))) ∧
      (w.init = false ∨ 511 < w.tx + n9.toNat → exec (.bexp g a k win st n9) s = .next misuse) ∧
      (whole → w.init = true → w.exp ≠ 1 → exec (.bdrop g a k win st) s = .next (on (s.wordOp bid kn fun v => { v with exp := v.exp - 1 }))) ∧
      (¬ whole ∨ w.init = false ∨ w.exp = 1 → exec (.bdrop g a k win st) s = .next misuse) ∧
      (w.init = true → w.ph ≠ parity → exec (.bwait g a k win st par e) s = .next (on (pass s))) ∧
      (w.init = true → w.ph = parity → exec (.bwait g a k win st par e) s = .next s.waitU) ∧
      (w.init = false → exec (.bwait g a k win st par e) s = .next misuse) ∧
      (∀ ok : Bool, (ok = true ↔ w.init = true ∧ w.ph ≠ parity) → exec (.btry g la a k win st qd par e) s =
        .next (on ((if ok then pass s else s).modU who fun u => if la = 0 then u.putQ qd.toNat ok
          else { u with pend := u.pend ++ [{ left := la.toNat, known := true, regs := [], preds := [(qd.toNat, ok)] }] })))) ∧
    (s.barTarget win.toNat st.toNat a = .wait → ∀ i ∈ [Instr.barv g a k win st scope, .bard g a k win st scope, .bexp g a k win st n9,
      .bdrop g a k win st, .bwait g a k win st par e, .btry g la a k win st qd par e], exec i s = .next s.waitU)) ∧
  (∀ (s : State) (g la : BitVec 4) (d a : BitVec 8) (r win par e : BitVec 1) (k : BitVec 4) (n : BitVec 12) (n9 : BitVec 9)
    (st scope qd : BitVec 3), scopeFree s s.issue.who scope →
    let far : List Instr := [.barv g a k win st scope, .bard g a k win st scope, .bexp g a k win st n9, .bdrop g a k win st,
      .bwait g a k win st par e, .btry g la a k win st qd par e]
    (∀ (gid : Nat) (x : Group) (b : Block) (ke : Kernel), s.issue.who = .group gid → s.groups[gid]? = some x → x.u.guard g = true →
      s.blocks[x.bid]? = some b → s.kernelOf x.bid = some ke → win = 1 →
      (ke.nstage ≤ st.toNat ∨ ∀ c ∈ s.blocks, c.kid = b.kid → c.pos = b.pos → c.coord = b.coord → c.stage = st.toNat →
        c.bst ≠ .placed ∧ c.bst ≠ .reserve ∧ c.bst ≠ .saved) →
      ∀ i ∈ far, exec i s = .next (s.trapU .padBounds (b.padsz - 128 + 8 * k.toNat))) ∧
    (∀ (sid : Nat) (x : Stream) (ke : Kernel), s.issue.who = .stream sid → s.streams[sid]? = some x → x.u.guard g = true →
      s.kernels[x.kid]? = some ke →
      let h := (x.u.getS a.toNat).toNat
      let stage := h / 2 ^ 16 % 8
      (2 ^ 19 ≤ h ∨ ke.nstage ≤ stage ∨ ke.ncoord ≤ h % 2 ^ 16 ∨
        ((∃ c ∈ s.blocks, c.kid = x.kid ∧ c.pos = x.pos ∧ c.coord = h % 2 ^ 16 ∧ c.stage = stage) ∧
          ∀ c ∈ s.blocks, c.kid = x.kid → c.pos = x.pos → c.coord = h % 2 ^ 16 → c.stage = stage → c.gone = true)) →
      ∀ i ∈ Instr.binit g d a r k n :: far, exec i s = .next (s.trapU .padBounds 0)))

/-- BARD (R302, R308) of a group or a cadence stream that names a block: with no copy of the group in flight, as on a cadence core,
the arrival is made at once behind a release, held by the word when its phase is full; else the copies are bound at the widest scope.
A word that holds 63 arrivals, or a group with 8 such bindings, waits; BARRIER_MISUSE where the word is not set or the group has
diverged. Every barrier instruction only goes on where its guard is false (R45).
BLKBAR, CLUBAR and DIEBAR (R312, R313): the last member to arrive lets every member go on to the next instruction, its arrival
taken back, a BLKBAR of a ROLLBACK launch only once no copy or tile operation of the block is open; before that the group waits, its
arrival noted. A launch without RESIDENT may use only BLKBAR, and a group that has diverged none: BARRIER_MISUSE. A cadence stream
raises PRIV. SNAPSHOT_COMPLETE (R467, R468) writes the image of a block or of a stream to the reserve where it has room and makes it the
latest; the log begins at it, and the block's interval is protected again unless its records have overflowed.
Where a clause rests on a choice of the model and not on the spec, it is that of log entries 26, 28. -/
def Obligations.ArrivalsAndFixedBarriers : Prop :=
  (∀ (s : State) (g la : BitVec 4) (d a : BitVec 8) (win r par e : BitVec 1) (k : BitVec 4) (st scope qd : BitVec 3) (n : BitVec 12) (n9 : BitVec 9),
    (∀ (bid : Nat) (f : UFile) (b : Block), s.ufile s.issue.who = some f → f.guard g = true → s.blocks[bid]? = some b →
      scopeFree s s.issue.who scope → s.barTarget win.toNat st.toNat a = .block bid →
      let who := s.issue.who
      let kn := k.toNat
      let own := if isStream who then max scope.toNat 1 else scope.toNat
      let sc := if win = 1 then max own 1 else own
      let whole : Prop := match who with
        | .group gid => ∀ x, s.groups[gid]? = some x → ∀ t ∈ x.liveLanes, (gid, t) ∈ s.issue.lanes
        | .stream _ => True
      let mine : List Nat := match who with
        | .group gid => s.groupCopies gid
        | .stream _ => []
      let w := b.word kn
      let on (u : State) : State := u.unwaitU.advanceU
      let i : Instr := .bard g a k win st scope
      (¬ whole ∨ w.init = false → exec i s = .next (s.trapU .barrierMisuse 0)) ∧
      (whole → w.init = true →
        (63 ≤ s.outstanding bid kn → exec i s = .next s.waitU) ∧
        (s.outstanding bid kn < 63 → mine = [] → w.arr < w.exp → exec i s = .next
          (on ((s.release (s.accOf who) sc).wordOp bid kn fun v => { v with arr := v.arr + 1, ws := max v.ws sc }))) ∧
        (s.outstanding bid kn < 63 → mine = [] → w.exp ≤ w.arr → exec i s = .next
          (on ((s.release (s.accOf who) sc).modBlock bid fun y => { y with held := y.held.set kn (y.heldOn kn ++ [sc]) }))) ∧
        (∀ (gid : Nat) (x : Group), who = .group gid → s.groups[gid]? = some x → s.outstanding bid kn < 63 → mine ≠ [] →
          (8 ≤ x.bards.length → exec i s = .next s.waitU) ∧
          (x.bards.length < 8 → ∃ m : Nat, sc ≤ m ∧ (∀ j ∈ mine, ∀ c, s.copies[j]? = some c → c.scope ≤ m) ∧
            (m = sc ∨ ∃ j ∈ mine, ∃ c, s.copies[j]? = some c ∧ c.scope = m) ∧
            exec i s = .next (on (s.modGroup gid fun y => { y with
              bards := y.bards ++ [{ k := kn, win := win == 1, stage := st.toNat, scope := m, copies := mine }] })))))) ∧
    (s.uguard g = false → ∀ i ∈ [Instr.binit g d a r k n, .barv g a k win st scope, .bard g a k win st scope, .bexp g a k win st n9,
      .bdrop g a k win st, .bwait g a k win st par e, .btry g la a k win st qd par e, .blkbar g, .clubar g, .diebar g],
      exec i s = .next s.advanceU)) ∧
  ((∀ (s : State) (g : BitVec 4) (gid : Nat) (x : Group) (b : Block) (k : Kernel), s.issue.who = .group gid → s.groups[gid]? = some x →
    x.u.guard g = true → s.blocks[x.bid]? = some b → s.kernels[b.kid]? = some k →
    let whole : Prop := ∀ t ∈ x.liveLanes, (gid, t) ∈ s.issue.lanes
    ∀ e ∈ [(Instr.blkbar g, Fixed.blk), (.clubar g, .clu), (.diebar g, .die)],
      let ok : Prop := whole ∧ (e.2 = .blk ∨ k.resident = true)
      let all : Prop := (∀ i ∈ s.members gid e.2, i ≠ gid → ∀ y, s.groups[i]? = some y → y.arrived e.2 = true) ∧
        (e.2 = .blk → k.rollback = true → (∀ c ∈ s.copies, c.bid = x.bid → c.open' = false) ∧ ∀ o ∈ s.tileOps, o.bid = x.bid → o.open' = false)
      (¬ ok → exec e.1 s = .next (s.trapU .barrierMisuse 0)) ∧
      (ok → gid ∈ s.members gid e.2 → all →
        ∃ t, exec e.1 s = .next t ∧ ∀ (i : Nat) (y : Group), s.groups[i]? = some y → ∃ y' : Group, t.groups[i]? = some y' ∧
          (i ∈ s.members gid e.2 → y'.arrived e.2 = false ∧ ∀ (j : Nat) (th : Thread), y.threads[j]? = some th → th.live = true →
            ∃ th' : Thread, y'.threads[j]? = some th' ∧ th'.pc = th.pc + 8 ∧ th'.wait = .none ∧ th'.v = th.v ∧ th'.p = th.p) ∧
          (i ∉ s.members gid e.2 → { y' with threads := y.threads } = y ∧ ∀ (j : Nat) (th : Thread), y.threads[j]? = some th →
            ∃ th' : Thread, y'.threads[j]? = some th' ∧ sameButMonitor th th')) ∧
      (ok → gid ∈ s.members gid e.2 → ¬ all →
        ∃ (t : State) (y : Group), exec e.1 s = .next t ∧ t.groups[gid]? = some y ∧ y.arrived e.2 = true ∧ y.u = x.u ∧
          ∀ (j : Nat) (th : Thread), x.threads[j]? = some th → ∃ th' : Thread, y.threads[j]? = some th' ∧ th'.pc = th.pc ∧ th'.v = th.v)) ∧
  (∀ (s : State) (g : BitVec 4) (sid : Nat), s.issue.who = .stream sid → s.uguard g = true →
    ∀ i ∈ [Instr.blkbar g, .clubar g, .diebar g], exec i s = .next (s.trapU .priv 0)) ∧
  (∀ (s : State) (bid : Nat) (b : Block), s.blocks[bid]? = some b →
    (∀ im, b.snapWriting = some im →
      let r := s.keepImage (s.ctxOfKernel b.kid) (s.snapImage bid im)
      exec (.snapshotComplete (.block bid)) s = .next (r.1.modBlock bid fun b => { b with
        snapLatest := some { im with logAt := 0, at_ := r.2 }, snapWriting := none, log := b.log.drop im.logAt, rollbacks := 0,
        covered := decide (b.log.length - im.logAt ≤ 4096) })) ∧
    (b.snapWriting = none → exec (.snapshotComplete (.block bid)) s = .next s)) ∧
  (∀ (s : State) (sid : Nat) (x : Stream), s.streams[sid]? = some x →
    (∀ im, x.snapWriting = some im →
      let r := s.keepImage (s.ctxOfKernel x.kid) (s.streamImage (x.asSnap im))
      exec (.snapshotComplete (.stream sid)) s = .next (r.1.modStream sid fun y => { y with
        snapLatest := some { im with logAt := 0, at_ := r.2 }, snapWriting := none, log := y.log.drop im.logAt })) ∧
    (x.snapWriting = none → exec (.snapshotComplete (.stream sid)) s = .next s)))

/-! ## Gates -/

/-- Where a gate instruction of an agent that does not wait yet is turned away (R427, R428, R431): a FREE gate raises GATE_ABSENT; a
partition without an entry, or without the rights, GATE_DENIED; a FROZEN gate makes the agent wait, noted among those that wait for it
to be OPEN; an entry without a token raises
GATE_RATE and counts the fault under the response that says so, and else stalls the agent behind those that wait there. With a false
guard the agent only goes on (R45).
Gate operations that are let in (R430 to R434): with the rights, and a token that an entry with a rate gives up, GSIG releases the
lines of pages bound to the gate and raises SEQ by one, staying at its greatest; GPOST writes the payload word, and with sig signals;
GREAD reads it; GTRY answers whether SEQ has reached the threshold, with an acquire of the gate's pages where it has; GWAIT acquires
there, and else parks and stays parked. In the step that raises SEQ, the parked operations whose thresholds it reaches leave the park
from the oldest on: each acquires for its agent, which then stands after its GWAIT. Each counts one gate operation and joins the replay
log of a protected block (R468). GQUERY needs no right and reads its selector.
Where a clause rests on a choice of the model and not on the spec, it is that of log entries 22, 26. -/
def Obligations.GateOperations : Prop :=
  (∀ (s : State) (g la : BitVec 4) (d a sb : BitVec 8) (qd wd sl : BitVec 3) (sig : BitVec 1) (u : UFile) (gi : Nat),
    s.ufile s.issue.who = some u → notReplaying s s.issue.who → gi = (u.getS a.toNat).toNat % 65536 → s.waitStamp = none →
    let gt := s.gate gi
    let part := (s.ctx (s.ctxOf s.issue.who)).part
    let same (t : State) : Prop := { t with gates := s.gates } = s ∧ ∀ j, t.gate j = s.gate j
    (u.guard g = true → ∀ e ∈ [(Instr.gsig g a, 8), (.gwait g a sb, 4), (.gtry g la d a qd sb, 4), (.gpost g a sig wd sb, if sig = 1 then 10 else 2),
        (.gread g la d a wd, 1)],
      (gt.gst = .free → ∃ s' : State, exec e.1 s = .next (s'.trapU .gateAbsent 0) ∧ same s') ∧
      (gt.gst ≠ .free → gt.entryOf part = none ∨ gt.rightsOf part &&& e.2 ≠ e.2 →
        ∃ s' : State, exec e.1 s = .next (s'.trapU .gateDenied 0) ∧ same s') ∧
      (gt.gst = .frozen → (gt.entryOf part).isSome → gt.rightsOf part &&& e.2 = e.2 → exec e.1 s = .next (s.modGate gi fun y =>
        { y with waiting := if (s.issue.who, s.hub.stamp) ∈ y.waiting then y.waiting else y.waiting ++ [(s.issue.who, s.hub.stamp)] }).waitU) ∧
      (∀ i x, gt.gst = .opened → gt.entryOf part = some i → gt.entries[i]? = some x → gt.rightsOf part &&& e.2 = e.2 →
        x.rate ≠ 0 → x.tokens = 0 →
        let g0 := s.modGate gi id
        (gt.resp = true → exec e.1 s = .next ((g0.modGate gi fun y => y.modEntry i fun z => { z with faults := min 65535 (z.faults + 1) }).trapU .gateRate 0)) ∧
        (gt.resp = false → exec e.1 s = .next (g0.modGate gi fun y => { y.modEntry i fun z => { z with stalls := min 65535 (z.stalls + 1) } with
          stalled := y.stalled ++ [{ who := s.issue.who, stamp := s.hub.stamp, entry := i, since := s.clockOn (s.accOf s.issue.who).die }] }).waitU))) ∧
    (u.guard g = false → ∀ i ∈ [Instr.gsig g a, .gwait g a sb, .gtry g la d a qd sb, .gpost g a sig wd sb, .gread g la d a wd,
      .gquery g la d a sl], exec i s = .next s.advanceU)) ∧
  (∀ (s : State) (g la : BitVec 4) (d a sb : BitVec 8) (qd wd sl : BitVec 3) (u : UFile) (gi i : Nat) (x : GateEntry),
    s.ufile s.issue.who = some u → u.guard g = true → notReplaying s s.issue.who → gi = (u.getS a.toNat).toNat % 65536 →
    let gt := s.gate gi
    let who := s.issue.who
    let part := (s.ctx (s.ctxOf who)).part
    let ac := s.accOf who
    let done (kind : Nat) (vals : List Word) (w : State) : State :=
      ((w.bump (s.ctxOf who) 10 1).logOp who none (8 + kind) gi vals).unwaitU.advanceU
    let g0 := s.modGate gi id
    let paid : State := if x.rate = 0 then g0 else g0.modGate gi fun y => y.modEntry i fun z => { z with tokens := z.tokens - 1 }
    let after (w : State) (stamp : Nat) (t : Thread) : Thread :=
      if t.wait.stamp = some stamp then { t with wait := .none, pc := t.pc + 8, prog := 0, tinsn := t.tinsn + 1, ready := w.tick } else t
    let on (w : State) (who : Agent) (stamp : Nat) : State := match who with
      | .group k => w.modGroup k fun y => { y with threads := y.threads.map (after w stamp) }
      | .stream k => w.modStream k fun y => if y.wait.stamp = some stamp then { y with wait := .none, pc := y.pc + 8 } else y
    let wake (w : State) (q : Parked) : State :=
      let w := w.modGate gi fun y => { y with parked := y.parked.erase q }
      on (((w.acquireGate (w.accOf q.who) gi).bump (w.ctxOf q.who) 10 1).logOp q.who none 9 gi []) q.who q.stamp
    let signal (w : State) : State :=
      let w := (w.releaseGate ac gi).modGate gi fun y => { y with seq := if y.seq = BitVec.allOnes 64 then y.seq else y.seq + 1 }
      ((w.gate gi).parked.filter fun q => decide (q.t ≤ (w.gate gi).seq)).foldl wake w
    let late (regs : List (Nat × Word)) (preds : List (Nat × Bool)) (w : State) : State := w.modU who fun v => v.late la.toNat regs preds
    let lo (v : BitVec 64) : Word := v.setWidth 32
    let hi (v : BitVec 64) : Word := v.extractLsb' 32 32
    let pr (v : BitVec 64) : List (Nat × Word) := [(d.toNat, lo v), (d.toNat + 1, hi v)]
    let t := u.getS2 sb.toNat
    let may (need : Nat) : Prop := s.waitStamp = none ∧ gt.gst = .opened ∧ gt.entryOf part = some i ∧ gt.entries[i]? = some x ∧
      gt.rightsOf part &&& need = need ∧ gt.stalled = [] ∧ (x.rate ≠ 0 → 0 < x.tokens)
    (may 8 → exec (.gsig g a) s = .next (done 0 [] (signal paid))) ∧
    (may 2 → exec (.gpost g a 0 wd sb) s = .next (done 3 [] (paid.modGate gi fun y => { y with pay := y.pay.set wd.toNat t }))) ∧
    (may 10 → exec (.gpost g a 1 wd sb) s = .next (done 3 [] (signal (paid.modGate gi fun y => { y with pay := y.pay.set wd.toNat t })))) ∧
    (may 1 → ∀ p, gt.pay[wd.toNat]? = some p → exec (.gread g la d a wd) s = .next (done 4 [lo p, hi p] (late (pr p) [] paid))) ∧
    (may 4 → t ≤ gt.seq → exec (.gtry g la d a qd sb) s =
      .next (done 2 [lo gt.seq, hi gt.seq, 1] (late (pr gt.seq) [(qd.toNat, true)] (paid.acquireGate ac gi)))) ∧
    (may 4 → ¬ t ≤ gt.seq → exec (.gtry g la d a qd sb) s =
      .next (done 2 [lo gt.seq, hi gt.seq, 0] (late (pr gt.seq) [(qd.toNat, false)] paid))) ∧
    (may 4 → t ≤ gt.seq → exec (.gwait g a sb) s = .next (done 1 [] (paid.acquireGate ac gi))) ∧
    (may 4 → ¬ t ≤ gt.seq → exec (.gwait g a sb) s = .next (paid.modGate gi fun y =>
      { y with parked := y.parked ++ [{ who := who, stamp := s.hub.stamp, entry := i, t := t }] }).waitU) ∧
    (∀ q ∈ gt.parked, q.who = who → some q.stamp = s.waitStamp → exec (.gwait g a sb) s = .next s.waitU) ∧
    (∀ y, gt.gst ≠ .free → gt.entryOf part = some i → gt.entries[i]? = some y →
      let answer : Nat := if sl = 0 then (if gt.gst = .opened then 1 else 2) + 16 * y.rights.toNat + 256 * b2n gt.resp
        else if sl = 1 then y.tokens + 256 * y.burst.toNat else if sl = 2 then gt.seq.toNat % 2 ^ 32
        else if sl = 3 then gt.seq.toNat / 2 ^ 32 else gt.parked.length
      exec (.gquery g la d a sl) s = .next (done 5 [BitVec.ofNat 32 answer] (late [(d.toNat, BitVec.ofNat 32 answer)] [] s))) ∧
    (gt.gst = .free ∨ gt.entryOf part = none → exec (.gquery g la d a sl) s = .next (done 5 [0] (late [(d.toNat, 0)] [] s))))

/-- The events of gates (R428): a bucket gains a token, up to BURST, at a multiple of its period and at no other time; an operation of a
running context that has stalled for 10 microseconds with no token for it leaves with GATE_RATE, its fault counted, unless its entry has
come to charge nothing (R494).
The management of gates (R426, R427, R429, R435): OPEN takes a FREE gate for its owner with nothing in it; CLOSE frees one,
and a stream parked or stalled on it, or waiting for it to be OPEN, takes GATE_ABSENT; SETACL sets an entry with its bucket full, a
stream parked there whose partition then lacks WAIT takes GATE_DENIED, and it refuses a partition that another valid entry names and a
burst of 0; SETRESP sets the response; EXPORT
freezes an open gate and writes its image of 4 KiB at GATEPA; IMPORT opens a FREE gate from one. Each leaves its status, and what
it refuses changes nothing else.
Where a clause rests on a choice of the model and not on the spec, it is that of log entries 24, 26, 100. -/
def Obligations.GateManagement : Prop :=
  ((∀ (s : State) (gi e : Nat) (x : GateEntry), (s.gate gi).entries[e]? = some x →
    let period := 1000000 / x.rate.toNat * 12
    (x.valid = true → x.rate ≠ 0 → 0 < period → s.tick / period ≠ (s.tick - 10) / period → ∃ t, exec (.gateToken gi e) s = .next t ∧
      { t with gates := s.gates } = s ∧ t.gate gi = { s.gate gi with entries := (s.gate gi).entries.set e { x with tokens := min x.burst.toNat (x.tokens + 1) } }) ∧
    (x.valid = false ∨ x.rate = 0 ∨ s.tick / period = (s.tick - 10) / period → exec (.gateToken gi e) s = .next s)) ∧
  (∀ (s : State) (sid : Nat) (x : Stream) (gi : Nat) (gt : Gate) (q : Stalled), s.streams[sid]? = some x → s.gates = [(gi, gt)] →
    gt.gst = .opened → gt.stalled = [q] → q.who = .stream sid →
    let tokens := ((gt.entries[q.entry]?).map (·.tokens)).getD 0
    let rate := ((gt.entries[q.entry]?).map (·.rate)).getD 0
    let runs : Prop := (s.ctx (s.ctxOf (.stream sid))).st = .running
    let now := s.clockOn (s.accOf (.stream sid)).die
    (¬ runs ∨ now < q.since + 10000 ∨ 0 < tokens ∨ rate = 0 → exec (.gateStallTimeout (.stream sid)) s = .next s) ∧
    (runs → q.since + 10000 ≤ now → tokens = 0 → rate ≠ 0 → ∃ (t : State) (y : Stream), exec (.gateStallTimeout (.stream sid)) s = .next t ∧
      t.gate gi = { gt with stalled := [], entries := gt.entries.modify q.entry fun z => { z with faults := min 65535 (z.faults + 1) } } ∧
      t.streams[sid]? = some y ∧ y.pc = x.pc ∧ y.standing = some { cause := 0x10, esc := false, val := 0, at_ := s.clock }))) ∧
  (∀ (s : State) (gi e part : Nat) (arg : Word) (resp : Bool),
    let gt := s.gate gi
    let sts (t : State) (n : BitVec 4) : Prop := t.hub = { s.hub with gateSts := n }
    let refuse (i : Instr) (n : BitVec 4) : Prop := exec i s = .next (s.modHub fun h => { h with gateSts := n })
    let give (i : Instr) (x : Gate) : Prop := ∃ t, exec i s = .next t ∧ sts t 2 ∧ t.gate gi = x ∧ { t with gates := s.gates, hub := s.hub } = s ∧
      ∀ j, j ≠ gi → t.gate j = s.gate j
    let v := arg.getLsbD 31
    let p := (arg.extractLsb' 26 5).toNat
    let burst := arg.extractLsb' 14 8
    let entry : GateEntry := { valid := v, part := p, rights := arg.extractLsb' 22 4, burst := burst, rate := arg.setWidth 14, tokens := burst.toNat, faults := 0, stalls := 0 }
    let dup : Prop := ∃ j < 8, j ≠ e ∧ ∃ y, gt.entries[j]? = some y ∧ y.valid = true ∧ y.part = p
    (gt.gst = .free → give (.gateOpen gi part) { Gate.free with gst := .opened, owner := part } ∧
      refuse (.gateClose gi) 3 ∧ refuse (.setacl gi e arg) 3 ∧ refuse (.setresp gi resp) 3 ∧ refuse (.exportGate gi) 3 ∧
      (∃ t, exec (.importGate gi) s = .next t ∧ sts t 2 ∧ (t.gate gi).gst = .opened ∧ (t.gate gi).parked = [] ∧
        (t.gate gi).seq = BitVec.ofNat 64 (leNat (s.cohBytes (s.hub.gatepa.toNat + 8) 8)) ∧ { t with gates := s.gates, hub := s.hub } = s)) ∧
    (gt.gst ≠ .free → refuse (.gateOpen gi part) 3 ∧ refuse (.importGate gi) 3 ∧
      (gt.parked = [] → gt.stalled = [] → gt.waiting = [] → give (.gateClose gi) Gate.free) ∧
      (∀ (sid stamp : Nat) (y : Stream), ((∃ q, gt.parked = [q] ∧ q.who = .stream sid ∧ q.stamp = stamp) ∧ gt.stalled = [] ∧ gt.waiting = []) ∨
          ((∃ q, gt.stalled = [q] ∧ q.who = .stream sid ∧ q.stamp = stamp) ∧ gt.parked = [] ∧ gt.waiting = []) ∨
          (gt.waiting = [(.stream sid, stamp)] ∧ gt.parked = [] ∧ gt.stalled = []) → s.streams[sid]? = some y →
        ∃ (t : State) (y' : Stream), exec (.gateClose gi) s = .next t ∧ sts t 2 ∧ t.gate gi = Gate.free ∧ t.streams[sid]? = some y' ∧
          y'.pc = y.pc ∧ y'.wait = .none ∧ y'.standing = some { cause := 0x11, esc := false, val := 0, at_ := s.clock }) ∧
      (∀ (q : Parked) (sid : Nat) (y : Stream), gt.parked = [q] → ¬ dup → (v = true → burst ≠ 0) → e < gt.entries.length → q.who = .stream sid → s.streams[sid]? = some y →
        (({ gt with entries := gt.entries.set e entry } : Gate).rightsOf (s.ctx (s.ctxOf q.who)).part &&& 4) = 0 →
        ∃ (t : State) (y' : Stream), exec (.setacl gi e arg) s = .next t ∧ sts t 2 ∧
          t.gate gi = { gt with entries := gt.entries.set e entry, parked := [] } ∧ t.streams[sid]? = some y' ∧
          y'.pc = y.pc ∧ y'.wait = .none ∧ y'.standing = some { cause := 0x0F, esc := false, val := 0, at_ := s.clock }) ∧ give (.setresp gi resp) { gt with resp := resp } ∧
      (dup → refuse (.setacl gi e arg) 4) ∧ (¬ dup → v = true → burst = 0 → refuse (.setacl gi e arg) 5) ∧
      (¬ dup → (v = true → burst ≠ 0) → e < gt.entries.length → gt.parked = [] → give (.setacl gi e arg) { gt with entries := gt.entries.set e entry })) ∧
    (gt.gst = .frozen → refuse (.exportGate gi) 3) ∧
    (gt.gst = .opened →
      let frozen := s.modGate gi fun y => { y with gst := .frozen }
      exec (.exportGate gi) s = .next ((frozen.cohWrite (hubAcc noCtx 0) s.hub.gatepa.toNat (frozen.gateImage { gt with gst := .frozen })).modHub
        fun h => { h with gateSts := 2 }) ∧ (frozen.gateImage { gt with gst := .frozen }).length = 4096))

/-! ## Queues, events and kernels -/

/-- EVSIG, EVWAIT and EVENT_COUNTER_WRITE (R217, R221, R222): a signal releases, then adds to the counter of the context, which stays at
its greatest value of 48 bits, or sets it; a write of the counter's register sets its low 48 bits, unless the context is FREE. In the
same step the waits on the counter whose threshold it reaches end, from the oldest on: each acquires for its agent, which then stands
after its EVWAIT. EVWAIT goes on with an acquire where the counter has reached its threshold, and else waits. With a false guard the
agent only goes on.
LAUNCH (R219): through an open queue, the record's 512 bytes checked and read, behind a release at PART, they become the youngest
entry of the queue, with the grants of the launching kernel; a queue without an entry beyond those reserved for the LAUNCHes before it
makes the agent wait its turn, and a record that waits for a page keeps that turn; a CLOSED queue raises PRIV, and a record that fails
its checks or its reads the cause. The record is read in pieces, each within 64 aligned bytes, that are its 512 bytes in order. QSTAT (R220) reads the queue's room, state and
marks. With a false guard LAUNCH only goes on.
Where a clause rests on a choice of the model and not on the spec, it is that of log entries 15, 26. -/
def Obligations.EventCountersAndLaunches : Prop :=
  (∀ (s : State) (g : BitVec 4) (a sb : BitVec 8) (u : UFile), s.ufile s.issue.who = some u → notReplaying s s.issue.who →
    let who := s.issue.who
    let ctx := s.ctxOf who
    let n := (u.getS a.toNat).toNat % 256
    let ac := s.accOf who
    let threshold : BitVec 48 := (u.getS2 sb.toNat).setWidth 48
    let after (w : State) (stamp : Nat) (t : Thread) : Thread :=
      if t.wait.stamp = some stamp then { t with wait := .none, pc := t.pc + 8, prog := 0, tinsn := t.tinsn + 1, ready := w.tick } else t
    let on (w : State) (who : Agent) (stamp : Nat) : State := match who with
      | .group k => w.modGroup k fun y => { y with threads := y.threads.map (after w stamp) }
      | .stream k => w.modStream k fun y => if y.wait.stamp = some stamp then { y with wait := .none, pc := y.pc + 8 } else y
    let wake (u : State) (w : EvWait) : State := on (u.acquire (u.accOf w.who) 3) w.who w.stamp
    let set' (s t : State) (c m : Nat) (v : BitVec 48) : Prop := ∃ w : State, { w with ctxs := s.ctxs } = s ∧ (w.ctx c).event m = v ∧
      (∀ j, j ≠ m → (w.ctx c).event j = (s.ctx c).event j) ∧ (∀ j, j ≠ c → w.ctx j = s.ctx j) ∧
      (w.ctx c).evwaits = (s.ctx c).evwaits.filter (fun x => !(x.ev == m && decide (x.t ≤ v))) ∧
      t = ((s.ctx c).evwaits.filter fun x => x.ev == m && decide (x.t ≤ v)).foldl wake w
    let mine (w : EvWait) : Bool := w.who == who && some w.stamp == s.waitStamp
    let met : Prop := threshold ≤ (s.ctx ctx).event n
    (u.guard g = true →
      (∃ t, exec (.evsig g a 0 sb) s = .next (t.logOp who none 5 n []).advanceU ∧
        set' (s.release ac 3) t ctx n (BitVec.ofNat 48 (min (2 ^ 48 - 1) (((s.ctx ctx).event n).toNat + (u.getS sb.toNat).toNat)))) ∧
      (∃ t, exec (.evsig g a 1 sb) s = .next (t.logOp who none 5 n []).advanceU ∧ set' (s.release ac 3) t ctx n threshold) ∧
      (met → exec (.evwait g a sb) s = .next (s.acquire ac 3).unwaitU.advanceU) ∧
      (¬ met → (∃ w ∈ (s.ctx ctx).evwaits, mine w = true) → exec (.evwait g a sb) s = .next s.waitU) ∧
      (¬ met → (∀ w ∈ (s.ctx ctx).evwaits, mine w = false) → exec (.evwait g a sb) s = .next (s.modCtx ctx fun c => { c with
        evwaits := c.evwaits ++ [{ who := who, stamp := s.waitStamp.getD s.hub.stamp, ev := n, t := threshold }] }).waitU)) ∧
    (u.guard g = false → exec (.evsig g a 0 sb) s = .next s.advanceU ∧ exec (.evsig g a 1 sb) s = .next s.advanceU ∧
      exec (.evwait g a sb) s = .next s.advanceU) ∧
    (∀ c m (v : BitVec 64), ((s.ctx c).st = .free → exec (.eventCounterWrite c m v) s = .next s) ∧
      ((s.ctx c).st ≠ .free → ∃ t, exec (.eventCounterWrite c m v) s = .next t ∧ set' s t c (m % 256) (v.setWidth 48)))) ∧
  (∀ (s : State) (g la : BitVec 4) (d a : BitVec 8) (q gr : BitVec 4) (u : UFile) (ke : Kernel), s.ufile s.issue.who = some u →
    notReplaying s s.issue.who → s.kernels[s.kidOf s.issue.who]? = some ke →
    let who := s.issue.who
    let ctx := s.ctxOf who
    let x := s.queue ctx q.toNat
    let off := (u.getS a.toNat).toNat
    let gt := u.getG gr.toNat
    let ac := s.accOf who
    let va := gt.base + off
    let same (s t : State) : Prop := { t with ctxs := s.ctxs } = s
    let i : Instr := .launch g a q gr
    let entry (bytes : List Byte) : Kernel := { ctx := ctx, queue := q.toNat, inQueue := true, record := bytes, kst := .queued, parent := some (s.kidOf who), parentGrants := some ke.snapshotGrants, positions := [], code := 0, retired := 0, faulted := 0, prio := 0 }
    let passes : Prop := x.opened = true ∧ grantCheck ac gt gt.rd off 512 = none ∧ off % 64 = 0
    let ahead : Nat := match s.waitStamp.bind fun k => x.waiting.idxOf? k with
      | some i => i
      | none => x.waiting.length
    let stay (u : State) : State := if (∃ k, s.waitStamp = some k ∧ k ∈ x.waiting) then u.waitU else (u.modQueue ctx q.toNat fun y =>
      { y with waiting := y.waiting ++ [s.waitStamp.getD s.hub.stamp] }).waitU
    let found := (s.release ac 3).readRecord ac (s.bidOf who) (alignedPieces va 512)
    ((alignedPieces va 512).flatMap fun p => (List.range p.2).map (p.1 + ·)) = (List.range 512).map (va + ·) ∧
    (∀ p ∈ alignedPieces va 512, 0 < p.2 ∧ p.1 / 64 = (p.1 + p.2 - 1) / 64) ∧
    (u.guard g = true →
      (x.opened = false → ∃ s' : State, exec i s = .next (s'.trapU .priv 0) ∧ same s s') ∧
      (x.opened = true → ∀ c, grantCheck ac gt gt.rd off 512 = some c → ∃ s' : State, exec i s = .next (s'.trapU c va) ∧ same s s') ∧
      (x.opened = true → grantCheck ac gt gt.rd off 512 = none → off % 64 ≠ 0 → ∃ s' : State, exec i s = .next (s'.trapU .misalign va) ∧ same s s') ∧
      (passes → 64 ≤ (s.entries ctx q.toNat).length + ahead → exec i s = .next (stay s)) ∧
      (passes → (s.entries ctx q.toNat).length + ahead < 64 →
        (∀ c v, found.2.1 = .trap c v → ∃ s' : State, exec i s = .next (s'.trapU c v) ∧ same found.1 s') ∧
        (found.2.1 = .wait → exec i s = .next (stay found.1)) ∧
        (found.2.1 = .done → ∃ w : State, exec i s = .next (w.logOp who none 4 va []).unwaitU.advanceU ∧
          w.kernels = s.kernels ++ [entry found.2.2] ∧ (w.queue ctx q.toNat).waiting = (match s.waitStamp with
            | some k => x.waiting.erase k
            | none => x.waiting) ∧
          { w with kernels := found.1.kernels, ctxs := found.1.ctxs } = found.1))) ∧
    (u.guard g = false → exec i s = .next s.advanceU) ∧
    UniformForm (.qstat g la d q) s (fun v => if v.guard g then v.late la.toNat [(d.toNat, BitVec.ofNat 32
      ((if x.opened then 64 - (s.entries ctx q.toNat).length else 0) +
        256 * (if x.opened = false then 0 else if (s.ctx ctx).st ≠ .ready ∧ (s.ctx ctx).st ≠ .running then 3
          else if s.entries ctx q.toNat = [] then 1 else 2) + 2 ^ 11 * b2n x.torn + 2 ^ 12 * b2n x.qovf))] [] else v))

/-- The queue port (R208): a beat of 64 bytes at its place is gathered, and the beat at 0x1C0 commits the record when all eight are
there and the queue has an entry that no waiting LAUNCH claims; a write that is no beat sets TORN, as does a commit of fewer beats,
and a full queue QOVF, the record dropped. A CLOSED queue takes nothing. QOPEN and QCLOSE (R206) open and close a queue of a context of the partition that is past BOUND and not dead; closing discards
its QUEUED kernels.
Where a clause rests on a choice of the model and not on the spec, it is that of log entries 74, 91, 92. -/
def Obligations.QueuePortsAndCommands : Prop :=
  (∀ (s : State) (ctx q off : Nat) (data : List Byte) (c : Ctx), s.ctx ctx = c → c.queues.length = 16 → q < 16 →
    let x := s.queue ctx q
    let beats := tset x.beats (off / 64) data
    let entry : Kernel := { ctx := ctx, queue := q, inQueue := true, record := beats.flatMap (·.2), kst := .queued, parent := none, parentGrants := none, positions := [], code := 0, retired := 0, faulted := 0, prio := 0 }
    let only (t : State) (y : Queue) : Prop := t.queue ctx q = y ∧ { t with ctxs := s.ctxs } = s
    (x.opened = false → exec (.queuePortBeat ctx q off data) s = .next s) ∧
    (x.opened = true → data.length ≠ 64 ∨ off % 64 ≠ 0 ∨ 512 ≤ off →
      ∃ t, exec (.queuePortBeat ctx q off data) s = .next t ∧ only t { x with torn := true }) ∧
    (x.opened = true → data.length = 64 → off % 64 = 0 → off < 448 →
      ∃ t, exec (.queuePortBeat ctx q off data) s = .next t ∧ only t { x with beats := beats }) ∧
    (x.opened = true → data.length = 64 → off = 448 →
      (beats.length ≠ 8 → ∃ t, exec (.queuePortBeat ctx q off data) s = .next t ∧ only t { x with beats := [], torn := true }) ∧
      (beats.length = 8 → 64 ≤ (s.entries ctx q).length + x.waiting.length → ∃ t, exec (.queuePortBeat ctx q off data) s = .next t ∧
        only t { x with beats := [], qovf := true }) ∧
      (beats.length = 8 → (s.entries ctx q).length + x.waiting.length < 64 → ∃ t, exec (.queuePortBeat ctx q off data) s = .next t ∧
        t.queue ctx q = { x with beats := [] } ∧ t.kernels = s.kernels ++ [entry] ∧
        { t with ctxs := s.ctxs, kernels := s.kernels } = s))) ∧
  (∀ (s : State) (part ctx q prio : Nat) (c : Ctx), s.ctx ctx = c → c.queues.length = 16 → q < 16 →
    let x := s.queue ctx q
    let refuse (n : BitVec 4) : Prop := ∀ i ∈ [Instr.qopen part ctx q prio, .qclose part ctx q],
      exec i s = .next (s.modHub fun h => { h with drSts := n })
    (s.partLive part = false → refuse 3) ∧
    (s.partLive part = true → c.st = .free ∨ c.part ≠ part → refuse 9) ∧
    (s.partLive part = true → c.st ≠ .free → c.part = part → c.st = .bound ∨ c.st = .dead → refuse 3) ∧
    (s.partLive part = true → c.st ≠ .free → c.part = part → c.st ≠ .bound → c.st ≠ .dead →
      (∃ t, exec (.qopen part ctx q prio) s = .next t ∧ t.hub = { s.hub with drSts := 2 } ∧ { t with hub := s.hub, ctxs := s.ctxs } = s ∧
        t.queue ctx q = { (if x.opened then x else Queue.closed) with opened := true, prio := prio % 8 }) ∧
      (∃ t, exec (.qclose part ctx q) s = .next t ∧ t.hub = { s.hub with drSts := 2 } ∧ { t with hub := s.hub, ctxs := s.ctxs, kernels := s.kernels } = s ∧
        (t.queue ctx q).opened = false ∧ ∀ (k : Nat) (y : Kernel), s.kernels[k]? = some y → t.kernels[k]? = some
          (if x.opened = true ∧ y.ctx = ctx ∧ y.queue = q ∧ y.inQueue = true then
            { y with inQueue := false, kst := if y.kst = .queued then .discarded else y.kst } else y))))

/-! ## Tiles -/

/-- TZERO, TMMA, TMMAS and TDRAIN at issue (R331): with the handle's block placed, the tiles it names below ACCN, its record aligned, its
footprints below the barrier words and its word initialised, the operation enters the queue of the core's matrix unit with its record
as the registers stand (with CH = 1 S[d+1] is not read), and the stream goes on; with 8 operations on the unit, 32 of the stream, or no
room for its arrival it waits; each failed check traps with its cause, in that order. A handle that names no block raises PAD_BOUNDS,
one whose block is not yet placed is waited for.
Where a clause rests on a choice of the model and not on the spec, it is that of log entry 26. -/
def Obligations.TileIssue : Prop :=
  ∀ (s : State) (g : BitVec 4) (d a : BitVec 8) (kc sl : BitVec 2) (an am k gd : BitVec 4) (fa fb : BitVec 3) (ch e z ci ge : BitVec 1)
    (sid bid : Nat) (x : Stream) (kr : Kernel) (b : Block), s.issue.who = .stream sid → s.streams[sid]? = some x →
    s.kernels[x.kid]? = some kr → x.u.guard g = true → s.blocks[bid]? = some b →
    ∀ i ∈ [(Instr.tzero g a an k e, 0, [an], false), (.tmma g d a kc an fa fb ch am k e z ci, 4, if ch = 1 then [an, am] else [an], ch == 1),
        (.tmmas g d a kc an fa fb k e z sl, 6, [an], false), (.tdrain g d a an fa gd ge ci k e z, 2, [an], false)],
      (s.handleTarget sid (x.u.getS a.toNat) = .bad → exec i.1 s = .next (s.trapU .padBounds 0)) ∧
      (s.handleTarget sid (x.u.getS a.toNat) = .wait → exec i.1 s = .next s.waitU) ∧
      (s.handleTarget sid (x.u.getS a.toNat) = .block bid →
      let r : List Word := (List.range i.2.1).map fun j => if i.2.2.2 && j == 1 then 0 else x.u.getS (d.toNat + j)
      let named : Prop := ∀ t ∈ i.2.2.1, t.toNat < kr.accn
      let inside : Prop := ∀ f ∈ tileFoot kr i.1 r, f.1 + f.2 + 128 ≤ b.padsz
      let word : Prop := e = 1 → (b.word k.toNat).init = true
      let full : Prop := 8 ≤ s.unitOps b.coreNo ∨ 32 ≤ s.tileOps.countP (fun o => o.open' && o.sid == sid) ∨ (e = 1 ∧ 63 ≤ s.outstanding bid k.toNat)
      let o : TileOp := { sid := sid, bid := bid, ins := i.1, handle := x.u.getS a.toNat, rec_ := r, prog := 0, ost := .queued, cause := 0, started := false, rgHit := none, tainted := false, acquired := false, scales := [], seq := x.tileSeq, phase := none, slot := none }
      (¬ named → exec i.1 s = .next (s.trapU .padBounds 0)) ∧
      (named → recordAligned kr i.1 r = false → exec i.1 s = .next (s.trapU .misalign (recWord r 0))) ∧
      (named → recordAligned kr i.1 r = true → ¬ inside → ∃ f ∈ tileFoot kr i.1 r, b.padsz < f.1 + f.2 + 128 ∧
        exec i.1 s = .next (s.trapU .padBounds f.1)) ∧
      (named → recordAligned kr i.1 r = true → inside → ¬ word → exec i.1 s = .next (s.trapU .barrierMisuse 0)) ∧
      (named → recordAligned kr i.1 r = true → inside → word → full → exec i.1 s = .next s.waitU) ∧
      (named → recordAligned kr i.1 r = true → inside → word → ¬ full → exec i.1 s = .next
        ((({ s with tileOps := s.tileOps ++ [o] } : State).modStream sid fun y => { y with tileSeq := y.tileSeq + 1 }).unwaitU.advanceU)))

/-- TFENCE, TWAIT and TSTAT of a stream (R336, R338, R339): a wait goes on, with an acquire at CLUSTER of the operations it has waited
for, once no selected operation of the stream is open, and else waits; under ROLLBACK a TWAIT.all that goes on begins the stream's
image (R467), in the slot that does not hold the latest; the status is the number of those open, above it of those started, and
whether a RANGE_GUARD awaits the stream, from a complete drain or from one that goes on; a fence only goes on.
With a false guard tile instructions only go on.
TILE_OP_START and TILE_OP_COMPLETE (R322, R323, R332, R337): the oldest open operation of the resident blocks of a core starts when
its block is placed and its context runs, with the scale vectors of a drain as they stand then (R328); TZERO then zeroes its tile; an
operation whose steps are all done is complete, the RANGE_GUARD of a drain then awaiting its stream, and with E it arrives at its word
at CLUSTER, held there where the phase is full; the operation notes the phase to which its arrival belongs.
Where a clause rests on a choice of the model and not on the spec, it is that of log entries 23, 26, 54, 109. -/
def Obligations.TileWaitsAndEnds : Prop :=
  (∀ (s : State) (g la an am k gd : BitVec 4) (d a : BitVec 8) (sid : Nat) (x : Stream) (kr : Kernel), s.issue.who = .stream sid →
    s.streams[sid]? = some x → s.kernels[x.kid]? = some kr →
    exec (.tfence g) s = .next s.advanceU ∧
    (x.u.guard g = true → ∀ (all : BitVec 1) (bid : Nat), all = 1 ∨ s.handleTarget sid (x.u.getS a.toNat) = .block bid →
      let picks (o : TileOp) : Bool := o.sid == sid && (all == 1 || (o.bid == bid && (tileNames o.ins).contains an.toNat))
      let mine : List TileOp := s.tileOps.filter fun o => picks o && o.open'
      let keep (u : State) : State := if all = 1 ∧ kr.rollback = true then u.modStream sid fun y => { y with
        replay := [], snapWriting := some { pc := y.pc, u := y.u, rstack := y.rstack, hcsp := y.hcsp, tps := y.tps, tileSeq := y.tileSeq, logAt := y.log.length, at_ := none } } else u
      let guardWaits : Prop := x.rgWait.isSome = true ∨ ∃ o ∈ s.tileOps, o.sid = sid ∧ o.open' = true ∧ o.rgHit.isSome = true
      (mine = [] → exec (.twait g a all an) s = .next (keep ((s.acquire (s.accOf (.stream sid)) 1).acquireTiles picks).unwaitU.advanceU)) ∧
      (mine ≠ [] → exec (.twait g a all an) s = .next s.waitU) ∧
      ∀ w : Bool, (w = true ↔ guardWaits) →
        let v : Word := BitVec.ofNat 32 (mine.length + 256 * mine.countP (·.started) + 2 ^ 16 * b2n w)
        exec (.tstat g la d a all an) s =
          .next ((s.modStream sid fun y => { y with u := y.u.late la.toNat [(d.toNat, v)] [] }).unwaitU.advanceU)) ∧
    (x.u.guard g = true → s.handleTarget sid (x.u.getS a.toNat) = .bad → exec (.twait g a 0 an) s = .next (s.trapU .padBounds 0) ∧
      exec (.tstat g la d a 0 an) s = .next (s.trapU .padBounds 0)) ∧
    (x.u.guard g = true → s.handleTarget sid (x.u.getS a.toNat) = .wait → exec (.twait g a 0 an) s = .next s.waitU ∧
      exec (.tstat g la d a 0 an) s = .next s.waitU) ∧
    (x.u.guard g = false → ∀ (kc sl : BitVec 2) (fa fb : BitVec 3) (ch e z ci ge all : BitVec 1),
      ∀ i ∈ [Instr.tzero g a an k e, .tmma g d a kc an fa fb ch am k e z ci, .tmmas g d a kc an fa fb k e z sl,
        .tdrain g d a an fa gd ge ci k e z, .twait g a all an, .tstat g la d a all an], exec i s = .next s.advanceU)) ∧
  (∀ (s : State) (oid : Nat) (o : TileOp) (b : Block), s.tileOps[oid]? = some o → s.blocks[o.bid]? = some b → b.bst = .placed →
    b.trigger = none → (s.ctx (s.ctxOf (.stream o.sid))).st = .running →
    let first : Prop := ∀ j < oid, ∀ p c, s.tileOps[j]? = some p → p.open' = true → s.blocks[p.bid]? = some c → c.bst = .placed → c.coreNo ≠ b.coreNo
    let started (scales : List Byte) := s.modTile oid fun p => { p with ost := .running, started := true, scales := if o.started then o.scales else scales }
    (o.ost = .queued → first → ∀ g d a an fd gd ge ci k e z kr, o.ins = .tdrain g d a an fd gd ge ci k e z → s.kernelOf o.bid = some kr →
      exec (.tileOpStart oid) s = .next (started (if slotScale (kr.slot fd.toNat) = 0 then [] else b.padRead (16 * slotSoff (kr.slot fd.toNat)) 512))) ∧
    (o.ost = .queued → first → (∀ g a an k e, o.ins ≠ .tzero g a an k e) → (∀ g d a an fd gd ge ci k e z, o.ins ≠ .tdrain g d a an fd gd ge ci k e z) →
      exec (.tileOpStart oid) s = .next (started [])) ∧
    (o.ost = .queued → first → ∀ g a an k e, o.ins = .tzero g a an k e → exec (.tileOpStart oid) s = .next
      ((started []).modBlock o.bid fun c => { c with tiles := c.tiles.set an.toNat [], tilePoison := c.tilePoison.filter (· != an.toNat) })) ∧
    (o.ost ≠ .queued ∨ ¬ first → exec (.tileOpStart oid) s = .next s) ∧
    (o.ost = .running → tileSteps o.ins ≤ o.prog → o.tainted = false →
      let done (phase : Option Nat) : State :=
        let u := s.modTile oid fun p => { p with ost := .complete, phase := phase }
        match o.rgHit with
        | some n => u.modStream o.sid fun x => { x with rgWait := some (x.rgWait.getD n) }
        | none => u
      (o.word = none → exec (.tileOpComplete oid) s = .next (done none)) ∧
      (∀ k, o.word = some k → (b.word k).arr < (b.word k).exp → exec (.tileOpComplete oid) s = .next ((done (some (b.phase k))).wordOp o.bid k fun w =>
        { w with arr := w.arr + 1, ws := max w.ws 1 })) ∧
      (∀ k, o.word = some k → (b.word k).exp ≤ (b.word k).arr → exec (.tileOpComplete oid) s = .next
        ((done (some (b.phase k + 1 + (b.heldOn k).length / (b.word k).exp))).modBlock o.bid fun c => { c with held := c.held.set k (c.heldOn k ++ [1]) }))) ∧
    (o.ost ≠ .running ∨ o.prog < tileSteps o.ins → exec (.tileOpComplete oid) s = .next s))

/-- TILE_CHUNK of a TMMA from the pad that meets no poison and no race (R100, R101, R333): every element of the tile An gains its chunk of 16 products, with the tile taken as
zero for Z at the first chunk: for INT8 and UINT8 exactly modulo 2^32, for FP16 and BF16 the exact sum rounded once and added with one
rounding. Nothing else of any block changes.
TILE_ROW_GROUP of a drain without scales and without a guard that meets no poison and no race (R107, R334): each of the 16 rows of the group is converted and written
at its pitch, no other byte of the pad changes, PROG advances, and with Z the tile is zero after the last group. An INT32 element
drained to INT32 is stored as it is, and to INT8 its low byte, or under SAT clamped.
Where a clause rests on a choice of the model and not on the spec, it is that of log entry 23. -/
def Obligations.TileArithmetic : Prop :=
  (∀ (s : State) (oid : Nat) (o : TileOp) (b : Block) (kr : Kernel) (g : BitVec 4) (d a : BitVec 8) (kc : BitVec 2) (an am k : BitVec 4)
    (fa fb : BitVec 3) (e z ci : BitVec 1), s.tileOps[oid]? = some o → s.blocks[o.bid]? = some b → s.kernelOf o.bid = some kr →
    b.bst = .placed → b.trigger = none → (s.ctx (s.ctxOf (.stream o.sid))).st = .running → o.ost = .running → o.tainted = false →
    o.ins = .tmma g d a kc an fa fb 0 am k e z ci → o.prog < 2 * 2 ^ kc.toNat → an.toNat < b.tiles.length → b.padPoison = [] → b.tilePoison = [] →
    let fA := slotFmt (kr.slot fa.toNat)
    let fB := slotFmt (kr.slot fb.toNat)
    let w (i : Nat) : Nat := ((o.rec_[i]?).getD 0).toNat
    let raw (fmt row kk : Nat) : Nat := if fmt ≤ 3 then (b.padByte (row + kk)).toNat else
      (b.padByte (row + 2 * kk)).toNat + 256 * (b.padByte (row + 2 * kk + 1)).toNat
    let int (fmt x : Nat) : Int := if fmt = 2 ∧ 128 ≤ x then (x : Int) - 256 else x
    let num (fmt x : Nat) : Machine.Num := if fmt = 5 then fp16.dec x else bf16.dec x
    let A (i q : Nat) : Nat := raw fA (w 0 + i * w 1) (16 * o.prog + q)
    let B (j q : Nat) : Nat := raw fB (w 2 + j * w 3) (16 * o.prog + q)
    let old (i j : Nat) : Word := if z = 1 ∧ o.prog = 0 then 0 else tileGet (b.tile an.toNat) i j
    let goes (x : Nat → Nat → Word) : Prop := ∃ (t : State) (b' : Block), exec (.tileChunk oid) s = .next t ∧
      t.tileOps = s.tileOps.set oid { o with prog := o.prog + 1 } ∧ t.blocks[o.bid]? = some b' ∧ { b' with tiles := b.tiles } = b ∧
      (∀ n, n ≠ an.toNat → b'.tile n = b.tile n) ∧ (∀ n, n ≠ o.bid → t.blocks[n]? = s.blocks[n]?) ∧
      ∀ i < 128, ∀ j < 128, tileGet (b'.tile an.toNat) i j = x i j
    (fA = 2 ∨ fA = 3 → fB = 2 ∨ fB = 3 → goes fun i j =>
      old i j + BitVec.ofInt 32 (((List.range 16).map fun q => int fA (A i q) * int fB (B j q)).sum)) ∧
    (fA = fB → fA = 5 ∨ fA = 6 → goes fun i j =>
      let p (q : Nat) : Machine.Num := (num fA (A i q)).mul (num fB (B j q))
      let sum := (List.range 15).foldl (fun n q => n.add .rne (p (q + 1))) (p 0)
      BitVec.ofNat 32 (fp32.rnd .rne ((fp32.dec (old i j).toNat).add .rne (fp32.dec (fp32.rnd .rne sum)))))) ∧
  (∀ (s : State) (oid : Nat) (o : TileOp) (b : Block) (kr : Kernel) (g : BitVec 4) (d a : BitVec 8) (an gd k : BitVec 4)
    (fd : BitVec 3) (e z : BitVec 1), s.tileOps[oid]? = some o → s.blocks[o.bid]? = some b → s.kernelOf o.bid = some kr →
    b.bst = .placed → b.trigger = none → (s.ctx (s.ctxOf (.stream o.sid))).st = .running → o.ost = .running → o.tainted = false →
    o.ins = .tdrain g d a an fd gd 0 1 k e z → o.prog < 8 → b.padPoison = [] → b.tilePoison = [] → an.toNat < b.tiles.length →
    let f := kr.slot fd.toNat
    let w (i : Nat) : Nat := ((o.rec_[i]?).getD 0).toNat
    let row (q : Nat) : Nat := w 0 + (16 * o.prog + q) * w 1
    let el (q j : Nat) : Word := tileGet (b.tile an.toNat) (16 * o.prog + q) j
    let goes (n : Nat) (byte : Word → Nat → Byte) : Prop := n * 128 ≤ w 1 → w 0 + 127 * w 1 + n * 128 + 128 ≤ b.padsz →
      ∃ (t : State) (b' : Block), exec (.tileRowGroup oid) s = .next t ∧
        t.tileOps = s.tileOps.set oid { o with prog := o.prog + 1 } ∧ t.blocks[o.bid]? = some b' ∧
        { b' with tiles := b.tiles, pad := b.pad, padPoison := b.padPoison } = b ∧
        (∀ q < 16, ∀ j < 128, ∀ m < n, b'.padByte (row q + n * j + m) = byte (el q j) m) ∧
        (∀ p, (∀ q < 16, p < row q ∨ row q + n * 128 ≤ p) → b'.padByte p = b.padByte p) ∧
        (∀ m, m ≠ an.toNat → b'.tile m = b.tile m) ∧ b'.tile an.toNat = (if o.prog = 7 ∧ z = 1 then [] else b.tile an.toNat) ∧
        (∀ m, m ≠ o.bid → t.blocks[m]? = s.blocks[m]?)
    (f % 64 = 8 → goes 4 fun x m => x.extractLsb' (8 * m) 8) ∧
    (f % 64 = 2 → slotSat f = false → goes 1 fun x _ => x.setWidth 8) ∧
    (f % 64 = 2 → slotSat f = true → goes 1 fun x _ => BitVec.ofInt 8 (max (-128) (min 127 x.toInt))))

/-! ## The life of a kernel -/

/-- KERNEL_ADMIT (R200, R201, R211, R212): with no eligible head nothing happens; one eligible head is checked, and passes to DISPATCHING with
one unbound position for each cluster of each die if every check passes, or is REJECTED with the code of the first check that
failed, with the priority of its queue; of two eligible heads of one partition the one of higher priority is taken, and the other
kernel is as before. STAGE_SET_PLACE and RESIDENT_DISPATCH (R198, R199), where no block in the reserve goes first (R214) and no kernel
of the context has finished: a set finds room whole, and then each of its blocks is placed with its coordinates and its groups, and
the context runs; or nothing is placed. Where a kernel of the context has finished, nothing is dispatched (R205).
Where a clause rests on a choice of the model and not on the spec, it is that of log entries 1, 32, 33, 73. -/
def Obligations.AdmissionAndPlacement : Prop :=
  (∀ s : State, s.eligibleHeads = [] → exec .kernelAdmit s = .next s) ∧
  (∀ (s : State) (kid : Nat) (k : Kernel), s.eligibleHeads = [kid] → s.kernels[kid]? = some k → k.cva = 0 → (s.ctx k.ctx).part < 24 →
    k.ctx < 4096 → k.queue < 16 →
    let code := s.admissionCode k true
    let new : Kernel := if code = 0
      then { k with prio := (s.queue k.ctx k.queue).prio, kst := .dispatching, positions := List.replicate (k.ndie * k.nclu) { bound := none, next := 0, since := none, freed := false } }
      else { k with prio := (s.queue k.ctx k.queue).prio, kst := .rejected, code := code }
    ∃ t, exec .kernelAdmit s = .next t ∧ t.kernels = s.kernels.set kid new ∧
      { t with kernels := s.kernels, hub := s.hub } = s ∧
      { t.hub with rrPart := s.hub.rrPart, rrCtx := s.hub.rrCtx, rrQueue := s.hub.rrQueue } = s.hub) ∧
  (∀ (s : State) (i j : Nat) (k k' : Kernel), s.eligibleHeads = [i, j] ∨ s.eligibleHeads = [j, i] → s.kernels[i]? = some k →
    s.kernels[j]? = some k' → (s.ctx k.ctx).part = (s.ctx k'.ctx).part → (s.ctx k.ctx).part < 24 → k'.ctx < 4096 → k'.queue < 16 →
    (s.queue k.ctx k.queue).prio < (s.queue k'.ctx k'.queue).prio → k'.cva = 0 →
    ∃ (t : State) (x : Kernel), exec .kernelAdmit s = .next t ∧ t.kernels[i]? = some k ∧ t.kernels[j]? = some x ∧
      (x.kst = .dispatching ∨ x.kst = .rejected)) ∧
  (∀ (s : State) (kid pos : Nat) (k : Kernel) (p : Pos), s.kernels[kid]? = some k → k.positions[pos]? = some p → k.kst = .dispatching →
    (s.ctx k.ctx).active = true → k.resident = false → s.completing k.ctx = false → s.givesWay kid pos = false →
    (∀ u, s.tryPlace kid pos = some u → ∃ t, exec (.stageSetPlace kid pos) s = .next t ∧ (t.ctx k.ctx).st = .running ∧
      t.blocks.length = s.blocks.length + k.nstage ∧ t.groups.length = s.groups.length + k.nstage * k.ngrp ∧
      (∀ i < s.blocks.length, t.blocks[i]? = s.blocks[i]?) ∧
      (∀ st < k.nstage, ∃ b, t.blocks[s.blocks.length + st]? = some b ∧ b.kid = kid ∧ b.pos = pos ∧ b.coord = p.next ∧ b.stage = st ∧
        b.bst = .placed ∧ b.padsz = k.padu * 65536 ∧ b.pad = [] ∧ b.words = List.replicate 16 0 ∧ b.tiles = List.replicate k.accn [])) ∧
    (s.tryPlace kid pos = none → ∃ t, exec (.stageSetPlace kid pos) s = .next t ∧ { t with kernels := s.kernels } = s)) ∧
  (∀ (s : State) (kid : Nat) (k : Kernel), s.kernels[kid]? = some k → k.kst = .dispatching → (s.ctx k.ctx).active = true → k.resident = true →
    s.completing k.ctx = false → (∀ p < k.positions.length, s.givesWay kid p = false) →
    let all := (List.range k.positions.length).foldl (fun (o : Option State) p => o.bind fun u => u.placeAll kid p k.ncoord) (some s)
    (∀ u, all = some u → ∃ t, exec (.residentDispatch kid) s = .next t ∧ (t.ctx k.ctx).st = .running ∧
      t.blocks.length = s.blocks.length + k.positions.length * k.ncoord * k.nstage) ∧
    (all = none → ∃ t, exec (.residentDispatch kid) s = .next t ∧ { t with kernels := s.kernels } = s)) ∧
  (∀ (s : State) (kid pos : Nat) (k x : Kernel), s.kernels[kid]? = some k → x ∈ s.kernels → x.ctx = k.ctx →
    (x.kst = .rejected ∨ (x.kst = .draining ∧ x.positions.length * x.ncoord * x.nstage ≤ x.retired + x.faulted)) →
    exec (.stageSetPlace kid pos) s = .next s ∧ exec (.residentDispatch kid) s = .next s)

/-- BLOCK_RETIRE (R203): a placed block of a running context with no work left is RETIRED and counted, and with the last work of the
context that is READY again; its space is offered first to the next set of its position, and is kept for that set while it waits
(R198); one with work left stays.
KERNEL_COMPLETION (R191, R204, R205): a finished kernel's stores are released, its record, with the status and the code of R204, is
written, or dropped and logged where its page faults, and its counter gains 1, at which an EVWAIT that it meets ends (R221); one that
is not finished stays. PRIORITY_PREEMPTION
(R214): for a set that has waited, one block begins to stop, of a running context of the same partition and of a lower priority.
HANG_WATCHDOG (R223): a running context whose count has reached its interval halts with kind WATCHDOG, once in a run of the count.
Where a clause rests on a choice of the model and not on the spec, it is that of log entries 34, 35, 97. -/
def Obligations.EndsOfKernels : Prop :=
  (∀ (s : State) (bid : Nat) (b : Block), s.blocks[bid]? = some b →
    let ctx := s.ctxOfKernel b.kid
    (b.bst = .placed → b.trigger = none → s.workDone bid = true → (s.ctx ctx).st = .running → ∃ t : State,
      exec (.blockRetire bid) s = .next ((t.placeNext b.kid b.pos).modPos b.kid b.pos fun p => { p with freed := p.since.isSome }) ∧
      t.blocks = s.blocks.set bid { b with bst := .retired, halt := none } ∧ t.mem = s.mem ∧ t.groups = s.groups ∧ (t.ctx ctx).dog = 0 ∧
      (∀ k, s.kernels[b.kid]? = some k → ∃ k', t.kernels[b.kid]? = some k' ∧ { k' with positions := k.positions } = { k with retired := k.retired + 1 }) ∧
      ((∀ (i : Nat) (c : Block), i ≠ bid → s.blocks[i]? = some c → s.ctxOfKernel c.kid = ctx → c.gone = true) →
        (∀ x ∈ s.streams, x.sst = .ended ∨ s.ctxOfKernel x.kid ≠ ctx) → (t.ctx ctx).st = .ready)) ∧
    (b.bst ≠ .placed ∨ b.trigger.isSome = true ∨ s.workDone bid = false ∨ (s.ctx ctx).st ≠ .running → exec (.blockRetire bid) s = .next s)) ∧
  (∀ (s : State) (kid : Nat) (k : Kernel), s.kernels[kid]? = some k →
    let w := s.releaseAll k.ctx
    let ac := s.accAt k.ctx 12 0 none
    let done (u t : State) : Prop := t.kernels = s.kernels.set kid { k with kst := .complete, inQueue := false } ∧
      let n := k.signal % 256
      let v : BitVec 48 := BitVec.ofNat 48 (min (2 ^ 48 - 1) (((u.ctx k.ctx).event n).toNat + 1))
      if bitAt k.signal 8 then (t.ctx k.ctx).event n = v ∧ (t.ctx k.ctx).evwaits = (u.ctx k.ctx).evwaits.filter (fun w => !w.meets n v) ∧
        ((∀ w ∈ (u.ctx k.ctx).evwaits, w.meets n v = false) → { t with kernels := u.kernels, ctxs := u.ctxs } = u)
      else { t with kernels := u.kernels } = u
    (k.finished = false ∨ (s.ctx k.ctx).active = false → exec (.kernelCompletion kid) s = .next s) ∧
    (k.finished = true → (s.ctx k.ctx).active = true → k.cva = 0 → ∃ t, exec (.kernelCompletion kid) s = .next t ∧ done w t) ∧
    (k.finished = true → (s.ctx k.ctx).active = true → k.cva ≠ 0 → k.cva % 32 = 0 →
      let found := w.look ac .write k.cva
      (∀ pa e, found.2 = .ok pa e → ∃ t, exec (.kernelCompletion kid) s = .next t ∧
        done (found.1.hubWrite ac e pa (k.completion found.1.clock)) t) ∧
      (∀ c, found.2 = .fault c → ∃ t, exec (.kernelCompletion kid) s = .next t ∧ done (found.1.report (mkError 9 10 12 0 (some k.ctx) 0)) t) ∧
      (found.2 = .wait → exec (.kernelCompletion kid) s = .next found.1)) ∧
    (∀ c < 2 ^ 64, (k.completion c).length = 32 ∧ leNat ((k.completion c).take 8) = c ∧
      (k.completion c)[8]? = some (if k.kst = .rejected then 1 else if 0 < k.faulted then 2 else 0) ∧
      (k.completion c)[9]? = some (BitVec.ofNat 8 k.code) ∧ (k.faulted < 2 ^ 32 → leNat ((k.completion c).drop 16) = k.faulted))) ∧
  (∀ (s : State) (kid : Nat) (k : Kernel), s.kernels[kid]? = some k →
    (s.waited k = false ∨ (s.ctx k.ctx).active = false → exec (.priorityPreemption kid) s = .next s) ∧
    (s.waited k = true → (s.ctx k.ctx).active = true → (∀ b ∈ s.blocks, b.halt = none) → ∀ bid b, s.preemptVictim k = some bid →
      s.blocks[bid]? = some b → (∃ g ∈ s.groups, g.bid = bid ∧ g.gst = .running) →
      (∀ o ∈ s.tileOps, o.bid = bid → o.ost = .running → o.prog < tileSteps o.ins) →
      let r := (s.ctx (s.ctxOfKernel b.kid)).rto.toNat
      let limit := (if 1 ≤ r ∧ r ≤ 10000 then r else 40) * 1000
      ∃ (t : State) (x : Kernel), exec (.priorityPreemption kid) s = .next t ∧ t.blocks = s.blocks.set bid { b with halt := some (s.clock, s.clock + limit) } ∧
        { t with blocks := s.blocks, tileOps := s.tileOps } = s ∧ s.kernels[b.kid]? = some x ∧ s.prioOf x < s.prioOf k ∧
        (s.ctx x.ctx).part = (s.ctx k.ctx).part ∧ (s.ctx x.ctx).st = .running)) ∧
  (∀ (s : State) (ctx : Nat) (c : Ctx), s.ctx ctx = c →
    let interval := (if 10 ≤ c.wdog.toNat ∧ c.wdog.toNat ≤ 60000 then c.wdog.toNat else 2000) * 1000000
    let rto := (if 1 ≤ c.rto.toNat ∧ c.rto.toNat ≤ 10000 then c.rto.toNat else 40) * 1000
    (c.st ≠ .running ∨ c.dog < interval ∨ c.rung = true → exec (.hangWatchdog ctx) s = .next s) ∧
    (c.st = .running → interval ≤ c.dog → c.rung = false → ∃ t, exec (.hangWatchdog ctx) s = .next t ∧ { t with ctxs := s.ctxs } = s ∧
      t.ctx ctx = { c with rung := true, st := .halting, line := some { kind := .watchdog, at_ := s.clock, rto := rto, drained := false } }))

/-! ## Translation, pages and outside agents -/

/-- Shoot-downs and walks. TLBI_PH1 (R361): the TLBI_PH1 at the head of what is held for a die passes to its translation hardware, which
drops every translation of the page and keeps those of other dies and other ASIDs; a credit of a unicast goes back to its sender. TLBI_ACK:
the oldest drain ends, the lines of the frame it names, if any, have left the die's L2, and one acknowledgement with the same sequence number
is on its way to the owner, behind what is held for it already (R443), unless the owner is FENCED or FAILED. TLBI_ACK_COLLECT (R445): the
owner's endpoint takes the acknowledgement at the head of what is held and notes the die; the last one of the shoot-down makes one TLBI_ACK
with the mask of the dies in the inbox. While the inbox is full neither is delivered (R444), and what is held for a die that is FENCED or
FAILED is discarded (R443). HUB_WALK (R358): a miss whose walk meets no poison and no line that a spoke owns is filled from the walk, and a translation already held
is left.
Where a clause rests on a choice of the model and not on the spec, it is that of log entry 56. -/
def Obligations.ShootDowns : Prop :=
  (∀ (s : State) (d : Nat) (x : Die) (m : Msg) (rest : List Msg), s.dies[d]? = some x → x.heldMsgs = m :: rest →
    let down : Prop := x.st = .fenced ∨ x.st = .failed
    let lo := m.ph1.va / levelSize m.ph1.lvl * levelSize m.ph1.lvl
    let covers (e : TlbEntry) : Prop := e.base < lo + levelSize m.ph1.lvl ∧ lo < e.base + levelSize e.lvl
    (¬ down → m.kind ≠ 0x80 ∨ 256 ≤ x.inbox.length → exec (.tlbiPh1 d) s = .next s) ∧
    (down → ∀ i ∈ [Instr.tlbiPh1 d, .tlbiAckCollect d], ∃ (t : State) (y : Die), exec i s = .next t ∧ { t with dies := s.dies } = s ∧
      t.dies[d]? = some y ∧ y.heldMsgs = rest ∧ y.ph1Work = x.ph1Work ∧ y.inbox = x.inbox ∧ y.shoots = x.shoots) ∧
    (¬ down → m.kind = 0x80 → x.inbox.length < 256 → ∃ (t : State) (y : Die), exec (.tlbiPh1 d) s = .next t ∧ { t with dies := s.dies, tlb := s.tlb } = s ∧ t.dies[d]? = some y ∧
      y.heldMsgs = rest ∧ y.ph1Work = x.ph1Work ++ [m] ∧
      (∀ e : TlbEntry, e ∈ t.tlb ↔ e ∈ s.tlb ∧ ¬ (e.die = d ∧ e.asid = m.ph1.asid ∧ covers e)) ∧
      (m.credit = true → m.mc = false → ∀ z, s.dies[m.src]? = some z → ∃ z' : Die, t.dies[m.src]? = some z' ∧ z'.txcr = min 64 (z.txcr + 1)))) ∧
  (∀ (s : State) (d : Nat) (x : Die) (m : Msg) (rest : List Msg), d < 13 → s.dies[d]? = some x → x.ph1Work = m :: rest →
    x.st ≠ .fenced → x.st ≠ .failed → ∃ (t : State) (y : Die), exec (.tlbiAck d) s = .next t ∧ t.dies[d]? = some y ∧ y.ph1Work = rest ∧
      (∀ o, s.dies[m.src]? = some o → ∃ o' : Die, t.dies[m.src]? = some o' ∧
        (o.st = .fenced ∨ o.st = .failed → o'.heldMsgs = o.heldMsgs) ∧
        (o.st ≠ .fenced → o.st ≠ .failed → ∃ a : Msg, o'.heldMsgs = o.heldMsgs ++ [a] ∧ a.kind = 0x81 ∧ a.src = d ∧
          a.dst = m.src ∧ a.ph1.asid = m.ph1.asid ∧ a.ph1.seq = m.ph1.seq)) ∧
      (d < 8 → ∀ f, m.ph1.frame = some f → ∀ pa < 2 ^ 52, f ≤ pa → pa < f + levelSize m.ph1.lvl → t.line? d (lineOf pa) = none)) ∧
  (∀ (s : State) (d : Nat) (x : Die) (m : Msg) (rest : List Msg) (y : Shoot), s.dies[d]? = some x → x.heldMsgs = m :: rest → x.shoots = [y] →
    x.st ≠ .fenced → x.st ≠ .failed →
    let got := y.got ||| BitVec.twoPow 13 m.src
    let note : Msg := { m with body := m.body.set 1 (BitVec.ofNat 64 got.toNat) }
    let all : Die := { x with heldMsgs := rest, shoots := [{ y with got := got }], inbox := if got = y.need then x.inbox ++ [note] else x.inbox }
    (m.kind ≠ 0x81 ∨ 256 ≤ x.inbox.length → exec (.tlbiAckCollect d) s = .next s) ∧
    (m.kind = 0x81 → x.inbox.length < 256 → y.seq = m.ph1.seq → y.need.getLsbD m.src = true → y.got.getLsbD m.src = false →
      exec (.tlbiAckCollect d) s = .next { s with dies := s.dies.set d all }) ∧
    (m.kind = 0x81 → x.inbox.length < 256 → y.seq ≠ m.ph1.seq ∨ y.need.getLsbD m.src = false ∨ y.got.getLsbD m.src = true →
      exec (.tlbiAckCollect d) s = .next { s with dies := s.dies.set d { x with heldMsgs := rest } })) ∧
  (∀ (s : State) (d core ctx va : Nat), core < 288 →
    let c := s.ctx ctx
    let holds (t : State) (k : Option Nat) : Prop := (t.tlb.any fun e => e.matches d k c.asid va) = true
    let quiet : Prop := ∀ pa ∈ s.walkReads c.part va walkLevels c.root.toNat, s.badEntry pa = false ∧
      ∀ i < 8, ∀ l, s.line? i (lineOf pa) = some l → l.owned = false
    (holds s (some core) → exec (.hubWalk d core ctx va) s = .next s) ∧
    (¬ holds s (some core) → ¬ holds s none → quiet → ∀ lvl e, s.walk ctx c.part va = .leaf lvl e →
      ∃ t, exec (.hubWalk d core ctx va) s = .next t ∧ { t with tlb := s.tlb } = s ∧ holds t (some core) ∧ holds t none) ∧
    (¬ holds s (some core) → ¬ holds s none → quiet → s.walk ctx c.part va = .absent → exec (.hubWalk d core ctx va) s = .next s))

/-- Pages shared between devices (R369, R370): a request of the exclusive holder is granted as it stands; one that has to wait for other holders names them
to be flushed, and one behind an action in progress waits; a read of a page that is only read is granted. When the last
holder's flush is acknowledged a write makes its device the exclusive holder, and a read leaves both as readers; this device's own flush for a write
recalls the lines of the page from every spoke. A request or an acknowledgement over a port that is DOWN or FAILED does not arrive
(R447). The page of an address is the one of the record that covers it, else one of the size that the request names (R369).
Access counters (R364): COUNTER_WINDOW drops the counts and keeps cooldowns; COOLDOWN_END drops a region whose cooldown has
expired; ACCESS_REQUEST_POP moves the oldest request, with its count, its mark and its region, into the value read, and reads 0 from an empty queue.
OCCCLR (R261): the slice's occupancy counters read 0. COPIER_COPY_COMPLETE (R359, R365): each byte copied
within a line reads at its new home as at its old one; a replica is recorded in its slot. An access to a host page that is unmapped raises one page request and waits, and PAGE_REQUEST_RESPONSE (R448) ends the
request it names and makes its page present.
SADDLE_HOST_PEER_ACCESS (R224): a write and an add are performed at the home, a read makes a spoke that owns a
line of it write it back (R255), and a reserved address is a fault. One over a port that is DOWN or FAILED does not arrive (R447); one
of a partition that neither owns nor borrows the channel group is dropped and logged (R415, R439); one that this device has to hand the
page over for asks for it and is not performed yet (R244, R369); where the home or its port is dead a write is dropped and logged and a
read consumes poison, logged for each line (R437, R451, R454).
Where a clause rests on a choice of the model and not on the spec, it is that of log entries 63, 103, 107. -/
def Obligations.PagesCountersAndOutsideAgents : Prop :=
  ((∀ (s : State) (at_ : Nat × Nat) (dev : Nat) (wr : Bool), s.heard dev = false → exec (.ownershipRequest at_ dev wr) s = .next s) ∧
  (∀ (s : State) (at_ : Nat × Nat) (dev : Nat) (wr : Bool), s.heard dev = true →
    let page := s.ownPage (at_.1 * 2 ^ 16) at_.2
    let o := (s.notePage page at_.2).pageOwn page
    let becomes (x : PageOwn) : Prop := ∃ t, exec (.ownershipRequest at_ dev wr) s = .next t ∧ t.pageOwn page = x ∧ { t with owns := s.owns } = s ∧
      ∀ p, p ≠ page → t.pageOwn p = s.pageOwn p
    (tfind s.owns page = none → o.lvl = at_.2) ∧
    (∀ a, o.grantTo = some a → o.flushing ≠ [] → (dev, wr) ∉ o.waiting → becomes { o with waiting := o.waiting ++ [(dev, wr)] }) ∧
    (o.grantTo = none → o.waiting = [] →
      (o.excl = some dev → becomes { o with flushing := [], readers := if wr then [] else o.readers }) ∧
      (∀ h, o.excl = some h → h ≠ dev → becomes { o with flushing := [h], grantTo := some (dev, wr) }) ∧
      (o.excl = none → wr = false → becomes { o with flushing := [], readers := if o.readers.contains dev then o.readers else o.readers ++ [dev] }) ∧
      (o.excl = none → wr = true → (∃ r ∈ o.readers, r ≠ dev) → becomes { o with flushing := o.readers.filter (· != dev), grantTo := some (dev, true) }) ∧
      (o.excl = none → wr = true → (∀ r ∈ o.readers, r = dev) → becomes { o with flushing := [], excl := some dev, readers := [] }))) ∧
  (∀ (s : State) (page dev : Nat), page < 2 ^ 36 → let o := s.pageOwn page
    (o.grantTo = none ∨ dev ∉ o.flushing ∨ s.heard dev = false → exec (.ownershipFlush page dev) s = .next s) ∧
    (∀ (to' : Nat) (wr : Bool), o.grantTo = some (to', wr) → o.flushing = [dev] → s.heard dev = true → ∃ t, exec (.ownershipFlush page dev) s = .next t ∧
      (wr = true → t.pageOwn page = { o with flushing := [], excl := some to', readers := [], grantTo := none }) ∧
      (wr = false → o.excl = some dev → dev ≠ to' → t.pageOwn page = { o with flushing := [], excl := none, readers := [dev, to'], grantTo := none }) ∧
      (dev ≠ 0 → { t with owns := s.owns } = s) ∧
      (dev = 0 → wr = true → ∀ d < 8, s.deadDie d = false → ∀ line, page * 512 ≤ line → line < page * 512 + levelSize o.lvl / 128 → line < 2 ^ 45 →
        t.line? d line = none)))) ∧
  ((∀ (s : State) (d r : Nat) (x : Die), s.dies[d]? = some x →
    let gives (i : Instr) (y : Die) : Prop := exec i s = .next { s with dies := s.dies.set d y }
    let left (p : Region → Prop) (i : Instr) : Prop := ∃ l : List Region, gives i { x with regions := l } ∧ ∀ g, g ∈ l ↔ g ∈ x.regions ∧ p g
    left (fun g => g.cool.isSome = true) (.counterWindow d) ∧
    left (fun g => ¬ (g.region = r ∧ ∃ t, g.cool = some t ∧ t ≤ s.clockOn d)) (.cooldownEnd d r) ∧
    (x.reqs = [] → gives (.accessRequestPop d) { x with popped := 0 }) ∧
    (∀ q rest, x.reqs = q :: rest → q.region < 2 ^ 31 → ∃ v : BitVec 64, gives (.accessRequestPop d) { x with reqs := rest, popped := v } ∧
      v.getLsbD 63 = true ∧ v.getLsbD 31 = q.hint ∧ (v.extractLsb' 0 31).toNat = q.region ∧ (v.extractLsb' 32 31).toNat = min q.count 65535)) ∧
  (∀ (s : State) (d n : Nat), ∃ t, exec (.occclr d n) s = .next t ∧ { t with l2 := s.l2 } = s ∧
    (∀ k l, tfind s.l2 k = some l → tfind t.l2 k = some (if k / 2 ^ 45 = d ∧ l.slice = n then { l with counted := false } else l)) ∧
    ∀ off, 0x1000 ≤ off → off < 0x5000 → t.readRegister (.slice d n) off = 0) ∧
  (∀ (s : State) (src dst n : Nat), exec (.copierCopyComplete (.frame src dst n)) s = .next (s.copyHome src dst n) ∧
    (s.deadPa src = false → s.homeDead noCtx dst = false → dst < 2 ^ 52 → dst % 128 + n ≤ 128 → ∀ i < n, (s.copyHome src dst n).homeByte (dst + i) = s.homeByte (src + i))) ∧
  (∀ (s : State) (prim dst slot : Nat), ∃ t, exec (.copierCopyComplete (.replica prim dst slot)) s = .next t ∧
    { t with replicas := s.replicas } = { s.copyHome (prim * 2 ^ 16) (dst * 2 ^ 16) (2 ^ 16) with replicas := s.replicas } ∧
    (slot = 1 → t.replicasOf prim = { s.replicasOf prim with rep1 := BitVec.ofNat 24 dst }) ∧
    (slot = 2 → t.replicasOf prim = { s.replicasOf prim with rep2 := BitVec.ofNat 24 dst }) ∧
    (slot = 3 → t.replicasOf prim = { s.replicasOf prim with rep3 := BitVec.ofNat 24 dst })) ∧
  (∀ (s : State) (a b c r : Nat), exec (.copierCopyComplete (.spareRow a b c r)) s = .next s ∧ exec (.copierCopyComplete (.pseudoChannel a b)) s = .next s) ∧
  (∀ (s : State) (ctx page : Nat), ∃ t, exec (.pageRequestResponse ctx page) s = .next t ∧
    { t with hub := { t.hub with pageReqs := s.hub.pageReqs, absent := s.hub.absent } } = s ∧
    (∀ q, q ∈ t.hub.pageReqs ↔ q ∈ s.hub.pageReqs ∧ q ≠ (ctx, page)) ∧
    (∀ p, p ∈ t.hub.absent ↔ p ∈ s.hub.absent ∧ ¬ (p = page ∧ (ctx, page) ∈ s.hub.pageReqs))) ∧
  (∀ (s u : State) (a : Acc) (kind : AccKind) (va lvl : Nat) (e : BitVec 64), s.translate a va = (u, .leaf lvl e) → protCheck kind e = none →
    u.gatedCheck a.part kind e = none → (kind.writes = true → leafMig e = false) →
    let pa := u.redirect a.part (leafPa e + va % levelSize lvl)
    paKind pa = .host → pa / 4096 ∈ u.hub.absent → ∃ w, s.look a kind va = (w, .wait) ∧
      { w with hub := { w.hub with pageReqs := u.hub.pageReqs } } = u ∧ (∀ q, q ∈ w.hub.pageReqs ↔ q ∈ u.hub.pageReqs ∨ q = (a.ctx, pa / 4096))) ∧
  (∀ (s : State) (x : OutsideAccess),
    (paKind x.pa = .reserved → exec (.saddleHostPeerAccess x) s = .fault (.reservedAddress x.pa)) ∧
    (paKind x.pa ≠ .reserved → s.heard (outsideDevice x.agent) = false → exec (.saddleHostPeerAccess x) s = .next s) ∧
    (paKind x.pa ≠ .reserved → s.heard (outsideDevice x.agent) = true →
      let a := hubAcc noCtx (x.part.getD 0)
      let allowed : Prop := ∀ p, x.part = some p → x.pa < deviceTop → s.ownsGroup p (groupOf x.pa) = true ∨ s.borrows p x.pa = true
      (¬ allowed → ∃ t, exec (.saddleHostPeerAccess x) s = .next t ∧ { t with hub := { t.hub with errors := s.hub.errors } } = s ∧
        ∃ r : ErrorReport, t.hub.errors = s.hub.errors ++ [r] ∧ r.cls = 8 ∧ r.addr = BitVec.ofNat 64 x.pa) ∧
      (allowed → ∀ page, s.awaits x = some page → exec (.saddleHostPeerAccess x) s =
        .next (s.requestPage page 0 (outsideDevice x.agent) (outsideWrites x.op))) ∧
      (allowed → s.awaits x = none →
      (x.op = .unmap → ∃ t, exec (.saddleHostPeerAccess x) s = .next t ∧ { t with hub := { t.hub with absent := s.hub.absent } } = s ∧
        ∀ p, p ∈ t.hub.absent ↔ p ∈ s.hub.absent ∨ (x.agent = .host ∧ paKind x.pa = .host ∧ p = x.pa / 4096)) ∧
      (∀ data, x.op = .write data → s.outsideDead x = true → ∃ (t : State) (r : ErrorReport), exec (.saddleHostPeerAccess x) s = .next t ∧
        { t with hub := { t.hub with errors := s.hub.errors } } = s ∧ t.hub.errors = s.hub.errors ++ [r] ∧ r.cls = 5 ∧
        r.addr = BitVec.ofNat 64 x.pa) ∧
      (∀ n, x.op = .read n → x.pa % 128 + n ≤ 128 → 0 < n → s.outsideDead { x with pa := x.pa / 128 * 128 } = true → ∃ (t : State) (r : ErrorReport)
        (l : List ErrorReport), exec (.saddleHostPeerAccess x) s = .next t ∧ t.hub.errors = s.hub.errors ++ r :: l ∧ r.cls = 6 ∧ r.addr = BitVec.ofNat 64 (x.pa / 128 * 128)) ∧
      let clean (n : Nat) : Prop := ∀ i < (x.pa % 128 + n + 127) / 128,
        s.badEntry ((x.pa / 128 + i) * 128) = false ∧ s.outsideDead { x with pa := (x.pa / 128 + i) * 128 } = false
      (∀ n, x.op = .read n → clean n → exec (.saddleHostPeerAccess x) s =
        .next ((List.range ((x.pa % 128 + n + 127) / 128)).foldl (fun u i => u.cohShareAll (x.pa / 128 + i)) s)) ∧
      (∀ data, x.op = .write data → s.outsideDead x = false → exec (.saddleHostPeerAccess x) s = .next (s.cohWrite a x.pa data)) ∧
      (∀ n v w, x.op = .atomic 0 n v w → n = 4 ∨ n = 8 → clean n → s.outsideDead x = false → exec (.saddleHostPeerAccess x) s =
        .next (s.cohWrite a x.pa (leBytes n ((leNat (s.cohBytes x.pa n) + v.toNat) % 2 ^ (8 * n)))))))))

/-! ## Contexts -/

/-- The commands of a context window (R371, R373, R374, R386, R504): ignored while one is in progress there; BADSTATE where the window does not
reach the context or the context is in another state than the command takes; BADAREA for a stop or save area outside the
context's own memory, NOSPACE for a save area that is too small. CREATE binds a FREE context to a live partition, ENABLE makes it READY,
HALT raises its line, RESUME runs it again unless a cause is pending, SAVE and RESTORE begin, KILL discards what it holds, and a command
of it that is in progress in another window ends there with BADSTATE; DESTROY frees its number, and no line keeps its tag (R395).
Where a clause rests on a choice of the model and not on the spec, it is that of log entries 30, 31, 36, 60, 111. -/
def Obligations.ContextCommands : Prop :=
  ∀ (s : State) (w c arg : Nat) (x : Die), s.dies[w]? = some x →
    let k := s.ctx c
    let all : List Instr := [.enable w c, .halt w c arg, .resume w c, .save w c, .restore w c arg, .kill w c, .destroy w c]
    let mark (n : BitVec 4) : Die := { x with cmdSts := n, cmd := none }
    let refuse (i : Instr) (n : BitVec 4) : Prop := exec i s = .next { s with dies := s.dies.set w (mark n) }
    let busy (op a : Nat) : Die := { x with cmdSts := 1, cmd := some (op, c, a) }
    let gives (i : Instr) (y : Die) (k' : Ctx) : Prop := ∃ t, exec i s = .next t ∧ { t with dies := s.dies, ctxs := s.ctxs } = s ∧
      t.dies = s.dies.set w y ∧ t.ctx c = k' ∧ ∀ j, j ≠ c → t.ctx j = s.ctx j
    (x.cmdSts = 1 → ∀ i ∈ Instr.create w c arg :: all, exec i s = .next s) ∧
    (x.cmdSts ≠ 1 → k.st = .free ∨ k.owner ≠ w → ∀ i ∈ all, refuse i 3) ∧
    (x.cmdSts ≠ 1 → (k.st = .free ∧ s.partLive arg = true →
        gives (.create w c arg) (mark 2) { k with st := .bound, part := arg, owner := w, clampN := 0, clampPc := none, events := [], evwaits := [] }) ∧
      (k.st ≠ .free ∨ s.partLive arg = false → refuse (.create w c arg) 3)) ∧
    (x.cmdSts ≠ 1 → k.st ≠ .free → k.owner = w →
      (k.st ≠ .bound → refuse (.enable w c) 3) ∧
      (k.st = .bound → s.stopAreaOk c = false → refuse (.enable w c) 6) ∧
      (k.st = .bound → s.stopAreaOk c = true → gives (.enable w c) (mark 2) { k with st := .ready }) ∧
      (k.st ≠ .ready → k.st ≠ .running → refuse (.halt w c arg) 3) ∧
      (k.st = .ready ∨ k.st = .running → gives (.halt w c arg) (busy 3 arg)
        { k with st := .halting, line := some { kind := if arg = 1 then .preempt else .stop, at_ := s.clock, rto := k.timeout, drained := false } }) ∧
      (k.st ≠ .halted → k.st ≠ .faulted → refuse (.resume w c) 3 ∧ refuse (.save w c) 3) ∧
      (k.st = .halted ∨ k.st = .faulted →
        (s.faultPending c = true → gives (.resume w c) (mark 4) { k with st := .faulted }) ∧
        (s.faultPending c = false → ∃ t, exec (.resume w c) s = .next t ∧ t.dies = s.dies.set w (mark 2) ∧
          ((∀ g ∈ s.groups, g.bards = []) → t.mem = s.mem ∧ t.blocks = s.blocks) ∧
          (t.ctx c).st = (if s.holdsUnits c then .running else .ready) ∧
          ∀ (gid : Nat) (g : Group) (b : Block), s.groups[gid]? = some g → s.blocks[g.bid]? = some b → b.bst = .placed → s.ctxOfKernel b.kid = c →
            g.gst = .stopped → ∃ g' : Group, t.groups[gid]? = some g' ∧ g'.gst = .running ∧ g'.u = g.u ∧ g'.threads.length = g.threads.length ∧
              (∀ (i : Nat) (th : Thread), g.threads[i]? = some th → ∃ th' : Thread, g'.threads[i]? = some th' ∧ th'.pc = th.pc ∧ th'.v = th.v ∧
                th'.standing = none ∧ th'.wait = th.wait.kept)) ∧
        (s.saveAreaOk c = false → refuse (.save w c) 6) ∧
        (s.saveAreaOk c = true → k.savesz.toNat < s.saveBytes c → refuse (.save w c) 5) ∧
        (s.saveAreaOk c = true → s.saveBytes c ≤ k.savesz.toNat → gives (.save w c) (busy 5 0) k)) ∧
      (k.st ≠ .saved → refuse (.restore w c arg) 3) ∧
      (k.st = .saved → s.stopAreaOk c = false → refuse (.restore w c arg) 6) ∧
      (k.st = .saved → s.stopAreaOk c = true → gives (.restore w c arg) (busy 6 (arg % 2 + 2 * b2n (s.faultPending c))) { k with st := .migrating }) ∧
      (∃ t, exec (.kill w c) s = .next t ∧ t.dies[w]? = some (mark 2) ∧ t.mem = s.mem ∧
        (∀ (j : Nat) (z : Die), j ≠ w → s.dies[j]? = some z → t.dies[j]? = some (match z.cmd with
          | some (op, c', _) => if c' = c ∧ (op = 3 ∨ op = 5 ∨ op = 6) then { z with cmdSts := 3, cmd := none } else z
          | none => z)) ∧
        t.ctx c = { k with st := .dead, line := none, queues := List.replicate 16 Queue.closed, evwaits := [] } ∧
        (∀ (i : Nat) (z : Kernel), s.kernels[i]? = some z → z.ctx = c → z.open' = true → ∃ z' : Kernel, t.kernels[i]? = some z' ∧
          z'.kst = .discarded ∧ z'.inQueue = false) ∧
        (∀ b ∈ t.blocks, s.ctxOfKernel b.kid = c → b.gone = true) ∧ (∀ q ∈ t.copies, q.ctx = c → q.open' = false) ∧
        (∀ y ∈ t.streams, s.ctxOfKernel y.kid = c → y.sst = .ended)) ∧
      (k.st = .bound ∨ k.st = .dead → ∃ t, exec (.destroy w c) s = .next t ∧ { t with dies := s.dies, ctxs := s.ctxs, l1 := s.l1, l2 := s.l2 } = s ∧
        t.dies = s.dies.set w (mark 2) ∧ t.ctx c = Ctx.free ∧ (∀ j, j ≠ c → t.ctx j = s.ctx j) ∧
        (c < noCtx → (∀ e ∈ t.l1, e.2.tag ≠ c) ∧ ∀ e ∈ t.l2, e.2.tag ≠ c) ∧
        (∀ (key : Nat) (l : L2Line), tfind s.l2 key = some l → ∃ l' : L2Line, tfind t.l2 key = some l' ∧ { l' with tag := l.tag } = l)) ∧
      (k.st ≠ .bound → k.st ≠ .dead → refuse (.destroy w c) 3))

/-- The stopping of a context (R173, R381, R383): under PREEMPT a group whose live threads have met, with no collective and no cause left, stops in
compact form; after the timeout that the line took as it was raised, and not before, it stops in full; so too under the stop of its block alone. Its registers
keep their values with every known result written, and a time that has begun in a thread stands. HALTING_END (R373, R386): with the engines stopped the context is FAULTED, and its owner interrupted, under kind FAULT or WATCHDOG or
with a cause of some part of it, else it is HALTED, and the HALT command is done.
Saving and restoring (R373, R386, R389, R393, R407). SAVE_DONE: with the command in progress the context is SAVED, its blocks and stopped streams with
it, and the command is done. RESTORE_DONE: a context whose images all find their units, and none of them lost, runs, or is FAULTED where a cause was
pending; where one finds no unit nothing happens yet; with an image lost it is FAULTED (R457). RESERVE_RESTORE (R214, R452): a block in the reserve of
a running context is placed on the cluster of its position when that has room and no set of a higher priority waits for it, and else
stays; of a halting context only one that a dead spoke has lost is placed.
Where a clause rests on a choice of the model and not on the spec, it is that of log entries 27, 28, 29, 31, 34, 54. -/
def Obligations.StoppingAndSavingContexts : Prop :=
  ((∀ x : Group, x.reconverged = true ↔ (∀ (i : Nat) (a : Thread), x.threads[i]? = some a → a.live = true → a.coll = none ∧ a.standing = none) ∧
    (∀ (i j : Nat) (a b : Thread), x.threads[i]? = some a → x.threads[j]? = some b → a.live = true → b.live = true →
      a.pc = b.pc ∧ a.prog = b.prog ∧ a.csp = b.csp ∧ a.hcsp = b.hcsp)) ∧
  (∀ (s : State) (gid : Nat) (x : Group) (b : Block) (l : HaltLine), s.groups[gid]? = some x → s.blocks[x.bid]? = some b → b.halt = none →
    let c := s.ctx (s.ctxOfKernel b.kid)
    let limit := l.at_ + l.rto
    let preempt : Prop := c.st = .halting ∧ c.line = some l ∧ l.kind = .preempt
    let can : Prop := (x.gst = .running ∨ x.gst = .loading) ∧ b.trigger = none
    let stops (i : Instr) (full : Bool) : Prop := ∃ (t : State) (y : Group), exec i s = .next t ∧ t.groups[gid]? = some y ∧ y.gst = .stopped ∧
      y.full = full ∧ y.threads.length = x.threads.length ∧ y.u = x.u.completeAll ∧ t.blocks = s.blocks ∧ t.mem = s.mem ∧
      (∀ (ti : Nat) (th : Thread), x.threads[ti]? = some th → y.threads[ti]? = some { th.completeAll with wait := th.wait.kept, going := none }) ∧
      (∀ n, (∀ q ∈ (t.gate n).parked, q.who ≠ .group gid) ∧ ∀ q ∈ (t.gate n).stalled, q.who ≠ .group gid) ∧
      (∀ w ∈ (t.ctx (s.ctxOfKernel b.kid)).evwaits, w.who ≠ .group gid)
    (preempt → can → x.reconverged = true → stops (.groupStop gid) false) ∧
    (preempt → can → limit ≤ s.clock → stops (.reconvergenceTimeout gid) true) ∧
    c.timeout = (if 1 ≤ c.rto.toNat ∧ c.rto.toNat ≤ 10000 then c.rto.toNat else 40) * 1000 ∧
    (¬ can ∨ x.reconverged = false ∨ c.st ≠ .halting → exec (.groupStop gid) s = .next s) ∧
    (¬ can ∨ (preempt ∧ s.clock < limit) ∨ c.st ≠ .halting → exec (.reconvergenceTimeout gid) s = .next s)) ∧
  (∀ (s : State) (gid : Nat) (x : Group) (b : Block) (h : Nat × Nat), s.groups[gid]? = some x → s.blocks[x.bid]? = some b → b.halt = some h →
    (s.ctx (s.ctxOfKernel b.kid)).st = .running →
    let can : Prop := (x.gst = .running ∨ x.gst = .loading) ∧ b.trigger = none
    let stops (i : Instr) (full : Bool) : Prop := ∃ (t : State) (y : Group), exec i s = .next t ∧ t.groups[gid]? = some y ∧
      (y.gst = .stopped ∨ y.gst = .saved) ∧ y.full = full
    (can → x.reconverged = true → stops (.groupStop gid) false) ∧ (can → h.2 ≤ s.clock → stops (.reconvergenceTimeout gid) true) ∧
    (¬ can ∨ x.reconverged = false → exec (.groupStop gid) s = .next s) ∧ (¬ can ∨ s.clock < h.2 → exec (.reconvergenceTimeout gid) s = .next s)) ∧
  (∀ (s : State) (c : Nat) (l : HaltLine), (s.ctx c).st = .halting → (s.ctx c).line = some l →
    let owner := (s.ctx c).owner
    let ends (st : CtxSt) : Prop := ∃ t, exec (.haltingEnd c) s = .next t ∧ (t.ctx c).st = st ∧ (t.ctx c).line = none ∧
      (∀ (w : Nat) (x : Die) (a : Nat), s.dies[w]? = some x → x.cmd = some (3, c, a) → ∃ y : Die, t.dies[w]? = some y ∧ y.cmdSts = 2 ∧ y.cmd = none) ∧
      (st = .faulted → ∀ x, s.dies[owner]? = some x → ∃ y : Die, t.dies[owner]? = some y ∧ y.irq = true)
    (s.enginesStopped c l = false → exec (.haltingEnd c) s = .next s) ∧
    (s.enginesStopped c l = true → l.kind = .fault ∨ l.kind = .watchdog → ends .faulted) ∧
    (s.enginesStopped c l = true → l.kind = .stop ∨ l.kind = .preempt → (∀ g ∈ s.groups, ∀ t ∈ g.threads, t.standing = none) →
      (∀ x ∈ s.streams, x.standing = none) → (∀ q ∈ s.copies, q.cause = 0) → (∀ o ∈ s.tileOps, o.cause = 0 ∧ (o.ost = .running → o.prog < tileSteps o.ins)) → ends .halted)) ∧
  (∀ (s : State) (c : Nat), (s.ctx c).st ≠ .halting → exec (.haltingEnd c) s = .next s)) ∧
  ((∀ (s : State) (c w a : Nat) (x : Die), s.dies[w]? = some x → x.cmd = some (5, c, a) →
    ((s.ctx c).st = .halted ∨ (s.ctx c).st = .faulted → ∃ (t : State) (y : Die), exec (.saveDone c) s = .next t ∧ (t.ctx c).st = .saved ∧
      t.dies[w]? = some y ∧ y.cmdSts = 2 ∧ y.cmd = none ∧ t.blocks.length = s.blocks.length ∧
      (∀ (i : Nat) (b : Block), s.blocks[i]? = some b → s.ctxOfKernel b.kid = c → b.gone = false → t.blocks[i]? = some { b with bst := .saved, halt := none, resAt := none }) ∧
      (∀ (i : Nat) (b : Block), s.blocks[i]? = some b → s.ctxOfKernel b.kid ≠ c → t.blocks[i]? = some b) ∧
      (∀ (i : Nat) (z : Stream), s.streams[i]? = some z → s.ctxOfKernel z.kid = c → z.sst = .stopped → t.streams[i]? = some { z with sst := .saved })) ∧
    ((s.ctx c).st ≠ .halted → (s.ctx c).st ≠ .faulted → exec (.saveDone c) s = .next s)) ∧
  (∀ (s : State) (c w a : Nat) (x : Die), s.dies[w]? = some x → s.cmdArg c 6 = some a → x.cmd = some (6, c, a) → (s.ctx c).st = .migrating →
    let bs := s.savedBlocks c
    let o := if a % 2 = 1 then s.seatAny c else s.seatSame c
    (o = none → exec (.restoreDone c) s = .next s) ∧
    (∀ u, o = some u → u.lostImages c bs (s.savedStreams c) ≠ [] ∨ u.lostStreams c bs.length (s.savedStreams c) ≠ [] →
      ∃ (t : State) (y : Die), exec (.restoreDone c) s = .next t ∧ t.dies[w]? = some y ∧ y.cmd = none ∧ y.cmdSts = 4 ∧ (t.ctx c).st = .faulted) ∧
    (∀ u, o = some u → u.lostImages c bs (s.savedStreams c) = [] → u.lostStreams c bs.length (s.savedStreams c) = [] → ∃ (t : State) (y : Die), exec (.restoreDone c) s = .next t ∧
      t.dies[w]? = some y ∧ y.cmd = none ∧ y.cmdSts = (if 2 ≤ a then 4 else 2) ∧
      (2 ≤ a → (t.ctx c).st = .faulted) ∧ (a < 2 → bs ≠ [] → (t.ctx c).st = .running) ∧
      (a < 2 → (t.ctx c).st = .running ∨ (t.ctx c).st = .ready))) ∧
  (∀ (s u : State) (c : Nat), s.cmdArg c 6 = none → (s.ctx c).st = .migrating → s.faultPending c = false → s.seatAny c = some u →
    u.lostImages c (s.savedBlocks c) (s.savedStreams c) = [] → u.lostStreams c (s.savedBlocks c).length (s.savedStreams c) = [] →
    ∃ t, exec (.restoreDone c) s = .next t ∧ ((t.ctx c).st = .running ∨ (t.ctx c).st = .ready)) ∧
  (∀ (s : State) (c : Nat), (s.ctx c).st ≠ .migrating → exec (.restoreDone c) s = .next s) ∧
  (∀ (s : State) (bid : Nat) (b : Block), s.blocks[bid]? = some b →
    let st := (s.ctx (s.ctxOfKernel b.kid)).st
    (b.bst ≠ .reserve ∨ (st ≠ .running ∧ (st ≠ .halting ∨ b.rebuilt = false)) → exec (.reserveRestore bid) s = .next s) ∧
    (s.reserveCluster b.kid b.pos = none → exec (.reserveRestore bid) s = .next s) ∧
    (∀ dc, s.reserveCluster b.kid b.pos = some dc →
      let o := (s.bindPos b.kid b.pos dc.1 dc.2).reseat bid dc.1 dc.2
      (s.outranked b.kid dc = true ∨ o = none → exec (.reserveRestore bid) s = .next s) ∧
      (∀ u, b.bst = .reserve → st = .running → s.outranked b.kid dc = false → o = some u →
        exec (.reserveRestore bid) s = .next u ∧ ∃ b' : Block, u.blocks[bid]? = some b' ∧ b'.bst = .placed ∧ b'.die = dc.1 ∧ b'.clu = dc.2) ∧
      (b.bst = .reserve → st = .halting → b.rebuilt = true → s.outranked b.kid dc = false → o.isSome = true →
        ∃ (t : State) (b' : Block), exec (.reserveRestore bid) s = .next t ∧ t.blocks[bid]? = some b' ∧ b'.bst = .placed ∧ b'.die = dc.1 ∧ b'.clu = dc.2 ∧
          ∀ (gid : Nat) (g g' : Group), s.groups[gid]? = some g → t.groups[gid]? = some g' → g.bid = bid → g.gst = .saved → g'.gst = .stopped))))

/-! ## Partitions -/

/-- FORM, ACTIVATE, GROW, SHRINK and LEND (R402, R403, R405, R410, R422): each is refused with BADSTATE in a state of the partition that does not take it, and with NOUNIT
for a unit that is not as it must be. FORM makes a new partition; ACTIVATE one with units on every spoke that it maps, a channel group and a
reserve in its memory (else NORESERVE), its slice tables built; GROW begins with the scrub of a FREE unit, SHRINK with the move of the work off
an owned one, LEND with the scrub of an idle cluster or of a window, or with the rehash that takes a slice out.
Where a clause rests on a choice of the model and not on the spec, it is that of log entries 18, 20, 37, 38, 39, 41, 76. -/
def Obligations.FormingAndResizing : Prop :=
  ∀ (s : State) (p q : Nat) (x : Part) (u : UnitName) (arg : Nat) (gear : Bool), s.parts[p]? = some x →
    let refuse (i : Instr) (n : BitVec 4) : Prop := exec i s = .next { s with hub := { s.hub with drSts := n } }
    let st := s.partState p
    let mine (v : UnitName) : Prop := ∃ r, s.unit? v = some r ∧ r.cond = 1 ∧ r.owner = p
    let units : Prop := (∀ i d, x.spoke i = some d → (∃ c < 9, mine (.cluster d c)) ∧ (∃ n < 32, mine (.slice d n))) ∧ ∃ n < 96, mine (.cg n)
    let shifts (t : State) (step what : Nat) : Prop := (t.part p).shift = some { step := step, what := what, unit_ := u } ∧
      t.hub = { s.hub with drSts := 1, drStep := BitVec.ofNat 4 step }
    let others (t : State) : Prop := ∀ v, v ≠ u → t.unit? v = s.unit? v
    let calm (t : State) : Prop := others t ∧ t.mem = s.mem ∧ t.ctxs = s.ctxs
    (st = 0 ∨ st = 8 → exec (.form p) s = .next { s with hub := { s.hub with drSts := 2 }, parts := s.parts.set p { Part.unformed with formed := true } }) ∧
    (st ≠ 0 → st ≠ 8 → refuse (.form p) 3) ∧
    (st ≠ 1 → refuse (.activate p) 3) ∧ (st = 1 → ¬ units → refuse (.activate p) 5) ∧
    (st = 1 → units → x.ressz = 0 ∨ s.ownMemory p x.respa.toNat x.ressz.toNat = false → refuse (.activate p) 7) ∧
    (st = 1 → units → x.ressz ≠ 0 → s.ownMemory p x.respa.toNat x.ressz.toNat = true → ∃ (t : State) (y : Part), exec (.activate p) s = .next t ∧
      t.hub = { s.hub with drSts := 2 } ∧ t.parts[p]? = some y ∧ { y with slt := x.slt, sltOld := x.sltOld } = { x with active := true } ∧
      (∀ d < 8, ∃ tb, y.slt[d]? = some tb ∧ ∀ i < 64, s.ownSlices p d ≠ [] →
        tb[i]? = ((s.ownSlices p d)[i % (s.ownSlices p d).length]?).map (BitVec.ofNat 8)) ∧
      (∀ d < 8, s.ownSlices p d = [] → ∃ tb, y.slt[d]? = some tb ∧ ∀ e ∈ tb, e = 0xFF)) ∧
    (st ≠ 1 → st ≠ 2 → st ≠ 4 → refuse (.partGrow p u gear) 3 ∧ refuse (.partShrink p u arg) 3) ∧
    (st = 1 ∨ st = 2 ∨ st = 4 →
      (∀ r, s.unit? u = some r → r.cond ≠ 0 ∨ r.usable = false ∨ x.maps u = false → refuse (.partGrow p u gear) 5) ∧
      (s.unit? u = none → refuse (.partGrow p u gear) 5 ∧ refuse (.partShrink p u arg) 5) ∧
      (∀ r, s.unit? u = some r → r.cond = 0 → r.usable = true → x.maps u = true → ∃ t, exec (.partGrow p u gear) s = .next t ∧ calm t ∧
        t.unit? u = some { r with cond := 4, after := 1, owner := p, gear := gear } ∧ (st ≠ 1 → shifts t 2 0) ∧
        (st = 1 → t.parts = s.parts ∧ t.hub = { s.hub with drSts := 1 })) ∧
      (∀ r, s.unit? u = some r → r.cond ≠ 1 ∨ r.owner ≠ p → refuse (.partShrink p u arg) 5) ∧
      (∀ r n, s.unit? u = some r → r.cond = 1 → r.owner = p → u = .cg n → arg % 2 = 0 → refuse (.partShrink p u arg) 4) ∧
      (∀ r, s.unit? u = some r → r.cond = 1 → r.owner = p → (∀ n, u = .cg n → arg % 2 = 1) → ∃ t, exec (.partShrink p u arg) s = .next t ∧ others t ∧
        (st = 1 → t.unit? u = some { r with cond := 4, after := 0 }) ∧
        (st ≠ 1 → t.unit? u = some r ∧
          (∀ d c, u = .cluster d c → (t.part p).shift = some { step := 3, what := 1, unit_ := u } ∧ t.hub.drSts = 1 ∧ t.hub.drStep = 3 ∧
            (∀ k ∈ t.kernels, ∀ b ∈ k.positions, b.bound ≠ some (d, c)) ∧
            ((∀ z ∈ s.streams, z.die = d → z.clu = c → z.sst = .running → s.boundTo z.kid z.pos = some (d, c)) →
              ∀ z ∈ t.streams, z.die = d → z.clu = c → z.sst ≠ .running)) ∧
          (∀ n, u = .cg n → shifts t 5 1) ∧
          (∀ d n, u = .slice d n → shifts t 4 1 ∧ ∀ tb, x.slt[d]? = some tb → tb.length = 64 →
            ∃ tb', (t.part p).slt[d]? = some tb' ∧ ∀ e ∈ tb', e.toNat ≠ n)))) ∧
    (∀ n, s.lendStatus p q u (arg % 128) = n → n ≠ 0 → refuse (.lend p q u arg) (BitVec.ofNat 4 n)) ∧
    (∀ d c, u = .cluster d c → (s.lendStatus p q u (arg % 128) = 0 ↔ (st = 2 ∨ st = 4) ∧ (s.partState q = 2 ∨ s.partState q = 4) ∧ mine u ∧ p ≠ q ∧
      (∀ r, s.unit? u = some r → r.gear = false) ∧ x.mode.getLsbD 0 = true ∧ (s.part q).mode.getLsbD 1 = true ∧ (s.part q).maps u = true ∧
      (∀ b ∈ s.blocks, b.die = d → b.clu = c → b.bst ≠ .placed) ∧ (∀ z ∈ s.streams, z.die = d → z.clu = c → z.sst ≠ .running ∧
        (z.sst = .stopped → s.boundTo z.kid z.pos ≠ some (d, c))))) ∧
    (∀ r, s.lendStatus p q u (arg % 128) = 0 → s.unit? u = some r → ∃ t, exec (.lend p q u arg) s = .next t ∧ calm t ∧
      (∀ d n, u = .slice d n → shifts t 4 2 ∧ t.unit? u = some { r with borrower := q, window := arg % 128, taken := false }) ∧
      ((∀ d n, u ≠ .slice d n) → shifts t 2 2 ∧ t.unit? u = some { r with cond := 4, after := 2, borrower := q, window := arg % 128, taken := false }) ∧
      (∀ d c, u = .cluster d c → ∀ k ∈ t.kernels, ∀ b ∈ k.positions, b.bound ≠ some (d, c)) ∧
      (∀ n y, u = .cg n → s.parts[q]? = some y → y.shadows.length = 4 → some { cg := n, window := arg % 128, redir := false } ∈ (t.part q).shadows))

/-- REVOKE, AUTORECL, CLRREDIR and SHADOW_COPY_DONE (R402, R406, R408, R422): a revocation takes back a unit that the partition has lent, and no other, and a
seventeenth is discarded with its mark; one that the borrower is still adding ends the LEND with NOUNIT and the shift that adds it (R410);
AUTORECL revokes one lent cluster for a set that has waited, and only if the mode says so; the copy of
a revoked window lets its redirect stand; CLRREDIR frees the slot of a standing redirect. SETMODE and SETMAP (R416): made at once where no context
of the partition runs, refused with BUSY, or with FORCE made once every such context has been halted and saved; a map that
breaks R400 is BADARG.
Where a clause rests on a choice of the model and not on the spec, it is that of log entry 42. -/
def Obligations.RevocationsAndModes : Prop :=
  ∀ (s : State) (p : Nat) (x : Part), s.parts[p]? = some x →
    let st := s.partState p
    let refuse (i : Instr) (n : BitVec 4) : Prop := exec i s = .next { s with hub := { s.hub with drSts := n } }
    let taken (t : State) (u : UnitName) (r : UnitRec) : Prop := t.hub.revs = s.hub.revs ++ [{ unit_ := u, lender := p, borrower := r.borrower }] ∧
      ∃ y, t.unit? u = some y ∧ y.owner = p ∧ (y.cond = 3 ∨ (∃ d c, u = .cluster d c ∧ y.cond = 4 ∧ y.after = 3))
    (∀ u r, s.unit? u = some r →
      (r.cond ≠ 2 ∨ r.owner ≠ p → exec (.revoke p u) s = .next s) ∧
      (r.cond = 2 → r.owner = p → 16 ≤ s.hub.revs.length → exec (.revoke p u) s = .next { s with hub := { s.hub with rovf := true } }) ∧
      (r.cond = 2 → r.owner = p → s.hub.revs.length < 16 → ∃ t, exec (.revoke p u) s = .next t ∧ taken t u r ∧
        (∀ z sh, s.parts[r.borrower]? = some z → z.loans = [] → z.shift = some sh → sh.what = 3 → sh.unit_ = u →
          (t.part r.borrower).shift = none ∧ t.hub.drSts = 5))) ∧
    (∀ kid k, s.kernels[kid]? = some k →
      (x.mode.getLsbD 3 = false ∨ (s.ctx k.ctx).part ≠ p ∨ s.waited k = false ∨ 16 ≤ s.hub.revs.length → exec (.autorecl p kid) s = .next s) ∧
      ((∃ v ∈ s.hub.revs, v.lender = p ∧ ∃ d c, v.unit_ = .cluster d c) → exec (.autorecl p kid) s = .next s) ∧
      (x.mode.getLsbD 3 = true → (s.ctx k.ctx).part = p → s.waited k = true → s.hub.revs.length < 16 →
        (∀ v ∈ s.hub.revs, v.lender = p → ∀ d c, v.unit_ ≠ .cluster d c) →
        (∃ d c r, s.unit? (.cluster d c) = some r ∧ r.cond = 2 ∧ r.owner = p) →
        ∃ t d c r, exec (.autorecl p kid) s = .next t ∧ s.unit? (.cluster d c) = some r ∧ taken t (.cluster d c) r)) ∧
    (∀ slot, (st = 0 ∨ 6 ≤ st → refuse (.clrredir p slot) 3) ∧
      (st ≠ 0 → st < 6 →
        ((∀ sh, x.shadows[slot]? = some (some sh) → sh.redir = false) → refuse (.clrredir p slot) 5) ∧
        (∀ sh, x.shadows[slot]? = some (some sh) → sh.redir = true → ∃ t, exec (.clrredir p slot) s = .next t ∧ t.hub = { s.hub with drSts := 2 } ∧
          t.parts = s.parts.set p { x with shadows := x.shadows.set slot none } ∧
          (∀ r, s.cgs[sh.cg]? = some r → ∃ b, t.cgs[sh.cg]? = some { r with redir := b } ∧
            (b = true ↔ ∃ y ∈ t.parts, ∃ o, some o ∈ y.shadows ∧ o.redir = true ∧ o.cg = sh.cg))))) ∧
    (∀ n r, s.cgs[n]? = some r → r.borrower = p →
      (r.cond ≠ 3 → exec (.shadowCopyDone n) s = .next s) ∧
      (r.cond = 3 → x.slotOf n = none → exec (.shadowCopyDone n) s = .next { s with cgs := s.cgs.set n { r with cond := 4, after := 3 } }) ∧
      (∀ i sh, r.cond = 3 → x.slotOf n = some i → x.shadows[i]? = some (some sh) → ∃ t, exec (.shadowCopyDone n) s = .next t ∧
        t.cgs = s.cgs.set n { r with cond := 4, after := 3, redir := true } ∧
        t.parts = s.parts.set p { x with shadows := x.shadows.set i (some { sh with redir := true }) })) ∧
    (∀ (f : Bool) (arg : Word),
      let i : Instr := .setmode p f arg
      let j : Instr := .setmap p f arg
      let spoke (e : Nat) : Nat := arg.toNat / 2 ^ (4 * e) % 16
      let strays : Prop := ∃ u d r, unitSpoke u = some d ∧ s.unit? u = some r ∧ r.cond ≠ 0 ∧
        (r.owner = p ∨ ((r.cond = 2 ∨ r.cond = 3) ∧ r.borrower = p)) ∧ ∀ e < 8, spoke e ≠ 8 + d
      let waits (k : Instr) (cmd : DrCmd) : Prop := ∃ t, exec k s = .next t ∧ t.hub.drSts = 1 ∧ t.hub.drPend = some cmd ∧ (t.part p).quiescing = true ∧
        ∀ c ∈ s.partCtxs p Ctx.busy, (s.ctx c).active = true → (t.ctx c).st = .halting
      (mapOk arg = false → refuse j 9) ∧
      (s.hub.drPend = none →
        ((st = 0 ∨ st = 3 ∨ 6 ≤ st) → refuse i 3 ∧ (mapOk arg = true → refuse j 3)) ∧
        ((st = 1 ∨ st = 2 ∨ st = 4 ∨ st = 5) → mapOk arg = true → strays → refuse j 5) ∧
        ((st = 1 ∨ st = 2 ∨ st = 4 ∨ st = 5) → s.partCtxs p Ctx.busy = [] →
          exec i s = .next { s with hub := { s.hub with drSts := 2 }, parts := s.parts.set p { x with mode := arg.setWidth 4 } } ∧
          (mapOk arg = true → ¬ strays → ∃ t, exec j s = .next t ∧ t.hub = { s.hub with drSts := 2 } ∧ t.parts = s.parts.set p { x with map := arg })) ∧
        ((st = 1 ∨ st = 2 ∨ st = 4 ∨ st = 5) → s.partCtxs p Ctx.busy ≠ [] →
          (f = false → refuse i 4 ∧ (mapOk arg = true → ¬ strays → refuse j 4)) ∧
          (f = true → waits i (.setmode p f arg) ∧ (mapOk arg = true → ¬ strays → waits j (.setmap p f arg))))) ∧
      (s.partCtxs p Ctx.busy = [] → (∀ e ∈ s.hub.drCtxs, (s.ctx e.1).st = .saved) →
        let made (k : Instr) (y : Part) : Prop := ∃ t, exec k s = .next t ∧ t.parts = s.parts.set p { y with quiescing := false } ∧
          t.hub.drPend = none ∧ t.hub.drSts = 2
        (s.hub.drPend = some (.setmode p f arg) → made i { x with mode := arg.setWidth 4 }) ∧
        (s.hub.drPend = some (.setmap p f arg) → mapOk arg = true → made j { x with map := arg })) ∧
      ((∃ e ∈ s.hub.drCtxs, (s.ctx e.1).st = .halted ∧ s.saveAreaOk e.1 = false) →
        let fails (k : Instr) : Prop := ∃ t, exec k s = .next t ∧ t.hub.drPend = none ∧ t.hub.drSts = 8 ∧ (t.part p).mode = x.mode ∧ (t.part p).map = x.map
        (s.hub.drPend = some (.setmode p f arg) → fails i) ∧ (s.hub.drPend = some (.setmap p f arg) → mapOk arg = true → fails j)))

/-- PART_RESET, DISSOLVE and MOVE (R417, R418, R419): refused with BADSTATE in a state that does not take them, DISSOLVE with BUSY while a context is there without FORCE. A reset kills every
context of the partition, which is QUIESCING, then sends borrowed units back and scrubs its clusters and slices, and, when no unit of it moves any more, leaves it FORMED; a
dissolution revokes what is lent, at most 16 at once, scrubs what is owned, and ends with the partition
DISSOLVED once it owns nothing; a move makes the OPEN gates that name the partition FROZEN, passes the record and the contexts of the partition
to the other number once each of them is saved, opens those gates again, and restores the contexts that ran (R419, R435).
Where a clause rests on a choice of the model and not on the spec, it is that of log entries 37, 43, 98. -/
def Obligations.ResettingAndMoving : Prop :=
  ∀ (s : State) (p q : Nat) (x y : Part) (f : Bool), s.parts[p]? = some x → s.parts[q]? = some y →
    let st := s.partState p
    let refuse (i : Instr) (n : BitVec 4) : Prop := exec i s = .next { s with hub := { s.hub with drSts := n } }
    let dead (t : State) : Prop := ∀ c, (s.ctx c).part = p → (s.ctx c).st ≠ .free → (t.ctx c).st = .dead
    let saved : Prop := ∀ e ∈ s.hub.drCtxs, (s.ctx e.1).st = .saved
    let ended (t : State) : Prop := t.hub.drSts = 2 ∧ t.hub.drPend = none
    let back (t : State) : Prop := ∀ u r, s.unit? u = some r → (r.cond = 2 ∨ r.cond = 3) → r.borrower = p → ∃ z, t.unit? u = some z ∧ z.cond = 4
    let lent : List UnitName := s.unitsWhere fun r => r.cond == 2 && r.owner == p
    let own : List UnitName := s.unitsWhere fun r => r.cond == 1 && r.owner == p
    (x.resetting = false → s.resetsNext p = false →
      (st < 2 ∨ 5 < st → refuse (.partReset p) 3) ∧
      (2 ≤ st → st ≤ 5 → ∃ t, exec (.partReset p) s = .next t ∧ dead t ∧ (t.part p).quiescing = true ∧ t.hub.drSts = 1 ∧ t.hub.drPend = some (.reset p) ∧
        t.mem = s.mem)) ∧
    (x.resetting = false → s.resetsNext p = true → ∃ t, exec (.partReset p) s = .next t ∧ dead t ∧ (t.part p).resetting = true ∧
      (t.part p).quiescing = false ∧ (t.part p).shift = none ∧ t.mem = s.mem ∧ back t ∧
      ∀ u ∈ own, (∀ n, u ≠ .cg n) → ∃ z, t.unit? u = some z ∧ z.cond = 4) ∧
    (x.resetting = true → s.unitsMoving p = true → exec (.partReset p) s = .next s) ∧
    (x.resetting = true → s.unitsMoving p = false → ∃ t, exec (.partReset p) s = .next t ∧ (t.part p).resetting = false ∧ (t.part p).active = false ∧
      (s.hub.drPend = some (.reset p) → ended t)) ∧
    (s.hub.drPend = none →
      (st = 0 ∨ 5 < st → refuse (.dissolve p f) 3) ∧
      (st ≠ 0 → st ≤ 5 →
        let used : Prop := s.partCtxs p (fun c => c.st != .dead) ≠ []
        (f = false → used → refuse (.dissolve p f) 4) ∧
        (f = true → used → ∃ t, exec (.dissolve p f) s = .next t ∧ dead t ∧ (t.part p).quiescing = true ∧
          t.hub.drPend = some (.dissolve p f) ∧ t.hub.drSts = 1) ∧
        (¬ used → x.shift = none → ∃ t, exec (.dissolve p f) s = .next t ∧ (t.part p).quiescing = false ∧ back t ∧
          t.hub.drPend = some (.dissolve p f) ∧ t.hub.drSts = 1)) ∧
      ((st ≠ 1 ∧ st ≠ 2 ∧ st ≠ 4) ∨ (s.partState q ≠ 0 ∧ s.partState q ≠ 8) ∨ 24 ≤ q ∨ p = q → refuse (.move p q) 3) ∧
      (st = 1 ∨ st = 2 ∨ st = 4 → s.partState q = 0 ∨ s.partState q = 8 → q < 24 → p ≠ q → ∃ t, exec (.move p q) s = .next t ∧
        (∃ gs, t.hub.drPend = some (.move p q gs)) ∧ t.hub.drSts = 1 ∧ t.mem = s.mem ∧
        (∀ n, (s.gate n).gst = .opened → (s.gate n).touches p = true → (t.gate n).gst = .frozen) ∧
        (∀ c, (s.ctx c).part = p → (s.ctx c).st = .running → (c, true) ∈ t.hub.drCtxs) ∧
        ∀ c, (s.ctx c).part = p → (s.ctx c).active = true → (t.ctx c).st = .halting)) ∧
    (s.hub.drPend = some (.dissolve p f) →
      (x.quiescing = true → x.shift = none → ∃ t, exec (.dissolve p f) s = .next t ∧ (t.part p).quiescing = false ∧ back t ∧ t.hub = s.hub) ∧
      (x.quiescing = false →
        (lent ≠ [] → ∃ t, exec (.dissolve p f) s = .next t ∧ (s.hub.revs.length ≤ 16 → t.hub.revs.length ≤ 16) ∧
          (s.hub.revs.length + lent.length ≤ 16 → ∀ u ∈ lent, ∃ z, t.unit? u = some z ∧ z.cond ≠ 2)) ∧
        (lent = [] → s.unitsMoving p = true → exec (.dissolve p f) s = .next s) ∧
        (lent = [] → s.unitsMoving p = false → own ≠ [] → ∃ t, exec (.dissolve p f) s = .next t ∧
          ∀ u ∈ own, ∃ z, t.unit? u = some z ∧ z.cond = 4 ∧ z.after = 0) ∧
        (lent = [] → s.unitsMoving p = false → own = [] → ∃ t, exec (.dissolve p f) s = .next t ∧ ended t ∧
          t.part p = { Part.unformed with formed := true, dissolved := true }))) ∧
    (∀ gs, s.hub.drPend = some (.move p q gs) → p ≠ q → saved → s.partCtxs p Ctx.inUse = [] → ∃ t, exec (.move p q) s = .next t ∧ ended t ∧
      t.part p = { Part.unformed with formed := true, dissolved := true } ∧ t.part q = { x with quiescing := false } ∧
      (∀ c, (s.ctx c).st ≠ .free → (s.ctx c).part = p → (t.ctx c).part = q) ∧
      (∀ c, (c, true) ∈ s.hub.drCtxs → (s.ctx c).part = p → s.stopAreaOk c = true → (t.ctx c).st = .migrating) ∧
      ∀ n ∈ gs, (s.gate n).gst = .frozen → (t.gate n).gst = .opened)

/-- The events of units (R406, R410, R411, R413). SCRUB_COMPLETE: a unit whose scrub ends passes to its next state, a channel group given to the pool
holding only zeros, and no byte elsewhere has changed; a unit that is not being scrubbed is as before. SWEEP_COMPLETE takes a shift from its sweep to its
scrub or its commit, or a revoked slice to its scrub, and SHIFT_COMMIT ends it: the epoch rises, a grown unit is OWNED, and one that is given up is scrubbed.
None of these steps of a shift is made while a revocation is aimed at the partition, and a loan waits for the shift that goes before it
(R410).
Where a clause rests on a choice of the model and not on the spec, it is that of log entries 18, 37, 38. -/
def Obligations.ScrubsAndShifts : Prop :=
  (∀ (s : State) (u : UnitName) (r : UnitRec), s.unit? u = some r →
    let becomes (y : UnitRec) : Prop := ∃ t, exec (.scrubComplete u) s = .next t ∧ t.unit? u = some y ∧ ∀ v, v ≠ u → t.unit? v = s.unit? v
    let aimed : Prop := (s.part r.owner).shift ≠ none ∧ ∃ v ∈ s.hub.revs, v.borrower = r.owner
    (r.cond ≠ 4 → r.cond ≠ 3 → exec (.scrubComplete u) s = .next s) ∧
    (r.cond = 3 → (∀ d c, u = .cluster d c → s.clusterEmpty d c = false) → exec (.scrubComplete u) s = .next s) ∧
    (∀ d c, u = .cluster d c → r.cond = 3 → s.clusterEmpty d c = true → ∃ t, exec (.scrubComplete u) s = .next t ∧
      t.unit? u = some { r with cond := 1, after := 0, borrower := 0, taken := false } ∧ t.hub.revs = s.hub.revs.filter fun v => v.unit_ != u) ∧
    (r.cond = 4 → r.after = 1 ∨ r.after = 2 → aimed → exec (.scrubComplete u) s = .next s) ∧
    (r.cond = 4 → r.after = 0 → becomes { UnitRec.free with usable := r.usable, redir := r.redir }) ∧
    (r.cond = 4 → r.after = 1 → ¬ aimed → s.partState r.owner = 1 → becomes { r with cond := 1, after := 0 }) ∧
    (r.cond = 4 → r.after = 1 → ¬ aimed → s.partState r.owner ≠ 1 → ∀ y sh, s.parts[r.owner]? = some y → y.shift = some sh → sh.step = 2 →
      ∃ t, exec (.scrubComplete u) s = .next t ∧ t.unit? u = some r ∧
        (t.part r.owner).shift = some { step := (match u with | .slice .. => 4 | _ => 5), what := 0, unit_ := u }) ∧
    (r.cond = 4 → r.after = 2 → ¬ aimed → becomes { r with cond := 2, after := 0 } ∧
      (∀ y z, s.parts[r.owner]? = some y → s.parts[r.borrower]? = some z → r.owner ≠ r.borrower → ∃ t, exec (.scrubComplete u) s = .next t ∧
        (t.part r.owner).shift = some { step := 5, what := 2, unit_ := u } ∧
        (z.shift = none → (t.part r.borrower).shift = some { step := (match u with | .slice .. => 4 | _ => 5), what := 3, unit_ := u }) ∧
        (z.shift ≠ none → (t.part r.borrower).shift = z.shift ∧ (t.part r.borrower).loans = z.loans ++ [{ step := 2, what := 3, unit_ := u }]))) ∧
    (r.cond = 4 → r.after = 3 → ∃ t, exec (.scrubComplete u) s = .next t ∧ t.unit? u = some { r with cond := 1, after := 0, borrower := 0, taken := false } ∧
      t.hub.revs = s.hub.revs.filter fun v => v.unit_ != u) ∧
    (r.cond = 4 → 4 ≤ r.after → becomes { r with cond := 1, after := 0 }) ∧
    (∀ n, u = .cg n → r.cond = 4 → r.after = 0 → ∃ t, exec (.scrubComplete u) s = .next t ∧
      (∀ pa, groupOf pa = n → t.mem.read pa = 0 ∧ (n < 96 → t.homeByte pa = 0)) ∧ ∀ pa, groupOf pa ≠ n → t.mem.read pa = s.mem.read pa)) ∧
  (∀ (s : State) (p : Nat) (x : Part) (sh : Shift), s.parts[p]? = some x → (∀ v ∈ s.hub.revs, v.borrower ≠ p) →
    (x.shift = none → exec (.sweepComplete p) s = .next s ∧ exec (.shiftCommit p) s = .next s) ∧
    (x.shift = some sh →
      (sh.step ≠ 4 → exec (.sweepComplete p) s = .next s) ∧
      (sh.step = 4 → ∃ t, exec (.sweepComplete p) s = .next t ∧
        (sh.what = 2 → (t.part p).shift = some { sh with step := 2 } ∧
          ∀ r, s.unit? sh.unit_ = some r → t.unit? sh.unit_ = some { r with cond := 4, after := 2 }) ∧
        (sh.what ≠ 2 → (t.part p).shift = some { sh with step := 5 } ∧ ∀ v, t.unit? v = s.unit? v)) ∧
      (sh.step ≠ 5 → sh.step ≠ 3 → exec (.shiftCommit p) s = .next s) ∧
      (sh.step = 3 → (∃ d c, sh.unit_ = .cluster d c ∧ s.clusterEmpty d c = false) → exec (.shiftCommit p) s = .next s) ∧
      (sh.step = 5 ∨ (sh.step = 3 ∧ ∀ d c, sh.unit_ = .cluster d c → s.clusterEmpty d c = true) → ∃ t, exec (.shiftCommit p) s = .next t ∧ (t.part p).epoch = x.epoch + 1 ∧
        (∀ r, s.unit? sh.unit_ = some r → t.unit? sh.unit_ = some (if sh.what = 0 then { r with cond := 1, after := 0 }
          else if sh.what = 1 then { r with cond := 4, after := 0 } else if sh.what = 3 then { r with taken := true } else r)) ∧
        (x.loans = [] → (x.active = false ∨ ∀ d n r, s.unit? (.slice d n) = some r → r.owner ≠ p) → (t.part p).shift = none) ∧
        (sh.what = 0 ∨ sh.what = 1 ∨ sh.what = 3 → t.hub.drSts = 2)))) ∧
  (∀ (s : State) (p d n l : Nat) (r : UnitRec), s.hub.revs = [{ unit_ := .slice d n, lender := l, borrower := p }] → s.unit? (.slice d n) = some r → r.cond = 3 →
    exec (.shiftCommit p) s = .next s ∧
    ∃ t, exec (.sweepComplete p) s = .next t ∧ t.unit? (.slice d n) = some { r with cond := 4, after := 3 } ∧ (t.part p).shift = (s.part p).shift)

/-! ## Links, the chanter and the dies -/

/-- The states of links (R436, R437): a port that is DOWN or FAILED trains when it is enabled; training ends UP with every lane, DEGRADED between
the least number and all, by the direction that has fewer, FAILED below it, a PCIe port whose partner answers on no lane DOWN (R448), and a hub
link that FAILED fences its serving spoke and fails one that boots or rejoins; a flit that has failed 16 retries trains its link again. The
slots of a flit (R438, R440, R441): at most four of 64 bytes, taken in order; a failed link check is retried and logged as class 4; a payload that
passes is delivered, and one of a partition that does not own the line's group is dropped (R415); one that fails its end-to-end check is logged as class 5, and a write is dropped
with its line POISON, a read consumes POISON for its agent. A link that is not up carries nothing.
Where a clause rests on a choice of the model and not on the spec, it is that of log entries 17, 50, 51, 52, 53, 101, 107. -/
def Obligations.LinksAndFlits : Prop :=
  ∀ (s : State) (l : Nat) (lanes : Nat × Nat) (x : Link), s.links[l]? = some x →
    let up : Prop := x.lst = .up ∨ x.lst = .degraded
    let only (t : State) (y : Link) : Prop := t.links = s.links.set l y
    let got : Nat × Nat := (min lanes.1 x.full, min lanes.2 x.full)
    let n := min got.1 got.2
    let mark : Link := { x with lanes := got, retries := 0, lst := if 28 ≤ l ∧ n = 0 then .down else if n < x.least then .failed
      else if n = x.full then .up else .degraded }
    (12 ≤ l → x.lst = .down ∨ x.lst = .failed →
      exec (.portEnable l) s = .next { s with links := s.links.set l { x with lst := .training, retries := 0 } }) ∧
    (l < 12 ∨ (x.lst ≠ .down ∧ x.lst ≠ .failed) → exec (.portEnable l) s = .next s) ∧
    (x.lst ≠ .training → exec (.linkTrainingDone l lanes) s = .next s) ∧
    (x.lst = .training → ∃ t, exec (.linkTrainingDone l lanes) s = .next t ∧ only t mark ∧
      (12 ≤ l ∨ x.least ≤ n → { t with links := s.links } = s) ∧
      (l < 12 → n < x.least → ∀ d, s.dies[l]? = some d →
        (d.st ≠ .booting → d.st ≠ .rejoining → { t with links := s.links, dies := s.dies } = s ∧
          t.dies = s.dies.set l (if d.st = .serving then { d with st := .fenced, why := 1 } else d)) ∧
        (d.st = .booting ∨ d.st = .rejoining → t.dies[l]? = some { d with st := .failed, why := 1 } ∧ t.mem = s.mem ∧
          ∀ u r, unitOn l u = true → s.unit? u = some r → t.unit? u = some { UnitRec.free with usable := false, redir := r.redir }))) ∧
    (up → 16 ≤ x.retries → exec (.retryLimit l) s = .next { s with links := s.links.set l { x with lst := .training } }) ∧
    (¬ up ∨ x.retries < 16 → exec (.retryLimit l) s = .next s) ∧
    (∀ (bs : List (List Byte)) (crcs : List (BitVec 16)) (ws : List Bool) (pas : List Nat) (cs : List (Nat × Option Nat)),
      let slots := flitSlots bs crcs ws pas cs
      (slots.length ≤ 4 ∧ ∀ z ∈ slots, z.payload.length = 64) ∧
      (up → (∀ z ∈ slots, z.wr = true → crc16 z.payload = z.crc → paKind z.pa ≠ .reserved) → exec (.flitReceive l true bs crcs ws pas cs) s =
        .next (slots.foldl (fun u z => u.takeSlot l z) { s with links := s.links.set l { x with retries := 0 } }))) ∧
    (∀ (ok wr : Bool) (b : List Byte) (crc : BitVec 16) (pa ctx : Nat) (bid : Option Nat), b.length = 64 →
      let i : Instr := .flitReceive l ok [b] [crc] [wr] [pa] [(ctx, bid)]
      let src := if l < 12 then 7 else if l < 28 then 8 else 9
      let clear : State := { s with links := s.links.set l { x with retries := 0 } }
      (¬ up → exec i s = .next s) ∧
      (up → ok = false → ∃ (t : State) (e : ErrorReport), exec i s = .next t ∧ only t { x with retries := x.retries + 1 } ∧ t.hub.errors = s.hub.errors ++ [e] ∧
        e.cls = 4 ∧ e.src = src ∧ t.mem = s.mem ∧ t.l2 = s.l2) ∧
      (up → ok = true → crc16 b = crc → wr = false → exec i s = .next clear) ∧
      (up → ok = true → crc16 b = crc → wr = true → paKind pa ≠ .reserved →
        exec i s = .next (clear.hubWrite (hubAcc ctx (s.ctx ctx).part) 0 pa b)) ∧
      (up → ok = true → crc16 b = crc → wr = true → paKind pa = .reserved → exec i s = .fault (.reservedAddress pa)) ∧
      (up → ok = true → crc16 b ≠ crc → wr = false → ∃ (t : State) (e e' : ErrorReport), exec i s = .next t ∧ t.hub.errors = s.hub.errors ++ [e, e'] ∧
        e.cls = 5 ∧ e.src = src ∧ e'.cls = 6 ∧ e'.place = .line pa ∧ e'.bid = bid ∧ t.mem = s.mem ∧ t.l2 = s.l2) ∧
      (up → ok = true → crc16 b ≠ crc → wr = true → s.homeDead noCtx pa = false → ∃ (t : State) (e : ErrorReport), exec i s = .next t ∧ t.hub.errors = s.hub.errors ++ [e] ∧
        e.cls = 5 ∧ e.src = src ∧ lineOf pa ∈ t.poison ∧ t.groups = s.groups))

/-- The chanter (R442 to R446): a bad header, or no credit, sets TXOVF and sends nothing; else a credit is spent and the message, with the sender's
code and its body, is held for its destination. CHANTER_DELIVER moves the oldest message held into the inbox, if that has room, and a unicast's
credit returns; POP removes the oldest message there. What a die sends while its thirty-third shoot-down waits goes behind that (R361).
Nothing leaves a FENCED or FAILED die, and what is held for it is discarded (R443).
Where a clause rests on a choice of the model and not on the spec, it is that of log entries 64, 112. -/
def Obligations.ChanterMessages : Prop :=
  ∀ (s : State) (d : Nat) (x : Die) (v : BitVec 64), s.dies[d]? = some x → d < 13 →
    let hdr := (x.chtx[0]?).getD 0
    (x.st = .fenced ∨ x.st = .failed → exec (.chtx d v) s = .next s) ∧
    (x.st ≠ .fenced → x.st ≠ .failed → x.chtx.length = 8 →
      let bad : Prop := badHeader hdr = true ∨ x.txcr = 0
      (bad → exec (.chtx d v) s = .next { s with dies := s.dies.set d { x with chtx := x.chtx.set 7 v, txovf := true } }) ∧
      (¬ bad → bitsOf hdr.toNat 0 8 < 0x80 → x.later ≠ [] → ∃ (t : State) (z : Die) (m : Msg), exec (.chtx d v) s = .next t ∧
        { t with dies := s.dies } = s ∧ t.dies = s.dies.set d z ∧ z.later = x.later ++ [m] ∧ z.txcr = x.txcr - 1 ∧ m.body = (x.chtx.set 7 v).drop 1) ∧
      (¬ bad → hdr.getLsbD 12 = false → bitsOf hdr.toNat 0 8 < 0x80 → x.later = [] → ∀ (y : Die), s.dies[bitsOf hdr.toNat 16 13]? = some y → y.st ≠ .fenced → y.st ≠ .failed →
        ∃ (t : State) (z w : Die) (m : Msg), exec (.chtx d v) s = .next t ∧ { t with dies := s.dies, hub := s.hub } = s ∧
          t.dies[d]? = some z ∧ z.txcr = x.txcr - 1 ∧ z.txovf = x.txovf ∧ z.inbox = x.inbox ∧
          t.dies[bitsOf hdr.toNat 16 13]? = some w ∧ w.heldMsgs = y.heldMsgs ++ [m] ∧ m.src = d ∧ m.kind = bitsOf hdr.toNat 0 8 ∧ m.mc = false ∧
          m.dst = bitsOf hdr.toNat 16 13 ∧ m.body = (x.chtx.set 7 v).drop 1)) ∧
    (x.heldMsgs = [] → exec (.chanterDeliver d) s = .next s) ∧
    (∀ m rest, x.heldMsgs = m :: rest →
      (x.st = .fenced ∨ x.st = .failed → ∃ (t : State) (y : Die), exec (.chanterDeliver d) s = .next t ∧ { t with dies := s.dies } = s ∧
        t.dies[d]? = some y ∧ y.heldMsgs = rest ∧ y.inbox = x.inbox) ∧
      (x.st ≠ .fenced → x.st ≠ .failed → m.kind = 0x80 ∨ m.kind = 0x81 ∨ 256 ≤ x.inbox.length → exec (.chanterDeliver d) s = .next s) ∧
      (x.st ≠ .fenced → x.st ≠ .failed → m.kind ≠ 0x80 → m.kind ≠ 0x81 → x.inbox.length < 256 → ∃ (t : State) (y : Die), exec (.chanterDeliver d) s = .next t ∧ { t with dies := s.dies } = s ∧
        t.dies[d]? = some y ∧ y.heldMsgs = rest ∧ y.inbox = x.inbox ++ [m] ∧
        (m.credit = true → m.mc = false → ∀ z, s.dies[m.src]? = some z → ∃ z' : Die, t.dies[m.src]? = some z' ∧ z'.txcr = min 64 (z.txcr + 1)))) ∧
    exec (.popInbox d) s = .next { s with dies := s.dies.set d { x with inbox := x.inbox.drop 1 } } ∧
    (∀ h : BitVec 64, badHeader h = true ↔ 0x83 ≤ bitsOf h.toNat 0 8 ∨ bitsOf h.toNat 0 8 = 0x81 ∨ bitsOf h.toNat 29 3 ≠ 0 ∨ bitsOf h.toNat 13 3 ≠ 0 ∨
      (h.getLsbD 12 = true ∧ bitsOf h.toNat 16 13 = 0) ∨ (h.getLsbD 12 = false ∧ 12 < bitsOf h.toNat 16 13))

/-- The states of spokes (R449, R450, R451, R455, R458): a heartbeat is counted and makes a spoke that rejoins with an image that has passed its check, or boots with its kernel
running, SERVING; none for HBTO ms, or the FENCE command, fences a SERVING spoke and no other. When the steps of the fence are done the
spoke is FAILED: its units are free of owners and unusable, nothing is held for it, none of its blocks is placed and none of its cache
lines is left, and the contexts that its instance owned pass to the hub's. A FAILED spoke whose link is UP rejoins with the registers of its windows as at reset and its
units, but for those retired, to be scrubbed.
Where a clause rests on a choice of the model and not on the spec, it is that of log entries 59, 61, 64, 65, 75. -/
def Obligations.SpokesFailAndRejoin : Prop :=
  ∀ (s : State) (d : Nat) (x : Die), s.dies[d]? = some x → d < 12 →
    let timeout := (if 1 ≤ x.hbto.toNat ∧ x.hbto.toNat ≤ 10000 then x.hbto.toNat else 100) * 1000000
    let becomes (i : Instr) (y : Die) : Prop := exec i s = .next { s with dies := s.dies.set d y }
    let up : Prop := (s.links[d]?).map (·.lst) = some .up
    let beat : Die := { x with hb := x.hb + 1, hbAt := s.clockOn 12 }
    (x.st = .fenced ∨ x.st = .failed → exec (.heartbeat d) s = .next s) ∧
    (x.st = .serving → becomes (.heartbeat d) beat) ∧ (x.st = .rejoining → becomes (.heartbeat d) (if x.imaged then { beat with st := .serving } else beat)) ∧
    (x.st = .booting → becomes (.heartbeat d) (if 3 ≤ s.hub.stage ∧ s.hub.stage ≠ 7 then { beat with st := .serving } else beat)) ∧
    (x.st = .serving → x.hbAt + timeout ≤ s.clockOn 12 → becomes (.heartbeatTimeout d) { x with st := .fenced, why := 2 }) ∧
    (x.st = .serving → becomes (.dieFence d) { x with st := .fenced, why := 4 }) ∧
    (x.st ≠ .serving ∨ s.clockOn 12 < x.hbAt + timeout → exec (.heartbeatTimeout d) s = .next s) ∧
    (x.st ≠ .serving → exec (.dieFence d) s = .next s) ∧
    (x.st ≠ .fenced → exec (.fenceComplete d) s = .next s) ∧
    (x.st = .fenced → ∃ (t : State) (y : Die), exec (.fenceComplete d) s = .next t ∧ t.dies[d]? = some y ∧ y.st = .failed ∧ y.heldMsgs = [] ∧
      y.inbox = [] ∧ y.shoots = [] ∧ (∀ u r, unitOn d u = true → s.unit? u = some r → t.unit? u = some { UnitRec.free with usable := false, redir := r.redir }) ∧
      (∀ c, (s.ctx c).st ≠ .free → (s.ctx c).owner = d → (t.ctx c).owner = 12) ∧
      (d < 8 → (∀ b ∈ t.blocks, b.die = d → b.bst ≠ .placed) ∧ ∀ line < 2 ^ 45, t.line? d line = none)) ∧
    (x.st ≠ .failed ∨ ¬ up → exec (.rejoin d) s = .next s) ∧
    (x.st = .failed → up → ∃ (t : State) (y : Die), exec (.rejoin d) s = .next t ∧ t.dies = s.dies.set d y ∧ y.st = .rejoining ∧ y.hbto = x.hbto ∧ y.hbAt = s.clockOn 12 ∧
      y.imaged = false ∧ y.txcr = 64 ∧ y.inbox = [] ∧ y.heldMsgs = [] ∧ y.near = 0 ∧ y.duty = x.duty ∧ t.mem = s.mem ∧ (∀ w ∈ t.ways, w.1 / 32 ≠ d) ∧
      (∀ u r, unitOn d u = true → s.unit? u = some r → t.unit? u = some (if s.hub.retired.contains u then r else { UnitRec.free with cond := 4, owner := noPart, redir := r.redir })))

/-! ## Errors, boot and care -/

/-- ERROR_DETECT (R459 to R462, R469): the severity matrix gives the action of an error's class and source; IGNORE does nothing, every other action writes
one log record of 32 bytes with the clock, or marks the overflow of a full log; INTERRUPT and above interrupt the hub's instance and the die's,
KILL kills the context charged, RESET_PARTITION begins the reset of its partition, FENCE_DIE fences the die, or from the hub's own sources resets the
package. POISON that a protected block consumes starts a rollback instead. ROLLBACK_RESTORE (R469): the block takes the contents of its latest snapshot and replays
its log, the blocks and the stream of one position together; where it is not protected, or has no rollback left, the normal effect of its trigger is applied. While an operation of
the log is left for an agent, that agent's operation of the same kind and address takes its logged result, and one of another ends the rollback (R468, R469). An operation
after an image has begun is logged, at most 4,096 in an interval, the next one logged as class 14 (R468).
Where a clause rests on a choice of the model and not on the spec, it is that of log entries 28, 46, 48, 49, 55, 57, 101. -/
def Obligations.ErrorsAndRollbacks : Prop :=
  (∀ (s : State) (e : ErrorReport), s.atWay e = e → retireKey e = none → e.cls ≠ 1 → e.cls ≠ 3 → e.cls ≠ 6 → e.cls < 15 → e.src < 12 →
    let a := bitsOf ((s.hub.sev[e.cls]?).getD 0).toNat (4 * e.src) 3
    let rest := if s.hub.errors.head? = some e then s.hub.errors.tail else s.hub.errors
    let w : State := { s with hub := { s.hub with errors := rest } }
    let i : Instr := .errorDetect e
    let full : Prop := s.hub.elogn.toNat ≤ (s.hub.elogwr - s.hub.elogrd).toNat
    (a = 0 → exec i s = .next w) ∧
    (a = 1 ∨ 6 ≤ a → full → exec i s = .next { w with hub := { w.hub with elogovf := true } }) ∧
    (a = 1 ∨ 6 ≤ a → ¬ full → ∃ r : List Byte, r.length = 32 ∧ r.take 8 = leBytes 8 s.clock ∧ exec i s = .next ((w.cohWrite (hubAcc noCtx 0)
      (s.hub.elogpa.toNat + 32 * (s.hub.elogwr.toNat % s.hub.elogn.toNat)) r).modHub fun h => { h with elogwr := h.elogwr + 1 })) ∧
    (2 ≤ a → a ≤ 4 → ∃ t, exec i s = .next t ∧ (∀ d ∈ [12, e.die], ∀ x, s.dies[d]? = some x → ∃ y : Die, t.dies[d]? = some y ∧ y.irq = true ∧ y.st = x.st) ∧
      (∀ c, e.ctx = some c → (s.ctx c).st ≠ .free → a = 3 → (t.ctx c).st = .dead) ∧
      (∀ c x, e.ctx = some c → a = 4 → s.parts[(s.ctx c).part]? = some x → s.partLive (s.ctx c).part = true →
        (t.part (s.ctx c).part).quiescing = true ∧ ∀ j, (s.ctx j).part = (s.ctx c).part → (s.ctx j).st ≠ .free → (t.ctx j).st = .dead)) ∧
    (a = 5 → e.src ≠ 10 → e.die < 12 → ∀ x, s.dies[e.die]? = some x → x.st = .serving → ∃ (t : State) (y : Die), exec i s = .next t ∧
      t.dies[e.die]? = some y ∧ y.st = .fenced ∧ y.why = 3) ∧
    (a = 5 → e.src = 10 ∨ 12 ≤ e.die → ∃ t, exec i s = .next t ∧ t.hub = { State.reset.hub with fused := s.hub.fused } ∧
      { t with mem := [], free := 0, hub := State.reset.hub } = { State.reset with mem := [], free := 0 })) ∧
  (∀ (s : State) (e : ErrorReport) (bid : Nat) (b : Block), e.cls = 6 → e.src < 12 → e.bid = some bid → s.blocks[bid]? = some b → s.protects bid = true →
    b.trigger = none → bitsOf ((s.hub.sev[6]?).getD 0).toNat (4 * e.src) 3 ≤ 3 → ∃ t, exec (.errorDetect e) s = .next t ∧
      t.blocks = s.blocks.set bid { b with trigger := some (.poison e) } ∧ ∀ c, (t.ctx c).st = (s.ctx c).st) ∧
  (∀ (s : State) (e : ErrorReport) (pa : Nat), e.cls = 3 → e.place = .line pa → bitsOf ((s.hub.sev[3]?).getD 0).toNat (4 * e.src) 3 ≤ 1 →
    ∃ t, exec (.errorDetect e) s = .next t ∧ lineOf pa ∈ t.poison) ∧
  (∀ (s : State) (bid : Nat) (b : Block), s.blocks[bid]? = some b →
    (b.trigger = none → exec (.rollbackRestore bid) s = .next s) ∧
    (∀ e, b.trigger = some (.poison e) → (b.bst ≠ .placed ∧ b.bst ≠ .reserve) ∨ 3 ≤ b.rollbacks → s.streamsOf b.kid b.pos = [] → exec (.rollbackRestore bid) s = .next { s with
      blocks := s.blocks.set bid { b with trigger := none, replay := [], replaying := none }, hub := { s.hub with errors := s.hub.errors ++ [{ e with bid := none }] } }) ∧
    (∀ tr im, b.trigger = some tr → b.bst = .placed ∨ b.bst = .reserve → s.protects bid = true → b.snapLatest = some im → b.rollbacks < 3 → s.streamsOf b.kid b.pos = [] →
      let was : Block := match im.at_ with
        | none => { b with pad := im.pad, words := im.words, shapes := im.shapes, tiles := im.tiles, held := im.held }
        | some pa => b.load (s.cohBytes pa (s.snapImage bid im).length)
      ∃ (t : State) (y : Block), exec (.rollbackRestore bid) s = .next t ∧ t.blocks[bid]? = some y ∧ (y.bst = .placed ∨ y.bst = .reserve) ∧ y.pad = was.pad ∧
        y.shapes = was.shapes ∧ y.tiles = was.tiles ∧
        (b.bst = .reserve ∨ (im.at_ = none ∧ ∀ g ∈ s.groups ++ im.groups, g.bards = []) → y.words = was.words ∧ y.held = was.held) ∧ y.replay = b.log ∧ y.replaying = some tr ∧ y.trigger = none ∧
        y.rollbacks = b.rollbacks + 1 ∧ ∀ j, j ≠ bid → t.blocks[j]? = s.blocks[j]?)) ∧
  (∀ (s : State) (gid : Nat) (g : Group) (k : Kernel) (t : Option Nat) (kind addr bid : Nat) (b : Block) (vals : List Word), s.groups[gid]? = some g →
    g.bid = bid → s.blocks[bid]? = some b → s.kernels[b.kid]? = some k →
    let who : Agent := .group gid
    let logs : Prop := k.rollback = true ∧ (b.snapLatest.isSome = true ∨ b.snapWriting.isSome = true)
    let n := b.log.length - (match b.snapWriting with | some im => im.logAt | none => 0)
    let more : List LogRec := b.log ++ [{ who := who, t := t, kind := kind, addr := addr, vals := vals }]
    let first := b.replay.find? fun r => r.who == who && r.t == t
    (first = none → s.replayOp who t kind addr = (s, .perform)) ∧
    (∀ r, first = some r → r.kind = kind → r.addr = addr →
      s.replayOp who t kind addr = ({ s with blocks := s.blocks.set bid { b with replay := b.replay.erase r } }, .result r.vals)) ∧
    (∀ r, first = some r → r.kind ≠ kind ∨ r.addr ≠ addr → ∃ u, s.replayOp who t kind addr = (u, .perform) ∧
      ∀ tr, b.replaying = some tr → ∃ y : Block, u.blocks[bid]? = some y ∧ y.replay = [] ∧ y.replaying = none) ∧
    (¬ logs ∨ 4096 < n → s.logOp who t kind addr vals = s) ∧
    (logs → n < 4096 → s.logOp who t kind addr vals = { s with blocks := s.blocks.set bid { b with log := more } }) ∧
    (logs → n = 4096 → ∃ (u : State) (e : ErrorReport), s.logOp who t kind addr vals = u ∧ e.cls = 14 ∧
      u.hub.errors = s.hub.errors ++ [e] ∧ u.blocks = s.blocks.set bid { b with log := more, covered := false })) ∧
  (∀ (s : State) (sid : Nat) (x : Stream) (k : Kernel) (kind addr : Nat) (vals : List Word), s.streams[sid]? = some x → s.kernels[x.kid]? = some k →
    let who : Agent := .stream sid
    let logs : Prop := k.rollback = true ∧ (x.snapLatest.isSome = true ∨ x.snapWriting.isSome = true)
    let n := x.log.length - (match x.snapWriting with | some im => im.logAt | none => 0)
    (∀ r, x.replay.find? (fun r => r.who == who && r.t == none) = some r → r.kind = kind → r.addr = addr →
      s.replayOp who none kind addr = ({ s with streams := s.streams.set sid { x with replay := x.replay.erase r } }, .result r.vals)) ∧
    (¬ logs ∨ 4096 < n → s.logOp who none kind addr vals = s) ∧
    let more : Stream := { x with log := x.log ++ [{ who := who, t := none, kind := kind, addr := addr, vals := vals }] }
    (logs → n < 4096 → s.logOp who none kind addr vals = { s with streams := s.streams.set sid more }))

/-- Boot and attestation (R472 to R475): each boot step ends when what it waits for has come about; an image is accepted whose signature verifies and
whose version is no lower than the fused minimum, and is measured; a spoke whose link or image fails is FAILED, one that rejoins too (R458), and a
refused image of the hub leaves the state of failure, in which the PCI Express ports train; the identity keys are derived from the fused seed; ATTEST begins only when boot has ended and none is in progress, and its end leaves the
report, with the nonce, the part number, the minimum versions, the clock, the measurements in die-code order and the public key, before its
signature in the buffer. PACKAGE_RESET (R10) leaves only memory and the fuses.
Where a clause rests on a choice of the model and not on the spec, it is that of log entries 4, 47, 58, 66. -/
def Obligations.BootAndAttestation : Prop :=
  ∀ s : State,
    let to' (n : Nat) : State := { s with hub := { s.hub with stage := n } }
    let sts (n : BitVec 4) : State := { s with hub := { s.hub with attSts := n } }
    let least (d : Nat) : Nat := max (Config.fusedMinimum d).toNat (if d = 12 then s.hub.fused.1 else if d < 8 then s.hub.fused.2.1 else s.hub.fused.2.2).toNat
    (∃ t, exec .packageReset s = .next t ∧ t.mem = s.mem ∧ t.hub = { State.reset.hub with fused := s.hub.fused } ∧
      { t with mem := [], free := 0, hub := State.reset.hub } = { State.reset with mem := [], free := 0 }) ∧
    (∀ ok : List (Option BootImage), let i : Instr := .bootStepDone ok
      let good (d : Nat) (im : BootImage) : Prop := ok[d]? = some (some im) ∧ im.signed = true ∧
        least (if d = 12 then 12 else if d < 8 then 0 else 8) ≤ im.version.toNat
      let measured (x : Die) (im : BootImage) : Die := { x with meas := Config.shake256 im.bytes, imaged := true, hbAt := s.clockOn 12 }
      let ports (t : State) : Prop := ∀ (l : Nat) (x : Link), s.links[l]? = some x → t.links[l]? = some
        (if 28 ≤ l ∧ x.lst = .down then { x with lst := .training } else x)
      let checked (t : State) (st : DieSt) : Prop := ∀ (d : Nat) (x : Die), s.dies[d]? = some x → d < 12 →
        (x.st ≠ st ∨ x.imaged = true → t.dies[d]? = some x) ∧
        (x.st = st → x.imaged = false → (∀ im, good d im → t.dies[d]? = some (measured x im)) ∧
          ((∀ im, ¬ good d im) → t.dies[d]? = some { x with st := .failed } ∧ ∃ e ∈ t.hub.errors, e.cls = 10 ∧ e.die = d))
      (s.hub.stage = 0 → (∀ im, ¬ good 12 im) → ∃ t, exec i s = .next t ∧ t.hub = (to' 7).hub ∧ ports t ∧ t.dies = s.dies) ∧
      (s.hub.stage = 0 → ∀ im x, good 12 im → s.dies[12]? = some x →
        let keys : Hub := { s.hub with stage := 1, hubVer := im.version, privKey := Config.privateKey Config.identitySeed, pubKey := Config.publicKey Config.identitySeed }
        exec i s = .next { s with dies := s.dies.set 12 (measured x im), hub := keys }) ∧
      (s.hub.stage = 1 → (∃ l ∈ s.links.take 12, l.lst = .training) → exec i s = .next s) ∧
      (s.hub.stage = 1 → (∀ l ∈ s.links.take 12, l.lst ≠ .training) → ∃ t, exec i s = .next t ∧ t.hub.stage = 2 ∧
        ∀ (d : Nat) (x : Die), s.dies[d]? = some x → d < 12 → t.dies[d]? = some
          (if (s.links[d]?).map (·.lst) = some .failed ∧ (x.st = .booting ∨ x.st = .rejoining) then { x with st := .failed } else x)) ∧
      (s.hub.stage = 2 → ∃ t, exec i s = .next t ∧ t.hub.stage = 3 ∧ checked t .booting) ∧
      (s.hub.stage = 3 → (∃ x ∈ s.dies.take 12, x.st = .booting) → exec i s = .next s) ∧
      (s.hub.stage = 3 → (∀ x ∈ s.dies.take 12, x.st ≠ .booting) → exec i s = .next (to' 4)) ∧
      (s.hub.stage = 4 → ∃ t, exec i s = .next t ∧ t.hub.stage = 5 ∧ ports t) ∧
      (s.hub.stage = 5 → ∃ t, exec i s = .next t ∧ t.hub.stage = 5 ∧ checked t .rejoining) ∧
      (6 ≤ s.hub.stage → exec i s = .next s)) ∧
    (s.hub.attSts = 1 → exec .attest s = .next s) ∧
    (s.hub.attSts ≠ 1 → s.hub.stage = 5 → exec .attest s = .next (sts 1)) ∧
    (s.hub.attSts ≠ 1 → s.hub.stage ≠ 5 → exec .attest s = .next (sts 3)) ∧
    (s.hub.attSts ≠ 1 → exec .attestDone s = .next s) ∧
    (s.hub.attSts = 1 → ∃ b : List Byte, exec .attestDone s = .next ((s.cohWrite (hubAcc noCtx 0) s.hub.attpa.toNat b).modHub fun h => { h with attSts := 2 }) ∧
      b.take 32 = s.cohBytes s.hub.attpa.toNat 32 ∧ (b.drop 32).take 9 = [0x4A, 0x48, 0x38, 0x2D, 0x30, 0x37, 0x36, 0x38, 0x41] ∧
      (b.drop 48).take 8 = leBytes 2 (least 12) ++ leBytes 2 (least 0) ++ leBytes 2 (least 8) ++ [0, 0] ∧
      (b.drop 56).take 8 = leBytes 8 s.clock ∧
      (∀ (d : Nat) (x : Die), s.dies[d]? = some x → d < 13 → (b.drop (64 + 64 * d)).take 64 = if x.st = .failed then List.replicate 64 0 else padTo 64 x.meas) ∧
      (b.drop 896).take 64 = padTo 64 s.hub.pubKey ∧ b.drop 960 = padTo 49856 (Config.signature s.hub.privKey (b.take 960)) ∧ b.length = 960 + 49856)

/-- Temperature, power and supply (R477, R478): a reading at 110 degrees or above resets the package and one at 105 raises class 11; every die issues in 8 of 8
clocks, less 1 for each full degree above 95, and at least 1; a compute spoke no more than the power cap leaves, which falls by 1 above PCAP and rises by
1 where the power scaled up stays at or below it; an input below 44 V resets the package, and one out of range for 1 ms holds every die at
1 of 8 clocks until it is back.
Where a clause rests on a choice of the model and not on the spec, it is that of log entries 44, 45, 47, 66, 67, 75. -/
def Obligations.TemperaturePowerAndSupply : Prop :=
  ∀ s : State,
    let heat (x : BitVec 16) : Nat := max 1 (8 - (x.toNat - 1520) / 16)
    let duties (t : State) : Prop := t.dies.length = s.dies.length ∧ ∀ (d : Nat) (y : Die), t.dies[d]? = some y →
      y.duty = (if t.hub.supplyBad then 1 else if d < 8 then min (heat y.temp) t.hub.powDuty else heat y.temp)
    let fresh (t : State) : Prop := t.mem = s.mem ∧ t.hub.fused = s.hub.fused ∧ { t with mem := [], free := 0, hub := s.hub } = { State.reset with mem := [], free := 0, hub := s.hub }
    let cap := if 1000 ≤ s.hub.pcap.toNat ∧ s.hub.pcap.toNat ≤ 3400 then s.hub.pcap.toNat else 3400
    let p := s.hub.powDuty
    let inRange (mv : Nat) : Prop := 48000 ≤ mv ∧ mv ≤ 54000
    (∀ (d : Nat) (x : Die) (c : BitVec 16), s.dies[d]? = some x →
      (1760 ≤ c.toNat → ∃ t, exec (.temperatureSample d c) s = .next t ∧ fresh t ∧ t.hub = { State.reset.hub with fused := s.hub.fused }) ∧
      (c.toNat < 1760 → ∃ (t : State) (y : Die) (l : List ErrorReport), exec (.temperatureSample d c) s = .next t ∧ t.dies[d]? = some y ∧ y.temp = c ∧ duties t ∧
        t.hub = { s.hub with errors := s.hub.errors ++ l } ∧ (c.toNat < 1680 → l = []) ∧ (1680 ≤ c.toNat → ∃ e, l = [e] ∧ e.cls = 11 ∧ e.die = d))) ∧
    (∀ watts, ∃ t, exec (.packagePowerSample watts) s = .next t ∧ duties t ∧ { t with dies := s.dies, hub := s.hub } = s ∧
      t.hub = { s.hub with powDuty := if cap < watts then max 1 (p - 1) else if p < 8 ∧ watts * (p + 1) ≤ cap * p then p + 1 else p }) ∧
    (∀ mv, (mv < 44000 → ∃ t, exec (.supplyChange mv) s = .next t ∧ fresh t ∧ t.hub.supplyMv = mv) ∧
      (44000 ≤ mv → ∃ t, exec (.supplyChange mv) s = .next t ∧ duties t ∧ { t with dies := s.dies, hub := s.hub } = s ∧ t.hub.supplyMv = mv ∧
        (inRange mv → t.hub.supplyBad = false) ∧ (¬ inRange mv → t.hub.supplyBad = s.hub.supplyBad) ∧
        t.hub.supplyAt = (if 48000 ≤ s.hub.supplyMv ∧ s.hub.supplyMv ≤ 54000 then s.clockOn 12 else s.hub.supplyAt))) ∧
    (inRange s.hub.supplyMv ∨ s.clockOn 12 < s.hub.supplyAt + 1000000 → exec .supplyOutOfRange1ms s = .next s) ∧
    (¬ inRange s.hub.supplyMv → s.hub.supplyAt + 1000000 ≤ s.clockOn 12 → ∃ t, exec .supplyOutOfRange1ms s = .next t ∧ t.hub.supplyBad = true ∧
      (∀ (d : Nat) (y : Die), t.dies[d]? = some y → y.duty = 1) ∧ ∃ e, t.hub.errors = s.hub.errors ++ [e] ∧ e.cls = 11)

/-! ## The windows of registers -/

/-- PRIVILEGED_REGISTER_WRITE (R4, R5, R6, R206, R207, R208, R217, R261, R359, R364, R371, R372, R374, R422, R423, R429, R446, R450, R460, R462, R476): a register that takes
writes reads back what was written, within its width; the fields of R372 take a write only while the context is BOUND or SAVED, and the
partition's only while it is FORMED; marks that are cleared by ones are cleared by ones; a command register carries out its command, and ignores one
while one is in progress; a read-only or reserved offset, and one of a window
where no such register lies, ignores a write; a write of part of a register leaves its other bytes. A function's window reaches the queues and
event counters of the context that is bound to it (R207, R448), a fused minimum version is only raised (R473), and a package that boot has
left in reset takes no write (R472).
Where a clause rests on a choice of the model and not on the spec, it is that of log entries 60, 66, 99, 103. -/
def Obligations.RegisterWindows : Prop :=
  ∀ (s : State) (v : BitVec 64),
    let w (win : Window) (off : Nat) : Instr := .privilegedRegisterWrite win off ⟨(regAt win off).2, v⟩
    let reads (win : Window) (off : Nat) (x : BitVec 64) : Prop := ∃ t, exec (w win off) s = .next t ∧ t.readRegister win off = x ∧ t.mem = s.mem ∧
      t.groups = s.groups ∧ t.kernels = s.kernels
    let field (n : Nat) : BitVec 64 := BitVec.ofNat 64 (v.toNat % 2 ^ n)
    let f (lo n : Nat) : Nat := v.toNat / 2 ^ lo % 2 ^ n
    (s.hub.stage = 7 → ∀ (win : Window) (off n : Nat), exec (.privilegedRegisterWrite win off ⟨n, v⟩) s = .next s) ∧
    (s.hub.stage ≠ 7 → (∀ off ∈ [0xD00010, 0xE00100, 0xE00108, 0xF00008], reads .hub off v) ∧
    (∀ off ∈ [0xD00010, 0xE00100, 0xE00108, 0xF00008], s.readRegister .hub (off + 4) = s.readRegister .hub off >>> 32 ∧
      ∃ t, exec (.privilegedRegisterWrite .hub (off + 4) ⟨4, v⟩) s = .next t ∧ t.mem = s.mem ∧
        t.readRegister .hub off = (s.readRegister .hub off &&& 0xFFFFFFFF) ||| (v <<< 32)) ∧
    reads .hub 0xD00018 (field 12) ∧ reads .hub 0xE00118 (field 32) ∧
    (∀ i < 15, i < s.hub.sev.length → reads .hub (0xE00000 + 8 * i) (v &&& sevMask)) ∧
    (∀ (p : Nat) (x : Part), s.parts[p]? = some x → p < 24 → ∀ off ∈ [0x10, 0x18, 0x20],
      (s.partState p = 1 → reads .hub (0x1000 + 0x100 * p + off) v) ∧
      (s.partState p ≠ 1 → exec (w .hub (0x1000 + 0x100 * p + off)) s = .next s)) ∧
    (∀ off ∈ [0x0008, 0xF00010, 0xD00000, 0xD00100, 0xE00078, 0x4000], exec (w .hub off) s = .next s) ∧
    (∀ (d : Nat) (x : Die), s.dies[d]? = some x → d < 12 →
      let u : State := { s with dies := s.dies.set d { x with hbto := v.extractLsb' 48 16 } }
      (d < 8 → reads (.counters d) 0x000 (field 16) ∧ reads (.counters d) 0x004 (field 16) ∧ reads (.counters d) 0x008 (field 16) ∧
        (∀ off ∈ [0x010, 0x014, 0x018], reads (.counters d) off (field 32)) ∧
        exec (w (.counters d) 0x020) s = .next { s with dies := s.dies.set d { x with ovf := x.ovf && !v.getLsbD 7 } }) ∧
      exec (w (.die d) 0x20040) s = .next { s with dies := s.dies.set d { x with txovf := x.txovf && !v.getLsbD 7 } } ∧
      exec (w (.die d) 0x20038) s = exec (.chtx d v) s ∧ (v.getLsbD 0 = true → exec (w (.die d) 0x200C0) s = exec (.popInbox d) s) ∧
      (v = 1 → exec (w (.die d) 0x200C8) s = exec (.heartbeat d) s) ∧
      exec (w .hub (0x30000 + 8 * d)) s = (if f 4 4 = 1 then exec (.dieFence d) u else if f 4 4 = 2 then exec (.rejoin d) u else .next u)) ∧
    (∀ d off : Nat, (8 ≤ d → exec (w (.counters d) off) s = .next s) ∧ (12 ≤ d → exec (w (.die d) off) s = .next s) ∧
      ∀ n, 8 ≤ d ∨ 32 ≤ n → exec (w (.slice d n) off) s = .next s) ∧
    (∀ (d n i : Nat), d < 8 → n < 32 → i < 16 → (∀ l, tfind s.ways (32 * d + n) = some l → l.length = 16) → reads (.slice d n) (4 * i) (field 16)) ∧
    (∀ (d n : Nat), d < 8 → n < 32 → v.getLsbD 0 = true → exec (w (.slice d n) 0x40) s = exec (.occclr d n) s) ∧
    (∀ (fn off : Nat), s.fnCtx fn = none → exec (w (.func fn) off) s = .next s) ∧
    (∀ (fn c q n off bytes : Nat), s.fnCtx fn = some c → q < 16 →
      (n < 256 → exec (w (.func fn) (0x10000 + 8 * n)) s = exec (.eventCounterWrite c n v) s) ∧
      (off < 0x200 → exec (.privilegedRegisterWrite (.func fn) (0x1000 * q + off) ⟨bytes, v⟩) s = exec (.queuePortBeat c q off (leBytes bytes v.toNat)) s) ∧
      (∃ t, exec (w (.func fn) (0x1000 * q + 0x208)) s = .next t ∧ (t.queue c q).torn = ((s.queue c q).torn && !v.getLsbD 1) ∧
        (t.queue c q).qovf = ((s.queue c q).qovf && !v.getLsbD 0) ∧ (t.queue c q).prio = (s.queue c q).prio)) ∧
    (∀ c : Nat, ((s.ctx c).st = .free → ∀ off, exec (w (.bind c) off) s = .next s) ∧
      ((s.ctx c).st ≠ .free → reads (.bind c) 0 (if v.toNat < 514 then v else 0x3FF) ∧ reads (.bind c) 8 (field 20) ∧ reads (.bind c) 16 (field 1))) ∧
    reads .fuses 0 (BitVec.ofNat 64 (max (max (Config.fusedMinimum 12).toNat s.hub.fused.1.toNat) (f 0 32))) ∧ reads .fuses 8 (BitVec.ofNat 64 (max (max (Config.fusedMinimum 0).toNat s.hub.fused.2.1.toNat) (f 0 32))) ∧
    reads .fuses 16 (BitVec.ofNat 64 (max (max (Config.fusedMinimum 8).toNat s.hub.fused.2.2.toNat) (f 0 32))) ∧
    (∀ f < 2 ^ 24, reads .replicas (16 * f + 8) (field 32) ∧ (v.toNat % 2 ^ 24 = f → reads .replicas (16 * f) v)) ∧
    (∀ (d c : Nat), s.reachable d c = true → c < 4096 →
      let k := s.ctx c
      let still : Prop := k.st = .bound ∨ k.st = .saved
      let win : Window := .ctxTable d
      let at_ (off : Nat) : Nat := 0x40 * c + off
      reads win (at_ 0x28) (field 32) ∧ reads win (at_ 0x2C) (field 14) ∧ reads win (at_ 0x30) (field 16) ∧
      (still → ∀ off ∈ [0x08, 0x10, 0x18, 0x20], reads win (at_ off) v) ∧
      (¬ still → ∀ off ∈ [0x08, 0x10, 0x18, 0x20], ∃ t, exec (w win (at_ off)) s = .next t ∧ { t with ctxs := s.ctxs } = s ∧ ∀ j, t.ctx j = s.ctx j) ∧
      (∃ t, exec (w win (at_ 0x00)) s = .next t ∧ (t.ctx c).weight = v.setWidth 8 ∧ (t.ctx c).asid = (if k.st = .bound ∨ k.st = .saved then v.extractLsb' 16 16 else k.asid) ∧
        (t.ctx c).st = k.st) ∧
      (∃ t, exec (w win (at_ 0x04)) s = .next t ∧ (t.ctx c).bken = v.getLsbD 1 ∧ (t.ctx c).strict = v.getLsbD 2 ∧
        (t.ctx c).priv = (if k.st = .bound ∨ k.st = .saved then v.getLsbD 3 else k.priv) ∧ (t.ctx c).waycl = v.extractLsb' 9 4 ∧ (t.ctx c).part = k.part)) ∧
    (∀ (d c off : Nat), s.reachable d c = false → c < 4096 → off < 0x40 → exec (w (.ctxTable d) (0x40 * c + off)) s = .next s) ∧
    (∀ d : Nat,
      let c := f 8 12
      let a := f 20 8
      let win : Window := .ctxTable d
      ((s.die d).cmdSts = 1 → exec (w win 0xFF000) s = .next s) ∧
      ((s.die d).cmdSts ≠ 1 → exec (w win 0xFF000) s = (if f 28 4 = 1 then exec (.create d c a) s else if f 28 4 = 2 then exec (.enable d c) s
        else if f 28 4 = 3 then exec (.halt d c a) s else if f 28 4 = 4 then exec (.resume d c) s else if f 28 4 = 5 then exec (.save d c) s
        else if f 28 4 = 6 then exec (.restore d c a) s else if f 28 4 = 7 then exec (.kill d c) s else if f 28 4 = 8 then exec (.destroy d c) s
        else .next s))) ∧
    (s.hub.drSts = 1 → exec (w .hub 0) s = .next s) ∧
    (s.hub.drSts ≠ 1 → f 53 5 < 24 →
      let p := f 53 5
      (f 59 5 = 1 → exec (w .hub 0) s = exec (.form p) s) ∧ (f 59 5 = 2 → exec (w .hub 0) s = exec (.activate p) s) ∧
      (f 59 5 = 3 → f 46 2 = 0 → f 36 7 < 9 → exec (w .hub 0) s = exec (.partGrow p (.cluster (f 43 3) (f 36 7)) (v.getLsbD 35)) s) ∧
      (f 59 5 = 4 → f 46 2 = 1 → f 36 7 < 32 → exec (w .hub 0) s = exec (.partShrink p (.slice (f 43 3) (f 36 7)) (f 0 32)) s) ∧
      (f 59 5 = 5 → f 46 2 = 2 → exec (w .hub 0) s = exec (.lend p (f 48 5) (.cg (f 36 7)) (f 0 32)) s) ∧
      (f 59 5 = 6 → exec (w .hub 0) s = exec (.setmode p (v.getLsbD 58) (v.setWidth 32)) s) ∧
      (f 59 5 = 7 → exec (w .hub 0) s = exec (.setmap p (v.getLsbD 58) (v.setWidth 32)) s) ∧
      (f 59 5 = 8 → exec (w .hub 0) s = exec (.partReset p) s) ∧ (f 59 5 = 9 → exec (w .hub 0) s = exec (.dissolve p (v.getLsbD 58)) s) ∧
      (f 59 5 = 10 → exec (w .hub 0) s = exec (.move p (f 48 5)) s) ∧ (f 59 5 = 11 → exec (w .hub 0) s = exec (.qopen p (f 0 12) (f 12 4) (f 16 3)) s) ∧
      (f 59 5 = 12 → exec (w .hub 0) s = exec (.qclose p (f 0 12) (f 12 4)) s) ∧ (f 59 5 = 13 → exec (w .hub 0) s = exec (.clrredir p (f 0 2)) s) ∧
      (f 59 5 = 0 ∨ 13 < f 59 5 → exec (w .hub 0) s = .next s)))

/-! ## Reset, steps and encodings -/

/-- Right after reset (R395, R424, R436, R446, R449, R450, R460, R472, R476): the invariant holds; every spoke is BOOTING and its counters as they are given,
the hub links train and the ports are DOWN, every context is FREE with the values of its record, every partition UNFORMED and every unit FREE, and the
severity matrix holds its defaults.
Where a clause rests on a choice of the model and not on the spec, it is that of log entries 1, 2. -/
def Obligations.ResetState : Prop :=
  State.reset.Inv ∧
  (∀ d < 13, (State.reset.die d).st = .booting ∧ (State.reset.die d).hbto = 100 ∧ (State.reset.die d).txcr = 64 ∧ (State.reset.die d).duty = 8 ∧
    (State.reset.die d).thr = 4096 ∧ (State.reset.die d).win = 1000 ∧ (State.reset.die d).cool = 10000 ∧ (State.reset.die d).near = 0) ∧
  (∀ l < 30, (State.reset.links[l]?).map (·.lst) = some (if l < 12 then .training else .down)) ∧
  (∀ c < 4096, State.reset.ctx c = Ctx.free) ∧ Ctx.free.st = .free ∧ Ctx.free.uvec = 0xFFFFFFFF ∧ Ctx.free.rto = 40 ∧ Ctx.free.wdog = 2000 ∧ Ctx.free.weight = 1 ∧
  (∀ p < 24, State.reset.partState p = 0 ∧ (State.reset.part p).epoch = 0) ∧
  (∀ u ∈ allUnits, State.reset.unit? u = some UnitRec.free) ∧
  (∀ j < 12, bitsOf ((State.reset.hub.sev[10]?).getD 0).toNat (4 * j) 4 = 5 ∧ bitsOf ((State.reset.hub.sev[6]?).getD 0).toNat (4 * j) 4 = 3 ∧
    bitsOf ((State.reset.hub.sev[1]?).getD 0).toNat (4 * j) 4 = 2) ∧
  State.reset.hub.pcap = 3400 ∧ (∀ d < 8, ∀ n < 32, ∀ c < 16, State.reset.wayMask d n c = 0xFFFF)

/-- A step runs what is decoded. An error that waits is acted on first; else the next turn of the agenda is taken: an event is performed; a quadrant's picker
issues the instruction that stands before the first entry in its order that can issue, a repeated one that has begun as it was, else what is decoded at its PC, stepped to
its iteration, for the threads of that entry and those packed with them, and they are ready again later, but an entry that still waits takes no slot; a stream performs the instruction decoded at its PC; with nothing
on the agenda a new round begins. A turn may say after how many lanes it leaves a lane memory instruction for a later step (R266, R503);
a derailleur command goes on in its turn; a package that boot has left in reset takes no event but a reset, training and what its sensors read
(R472). What is decoded at a PC (R29 to R33, R45, R347): the word there, or with a first word of an extended form that word and the next,
each the four bytes, least significant first, at the physical address to which the code grant's page maps it, those of a bound page of another
partition's gate from the home (R430); a word that is an instruction, well formed for the launch and the
kind of core, is that instruction.
Where a clause rests on a choice of the model and not on the spec, it is that of log entries 3, 40, 70, 85, 87, 88, 105. -/
def Obligations.StepRunsTheDecodedInstruction : Prop :=
  (∀ (s : State) (e : ErrorReport) (rest : List ErrorReport), s.hub.errors = e :: rest → step s = exec (.errorDetect e) s) ∧
  (∀ (s : State) (t : Turn) (rest : List Turn), s.hub.errors = [] → s.agenda = t :: rest →
    let w : State := { s with agenda := rest }
    (∀ e, t = .event e → e.isEvent = true → s.hub.stage ≠ 7 ∨ inReset e = true → step s = exec e w) ∧
    (∀ e, t = .event e → s.hub.stage = 7 → inReset e = false → step s = .next w) ∧
    (∀ (p q : Nat) (f : Bool) (arg : Word) (gs : List Nat), (t = .derailleur (.setmode p f arg) → step s = exec (.setmode p f arg) w) ∧
      (t = .derailleur (.setmap p f arg) → step s = exec (.setmap p f arg) w) ∧ (t = .derailleur (.reset p) → step s = exec (.partReset p) w) ∧
      (t = .derailleur (.dissolve p f) → step s = exec (.dissolve p f) w) ∧ (t = .derailleur (.move p q gs) → step s = exec (.move p q) w)) ∧
    (∀ (core q : Nat) (cut : Option Nat), t = .quadrant core q cut →
      (w.candidates core q = [] → step s = .next w) ∧
      (∀ (en : Entry) (more : List Entry), w.candidates core q = en :: more →
        let lead := (en.gid, (en.lanes.head?).getD 0)
        (∀ th, w.thread? lead.1 lead.2 = some th → w.before en = (match th.going with | some r => (w, .run r) | none => w.decodeAt (.group en.gid) en.pc)) ∧
        (w.issuable en = false → step s = w.serve core q cut more) ∧
        (∀ (u : State) (r : Run), w.before en = (u, .run r) → w.entryLanes en r.ins ≠ [] →
          let lead := u.leadLanes en r.ins
          let joined := u.packed core q en r.ins lead
          let lanes := u.byLane (lead ++ joined)
          let o := exec (r.stepped en.prog) ((u.countIssue core q en).startIssue en.gid en.pc en.prog r cut lanes)
          (∀ l, l ∈ lanes ∨ l ∈ joined → ∃ g : Group, u.groups[l.1]? = some g ∧ r.belowCeiling g.vregs = true) → lanes ≠ [] →
          (∀ v, o = .next v →
            let y := v.endIssue u.tick r lanes joined
            (w.stillWaits y en = false → step s = .next (if cut.isSome = true ∧ y.leftCut = true then { y with pickers := w.pickers } else y)) ∧
            (w.stillWaits y en = true → step s = { y with pickers := w.pickers }.serve core q cut more)) ∧
          (∀ f, o = .fault f → step s = .fault f) ∧ (∀ f, o = .refused f → step s = .refused f)) ∧
        (∀ (u : State) (c : Cause) (pc : Word) (val : Nat), w.before en = (u, .trap c pc val) →
          step s = .next ((u.countIssue core q en).trapEntry en c pc val)) ∧
        (∀ u, w.before en = (u, .wait) → u ≠ w → step s = u.serve core q cut more))) ∧
    (∀ (sid : Nat) (x : Stream) (u : State) (r : Run), t = .stream sid → s.streams[sid]? = some x → w.streamReady x = true → x.rgWait = none →
      (if x.wait = .none then w.modU (.stream sid) (·.settle) else w).decodeAt (.stream sid) x.pc = (u, .run r) → r.rep = none →
      step s = exec r.ins ((if x.wait = .none then u.modU (.stream sid) (·.begin') else u).startStream sid x.pc r 0))) ∧
  (∀ s : State, s.hub.errors = [] → s.agenda = [] → step s = .next s.round) ∧
  (∀ (s u v : State) (who : Agent) (k : Kernel) (uf : UFile) (pc : Word) (x y : Nat) (i : Instr), s.kernels[s.kidOf who]? = some k → s.ufile who = some uf →
    s.fetchWord who k.codeGrant pc.toNat = (u, .word x) → launchOk k (isStream who) i = true →
    let run (n : Nat) : Decoded := if isStream who = true ∧ (∃ g, privOnCadence i = some g ∧ uf.guard g = true) then .trap .priv pc 0
      else .run { ins := i, pre := none, rep := none, ipc := pc, next := BitVec.ofNat 32 (pc.toNat + n) }
    (wordClass x = .lr ∨ wordClass x = .ur → decode [x] = .ok i → s.decodeAt who pc = (u, run 4)) ∧
    (wordClass x = .lx ∨ wordClass x = .ux → u.fetchWord who k.codeGrant (pc.toNat + 4) = (v, .word y) → decode [x, y] = .ok i →
      s.decodeAt who pc = (v, run 8))) ∧
  (∀ (s u : State) (who : Agent) (g : Grant) (off pa : Nat) (e : BitVec 64), off % 4 = 0 → g.base % 4 = 0 →
    let a := s.accOf who
    let b : Acc := { a with core := none }
    let at_ := u.replicaPa e pa
    let t := u.consume b e at_ 4 true (s.bidOf who)
    (∀ c, fetchCheck a g off = some c → s.fetchWord who g off = (s, .trap c (g.base + off))) ∧
    (fetchCheck a g off = none → s.lookRead a .fetch (g.base + off) 4 true (s.bidOf who) = (u, .ok pa e) → u.lost b e at_ 4 false true = false →
      t.foreign b e at_ = false →
      (t.atGateHome b e = false → ∃ l : List Byte, s.fetchWord who g off = (t, .word (leNat l)) ∧ l.length = 4 ∧
        ∀ j < 4, l[j]? = some (t.fetchByte a.die (at_ + j))) ∧
      (t.atGateHome b e = true → let v := if leafCls e = 0 then t.cohShareAll (lineOf at_) else t
        ∃ l : List Byte, s.fetchWord who g off = (v, .word (leNat l)) ∧ l.length = 4 ∧ ∀ j < 4, l[j]? = some (v.homeByte (at_ + j))))) ∧
  (∀ (a : Acc) (g : Grant) (off : Nat), let stale : Prop := g.tag = true ∧ (g.part ≠ a.part ∨ g.ctxNo ≠ a.ctx)
    let beyond : Prop := g.tag = false ∨ g.len < off + 4
    (stale → fetchCheck a g off = some .grantStale) ∧ (¬ stale → beyond → fetchCheck a g off = some .grantBounds) ∧
    (¬ stale → ¬ beyond → fetchCheck a g off = (if g.ex then none else some .grantPerm)))

/-- Words of the manual's own listings read as the instructions beside them (R36 to R39, R63): `IADD V2, V2, S4`; `UMOV S6, 15`; `ISETP.lt.u P1, V1, 2`;
`(P1) BRA` 3 units on; `ATOM.add.die V4, G2[V1 + 0]`; `PLD V5, pad[V1 + 0]`; `V2S S7, V7, S6`; `SHAPE H2, S8`; `XGATH.cluster B3, H2, pad[S4], G1[S5], S6:S7`;
`BINIT B2, 2`; `TMMA.z A3, S2, S8, pad, F0, F1, 64`; `GNARROW G13, G2, S4:S5, S6:S7, rw`; `GWAIT S10, S20:S21`; `PINFO.borrow S20`; `(P1) TRAP 5`. -/
def Obligations.ListedWords : Prop :=
  ∀ e ∈ [([0x00010284], Instr.iadd 2 2 0x84), ([0x8441802F], .umov 6 0x2F), ([0x234001C2, 0xFC00078A], .isetp 14 1 0xC2 1 7 0 0 1 2),
      ([0x2C000000, 0xE4000003], .bra 2 3), ([0x31420140, 0xFC042000], .atom 14 0 4 1 2 0 0 0 2 0 2 0),
      ([0x30C28140, 0xFC000000], .pld 14 0 5 1 2 0 0 0 0 0 0 0), ([0xA201C180, 0xFC01C000], .v2s 14 0 7 6 7), ([0xA8000202, 0xFC000000], .shape 14 8 2),
      ([0xA8810142, 0xFC021306], .xgath 14 4 5 2 1 0 1 3 6), ([0xAA000002, 0xFC000002], .binit 14 0 0 0 2 2),
      ([0xB2420093, 0xFC008010], .tmma 14 8 2 1 3 0 1 0 0 0 0 1 0), ([0xA6000102, 0xFC00C600], .gnarrow 14 4 0 2 6 3 0 0),
      ([0xAE400280, 0xFC028000], .gwait 14 10 20), ([0xA6850004, 0xFC000000], .pinfo 14 0 20 4), ([0x2F000000, 0xE4000005], .trap 2 5)],
    decode e.1 = .ok e.2

/-- An instruction is read from its own words: for every well-formed instruction, at every value of its operands, the decoder gives back the instruction
that was encoded, and whatever the decoder accepts is well formed and has just those words (R29 to R48). -/
def Obligations.DecodeEncode : Prop :=
  (∀ i : Instr, i.wf = true → i.isEvent = false → decode (encode i) = .ok i) ∧
  (∀ (ws : List Nat) (i : Instr), decode ws = .ok i → i.wf = true ∧ i.isEvent = false ∧ encode i = ws.take (encode i).length)

/-- Every step keeps the package in shape: memory stays in its canonical form, and no die, link, partition or unit appears or goes.
Where a clause rests on a choice of the model and not on the spec, it is that of log entry 1. -/
def Obligations.StepKeepsInv : Prop :=
  ∀ s t : State, s.Inv → step s = .next t → t.Inv
end

