-- ==== Sys2Proof/Laws/Memory.lean ====
section
/-! SUPPORT. The laws of tables and of memory: a read after a write, the canonical form kept by every operation, and the
records of contexts and gates after an update. -/

namespace Sys2Proof.Machine

/-! ## Tables -/

variable {β : Type}

/-- The value under a key after another one is set. -/
@[simp] theorem tfind_tset (t : List (Nat × β)) (k j : Nat) (v : β) :
    tfind (tset t k v) j = if j = k then some v else tfind t j := by
  induction t with
  | nil => simp [tset, tfind]
  | cons e r ih =>
    obtain ⟨i, w⟩ := e
    rw [tset]
    split
    · simp [tfind]
    · split
      · subst k; by_cases h : j = i <;> simp [tfind, h]
      · rename_i h
        by_cases hj : j = i
        · subst j; simp [tfind, show ¬ i = k from fun e => h e.symm]
        · simp [tfind, hj, ih]

/-- The value under a key after a key is taken out. -/
@[simp] theorem tfind_tdel (t : List (Nat × β)) (k j : Nat) : tfind (tdel t k) j = if j = k then none else tfind t j := by
  induction t with
  | nil => simp [tdel, tfind]
  | cons e r ih =>
    obtain ⟨i, w⟩ := e
    unfold tdel at ih ⊢
    by_cases hi : i = k
    · subst i
      by_cases hj : j = k
      · simp_all
      · simp_all [tfind]
    · by_cases hj : j = i
      · subst j; simp [tfind, hi]
      · simp [tfind, hi, hj, ih]

/-- Rising keys are pairwise rising. -/
theorem tsorted_iff (t : List (Nat × β)) : tsorted t = true ↔ t.Pairwise (fun a b => a.1 < b.1) := by
  induction t with
  | nil => simp [tsorted]
  | cons e r ih =>
    obtain ⟨i, w⟩ := e
    cases r with
    | nil => simp [tsorted]
    | cons e' r' =>
      obtain ⟨j, w'⟩ := e'
      rw [tsorted, Bool.and_eq_true, decide_eq_true_eq, ih, List.pairwise_cons (a := (i, w))]
      constructor
      · rintro ⟨h, hp⟩
        refine ⟨?_, hp⟩
        intro b hb
        rcases List.mem_cons.1 hb with rfl | hb
        · exact h
        · exact lt_trans h ((List.pairwise_cons.1 hp).1 b hb)
      · rintro ⟨h, hp⟩
        exact ⟨h _ List.mem_cons_self, hp⟩

/-- An entry of a table after a key is set is the new one or an old one. -/
theorem mem_tset {t : List (Nat × β)} {k : Nat} {v : β} {e : Nat × β} (h : e ∈ tset t k v) : e = (k, v) ∨ e ∈ t := by
  induction t with
  | nil => simpa [tset] using h
  | cons a r ih =>
    obtain ⟨i, w⟩ := a
    rw [tset] at h
    split at h
    · simpa using h
    · split at h
      · rcases List.mem_cons.1 h with h | h <;> simp [h]
      · rcases List.mem_cons.1 h with h | h
        · simp [h]
        · rcases ih h with h | h <;> simp [h]

/-- Setting a key keeps the keys rising. -/
theorem tsorted_tset {t : List (Nat × β)} (k : Nat) (v : β) (h : tsorted t = true) : tsorted (tset t k v) = true := by
  rw [tsorted_iff] at h ⊢
  induction t with
  | nil => simp [tset]
  | cons a r ih =>
    obtain ⟨i, w⟩ := a
    obtain ⟨h1, h2⟩ := List.pairwise_cons.1 h
    rw [tset]
    split
    · rename_i hk
      refine List.pairwise_cons.2 ⟨fun b hb => ?_, h⟩
      rcases List.mem_cons.1 hb with rfl | hb
      · exact hk
      · exact lt_trans hk (h1 b hb)
    · split
      · rename_i hk; subst hk; exact List.pairwise_cons.2 ⟨h1, h2⟩
      · refine List.pairwise_cons.2 ⟨fun b hb => ?_, ih h2⟩
        rcases mem_tset hb with rfl | hb
        · show i < k; omega
        · exact h1 b hb

/-- Filtering keeps the keys rising. -/
theorem tsorted_filter {t : List (Nat × β)} (p : Nat × β → Bool) (h : tsorted t = true) : tsorted (t.filter p) = true := by
  rw [tsorted_iff] at h ⊢; exact h.filter p

/-- Taking a key out keeps the keys rising. -/
theorem tsorted_tdel {t : List (Nat × β)} (k : Nat) (h : tsorted t = true) : tsorted (tdel t k) = true := tsorted_filter _ h

/-! ## Memory -/

/-- A byte read after a byte is written. -/
@[simp] theorem Memory.read_write (m : Memory) (a b : Nat) (v : Byte) : (m.write a v).read b = if b = a then v else m.read b := by
  unfold Memory.write Memory.read
  split
  · rename_i h; subst h; rw [tfind_tdel]; split <;> rfl
  · rw [tfind_tset]; split <;> rfl

/-- A write keeps the canonical form. -/
theorem Memory.wf_write {m : Memory} (a : Nat) (v : Byte) (h : m.wf = true) : (m.write a v).wf = true := by
  unfold Memory.wf at h ⊢
  rw [Bool.and_eq_true, List.all_eq_true] at h ⊢
  unfold Memory.write
  split
  · exact ⟨tsorted_tdel a h.1, fun c hc => h.2 c (List.mem_of_mem_filter hc)⟩
  · rename_i hv
    refine ⟨tsorted_tset a v h.1, fun c hc => ?_⟩
    rcases mem_tset hc with rfl | hc
    · simpa using hv
    · exact h.2 c hc

/-- Dropping bytes keeps the canonical form. -/
theorem Memory.wf_filter {m : Memory} (p : Host.Cell → Bool) (h : m.wf = true) : Memory.wf (m.filter p) = true := by
  unfold Memory.wf at h ⊢
  rw [Bool.and_eq_true, List.all_eq_true] at h ⊢
  exact ⟨tsorted_filter p h.1, fun c hc => h.2 c (List.mem_of_mem_filter hc)⟩

/-- Writing a run of bytes keeps the canonical form. -/
theorem Memory.wf_writeN {m : Memory} (a : Nat) (d : List Byte) (h : m.wf = true) : (m.writeN a d).wf = true := by
  induction d generalizing m a with
  | nil => exact h
  | cons v r ih => exact ih _ (Memory.wf_write a v h)

/-- Writing bytes one after another keeps the canonical form. -/
theorem Memory.wf_foldl {α : Type} (l : List α) (f : α → Nat) (g : α → Byte) {m : Memory} (h : m.wf = true) :
    Memory.wf (l.foldl (fun m c => m.write (f c) (g c)) m) = true := by
  induction l generalizing m with
  | nil => exact h
  | cons x r ih => exact ih (Memory.wf_write _ _ h)

/-- A byte read after a run of bytes is written. -/
theorem Memory.read_writeN (m : Memory) (a b : Nat) (d : List Byte) :
    (m.writeN a d).read b = if a ≤ b then (d[b - a]?).getD (m.read b) else m.read b := by
  induction d generalizing m a with
  | nil => simp [Memory.writeN]
  | cons v r ih =>
    rw [Memory.writeN, ih, Memory.read_write]
    by_cases h : a + 1 ≤ b
    · obtain ⟨k, rfl⟩ : ∃ k, b = a + 1 + k := ⟨b - (a + 1), by omega⟩
      have e1 : a + 1 + k - (a + 1) = k := by omega
      have e2 : a + 1 + k - a = k + 1 := by omega
      have e3 : a + 1 + k ≠ a := by omega
      have e4 : a ≤ a + 1 + k := by omega
      simp [e1, e2, e3, e4]
    · by_cases hb : b = a
      · subst hb; simp
      · have : ¬ a ≤ b := by omega
        simp [h, hb, this]

/-- A byte of a memory from which bytes were dropped. -/
theorem Memory.read_filter (m : Memory) (p : Nat → Bool) (a : Nat) :
    Memory.read (m.filter fun c => p c.1) a = if p a then m.read a else Memory.blank := by
  unfold Memory.read
  induction m with
  | nil => simp [tfind]
  | cons e r ih =>
    obtain ⟨i, w⟩ := e
    by_cases hi : p i
    · by_cases ha : a = i
      · subst ha; simp [hi, tfind]
      · simpa [hi, tfind, ha] using ih
    · by_cases ha : a = i
      · subst ha; simpa [hi, tfind] using ih
      · simpa [hi, tfind, ha] using ih

/-- Equal bytes make equal memories: the canonical form is the only one. -/
theorem Memory.ext_read {m n : Memory} (hm : m.wf = true) (hn : n.wf = true) (h : ∀ a, m.read a = n.read a) : m = n := by
  unfold Memory.wf at hm hn
  rw [Bool.and_eq_true, List.all_eq_true, tsorted_iff] at hm hn
  have low : ∀ (k : Nat) (t : Memory), (∀ b ∈ t, k < b.1) → tfind t k = none := by
    intro k t
    induction t with
    | nil => intro _; rfl
    | cons e r ih =>
      intro ht
      have := ht e List.mem_cons_self
      obtain ⟨i, w⟩ := e
      have hk : ¬ k = i := by simp only at this; omega
      rw [tfind, if_neg hk]
      exact ih fun b hb => ht b (List.mem_cons_of_mem _ hb)
  induction m generalizing n with
  | nil =>
    cases n with
    | nil => rfl
    | cons e r =>
      obtain ⟨i, w⟩ := e
      have := h i
      have hw := hn.2 (i, w) List.mem_cons_self
      simp only [Memory.read, tfind] at this
      simp_all
  | cons e r ih =>
    obtain ⟨i, w⟩ := e
    obtain ⟨hm1, hm2⟩ := List.pairwise_cons.1 hm.1
    have hw := hm.2 (i, w) List.mem_cons_self
    cases n with
    | nil =>
      have := h i
      simp only [Memory.read, tfind] at this
      simp_all
    | cons e' r' =>
      obtain ⟨j, w'⟩ := e'
      obtain ⟨hn1, hn2⟩ := List.pairwise_cons.1 hn.1
      have hw' := hn.2 (j, w') List.mem_cons_self
      have hij : i = j := by
        rcases Nat.lt_trichotomy i j with hlt | heq | hgt
        · have h1 := h i
          have h2 := low i ((j, w') :: r') (by
            intro b hb
            rcases List.mem_cons.1 hb with rfl | hb
            · exact hlt
            · exact lt_trans hlt (hn1 b hb))
          simp only [Memory.read, h2] at h1
          simp [tfind] at h1
          simp_all
        · exact heq
        · have h1 := h j
          have h2 := low j ((i, w) :: r) (by
            intro b hb
            rcases List.mem_cons.1 hb with rfl | hb
            · exact hgt
            · exact lt_trans hgt (hm1 b hb))
          simp only [Memory.read, h2] at h1
          simp [tfind] at h1
          simp_all
      subst hij
      have hww : w = w' := by simpa [Memory.read, tfind] using h i
      subst hww
      congr 1
      refine ih ⟨hm2, fun c hc => hm.2 c (List.mem_cons_of_mem _ hc)⟩ ⟨hn2, fun c hc => hn.2 c (List.mem_cons_of_mem _ hc)⟩ ?_
      intro a
      by_cases ha : a = i
      · subst ha; simp only [Memory.read, low a r hm1, low a r' hn1]
      · simpa [Memory.read, tfind, ha] using h a

/-- Memory at reset is in its canonical form. -/
theorem State.reset_mem_wf : State.reset.mem.wf = true := rfl

/-! ## Bytes of numbers -/

/-- A number as n bytes has n of them. -/
@[simp] theorem leBytes_length (n x : Nat) : (leBytes n x).length = n := by
  induction n generalizing x with
  | zero => rfl
  | succ n ih => simp [leBytes, ih]

/-- The number of the bytes of a number (R4). -/
@[simp] theorem leNat_leBytes (n x : Nat) : leNat (leBytes n x) = x % 256 ^ n := by
  induction n generalizing x with
  | zero => simp [leBytes, leNat, Nat.mod_one]
  | succ n ih =>
    rw [leBytes, leNat, ih, BitVec.toNat_ofNat, show 256 ^ (n + 1) = 256 * 256 ^ n from Nat.pow_succ', Nat.mod_mul]

/-! ## Contexts and gates -/

/-- A context after one is changed. -/
@[simp] theorem State.ctx_modCtx (s : State) (c d : Nat) (f : Ctx → Ctx) :
    (s.modCtx c f).ctx d = if d = c then f (s.ctx c) else s.ctx d := by
  by_cases h : f (s.ctx c) = Ctx.free
  · have e : (s.modCtx c f).ctxs = tdel s.ctxs c := if_pos h
    rw [State.ctx, e, tfind_tdel]; by_cases hd : d = c
    · simp [hd]; exact h.symm
    · simp [hd, State.ctx]
  · have e : (s.modCtx c f).ctxs = tset s.ctxs c (f (s.ctx c)) := if_neg h
    rw [State.ctx, e, tfind_tset]; by_cases hd : d = c <;> simp [hd, State.ctx]

/-- A gate after one is changed. -/
@[simp] theorem State.gate_modGate (s : State) (g h : Nat) (f : Gate → Gate) :
    (s.modGate g f).gate h = if h = g then f (s.gate g) else s.gate h := by
  by_cases hf : f (s.gate g) = Gate.free
  · have e : (s.modGate g f).gates = tdel s.gates g := if_pos hf
    rw [State.gate, e, tfind_tdel]; by_cases hd : h = g
    · simp [hd]; exact hf.symm
    · simp [hd, State.gate]
  · have e : (s.modGate g f).gates = tset s.gates g (f (s.gate g)) := if_neg hf
    rw [State.gate, e, tfind_tset]; by_cases hd : h = g <;> simp [hd, State.gate]

end Sys2Proof.Machine
end

