-- ==== Sys2Proof/Laws/State.lean ====
section
/-! SUPPORT. The fields of the state after each of its updates, one small lemma per field. -/

namespace Sys2Proof.Machine

/-! ### State.modGroup -/

@[simp] theorem State.modGroup_mem (s : State) (gid : Nat) (f : Group → Group) : (s.modGroup gid f).mem = s.mem := rfl
@[simp] theorem State.modGroup_l1 (s : State) (gid : Nat) (f : Group → Group) : (s.modGroup gid f).l1 = s.l1 := rfl
@[simp] theorem State.modGroup_l2 (s : State) (gid : Nat) (f : Group → Group) : (s.modGroup gid f).l2 = s.l2 := rfl
@[simp] theorem State.modGroup_tlb (s : State) (gid : Nat) (f : Group → Group) : (s.modGroup gid f).tlb = s.tlb := rfl
@[simp] theorem State.modGroup_poison (s : State) (gid : Nat) (f : Group → Group) : (s.modGroup gid f).poison = s.poison := rfl
@[simp] theorem State.modGroup_ways (s : State) (gid : Nat) (f : Group → Group) : (s.modGroup gid f).ways = s.ways := rfl
@[simp] theorem State.modGroup_ctxs (s : State) (gid : Nat) (f : Group → Group) : (s.modGroup gid f).ctxs = s.ctxs := rfl
@[simp] theorem State.modGroup_kernels (s : State) (gid : Nat) (f : Group → Group) : (s.modGroup gid f).kernels = s.kernels := rfl
@[simp] theorem State.modGroup_blocks (s : State) (gid : Nat) (f : Group → Group) : (s.modGroup gid f).blocks = s.blocks := rfl
@[simp] theorem State.modGroup_groups (s : State) (gid : Nat) (f : Group → Group) : (s.modGroup gid f).groups = s.groups.modify gid f := rfl
@[simp] theorem State.modGroup_streams (s : State) (gid : Nat) (f : Group → Group) : (s.modGroup gid f).streams = s.streams := rfl
@[simp] theorem State.modGroup_copies (s : State) (gid : Nat) (f : Group → Group) : (s.modGroup gid f).copies = s.copies := rfl
@[simp] theorem State.modGroup_tileOps (s : State) (gid : Nat) (f : Group → Group) : (s.modGroup gid f).tileOps = s.tileOps := rfl
@[simp] theorem State.modGroup_dies (s : State) (gid : Nat) (f : Group → Group) : (s.modGroup gid f).dies = s.dies := rfl
@[simp] theorem State.modGroup_links (s : State) (gid : Nat) (f : Group → Group) : (s.modGroup gid f).links = s.links := rfl
@[simp] theorem State.modGroup_parts (s : State) (gid : Nat) (f : Group → Group) : (s.modGroup gid f).parts = s.parts := rfl
@[simp] theorem State.modGroup_clusters (s : State) (gid : Nat) (f : Group → Group) : (s.modGroup gid f).clusters = s.clusters := rfl
@[simp] theorem State.modGroup_slices (s : State) (gid : Nat) (f : Group → Group) : (s.modGroup gid f).slices = s.slices := rfl
@[simp] theorem State.modGroup_cgs (s : State) (gid : Nat) (f : Group → Group) : (s.modGroup gid f).cgs = s.cgs := rfl
@[simp] theorem State.modGroup_gates (s : State) (gid : Nat) (f : Group → Group) : (s.modGroup gid f).gates = s.gates := rfl
@[simp] theorem State.modGroup_replicas (s : State) (gid : Nat) (f : Group → Group) : (s.modGroup gid f).replicas = s.replicas := rfl
@[simp] theorem State.modGroup_owns (s : State) (gid : Nat) (f : Group → Group) : (s.modGroup gid f).owns = s.owns := rfl
@[simp] theorem State.modGroup_pickers (s : State) (gid : Nat) (f : Group → Group) : (s.modGroup gid f).pickers = s.pickers := rfl
@[simp] theorem State.modGroup_hub (s : State) (gid : Nat) (f : Group → Group) : (s.modGroup gid f).hub = s.hub := rfl
@[simp] theorem State.modGroup_tick (s : State) (gid : Nat) (f : Group → Group) : (s.modGroup gid f).tick = s.tick := rfl
@[simp] theorem State.modGroup_binds (s : State) (gid : Nat) (f : Group → Group) : (s.modGroup gid f).binds = s.binds := rfl
@[simp] theorem State.modGroup_agenda (s : State) (gid : Nat) (f : Group → Group) : (s.modGroup gid f).agenda = s.agenda := rfl
@[simp] theorem State.modGroup_issue (s : State) (gid : Nat) (f : Group → Group) : (s.modGroup gid f).issue = s.issue := rfl
@[simp] theorem State.modGroup_free (s : State) (gid : Nat) (f : Group → Group) : (s.modGroup gid f).free = s.free := rfl

/-! ### State.modStream -/

@[simp] theorem State.modStream_mem (s : State) (sid : Nat) (f : Stream → Stream) : (s.modStream sid f).mem = s.mem := rfl
@[simp] theorem State.modStream_l1 (s : State) (sid : Nat) (f : Stream → Stream) : (s.modStream sid f).l1 = s.l1 := rfl
@[simp] theorem State.modStream_l2 (s : State) (sid : Nat) (f : Stream → Stream) : (s.modStream sid f).l2 = s.l2 := rfl
@[simp] theorem State.modStream_tlb (s : State) (sid : Nat) (f : Stream → Stream) : (s.modStream sid f).tlb = s.tlb := rfl
@[simp] theorem State.modStream_poison (s : State) (sid : Nat) (f : Stream → Stream) : (s.modStream sid f).poison = s.poison := rfl
@[simp] theorem State.modStream_ways (s : State) (sid : Nat) (f : Stream → Stream) : (s.modStream sid f).ways = s.ways := rfl
@[simp] theorem State.modStream_ctxs (s : State) (sid : Nat) (f : Stream → Stream) : (s.modStream sid f).ctxs = s.ctxs := rfl
@[simp] theorem State.modStream_kernels (s : State) (sid : Nat) (f : Stream → Stream) : (s.modStream sid f).kernels = s.kernels := rfl
@[simp] theorem State.modStream_blocks (s : State) (sid : Nat) (f : Stream → Stream) : (s.modStream sid f).blocks = s.blocks := rfl
@[simp] theorem State.modStream_groups (s : State) (sid : Nat) (f : Stream → Stream) : (s.modStream sid f).groups = s.groups := rfl
@[simp] theorem State.modStream_streams (s : State) (sid : Nat) (f : Stream → Stream) : (s.modStream sid f).streams = s.streams.modify sid f := rfl
@[simp] theorem State.modStream_copies (s : State) (sid : Nat) (f : Stream → Stream) : (s.modStream sid f).copies = s.copies := rfl
@[simp] theorem State.modStream_tileOps (s : State) (sid : Nat) (f : Stream → Stream) : (s.modStream sid f).tileOps = s.tileOps := rfl
@[simp] theorem State.modStream_dies (s : State) (sid : Nat) (f : Stream → Stream) : (s.modStream sid f).dies = s.dies := rfl
@[simp] theorem State.modStream_links (s : State) (sid : Nat) (f : Stream → Stream) : (s.modStream sid f).links = s.links := rfl
@[simp] theorem State.modStream_parts (s : State) (sid : Nat) (f : Stream → Stream) : (s.modStream sid f).parts = s.parts := rfl
@[simp] theorem State.modStream_clusters (s : State) (sid : Nat) (f : Stream → Stream) : (s.modStream sid f).clusters = s.clusters := rfl
@[simp] theorem State.modStream_slices (s : State) (sid : Nat) (f : Stream → Stream) : (s.modStream sid f).slices = s.slices := rfl
@[simp] theorem State.modStream_cgs (s : State) (sid : Nat) (f : Stream → Stream) : (s.modStream sid f).cgs = s.cgs := rfl
@[simp] theorem State.modStream_gates (s : State) (sid : Nat) (f : Stream → Stream) : (s.modStream sid f).gates = s.gates := rfl
@[simp] theorem State.modStream_replicas (s : State) (sid : Nat) (f : Stream → Stream) : (s.modStream sid f).replicas = s.replicas := rfl
@[simp] theorem State.modStream_owns (s : State) (sid : Nat) (f : Stream → Stream) : (s.modStream sid f).owns = s.owns := rfl
@[simp] theorem State.modStream_pickers (s : State) (sid : Nat) (f : Stream → Stream) : (s.modStream sid f).pickers = s.pickers := rfl
@[simp] theorem State.modStream_hub (s : State) (sid : Nat) (f : Stream → Stream) : (s.modStream sid f).hub = s.hub := rfl
@[simp] theorem State.modStream_tick (s : State) (sid : Nat) (f : Stream → Stream) : (s.modStream sid f).tick = s.tick := rfl
@[simp] theorem State.modStream_binds (s : State) (sid : Nat) (f : Stream → Stream) : (s.modStream sid f).binds = s.binds := rfl
@[simp] theorem State.modStream_agenda (s : State) (sid : Nat) (f : Stream → Stream) : (s.modStream sid f).agenda = s.agenda := rfl
@[simp] theorem State.modStream_issue (s : State) (sid : Nat) (f : Stream → Stream) : (s.modStream sid f).issue = s.issue := rfl
@[simp] theorem State.modStream_free (s : State) (sid : Nat) (f : Stream → Stream) : (s.modStream sid f).free = s.free := rfl

/-! ### State.modBlock -/

@[simp] theorem State.modBlock_mem (s : State) (bid : Nat) (f : Block → Block) : (s.modBlock bid f).mem = s.mem := rfl
@[simp] theorem State.modBlock_l1 (s : State) (bid : Nat) (f : Block → Block) : (s.modBlock bid f).l1 = s.l1 := rfl
@[simp] theorem State.modBlock_l2 (s : State) (bid : Nat) (f : Block → Block) : (s.modBlock bid f).l2 = s.l2 := rfl
@[simp] theorem State.modBlock_tlb (s : State) (bid : Nat) (f : Block → Block) : (s.modBlock bid f).tlb = s.tlb := rfl
@[simp] theorem State.modBlock_poison (s : State) (bid : Nat) (f : Block → Block) : (s.modBlock bid f).poison = s.poison := rfl
@[simp] theorem State.modBlock_ways (s : State) (bid : Nat) (f : Block → Block) : (s.modBlock bid f).ways = s.ways := rfl
@[simp] theorem State.modBlock_ctxs (s : State) (bid : Nat) (f : Block → Block) : (s.modBlock bid f).ctxs = s.ctxs := rfl
@[simp] theorem State.modBlock_kernels (s : State) (bid : Nat) (f : Block → Block) : (s.modBlock bid f).kernels = s.kernels := rfl
@[simp] theorem State.modBlock_blocks (s : State) (bid : Nat) (f : Block → Block) : (s.modBlock bid f).blocks = s.blocks.modify bid f := rfl
@[simp] theorem State.modBlock_groups (s : State) (bid : Nat) (f : Block → Block) : (s.modBlock bid f).groups = s.groups := rfl
@[simp] theorem State.modBlock_streams (s : State) (bid : Nat) (f : Block → Block) : (s.modBlock bid f).streams = s.streams := rfl
@[simp] theorem State.modBlock_copies (s : State) (bid : Nat) (f : Block → Block) : (s.modBlock bid f).copies = s.copies := rfl
@[simp] theorem State.modBlock_tileOps (s : State) (bid : Nat) (f : Block → Block) : (s.modBlock bid f).tileOps = s.tileOps := rfl
@[simp] theorem State.modBlock_dies (s : State) (bid : Nat) (f : Block → Block) : (s.modBlock bid f).dies = s.dies := rfl
@[simp] theorem State.modBlock_links (s : State) (bid : Nat) (f : Block → Block) : (s.modBlock bid f).links = s.links := rfl
@[simp] theorem State.modBlock_parts (s : State) (bid : Nat) (f : Block → Block) : (s.modBlock bid f).parts = s.parts := rfl
@[simp] theorem State.modBlock_clusters (s : State) (bid : Nat) (f : Block → Block) : (s.modBlock bid f).clusters = s.clusters := rfl
@[simp] theorem State.modBlock_slices (s : State) (bid : Nat) (f : Block → Block) : (s.modBlock bid f).slices = s.slices := rfl
@[simp] theorem State.modBlock_cgs (s : State) (bid : Nat) (f : Block → Block) : (s.modBlock bid f).cgs = s.cgs := rfl
@[simp] theorem State.modBlock_gates (s : State) (bid : Nat) (f : Block → Block) : (s.modBlock bid f).gates = s.gates := rfl
@[simp] theorem State.modBlock_replicas (s : State) (bid : Nat) (f : Block → Block) : (s.modBlock bid f).replicas = s.replicas := rfl
@[simp] theorem State.modBlock_owns (s : State) (bid : Nat) (f : Block → Block) : (s.modBlock bid f).owns = s.owns := rfl
@[simp] theorem State.modBlock_pickers (s : State) (bid : Nat) (f : Block → Block) : (s.modBlock bid f).pickers = s.pickers := rfl
@[simp] theorem State.modBlock_hub (s : State) (bid : Nat) (f : Block → Block) : (s.modBlock bid f).hub = s.hub := rfl
@[simp] theorem State.modBlock_tick (s : State) (bid : Nat) (f : Block → Block) : (s.modBlock bid f).tick = s.tick := rfl
@[simp] theorem State.modBlock_binds (s : State) (bid : Nat) (f : Block → Block) : (s.modBlock bid f).binds = s.binds := rfl
@[simp] theorem State.modBlock_agenda (s : State) (bid : Nat) (f : Block → Block) : (s.modBlock bid f).agenda = s.agenda := rfl
@[simp] theorem State.modBlock_issue (s : State) (bid : Nat) (f : Block → Block) : (s.modBlock bid f).issue = s.issue := rfl
@[simp] theorem State.modBlock_free (s : State) (bid : Nat) (f : Block → Block) : (s.modBlock bid f).free = s.free := rfl

/-! ### State.modKernel -/

@[simp] theorem State.modKernel_mem (s : State) (kid : Nat) (f : Kernel → Kernel) : (s.modKernel kid f).mem = s.mem := rfl
@[simp] theorem State.modKernel_l1 (s : State) (kid : Nat) (f : Kernel → Kernel) : (s.modKernel kid f).l1 = s.l1 := rfl
@[simp] theorem State.modKernel_l2 (s : State) (kid : Nat) (f : Kernel → Kernel) : (s.modKernel kid f).l2 = s.l2 := rfl
@[simp] theorem State.modKernel_tlb (s : State) (kid : Nat) (f : Kernel → Kernel) : (s.modKernel kid f).tlb = s.tlb := rfl
@[simp] theorem State.modKernel_poison (s : State) (kid : Nat) (f : Kernel → Kernel) : (s.modKernel kid f).poison = s.poison := rfl
@[simp] theorem State.modKernel_ways (s : State) (kid : Nat) (f : Kernel → Kernel) : (s.modKernel kid f).ways = s.ways := rfl
@[simp] theorem State.modKernel_ctxs (s : State) (kid : Nat) (f : Kernel → Kernel) : (s.modKernel kid f).ctxs = s.ctxs := rfl
@[simp] theorem State.modKernel_kernels (s : State) (kid : Nat) (f : Kernel → Kernel) : (s.modKernel kid f).kernels = s.kernels.modify kid f := rfl
@[simp] theorem State.modKernel_blocks (s : State) (kid : Nat) (f : Kernel → Kernel) : (s.modKernel kid f).blocks = s.blocks := rfl
@[simp] theorem State.modKernel_groups (s : State) (kid : Nat) (f : Kernel → Kernel) : (s.modKernel kid f).groups = s.groups := rfl
@[simp] theorem State.modKernel_streams (s : State) (kid : Nat) (f : Kernel → Kernel) : (s.modKernel kid f).streams = s.streams := rfl
@[simp] theorem State.modKernel_copies (s : State) (kid : Nat) (f : Kernel → Kernel) : (s.modKernel kid f).copies = s.copies := rfl
@[simp] theorem State.modKernel_tileOps (s : State) (kid : Nat) (f : Kernel → Kernel) : (s.modKernel kid f).tileOps = s.tileOps := rfl
@[simp] theorem State.modKernel_dies (s : State) (kid : Nat) (f : Kernel → Kernel) : (s.modKernel kid f).dies = s.dies := rfl
@[simp] theorem State.modKernel_links (s : State) (kid : Nat) (f : Kernel → Kernel) : (s.modKernel kid f).links = s.links := rfl
@[simp] theorem State.modKernel_parts (s : State) (kid : Nat) (f : Kernel → Kernel) : (s.modKernel kid f).parts = s.parts := rfl
@[simp] theorem State.modKernel_clusters (s : State) (kid : Nat) (f : Kernel → Kernel) : (s.modKernel kid f).clusters = s.clusters := rfl
@[simp] theorem State.modKernel_slices (s : State) (kid : Nat) (f : Kernel → Kernel) : (s.modKernel kid f).slices = s.slices := rfl
@[simp] theorem State.modKernel_cgs (s : State) (kid : Nat) (f : Kernel → Kernel) : (s.modKernel kid f).cgs = s.cgs := rfl
@[simp] theorem State.modKernel_gates (s : State) (kid : Nat) (f : Kernel → Kernel) : (s.modKernel kid f).gates = s.gates := rfl
@[simp] theorem State.modKernel_replicas (s : State) (kid : Nat) (f : Kernel → Kernel) : (s.modKernel kid f).replicas = s.replicas := rfl
@[simp] theorem State.modKernel_owns (s : State) (kid : Nat) (f : Kernel → Kernel) : (s.modKernel kid f).owns = s.owns := rfl
@[simp] theorem State.modKernel_pickers (s : State) (kid : Nat) (f : Kernel → Kernel) : (s.modKernel kid f).pickers = s.pickers := rfl
@[simp] theorem State.modKernel_hub (s : State) (kid : Nat) (f : Kernel → Kernel) : (s.modKernel kid f).hub = s.hub := rfl
@[simp] theorem State.modKernel_tick (s : State) (kid : Nat) (f : Kernel → Kernel) : (s.modKernel kid f).tick = s.tick := rfl
@[simp] theorem State.modKernel_binds (s : State) (kid : Nat) (f : Kernel → Kernel) : (s.modKernel kid f).binds = s.binds := rfl
@[simp] theorem State.modKernel_agenda (s : State) (kid : Nat) (f : Kernel → Kernel) : (s.modKernel kid f).agenda = s.agenda := rfl
@[simp] theorem State.modKernel_issue (s : State) (kid : Nat) (f : Kernel → Kernel) : (s.modKernel kid f).issue = s.issue := rfl
@[simp] theorem State.modKernel_free (s : State) (kid : Nat) (f : Kernel → Kernel) : (s.modKernel kid f).free = s.free := rfl

/-! ### State.modCopy -/

@[simp] theorem State.modCopy_mem (s : State) (cid : Nat) (f : Copy → Copy) : (s.modCopy cid f).mem = s.mem := rfl
@[simp] theorem State.modCopy_l1 (s : State) (cid : Nat) (f : Copy → Copy) : (s.modCopy cid f).l1 = s.l1 := rfl
@[simp] theorem State.modCopy_l2 (s : State) (cid : Nat) (f : Copy → Copy) : (s.modCopy cid f).l2 = s.l2 := rfl
@[simp] theorem State.modCopy_tlb (s : State) (cid : Nat) (f : Copy → Copy) : (s.modCopy cid f).tlb = s.tlb := rfl
@[simp] theorem State.modCopy_poison (s : State) (cid : Nat) (f : Copy → Copy) : (s.modCopy cid f).poison = s.poison := rfl
@[simp] theorem State.modCopy_ways (s : State) (cid : Nat) (f : Copy → Copy) : (s.modCopy cid f).ways = s.ways := rfl
@[simp] theorem State.modCopy_ctxs (s : State) (cid : Nat) (f : Copy → Copy) : (s.modCopy cid f).ctxs = s.ctxs := rfl
@[simp] theorem State.modCopy_kernels (s : State) (cid : Nat) (f : Copy → Copy) : (s.modCopy cid f).kernels = s.kernels := rfl
@[simp] theorem State.modCopy_blocks (s : State) (cid : Nat) (f : Copy → Copy) : (s.modCopy cid f).blocks = s.blocks := rfl
@[simp] theorem State.modCopy_groups (s : State) (cid : Nat) (f : Copy → Copy) : (s.modCopy cid f).groups = s.groups := rfl
@[simp] theorem State.modCopy_streams (s : State) (cid : Nat) (f : Copy → Copy) : (s.modCopy cid f).streams = s.streams := rfl
@[simp] theorem State.modCopy_copies (s : State) (cid : Nat) (f : Copy → Copy) : (s.modCopy cid f).copies = s.copies.modify cid f := rfl
@[simp] theorem State.modCopy_tileOps (s : State) (cid : Nat) (f : Copy → Copy) : (s.modCopy cid f).tileOps = s.tileOps := rfl
@[simp] theorem State.modCopy_dies (s : State) (cid : Nat) (f : Copy → Copy) : (s.modCopy cid f).dies = s.dies := rfl
@[simp] theorem State.modCopy_links (s : State) (cid : Nat) (f : Copy → Copy) : (s.modCopy cid f).links = s.links := rfl
@[simp] theorem State.modCopy_parts (s : State) (cid : Nat) (f : Copy → Copy) : (s.modCopy cid f).parts = s.parts := rfl
@[simp] theorem State.modCopy_clusters (s : State) (cid : Nat) (f : Copy → Copy) : (s.modCopy cid f).clusters = s.clusters := rfl
@[simp] theorem State.modCopy_slices (s : State) (cid : Nat) (f : Copy → Copy) : (s.modCopy cid f).slices = s.slices := rfl
@[simp] theorem State.modCopy_cgs (s : State) (cid : Nat) (f : Copy → Copy) : (s.modCopy cid f).cgs = s.cgs := rfl
@[simp] theorem State.modCopy_gates (s : State) (cid : Nat) (f : Copy → Copy) : (s.modCopy cid f).gates = s.gates := rfl
@[simp] theorem State.modCopy_replicas (s : State) (cid : Nat) (f : Copy → Copy) : (s.modCopy cid f).replicas = s.replicas := rfl
@[simp] theorem State.modCopy_owns (s : State) (cid : Nat) (f : Copy → Copy) : (s.modCopy cid f).owns = s.owns := rfl
@[simp] theorem State.modCopy_pickers (s : State) (cid : Nat) (f : Copy → Copy) : (s.modCopy cid f).pickers = s.pickers := rfl
@[simp] theorem State.modCopy_hub (s : State) (cid : Nat) (f : Copy → Copy) : (s.modCopy cid f).hub = s.hub := rfl
@[simp] theorem State.modCopy_tick (s : State) (cid : Nat) (f : Copy → Copy) : (s.modCopy cid f).tick = s.tick := rfl
@[simp] theorem State.modCopy_binds (s : State) (cid : Nat) (f : Copy → Copy) : (s.modCopy cid f).binds = s.binds := rfl
@[simp] theorem State.modCopy_agenda (s : State) (cid : Nat) (f : Copy → Copy) : (s.modCopy cid f).agenda = s.agenda := rfl
@[simp] theorem State.modCopy_issue (s : State) (cid : Nat) (f : Copy → Copy) : (s.modCopy cid f).issue = s.issue := rfl
@[simp] theorem State.modCopy_free (s : State) (cid : Nat) (f : Copy → Copy) : (s.modCopy cid f).free = s.free := rfl

/-! ### State.modTile -/

@[simp] theorem State.modTile_mem (s : State) (oid : Nat) (f : TileOp → TileOp) : (s.modTile oid f).mem = s.mem := rfl
@[simp] theorem State.modTile_l1 (s : State) (oid : Nat) (f : TileOp → TileOp) : (s.modTile oid f).l1 = s.l1 := rfl
@[simp] theorem State.modTile_l2 (s : State) (oid : Nat) (f : TileOp → TileOp) : (s.modTile oid f).l2 = s.l2 := rfl
@[simp] theorem State.modTile_tlb (s : State) (oid : Nat) (f : TileOp → TileOp) : (s.modTile oid f).tlb = s.tlb := rfl
@[simp] theorem State.modTile_poison (s : State) (oid : Nat) (f : TileOp → TileOp) : (s.modTile oid f).poison = s.poison := rfl
@[simp] theorem State.modTile_ways (s : State) (oid : Nat) (f : TileOp → TileOp) : (s.modTile oid f).ways = s.ways := rfl
@[simp] theorem State.modTile_ctxs (s : State) (oid : Nat) (f : TileOp → TileOp) : (s.modTile oid f).ctxs = s.ctxs := rfl
@[simp] theorem State.modTile_kernels (s : State) (oid : Nat) (f : TileOp → TileOp) : (s.modTile oid f).kernels = s.kernels := rfl
@[simp] theorem State.modTile_blocks (s : State) (oid : Nat) (f : TileOp → TileOp) : (s.modTile oid f).blocks = s.blocks := rfl
@[simp] theorem State.modTile_groups (s : State) (oid : Nat) (f : TileOp → TileOp) : (s.modTile oid f).groups = s.groups := rfl
@[simp] theorem State.modTile_streams (s : State) (oid : Nat) (f : TileOp → TileOp) : (s.modTile oid f).streams = s.streams := rfl
@[simp] theorem State.modTile_copies (s : State) (oid : Nat) (f : TileOp → TileOp) : (s.modTile oid f).copies = s.copies := rfl
@[simp] theorem State.modTile_tileOps (s : State) (oid : Nat) (f : TileOp → TileOp) : (s.modTile oid f).tileOps = s.tileOps.modify oid f := rfl
@[simp] theorem State.modTile_dies (s : State) (oid : Nat) (f : TileOp → TileOp) : (s.modTile oid f).dies = s.dies := rfl
@[simp] theorem State.modTile_links (s : State) (oid : Nat) (f : TileOp → TileOp) : (s.modTile oid f).links = s.links := rfl
@[simp] theorem State.modTile_parts (s : State) (oid : Nat) (f : TileOp → TileOp) : (s.modTile oid f).parts = s.parts := rfl
@[simp] theorem State.modTile_clusters (s : State) (oid : Nat) (f : TileOp → TileOp) : (s.modTile oid f).clusters = s.clusters := rfl
@[simp] theorem State.modTile_slices (s : State) (oid : Nat) (f : TileOp → TileOp) : (s.modTile oid f).slices = s.slices := rfl
@[simp] theorem State.modTile_cgs (s : State) (oid : Nat) (f : TileOp → TileOp) : (s.modTile oid f).cgs = s.cgs := rfl
@[simp] theorem State.modTile_gates (s : State) (oid : Nat) (f : TileOp → TileOp) : (s.modTile oid f).gates = s.gates := rfl
@[simp] theorem State.modTile_replicas (s : State) (oid : Nat) (f : TileOp → TileOp) : (s.modTile oid f).replicas = s.replicas := rfl
@[simp] theorem State.modTile_owns (s : State) (oid : Nat) (f : TileOp → TileOp) : (s.modTile oid f).owns = s.owns := rfl
@[simp] theorem State.modTile_pickers (s : State) (oid : Nat) (f : TileOp → TileOp) : (s.modTile oid f).pickers = s.pickers := rfl
@[simp] theorem State.modTile_hub (s : State) (oid : Nat) (f : TileOp → TileOp) : (s.modTile oid f).hub = s.hub := rfl
@[simp] theorem State.modTile_tick (s : State) (oid : Nat) (f : TileOp → TileOp) : (s.modTile oid f).tick = s.tick := rfl
@[simp] theorem State.modTile_binds (s : State) (oid : Nat) (f : TileOp → TileOp) : (s.modTile oid f).binds = s.binds := rfl
@[simp] theorem State.modTile_agenda (s : State) (oid : Nat) (f : TileOp → TileOp) : (s.modTile oid f).agenda = s.agenda := rfl
@[simp] theorem State.modTile_issue (s : State) (oid : Nat) (f : TileOp → TileOp) : (s.modTile oid f).issue = s.issue := rfl
@[simp] theorem State.modTile_free (s : State) (oid : Nat) (f : TileOp → TileOp) : (s.modTile oid f).free = s.free := rfl

/-! ### State.modPart -/

@[simp] theorem State.modPart_mem (s : State) (p : Nat) (f : Part → Part) : (s.modPart p f).mem = s.mem := rfl
@[simp] theorem State.modPart_l1 (s : State) (p : Nat) (f : Part → Part) : (s.modPart p f).l1 = s.l1 := rfl
@[simp] theorem State.modPart_l2 (s : State) (p : Nat) (f : Part → Part) : (s.modPart p f).l2 = s.l2 := rfl
@[simp] theorem State.modPart_tlb (s : State) (p : Nat) (f : Part → Part) : (s.modPart p f).tlb = s.tlb := rfl
@[simp] theorem State.modPart_poison (s : State) (p : Nat) (f : Part → Part) : (s.modPart p f).poison = s.poison := rfl
@[simp] theorem State.modPart_ways (s : State) (p : Nat) (f : Part → Part) : (s.modPart p f).ways = s.ways := rfl
@[simp] theorem State.modPart_ctxs (s : State) (p : Nat) (f : Part → Part) : (s.modPart p f).ctxs = s.ctxs := rfl
@[simp] theorem State.modPart_kernels (s : State) (p : Nat) (f : Part → Part) : (s.modPart p f).kernels = s.kernels := rfl
@[simp] theorem State.modPart_blocks (s : State) (p : Nat) (f : Part → Part) : (s.modPart p f).blocks = s.blocks := rfl
@[simp] theorem State.modPart_groups (s : State) (p : Nat) (f : Part → Part) : (s.modPart p f).groups = s.groups := rfl
@[simp] theorem State.modPart_streams (s : State) (p : Nat) (f : Part → Part) : (s.modPart p f).streams = s.streams := rfl
@[simp] theorem State.modPart_copies (s : State) (p : Nat) (f : Part → Part) : (s.modPart p f).copies = s.copies := rfl
@[simp] theorem State.modPart_tileOps (s : State) (p : Nat) (f : Part → Part) : (s.modPart p f).tileOps = s.tileOps := rfl
@[simp] theorem State.modPart_dies (s : State) (p : Nat) (f : Part → Part) : (s.modPart p f).dies = s.dies := rfl
@[simp] theorem State.modPart_links (s : State) (p : Nat) (f : Part → Part) : (s.modPart p f).links = s.links := rfl
@[simp] theorem State.modPart_parts (s : State) (p : Nat) (f : Part → Part) : (s.modPart p f).parts = s.parts.modify p f := rfl
@[simp] theorem State.modPart_clusters (s : State) (p : Nat) (f : Part → Part) : (s.modPart p f).clusters = s.clusters := rfl
@[simp] theorem State.modPart_slices (s : State) (p : Nat) (f : Part → Part) : (s.modPart p f).slices = s.slices := rfl
@[simp] theorem State.modPart_cgs (s : State) (p : Nat) (f : Part → Part) : (s.modPart p f).cgs = s.cgs := rfl
@[simp] theorem State.modPart_gates (s : State) (p : Nat) (f : Part → Part) : (s.modPart p f).gates = s.gates := rfl
@[simp] theorem State.modPart_replicas (s : State) (p : Nat) (f : Part → Part) : (s.modPart p f).replicas = s.replicas := rfl
@[simp] theorem State.modPart_owns (s : State) (p : Nat) (f : Part → Part) : (s.modPart p f).owns = s.owns := rfl
@[simp] theorem State.modPart_pickers (s : State) (p : Nat) (f : Part → Part) : (s.modPart p f).pickers = s.pickers := rfl
@[simp] theorem State.modPart_hub (s : State) (p : Nat) (f : Part → Part) : (s.modPart p f).hub = s.hub := rfl
@[simp] theorem State.modPart_tick (s : State) (p : Nat) (f : Part → Part) : (s.modPart p f).tick = s.tick := rfl
@[simp] theorem State.modPart_binds (s : State) (p : Nat) (f : Part → Part) : (s.modPart p f).binds = s.binds := rfl
@[simp] theorem State.modPart_agenda (s : State) (p : Nat) (f : Part → Part) : (s.modPart p f).agenda = s.agenda := rfl
@[simp] theorem State.modPart_issue (s : State) (p : Nat) (f : Part → Part) : (s.modPart p f).issue = s.issue := rfl
@[simp] theorem State.modPart_free (s : State) (p : Nat) (f : Part → Part) : (s.modPart p f).free = s.free := rfl

/-! ### State.modDie -/

@[simp] theorem State.modDie_mem (s : State) (d : Nat) (f : Die → Die) : (s.modDie d f).mem = s.mem := rfl
@[simp] theorem State.modDie_l1 (s : State) (d : Nat) (f : Die → Die) : (s.modDie d f).l1 = s.l1 := rfl
@[simp] theorem State.modDie_l2 (s : State) (d : Nat) (f : Die → Die) : (s.modDie d f).l2 = s.l2 := rfl
@[simp] theorem State.modDie_tlb (s : State) (d : Nat) (f : Die → Die) : (s.modDie d f).tlb = s.tlb := rfl
@[simp] theorem State.modDie_poison (s : State) (d : Nat) (f : Die → Die) : (s.modDie d f).poison = s.poison := rfl
@[simp] theorem State.modDie_ways (s : State) (d : Nat) (f : Die → Die) : (s.modDie d f).ways = s.ways := rfl
@[simp] theorem State.modDie_ctxs (s : State) (d : Nat) (f : Die → Die) : (s.modDie d f).ctxs = s.ctxs := rfl
@[simp] theorem State.modDie_kernels (s : State) (d : Nat) (f : Die → Die) : (s.modDie d f).kernels = s.kernels := rfl
@[simp] theorem State.modDie_blocks (s : State) (d : Nat) (f : Die → Die) : (s.modDie d f).blocks = s.blocks := rfl
@[simp] theorem State.modDie_groups (s : State) (d : Nat) (f : Die → Die) : (s.modDie d f).groups = s.groups := rfl
@[simp] theorem State.modDie_streams (s : State) (d : Nat) (f : Die → Die) : (s.modDie d f).streams = s.streams := rfl
@[simp] theorem State.modDie_copies (s : State) (d : Nat) (f : Die → Die) : (s.modDie d f).copies = s.copies := rfl
@[simp] theorem State.modDie_tileOps (s : State) (d : Nat) (f : Die → Die) : (s.modDie d f).tileOps = s.tileOps := rfl
@[simp] theorem State.modDie_dies (s : State) (d : Nat) (f : Die → Die) : (s.modDie d f).dies = s.dies.modify d f := rfl
@[simp] theorem State.modDie_links (s : State) (d : Nat) (f : Die → Die) : (s.modDie d f).links = s.links := rfl
@[simp] theorem State.modDie_parts (s : State) (d : Nat) (f : Die → Die) : (s.modDie d f).parts = s.parts := rfl
@[simp] theorem State.modDie_clusters (s : State) (d : Nat) (f : Die → Die) : (s.modDie d f).clusters = s.clusters := rfl
@[simp] theorem State.modDie_slices (s : State) (d : Nat) (f : Die → Die) : (s.modDie d f).slices = s.slices := rfl
@[simp] theorem State.modDie_cgs (s : State) (d : Nat) (f : Die → Die) : (s.modDie d f).cgs = s.cgs := rfl
@[simp] theorem State.modDie_gates (s : State) (d : Nat) (f : Die → Die) : (s.modDie d f).gates = s.gates := rfl
@[simp] theorem State.modDie_replicas (s : State) (d : Nat) (f : Die → Die) : (s.modDie d f).replicas = s.replicas := rfl
@[simp] theorem State.modDie_owns (s : State) (d : Nat) (f : Die → Die) : (s.modDie d f).owns = s.owns := rfl
@[simp] theorem State.modDie_pickers (s : State) (d : Nat) (f : Die → Die) : (s.modDie d f).pickers = s.pickers := rfl
@[simp] theorem State.modDie_hub (s : State) (d : Nat) (f : Die → Die) : (s.modDie d f).hub = s.hub := rfl
@[simp] theorem State.modDie_tick (s : State) (d : Nat) (f : Die → Die) : (s.modDie d f).tick = s.tick := rfl
@[simp] theorem State.modDie_binds (s : State) (d : Nat) (f : Die → Die) : (s.modDie d f).binds = s.binds := rfl
@[simp] theorem State.modDie_agenda (s : State) (d : Nat) (f : Die → Die) : (s.modDie d f).agenda = s.agenda := rfl
@[simp] theorem State.modDie_issue (s : State) (d : Nat) (f : Die → Die) : (s.modDie d f).issue = s.issue := rfl
@[simp] theorem State.modDie_free (s : State) (d : Nat) (f : Die → Die) : (s.modDie d f).free = s.free := rfl

/-! ### State.modLink -/

@[simp] theorem State.modLink_mem (s : State) (l : Nat) (f : Link → Link) : (s.modLink l f).mem = s.mem := rfl
@[simp] theorem State.modLink_l1 (s : State) (l : Nat) (f : Link → Link) : (s.modLink l f).l1 = s.l1 := rfl
@[simp] theorem State.modLink_l2 (s : State) (l : Nat) (f : Link → Link) : (s.modLink l f).l2 = s.l2 := rfl
@[simp] theorem State.modLink_tlb (s : State) (l : Nat) (f : Link → Link) : (s.modLink l f).tlb = s.tlb := rfl
@[simp] theorem State.modLink_poison (s : State) (l : Nat) (f : Link → Link) : (s.modLink l f).poison = s.poison := rfl
@[simp] theorem State.modLink_ways (s : State) (l : Nat) (f : Link → Link) : (s.modLink l f).ways = s.ways := rfl
@[simp] theorem State.modLink_ctxs (s : State) (l : Nat) (f : Link → Link) : (s.modLink l f).ctxs = s.ctxs := rfl
@[simp] theorem State.modLink_kernels (s : State) (l : Nat) (f : Link → Link) : (s.modLink l f).kernels = s.kernels := rfl
@[simp] theorem State.modLink_blocks (s : State) (l : Nat) (f : Link → Link) : (s.modLink l f).blocks = s.blocks := rfl
@[simp] theorem State.modLink_groups (s : State) (l : Nat) (f : Link → Link) : (s.modLink l f).groups = s.groups := rfl
@[simp] theorem State.modLink_streams (s : State) (l : Nat) (f : Link → Link) : (s.modLink l f).streams = s.streams := rfl
@[simp] theorem State.modLink_copies (s : State) (l : Nat) (f : Link → Link) : (s.modLink l f).copies = s.copies := rfl
@[simp] theorem State.modLink_tileOps (s : State) (l : Nat) (f : Link → Link) : (s.modLink l f).tileOps = s.tileOps := rfl
@[simp] theorem State.modLink_dies (s : State) (l : Nat) (f : Link → Link) : (s.modLink l f).dies = s.dies := rfl
@[simp] theorem State.modLink_links (s : State) (l : Nat) (f : Link → Link) : (s.modLink l f).links = s.links.modify l f := rfl
@[simp] theorem State.modLink_parts (s : State) (l : Nat) (f : Link → Link) : (s.modLink l f).parts = s.parts := rfl
@[simp] theorem State.modLink_clusters (s : State) (l : Nat) (f : Link → Link) : (s.modLink l f).clusters = s.clusters := rfl
@[simp] theorem State.modLink_slices (s : State) (l : Nat) (f : Link → Link) : (s.modLink l f).slices = s.slices := rfl
@[simp] theorem State.modLink_cgs (s : State) (l : Nat) (f : Link → Link) : (s.modLink l f).cgs = s.cgs := rfl
@[simp] theorem State.modLink_gates (s : State) (l : Nat) (f : Link → Link) : (s.modLink l f).gates = s.gates := rfl
@[simp] theorem State.modLink_replicas (s : State) (l : Nat) (f : Link → Link) : (s.modLink l f).replicas = s.replicas := rfl
@[simp] theorem State.modLink_owns (s : State) (l : Nat) (f : Link → Link) : (s.modLink l f).owns = s.owns := rfl
@[simp] theorem State.modLink_pickers (s : State) (l : Nat) (f : Link → Link) : (s.modLink l f).pickers = s.pickers := rfl
@[simp] theorem State.modLink_hub (s : State) (l : Nat) (f : Link → Link) : (s.modLink l f).hub = s.hub := rfl
@[simp] theorem State.modLink_tick (s : State) (l : Nat) (f : Link → Link) : (s.modLink l f).tick = s.tick := rfl
@[simp] theorem State.modLink_binds (s : State) (l : Nat) (f : Link → Link) : (s.modLink l f).binds = s.binds := rfl
@[simp] theorem State.modLink_agenda (s : State) (l : Nat) (f : Link → Link) : (s.modLink l f).agenda = s.agenda := rfl
@[simp] theorem State.modLink_issue (s : State) (l : Nat) (f : Link → Link) : (s.modLink l f).issue = s.issue := rfl
@[simp] theorem State.modLink_free (s : State) (l : Nat) (f : Link → Link) : (s.modLink l f).free = s.free := rfl

/-! ### State.modHub -/

@[simp] theorem State.modHub_mem (s : State) (f : Hub → Hub) : (s.modHub f).mem = s.mem := rfl
@[simp] theorem State.modHub_l1 (s : State) (f : Hub → Hub) : (s.modHub f).l1 = s.l1 := rfl
@[simp] theorem State.modHub_l2 (s : State) (f : Hub → Hub) : (s.modHub f).l2 = s.l2 := rfl
@[simp] theorem State.modHub_tlb (s : State) (f : Hub → Hub) : (s.modHub f).tlb = s.tlb := rfl
@[simp] theorem State.modHub_poison (s : State) (f : Hub → Hub) : (s.modHub f).poison = s.poison := rfl
@[simp] theorem State.modHub_ways (s : State) (f : Hub → Hub) : (s.modHub f).ways = s.ways := rfl
@[simp] theorem State.modHub_ctxs (s : State) (f : Hub → Hub) : (s.modHub f).ctxs = s.ctxs := rfl
@[simp] theorem State.modHub_kernels (s : State) (f : Hub → Hub) : (s.modHub f).kernels = s.kernels := rfl
@[simp] theorem State.modHub_blocks (s : State) (f : Hub → Hub) : (s.modHub f).blocks = s.blocks := rfl
@[simp] theorem State.modHub_groups (s : State) (f : Hub → Hub) : (s.modHub f).groups = s.groups := rfl
@[simp] theorem State.modHub_streams (s : State) (f : Hub → Hub) : (s.modHub f).streams = s.streams := rfl
@[simp] theorem State.modHub_copies (s : State) (f : Hub → Hub) : (s.modHub f).copies = s.copies := rfl
@[simp] theorem State.modHub_tileOps (s : State) (f : Hub → Hub) : (s.modHub f).tileOps = s.tileOps := rfl
@[simp] theorem State.modHub_dies (s : State) (f : Hub → Hub) : (s.modHub f).dies = s.dies := rfl
@[simp] theorem State.modHub_links (s : State) (f : Hub → Hub) : (s.modHub f).links = s.links := rfl
@[simp] theorem State.modHub_parts (s : State) (f : Hub → Hub) : (s.modHub f).parts = s.parts := rfl
@[simp] theorem State.modHub_clusters (s : State) (f : Hub → Hub) : (s.modHub f).clusters = s.clusters := rfl
@[simp] theorem State.modHub_slices (s : State) (f : Hub → Hub) : (s.modHub f).slices = s.slices := rfl
@[simp] theorem State.modHub_cgs (s : State) (f : Hub → Hub) : (s.modHub f).cgs = s.cgs := rfl
@[simp] theorem State.modHub_gates (s : State) (f : Hub → Hub) : (s.modHub f).gates = s.gates := rfl
@[simp] theorem State.modHub_replicas (s : State) (f : Hub → Hub) : (s.modHub f).replicas = s.replicas := rfl
@[simp] theorem State.modHub_owns (s : State) (f : Hub → Hub) : (s.modHub f).owns = s.owns := rfl
@[simp] theorem State.modHub_pickers (s : State) (f : Hub → Hub) : (s.modHub f).pickers = s.pickers := rfl
@[simp] theorem State.modHub_hub (s : State) (f : Hub → Hub) : (s.modHub f).hub = f s.hub := rfl
@[simp] theorem State.modHub_tick (s : State) (f : Hub → Hub) : (s.modHub f).tick = s.tick := rfl
@[simp] theorem State.modHub_binds (s : State) (f : Hub → Hub) : (s.modHub f).binds = s.binds := rfl
@[simp] theorem State.modHub_agenda (s : State) (f : Hub → Hub) : (s.modHub f).agenda = s.agenda := rfl
@[simp] theorem State.modHub_issue (s : State) (f : Hub → Hub) : (s.modHub f).issue = s.issue := rfl
@[simp] theorem State.modHub_free (s : State) (f : Hub → Hub) : (s.modHub f).free = s.free := rfl

/-! ### State.modThread -/

@[simp] theorem State.modThread_mem (s : State) (gid t : Nat) (f : Thread → Thread) : (s.modThread gid t f).mem = s.mem := rfl
@[simp] theorem State.modThread_l1 (s : State) (gid t : Nat) (f : Thread → Thread) : (s.modThread gid t f).l1 = s.l1 := rfl
@[simp] theorem State.modThread_l2 (s : State) (gid t : Nat) (f : Thread → Thread) : (s.modThread gid t f).l2 = s.l2 := rfl
@[simp] theorem State.modThread_tlb (s : State) (gid t : Nat) (f : Thread → Thread) : (s.modThread gid t f).tlb = s.tlb := rfl
@[simp] theorem State.modThread_poison (s : State) (gid t : Nat) (f : Thread → Thread) : (s.modThread gid t f).poison = s.poison := rfl
@[simp] theorem State.modThread_ways (s : State) (gid t : Nat) (f : Thread → Thread) : (s.modThread gid t f).ways = s.ways := rfl
@[simp] theorem State.modThread_ctxs (s : State) (gid t : Nat) (f : Thread → Thread) : (s.modThread gid t f).ctxs = s.ctxs := rfl
@[simp] theorem State.modThread_kernels (s : State) (gid t : Nat) (f : Thread → Thread) : (s.modThread gid t f).kernels = s.kernels := rfl
@[simp] theorem State.modThread_blocks (s : State) (gid t : Nat) (f : Thread → Thread) : (s.modThread gid t f).blocks = s.blocks := rfl
@[simp] theorem State.modThread_groups (s : State) (gid t : Nat) (f : Thread → Thread) : (s.modThread gid t f).groups = s.groups.modify gid (·.modThread t f) := rfl
@[simp] theorem State.modThread_streams (s : State) (gid t : Nat) (f : Thread → Thread) : (s.modThread gid t f).streams = s.streams := rfl
@[simp] theorem State.modThread_copies (s : State) (gid t : Nat) (f : Thread → Thread) : (s.modThread gid t f).copies = s.copies := rfl
@[simp] theorem State.modThread_tileOps (s : State) (gid t : Nat) (f : Thread → Thread) : (s.modThread gid t f).tileOps = s.tileOps := rfl
@[simp] theorem State.modThread_dies (s : State) (gid t : Nat) (f : Thread → Thread) : (s.modThread gid t f).dies = s.dies := rfl
@[simp] theorem State.modThread_links (s : State) (gid t : Nat) (f : Thread → Thread) : (s.modThread gid t f).links = s.links := rfl
@[simp] theorem State.modThread_parts (s : State) (gid t : Nat) (f : Thread → Thread) : (s.modThread gid t f).parts = s.parts := rfl
@[simp] theorem State.modThread_clusters (s : State) (gid t : Nat) (f : Thread → Thread) : (s.modThread gid t f).clusters = s.clusters := rfl
@[simp] theorem State.modThread_slices (s : State) (gid t : Nat) (f : Thread → Thread) : (s.modThread gid t f).slices = s.slices := rfl
@[simp] theorem State.modThread_cgs (s : State) (gid t : Nat) (f : Thread → Thread) : (s.modThread gid t f).cgs = s.cgs := rfl
@[simp] theorem State.modThread_gates (s : State) (gid t : Nat) (f : Thread → Thread) : (s.modThread gid t f).gates = s.gates := rfl
@[simp] theorem State.modThread_replicas (s : State) (gid t : Nat) (f : Thread → Thread) : (s.modThread gid t f).replicas = s.replicas := rfl
@[simp] theorem State.modThread_owns (s : State) (gid t : Nat) (f : Thread → Thread) : (s.modThread gid t f).owns = s.owns := rfl
@[simp] theorem State.modThread_pickers (s : State) (gid t : Nat) (f : Thread → Thread) : (s.modThread gid t f).pickers = s.pickers := rfl
@[simp] theorem State.modThread_hub (s : State) (gid t : Nat) (f : Thread → Thread) : (s.modThread gid t f).hub = s.hub := rfl
@[simp] theorem State.modThread_tick (s : State) (gid t : Nat) (f : Thread → Thread) : (s.modThread gid t f).tick = s.tick := rfl
@[simp] theorem State.modThread_binds (s : State) (gid t : Nat) (f : Thread → Thread) : (s.modThread gid t f).binds = s.binds := rfl
@[simp] theorem State.modThread_agenda (s : State) (gid t : Nat) (f : Thread → Thread) : (s.modThread gid t f).agenda = s.agenda := rfl
@[simp] theorem State.modThread_issue (s : State) (gid t : Nat) (f : Thread → Thread) : (s.modThread gid t f).issue = s.issue := rfl
@[simp] theorem State.modThread_free (s : State) (gid t : Nat) (f : Thread → Thread) : (s.modThread gid t f).free = s.free := rfl

/-! ### State.nextStamp -/

@[simp] theorem State.nextStamp_mem (s : State) : (s.nextStamp).mem = s.mem := rfl
@[simp] theorem State.nextStamp_l1 (s : State) : (s.nextStamp).l1 = s.l1 := rfl
@[simp] theorem State.nextStamp_l2 (s : State) : (s.nextStamp).l2 = s.l2 := rfl
@[simp] theorem State.nextStamp_tlb (s : State) : (s.nextStamp).tlb = s.tlb := rfl
@[simp] theorem State.nextStamp_poison (s : State) : (s.nextStamp).poison = s.poison := rfl
@[simp] theorem State.nextStamp_ways (s : State) : (s.nextStamp).ways = s.ways := rfl
@[simp] theorem State.nextStamp_ctxs (s : State) : (s.nextStamp).ctxs = s.ctxs := rfl
@[simp] theorem State.nextStamp_kernels (s : State) : (s.nextStamp).kernels = s.kernels := rfl
@[simp] theorem State.nextStamp_blocks (s : State) : (s.nextStamp).blocks = s.blocks := rfl
@[simp] theorem State.nextStamp_groups (s : State) : (s.nextStamp).groups = s.groups := rfl
@[simp] theorem State.nextStamp_streams (s : State) : (s.nextStamp).streams = s.streams := rfl
@[simp] theorem State.nextStamp_copies (s : State) : (s.nextStamp).copies = s.copies := rfl
@[simp] theorem State.nextStamp_tileOps (s : State) : (s.nextStamp).tileOps = s.tileOps := rfl
@[simp] theorem State.nextStamp_dies (s : State) : (s.nextStamp).dies = s.dies := rfl
@[simp] theorem State.nextStamp_links (s : State) : (s.nextStamp).links = s.links := rfl
@[simp] theorem State.nextStamp_parts (s : State) : (s.nextStamp).parts = s.parts := rfl
@[simp] theorem State.nextStamp_clusters (s : State) : (s.nextStamp).clusters = s.clusters := rfl
@[simp] theorem State.nextStamp_slices (s : State) : (s.nextStamp).slices = s.slices := rfl
@[simp] theorem State.nextStamp_cgs (s : State) : (s.nextStamp).cgs = s.cgs := rfl
@[simp] theorem State.nextStamp_gates (s : State) : (s.nextStamp).gates = s.gates := rfl
@[simp] theorem State.nextStamp_replicas (s : State) : (s.nextStamp).replicas = s.replicas := rfl
@[simp] theorem State.nextStamp_owns (s : State) : (s.nextStamp).owns = s.owns := rfl
@[simp] theorem State.nextStamp_pickers (s : State) : (s.nextStamp).pickers = s.pickers := rfl
@[simp] theorem State.nextStamp_hub (s : State) : (s.nextStamp).hub = { s.hub with stamp := s.hub.stamp + 1 } := rfl
@[simp] theorem State.nextStamp_tick (s : State) : (s.nextStamp).tick = s.tick := rfl
@[simp] theorem State.nextStamp_binds (s : State) : (s.nextStamp).binds = s.binds := rfl
@[simp] theorem State.nextStamp_agenda (s : State) : (s.nextStamp).agenda = s.agenda := rfl
@[simp] theorem State.nextStamp_issue (s : State) : (s.nextStamp).issue = s.issue := rfl
@[simp] theorem State.nextStamp_free (s : State) : (s.nextStamp).free = s.free := rfl

/-! ### State.drawFree -/

@[simp] theorem State.drawFree_mem (s : State) : (s.drawFree).mem = s.mem := rfl
@[simp] theorem State.drawFree_l1 (s : State) : (s.drawFree).l1 = s.l1 := rfl
@[simp] theorem State.drawFree_l2 (s : State) : (s.drawFree).l2 = s.l2 := rfl
@[simp] theorem State.drawFree_tlb (s : State) : (s.drawFree).tlb = s.tlb := rfl
@[simp] theorem State.drawFree_poison (s : State) : (s.drawFree).poison = s.poison := rfl
@[simp] theorem State.drawFree_ways (s : State) : (s.drawFree).ways = s.ways := rfl
@[simp] theorem State.drawFree_ctxs (s : State) : (s.drawFree).ctxs = s.ctxs := rfl
@[simp] theorem State.drawFree_kernels (s : State) : (s.drawFree).kernels = s.kernels := rfl
@[simp] theorem State.drawFree_blocks (s : State) : (s.drawFree).blocks = s.blocks := rfl
@[simp] theorem State.drawFree_groups (s : State) : (s.drawFree).groups = s.groups := rfl
@[simp] theorem State.drawFree_streams (s : State) : (s.drawFree).streams = s.streams := rfl
@[simp] theorem State.drawFree_copies (s : State) : (s.drawFree).copies = s.copies := rfl
@[simp] theorem State.drawFree_tileOps (s : State) : (s.drawFree).tileOps = s.tileOps := rfl
@[simp] theorem State.drawFree_dies (s : State) : (s.drawFree).dies = s.dies := rfl
@[simp] theorem State.drawFree_links (s : State) : (s.drawFree).links = s.links := rfl
@[simp] theorem State.drawFree_parts (s : State) : (s.drawFree).parts = s.parts := rfl
@[simp] theorem State.drawFree_clusters (s : State) : (s.drawFree).clusters = s.clusters := rfl
@[simp] theorem State.drawFree_slices (s : State) : (s.drawFree).slices = s.slices := rfl
@[simp] theorem State.drawFree_cgs (s : State) : (s.drawFree).cgs = s.cgs := rfl
@[simp] theorem State.drawFree_gates (s : State) : (s.drawFree).gates = s.gates := rfl
@[simp] theorem State.drawFree_replicas (s : State) : (s.drawFree).replicas = s.replicas := rfl
@[simp] theorem State.drawFree_owns (s : State) : (s.drawFree).owns = s.owns := rfl
@[simp] theorem State.drawFree_pickers (s : State) : (s.drawFree).pickers = s.pickers := rfl
@[simp] theorem State.drawFree_hub (s : State) : (s.drawFree).hub = s.hub := rfl
@[simp] theorem State.drawFree_tick (s : State) : (s.drawFree).tick = s.tick := rfl
@[simp] theorem State.drawFree_binds (s : State) : (s.drawFree).binds = s.binds := rfl
@[simp] theorem State.drawFree_agenda (s : State) : (s.drawFree).agenda = s.agenda := rfl
@[simp] theorem State.drawFree_issue (s : State) : (s.drawFree).issue = s.issue := rfl
@[simp] theorem State.drawFree_free (s : State) : (s.drawFree).free = s.free + 1 := rfl

/-! ### State.modCtx -/

@[simp] theorem State.modCtx_mem (s : State) (c : Nat) (f : Ctx → Ctx) : (s.modCtx c f).mem = s.mem := rfl
@[simp] theorem State.modCtx_l1 (s : State) (c : Nat) (f : Ctx → Ctx) : (s.modCtx c f).l1 = s.l1 := rfl
@[simp] theorem State.modCtx_l2 (s : State) (c : Nat) (f : Ctx → Ctx) : (s.modCtx c f).l2 = s.l2 := rfl
@[simp] theorem State.modCtx_tlb (s : State) (c : Nat) (f : Ctx → Ctx) : (s.modCtx c f).tlb = s.tlb := rfl
@[simp] theorem State.modCtx_poison (s : State) (c : Nat) (f : Ctx → Ctx) : (s.modCtx c f).poison = s.poison := rfl
@[simp] theorem State.modCtx_ways (s : State) (c : Nat) (f : Ctx → Ctx) : (s.modCtx c f).ways = s.ways := rfl
@[simp] theorem State.modCtx_kernels (s : State) (c : Nat) (f : Ctx → Ctx) : (s.modCtx c f).kernels = s.kernels := rfl
@[simp] theorem State.modCtx_blocks (s : State) (c : Nat) (f : Ctx → Ctx) : (s.modCtx c f).blocks = s.blocks := rfl
@[simp] theorem State.modCtx_groups (s : State) (c : Nat) (f : Ctx → Ctx) : (s.modCtx c f).groups = s.groups := rfl
@[simp] theorem State.modCtx_streams (s : State) (c : Nat) (f : Ctx → Ctx) : (s.modCtx c f).streams = s.streams := rfl
@[simp] theorem State.modCtx_copies (s : State) (c : Nat) (f : Ctx → Ctx) : (s.modCtx c f).copies = s.copies := rfl
@[simp] theorem State.modCtx_tileOps (s : State) (c : Nat) (f : Ctx → Ctx) : (s.modCtx c f).tileOps = s.tileOps := rfl
@[simp] theorem State.modCtx_dies (s : State) (c : Nat) (f : Ctx → Ctx) : (s.modCtx c f).dies = s.dies := rfl
@[simp] theorem State.modCtx_links (s : State) (c : Nat) (f : Ctx → Ctx) : (s.modCtx c f).links = s.links := rfl
@[simp] theorem State.modCtx_parts (s : State) (c : Nat) (f : Ctx → Ctx) : (s.modCtx c f).parts = s.parts := rfl
@[simp] theorem State.modCtx_clusters (s : State) (c : Nat) (f : Ctx → Ctx) : (s.modCtx c f).clusters = s.clusters := rfl
@[simp] theorem State.modCtx_slices (s : State) (c : Nat) (f : Ctx → Ctx) : (s.modCtx c f).slices = s.slices := rfl
@[simp] theorem State.modCtx_cgs (s : State) (c : Nat) (f : Ctx → Ctx) : (s.modCtx c f).cgs = s.cgs := rfl
@[simp] theorem State.modCtx_gates (s : State) (c : Nat) (f : Ctx → Ctx) : (s.modCtx c f).gates = s.gates := rfl
@[simp] theorem State.modCtx_replicas (s : State) (c : Nat) (f : Ctx → Ctx) : (s.modCtx c f).replicas = s.replicas := rfl
@[simp] theorem State.modCtx_owns (s : State) (c : Nat) (f : Ctx → Ctx) : (s.modCtx c f).owns = s.owns := rfl
@[simp] theorem State.modCtx_pickers (s : State) (c : Nat) (f : Ctx → Ctx) : (s.modCtx c f).pickers = s.pickers := rfl
@[simp] theorem State.modCtx_hub (s : State) (c : Nat) (f : Ctx → Ctx) : (s.modCtx c f).hub = s.hub := rfl
@[simp] theorem State.modCtx_tick (s : State) (c : Nat) (f : Ctx → Ctx) : (s.modCtx c f).tick = s.tick := rfl
@[simp] theorem State.modCtx_binds (s : State) (c : Nat) (f : Ctx → Ctx) : (s.modCtx c f).binds = s.binds := rfl
@[simp] theorem State.modCtx_agenda (s : State) (c : Nat) (f : Ctx → Ctx) : (s.modCtx c f).agenda = s.agenda := rfl
@[simp] theorem State.modCtx_issue (s : State) (c : Nat) (f : Ctx → Ctx) : (s.modCtx c f).issue = s.issue := rfl
@[simp] theorem State.modCtx_free (s : State) (c : Nat) (f : Ctx → Ctx) : (s.modCtx c f).free = s.free := rfl

/-! ### State.modGate -/

@[simp] theorem State.modGate_mem (s : State) (g : Nat) (f : Gate → Gate) : (s.modGate g f).mem = s.mem := rfl
@[simp] theorem State.modGate_l1 (s : State) (g : Nat) (f : Gate → Gate) : (s.modGate g f).l1 = s.l1 := rfl
@[simp] theorem State.modGate_l2 (s : State) (g : Nat) (f : Gate → Gate) : (s.modGate g f).l2 = s.l2 := rfl
@[simp] theorem State.modGate_tlb (s : State) (g : Nat) (f : Gate → Gate) : (s.modGate g f).tlb = s.tlb := rfl
@[simp] theorem State.modGate_poison (s : State) (g : Nat) (f : Gate → Gate) : (s.modGate g f).poison = s.poison := rfl
@[simp] theorem State.modGate_ways (s : State) (g : Nat) (f : Gate → Gate) : (s.modGate g f).ways = s.ways := rfl
@[simp] theorem State.modGate_ctxs (s : State) (g : Nat) (f : Gate → Gate) : (s.modGate g f).ctxs = s.ctxs := rfl
@[simp] theorem State.modGate_kernels (s : State) (g : Nat) (f : Gate → Gate) : (s.modGate g f).kernels = s.kernels := rfl
@[simp] theorem State.modGate_blocks (s : State) (g : Nat) (f : Gate → Gate) : (s.modGate g f).blocks = s.blocks := rfl
@[simp] theorem State.modGate_groups (s : State) (g : Nat) (f : Gate → Gate) : (s.modGate g f).groups = s.groups := rfl
@[simp] theorem State.modGate_streams (s : State) (g : Nat) (f : Gate → Gate) : (s.modGate g f).streams = s.streams := rfl
@[simp] theorem State.modGate_copies (s : State) (g : Nat) (f : Gate → Gate) : (s.modGate g f).copies = s.copies := rfl
@[simp] theorem State.modGate_tileOps (s : State) (g : Nat) (f : Gate → Gate) : (s.modGate g f).tileOps = s.tileOps := rfl
@[simp] theorem State.modGate_dies (s : State) (g : Nat) (f : Gate → Gate) : (s.modGate g f).dies = s.dies := rfl
@[simp] theorem State.modGate_links (s : State) (g : Nat) (f : Gate → Gate) : (s.modGate g f).links = s.links := rfl
@[simp] theorem State.modGate_parts (s : State) (g : Nat) (f : Gate → Gate) : (s.modGate g f).parts = s.parts := rfl
@[simp] theorem State.modGate_clusters (s : State) (g : Nat) (f : Gate → Gate) : (s.modGate g f).clusters = s.clusters := rfl
@[simp] theorem State.modGate_slices (s : State) (g : Nat) (f : Gate → Gate) : (s.modGate g f).slices = s.slices := rfl
@[simp] theorem State.modGate_cgs (s : State) (g : Nat) (f : Gate → Gate) : (s.modGate g f).cgs = s.cgs := rfl
@[simp] theorem State.modGate_replicas (s : State) (g : Nat) (f : Gate → Gate) : (s.modGate g f).replicas = s.replicas := rfl
@[simp] theorem State.modGate_owns (s : State) (g : Nat) (f : Gate → Gate) : (s.modGate g f).owns = s.owns := rfl
@[simp] theorem State.modGate_pickers (s : State) (g : Nat) (f : Gate → Gate) : (s.modGate g f).pickers = s.pickers := rfl
@[simp] theorem State.modGate_hub (s : State) (g : Nat) (f : Gate → Gate) : (s.modGate g f).hub = s.hub := rfl
@[simp] theorem State.modGate_tick (s : State) (g : Nat) (f : Gate → Gate) : (s.modGate g f).tick = s.tick := rfl
@[simp] theorem State.modGate_binds (s : State) (g : Nat) (f : Gate → Gate) : (s.modGate g f).binds = s.binds := rfl
@[simp] theorem State.modGate_agenda (s : State) (g : Nat) (f : Gate → Gate) : (s.modGate g f).agenda = s.agenda := rfl
@[simp] theorem State.modGate_issue (s : State) (g : Nat) (f : Gate → Gate) : (s.modGate g f).issue = s.issue := rfl
@[simp] theorem State.modGate_free (s : State) (g : Nat) (f : Gate → Gate) : (s.modGate g f).free = s.free := rfl

/-! ### State.onLanes -/

@[simp] theorem State.onLanes_mem (s : State) (f : Nat → Nat → Group → Thread → Thread) : (s.onLanes f).mem = s.mem := rfl
@[simp] theorem State.onLanes_l1 (s : State) (f : Nat → Nat → Group → Thread → Thread) : (s.onLanes f).l1 = s.l1 := rfl
@[simp] theorem State.onLanes_l2 (s : State) (f : Nat → Nat → Group → Thread → Thread) : (s.onLanes f).l2 = s.l2 := rfl
@[simp] theorem State.onLanes_tlb (s : State) (f : Nat → Nat → Group → Thread → Thread) : (s.onLanes f).tlb = s.tlb := rfl
@[simp] theorem State.onLanes_poison (s : State) (f : Nat → Nat → Group → Thread → Thread) : (s.onLanes f).poison = s.poison := rfl
@[simp] theorem State.onLanes_ways (s : State) (f : Nat → Nat → Group → Thread → Thread) : (s.onLanes f).ways = s.ways := rfl
@[simp] theorem State.onLanes_ctxs (s : State) (f : Nat → Nat → Group → Thread → Thread) : (s.onLanes f).ctxs = s.ctxs := rfl
@[simp] theorem State.onLanes_kernels (s : State) (f : Nat → Nat → Group → Thread → Thread) : (s.onLanes f).kernels = s.kernels := rfl
@[simp] theorem State.onLanes_blocks (s : State) (f : Nat → Nat → Group → Thread → Thread) : (s.onLanes f).blocks = s.blocks := rfl
@[simp] theorem State.onLanes_streams (s : State) (f : Nat → Nat → Group → Thread → Thread) : (s.onLanes f).streams = s.streams := rfl
@[simp] theorem State.onLanes_copies (s : State) (f : Nat → Nat → Group → Thread → Thread) : (s.onLanes f).copies = s.copies := rfl
@[simp] theorem State.onLanes_tileOps (s : State) (f : Nat → Nat → Group → Thread → Thread) : (s.onLanes f).tileOps = s.tileOps := rfl
@[simp] theorem State.onLanes_dies (s : State) (f : Nat → Nat → Group → Thread → Thread) : (s.onLanes f).dies = s.dies := rfl
@[simp] theorem State.onLanes_links (s : State) (f : Nat → Nat → Group → Thread → Thread) : (s.onLanes f).links = s.links := rfl
@[simp] theorem State.onLanes_parts (s : State) (f : Nat → Nat → Group → Thread → Thread) : (s.onLanes f).parts = s.parts := rfl
@[simp] theorem State.onLanes_clusters (s : State) (f : Nat → Nat → Group → Thread → Thread) : (s.onLanes f).clusters = s.clusters := rfl
@[simp] theorem State.onLanes_slices (s : State) (f : Nat → Nat → Group → Thread → Thread) : (s.onLanes f).slices = s.slices := rfl
@[simp] theorem State.onLanes_cgs (s : State) (f : Nat → Nat → Group → Thread → Thread) : (s.onLanes f).cgs = s.cgs := rfl
@[simp] theorem State.onLanes_gates (s : State) (f : Nat → Nat → Group → Thread → Thread) : (s.onLanes f).gates = s.gates := rfl
@[simp] theorem State.onLanes_replicas (s : State) (f : Nat → Nat → Group → Thread → Thread) : (s.onLanes f).replicas = s.replicas := rfl
@[simp] theorem State.onLanes_owns (s : State) (f : Nat → Nat → Group → Thread → Thread) : (s.onLanes f).owns = s.owns := rfl
@[simp] theorem State.onLanes_pickers (s : State) (f : Nat → Nat → Group → Thread → Thread) : (s.onLanes f).pickers = s.pickers := rfl
@[simp] theorem State.onLanes_hub (s : State) (f : Nat → Nat → Group → Thread → Thread) : (s.onLanes f).hub = s.hub := rfl
@[simp] theorem State.onLanes_tick (s : State) (f : Nat → Nat → Group → Thread → Thread) : (s.onLanes f).tick = s.tick := rfl
@[simp] theorem State.onLanes_binds (s : State) (f : Nat → Nat → Group → Thread → Thread) : (s.onLanes f).binds = s.binds := rfl
@[simp] theorem State.onLanes_agenda (s : State) (f : Nat → Nat → Group → Thread → Thread) : (s.onLanes f).agenda = s.agenda := rfl
@[simp] theorem State.onLanes_issue (s : State) (f : Nat → Nat → Group → Thread → Thread) : (s.onLanes f).issue = s.issue := rfl
@[simp] theorem State.onLanes_free (s : State) (f : Nat → Nat → Group → Thread → Thread) : (s.onLanes f).free = s.free := rfl

/-! ### Threads -/

@[simp] theorem Thread.putV_p (t : Thread) (d : Nat) (x : Word) : (t.putV d x).p = t.p := rfl
@[simp] theorem Thread.putV_pc (t : Thread) (d : Nat) (x : Word) : (t.putV d x).pc = t.pc := rfl
@[simp] theorem Thread.putV_csp (t : Thread) (d : Nat) (x : Word) : (t.putV d x).csp = t.csp := rfl
@[simp] theorem Thread.putV_prog (t : Thread) (d : Nat) (x : Word) : (t.putV d x).prog = t.prog := rfl
@[simp] theorem Thread.putV_going (t : Thread) (d : Nat) (x : Word) : (t.putV d x).going = t.going := rfl
@[simp] theorem Thread.putV_hcsp (t : Thread) (d : Nat) (x : Word) : (t.putV d x).hcsp = t.hcsp := rfl
@[simp] theorem Thread.putV_launched (t : Thread) (d : Nat) (x : Word) : (t.putV d x).launched = t.launched := rfl
@[simp] theorem Thread.putV_live (t : Thread) (d : Nat) (x : Word) : (t.putV d x).live = t.live := rfl
@[simp] theorem Thread.putV_monitor (t : Thread) (d : Nat) (x : Word) : (t.putV d x).monitor = t.monitor := rfl
@[simp] theorem Thread.putV_wait (t : Thread) (d : Nat) (x : Word) : (t.putV d x).wait = t.wait := rfl
@[simp] theorem Thread.putV_coll (t : Thread) (d : Nat) (x : Word) : (t.putV d x).coll = t.coll := rfl
@[simp] theorem Thread.putV_trap (t : Thread) (d : Nat) (x : Word) : (t.putV d x).trap = t.trap := rfl
@[simp] theorem Thread.putV_standing (t : Thread) (d : Nat) (x : Word) : (t.putV d x).standing = t.standing := rfl
@[simp] theorem Thread.putV_tinsn (t : Thread) (d : Nat) (x : Word) : (t.putV d x).tinsn = t.tinsn := rfl
@[simp] theorem Thread.putV_tpack (t : Thread) (d : Nat) (x : Word) : (t.putV d x).tpack = t.tpack := rfl
@[simp] theorem Thread.putV_ready (t : Thread) (d : Nat) (x : Word) : (t.putV d x).ready = t.ready := rfl
@[simp] theorem Thread.putV_v (t : Thread) (d : Nat) (x : Word) : (t.putV d x).v = t.v.set d x := rfl
@[simp] theorem Thread.goto_v (t : Thread) (x : Word) : (t.goto x).v = t.v := rfl
@[simp] theorem Thread.goto_p (t : Thread) (x : Word) : (t.goto x).p = t.p := rfl
@[simp] theorem Thread.goto_csp (t : Thread) (x : Word) : (t.goto x).csp = t.csp := rfl
@[simp] theorem Thread.goto_going (t : Thread) (x : Word) : (t.goto x).going = t.going := rfl
@[simp] theorem Thread.goto_hcsp (t : Thread) (x : Word) : (t.goto x).hcsp = t.hcsp := rfl
@[simp] theorem Thread.goto_launched (t : Thread) (x : Word) : (t.goto x).launched = t.launched := rfl
@[simp] theorem Thread.goto_live (t : Thread) (x : Word) : (t.goto x).live = t.live := rfl
@[simp] theorem Thread.goto_monitor (t : Thread) (x : Word) : (t.goto x).monitor = t.monitor := rfl
@[simp] theorem Thread.goto_wait (t : Thread) (x : Word) : (t.goto x).wait = t.wait := rfl
@[simp] theorem Thread.goto_coll (t : Thread) (x : Word) : (t.goto x).coll = t.coll := rfl
@[simp] theorem Thread.goto_pend (t : Thread) (x : Word) : (t.goto x).pend = t.pend := rfl
@[simp] theorem Thread.goto_trap (t : Thread) (x : Word) : (t.goto x).trap = t.trap := rfl
@[simp] theorem Thread.goto_standing (t : Thread) (x : Word) : (t.goto x).standing = t.standing := rfl
@[simp] theorem Thread.goto_tpack (t : Thread) (x : Word) : (t.goto x).tpack = t.tpack := rfl
@[simp] theorem Thread.goto_ready (t : Thread) (x : Word) : (t.goto x).ready = t.ready := rfl
@[simp] theorem Thread.goto_pc (t : Thread) (x : Word) : (t.goto x).pc = x := rfl
@[simp] theorem Thread.goto_prog (t : Thread) (x : Word) : (t.goto x).prog = 0 := rfl
@[simp] theorem UFile.putS_q (u : UFile) (d : Nat) (x : Word) : (u.putS d x).q = u.q := rfl
@[simp] theorem UFile.putS_g (u : UFile) (d : Nat) (x : Word) : (u.putS d x).g = u.g := rfl
@[simp] theorem UFile.putS_gdflag (u : UFile) (d : Nat) (x : Word) : (u.putS d x).gdflag = u.gdflag := rfl
@[simp] theorem UFile.putS_s (u : UFile) (d : Nat) (x : Word) : (u.putS d x).s = u.s.set d x := rfl

end Sys2Proof.Machine
end

