-- ==== Sys2Proof/Laws/Access.lean ====
section
/-! SUPPORT. What every memory access leaves alone, said once: the caches, memory and what counts accesses may change, and of
threads only the marks of monitors; memory keeps its canonical form. -/

namespace Sys2Proof.Machine

/-- A group with the monitors of its threads out of sight. -/
def Group.noMon (g : Group) : Group := { g with threads := g.threads.map fun t => { t with monitor := none } }

/-- A die with its access counters out of sight (R364). -/
def Die.noCount (d : Die) : Die := { d with regions := [], reqs := [], ovf := false }

/-- t with all that an access may change as it is in s. -/
def State.withAccess (t s : State) : State :=
  { t with mem := s.mem, l1 := s.l1, l2 := s.l2, tlb := s.tlb, poison := s.poison, binds := s.binds, owns := s.owns, ctxs := s.ctxs, groups := s.groups, dies := s.dies, hub := s.hub, free := s.free }

/-- From s to t only memory, the caches, poison, what is known of bound pages, the ownership of shared pages, performance and access
counters, monitors, reported errors, page requests to the host, stamps and the number of free values drawn may have changed. -/
structure Touches (s t : State) : Prop where
  rest : t.withAccess s = s
  mem : s.mem.wf = true → t.mem.wf = true
  ctx : ∀ c, { t.ctx c with perf := (s.ctx c).perf } = s.ctx c
  groups : t.groups.map Group.noMon = s.groups.map Group.noMon
  dies : t.dies.map Die.noCount = s.dies.map Die.noCount
  hub : { t.hub with stamp := s.hub.stamp, errors := s.hub.errors, pageReqs := s.hub.pageReqs } = s.hub

namespace Touches

variable {s t u : State}

theorem refl (s : State) : Touches s s := ⟨rfl, id, fun _ => rfl, rfl, rfl, rfl⟩

theorem trans (h : Touches s t) (k : Touches t u) : Touches s u where
  rest := by
    have e := congrArg (fun x : State => x.withAccess s) k.rest
    exact e.trans h.rest
  mem := k.mem ∘ h.mem
  ctx c := by
    have e := congrArg (fun x : Ctx => { x with perf := (s.ctx c).perf }) (k.ctx c)
    exact e.trans (h.ctx c)
  groups := k.groups.trans h.groups
  dies := k.dies.trans h.dies
  hub := by
    have e := congrArg (fun x : Hub => { x with stamp := s.hub.stamp, errors := s.hub.errors, pageReqs := s.hub.pageReqs }) k.hub
    exact e.trans h.hub

/-- A change of the caches alone. -/
theorem caches (s : State) (m : Memory) (l1 : List (Nat × L1Line)) (l2 : List (Nat × L2Line)) (tlb : List TlbEntry) (p : List Nat)
    (o : List (Nat × PageOwn)) (n : Nat) (hm : s.mem.wf = true → m.wf = true) :
    Touches s { s with mem := m, l1 := l1, l2 := l2, tlb := tlb, poison := p, owns := o, free := n } :=
  ⟨rfl, hm, fun _ => rfl, rfl, rfl, rfl⟩

theorem bindPage (s : State) (b : Binding) : Touches s (s.bindPage b) := by
  unfold State.bindPage
  split
  · exact refl s
  · exact ⟨rfl, id, fun _ => rfl, rfl, rfl, rfl⟩

/-- A fold of steps that touch only what an access may. -/
theorem foldl {α : Type} (l : List α) (f : State → α → State) (hf : ∀ (s : State) (x : α), Touches s (f s x)) (s : State) :
    Touches s (l.foldl f s) := by
  induction l generalizing s with
  | nil => exact refl s
  | cons x r ih => exact (hf s x).trans (ih _)

theorem ite {p : Prop} [Decidable p] {s t u : State} (h : Touches s t) (k : Touches s u) : Touches s (if p then t else u) := by
  split
  · exact h
  · exact k

theorem bump (s : State) (c i n : Nat) : Touches s (s.bump c i n) := by
  refine ite (refl s) ⟨rfl, id, fun d => ?_, rfl, rfl, rfl⟩
  rw [State.ctx_modCtx]
  split
  · subst d; rfl
  · rfl

theorem countLink (s : State) (c pa n : Nat) : Touches s (s.countLink c pa n) := by
  unfold State.countLink
  extract_lets t
  have h : Touches s t := bump s _ _ _
  split
  · exact h.trans (bump t _ _ _)
  · exact h

theorem nextStamp (s : State) : Touches s s.nextStamp := ⟨rfl, id, fun _ => rfl, rfl, rfl, rfl⟩

theorem report (s : State) (e : ErrorReport) : Touches s (s.report e) := ⟨rfl, id, fun _ => rfl, rfl, rfl, rfl⟩

theorem putLine (s : State) (d l : Nat) (x : L2Line) : Touches s (s.putLine d l x) :=
  caches s s.mem s.l1 _ s.tlb s.poison s.owns s.free id

theorem dropLine (s : State) (d l : Nat) : Touches s (s.dropLine d l) :=
  caches s s.mem s.l1 _ s.tlb s.poison s.owns s.free id

theorem unown (s : State) (d l : Nat) (k : Option Nat) (lo hi : Nat) : Touches s (s.unown d l k lo hi) :=
  caches s s.mem _ s.l2 s.tlb s.poison s.owns s.free id

/-- A change of the groups that only their monitors show. -/
theorem monitors (s : State) (f : Group → Group) (hf : ∀ g, (f g).noMon = g.noMon) :
    Touches s { s with groups := s.groups.map f } :=
  ⟨rfl, id, fun _ => rfl, by simp [List.map_map, Function.comp_def, hf], rfl, rfl⟩

theorem noMon_map (g : Group) (f : Thread → Thread) (hf : ∀ t : Thread, { f t with monitor := none } = { t with monitor := none }) :
    ({ g with threads := g.threads.map f } : Group).noMon = g.noMon := by
  simp only [Group.noMon, List.map_map, Function.comp_def, hf]

theorem loseMonitors (s : State) (gone : Nat → Nat → Bool) : Touches s (s.loseMonitors gone) := by
  refine monitors s _ fun g => noMon_map g _ fun t => ?_
  cases h : t.monitor with
  | none => rfl
  | some m => dsimp only; split <;> simp

theorem filterL1 (s : State) (keep : Nat → Nat → Nat → L1Byte → Bool) : Touches s (s.filterL1 keep) := by
  unfold State.filterL1
  extract_lets rest l1
  exact (caches s s.mem l1 s.l2 s.tlb s.poison s.owns s.free id).trans (loseMonitors _ _)

theorem dropL1 (s : State) (d l : Nat) : Touches s (s.dropL1 d l) := filterL1 s _

theorem dropUnits (s : State) (d l : Nat) : Touches s (s.dropUnits d l) := filterL1 s _

theorem dropWord (s : State) (c p n : Nat) : Touches s (s.dropWord c p n) := filterL1 s _

theorem l1Alloc (s : State) (a : Acc) (c l : Nat) (k : Bool) : Touches s (s.l1Alloc a c l k) := by
  unfold State.l1Alloc
  split
  · exact refl s
  · extract_lets ls t
    have h : Touches s t := by
      simp only [t]
      split
      · exact refl s
      · split
        · exact filterL1 s _
        · exact refl s
    exact (h.trans (caches t t.mem _ t.l2 t.tlb t.poison t.owns t.free id)).trans (nextStamp _)

theorem touchL1 (s : State) (c l h : Nat) : Touches s (s.touchL1 c l h) := by
  unfold State.touchL1
  split
  · exact refl s
  · exact ite ((caches s s.mem _ s.l2 s.tlb s.poison s.owns s.free id).trans (nextStamp _)) (refl s)

theorem setL1 (s : State) (c l : Nat) (f : List (Nat × L1Byte) → List (Nat × L1Byte)) : Touches s (s.setL1 c l f) := by
  unfold State.setL1
  split
  · exact refl s
  · exact caches s s.mem _ s.l2 s.tlb s.poison s.owns s.free id

theorem tagL1 (s : State) (c l x : Nat) : Touches s (s.tagL1 c l x) := by
  unfold State.tagL1
  split
  · exact refl s
  · exact caches s s.mem _ s.l2 s.tlb s.poison s.owns s.free id

theorem markWritten (s : State) (l : Nat) : Touches s (s.markWritten l) := by
  refine monitors s _ fun g => noMon_map g _ fun t => ?_
  cases h : t.monitor with
  | none => rfl
  | some m => by_cases e : m.line = l <;> simp [e]

theorem toMemory (s : State) (l : Nat) (x : L2Line) : Touches s (s.toMemory l x) := by
  unfold State.toMemory
  extract_lets d t
  split
  · exact refl s
  · have h : Touches s t := caches s _ s.l1 s.l2 s.tlb s.poison s.owns s.free fun hm =>
      Memory.wf_foldl d (fun c => l * 128 + c.1) (fun c => c.2.val) hm
    split
    · exact h.trans (bump t _ _ _)
    · exact h

theorem rimAlloc (s : State) (r l : Nat) (a : Acc) : Touches s (s.rimAlloc r l a) := by
  unfold State.rimAlloc
  split
  · exact refl s
  · extract_lets m
    split
    · exact refl s
    · extract_lets t
      have h : Touches s t := by
        simp only [t]
        split
        · exact (toMemory s _ _).trans (dropLine _ _ _)
        · exact refl s
      exact (h.trans (caches t t.mem t.l1 _ t.tlb t.poison t.owns t.free id)).trans (nextStamp _)

theorem touch (s : State) (d l h : Nat) : Touches s (s.touch d l h) := by
  unfold State.touch
  split
  · exact refl s
  · split
    · exact (putLine s _ _ _).trans (nextStamp _)
    · exact (putLine s _ _ _).trans (nextStamp _)
    · exact refl s

theorem rimFill (s : State) (a : Acc) (pa h : Nat) : Touches s (s.rimFill a pa h) := by
  unfold State.rimFill
  split
  · exact refl s
  · rename_i r _
    extract_lets t sec miss u v w
    have h1 : Touches s t := touch s _ _ _
    split
    · exact h1
    · have h2 : Touches t u := bump t _ _ _
      have h3 : Touches u v := ite (bump u _ _ _) (refl u)
      have h4 := (h1.trans h2).trans h3
      split
      · exact h4
      · have h5 : Touches v w := rimAlloc v _ _ _
        split
        · exact h4.trans h5
        · exact (h4.trans h5).trans (putLine w _ _ _)

theorem rimTouch (s : State) (a : Acc) (pa h : Nat) : Touches s (s.rimTouch a pa h) :=
  (ite (bump s _ _ _) (refl s) : Touches s (if _ then _ else _)).trans (rimFill _ _ _ _)

theorem homePut (s : State) (a : Acc) (l : Nat) (cs : List (Nat × Byte)) (h : Nat) : Touches s (s.homePut a l cs h) := by
  unfold State.homePut
  extract_lets pa inMem
  have hm (u : State) : Touches u (inMem u) := caches u _ u.l1 u.l2 u.tlb u.poison u.owns u.free fun hm =>
    Memory.wf_foldl cs (fun c => pa + c.1) (fun c => c.2) hm
  split
  · exact refl s
  split
  · exact report s _
  · split
    · exact hm s
    · extract_lets t u
      have h1 : Touches s t := touch s _ _ _
      have h2 : Touches t u := ite (rimAlloc t _ _ _) (refl t)
      split
      · exact (h1.trans h2).trans (ite ((hm u).trans (bump _ _ _ _)) (hm u))
      · extract_lets v
        have h3 : Touches u v := putLine u _ _ _
        exact ((h1.trans h2).trans h3).trans (ite (refl v) (hm v))

theorem homeWrite (s : State) (a : Acc) (l : Nat) (cs : List (Nat × Byte)) (h : Nat) : Touches s (s.homeWrite a l cs h) := by
  unfold State.homeWrite
  extract_lets n t
  have h1 : Touches s t := countLink s _ _ _
  refine h1.trans (Touches.trans ?_ (homePut _ _ _ _ _))
  split
  · exact refl t
  · exact (bump t _ _ _).trans (bump _ _ _ _)

theorem homeBytes (s : State) (a : Acc) (pa : Nat) (d : List Byte) (h : Nat) : Touches s (s.homeBytes a pa d h) :=
  foldl _ _ (fun s _ => homeWrite s _ _ _ _) s

theorem writeBack (s : State) (d l : Nat) : Touches s (s.writeBack d l) := by
  unfold State.writeBack
  split
  · exact refl s
  · extract_lets a c t u
    have h1 : Touches s t := ite (refl s) (homeWrite s _ _ _ _)
    have h2 : Touches t u := ite (caches t t.mem t.l1 t.l2 t.tlb _ t.owns t.free id) (refl t)
    exact (h1.trans h2).trans (putLine u _ _ _)

theorem cleanLine (s : State) (d l : Nat) : Touches s (s.cleanLine d l) := (writeBack s d l).trans (unown _ _ _ _ _ _)

theorem flushLine (s : State) (d l : Nat) : Touches s (s.flushLine d l) := ite (refl s) ((cleanLine s d l).trans (dropLine _ _ _))

/-- The line that an allocation replaces is written back first. -/
theorem evict (s : State) (d : Nat) (v : Option (Nat × L2Line)) :
    Touches s (match v with | some (k, _) => s.flushLine d (k % 2 ^ 45) | none => s) := by
  cases v with
  | none => exact refl s
  | some x => exact flushLine s d _

theorem l2Alloc (s : State) (a : Acc) (d l : Nat) (c : BitVec 2) (k : Bool) : Touches s (s.l2Alloc a d l c k) := by
  unfold State.l2Alloc
  split
  · exact refl s
  · extract_lets sl
    split
    · exact refl s
    · extract_lets t
      have h : Touches s t := evict s d _
      exact (h.trans (caches t t.mem t.l1 _ t.tlb t.poison t.owns t.free id)).trans (nextStamp _)

theorem cohShare (s : State) (d l : Nat) : Touches s (s.cohShare d l) := by
  refine foldl _ _ (fun s x => ?_) s
  split
  · split
    · extract_lets t
      have h : Touches s t := cleanLine s _ _
      split
      · exact h.trans (putLine t _ _ _)
      · exact h
    · exact refl s
  · exact refl s

theorem cohOwn (s : State) (d l : Nat) : Touches s (s.cohOwn d l) := foldl _ _ (fun s _ => flushLine s _ _) s

theorem rehome (s : State) (a : Acc) (d l : Nat) : Touches s (s.rehome a d l) := by
  unfold State.rehome
  split
  · exact refl s
  · extract_lets sl
    split
    · exact refl s
    · split
      · exact flushLine s _ _
      · extract_lets t
        have h : Touches s t := evict s d _
        exact h.trans (putLine t _ _ _)

theorem retag (s : State) (a : Acc) (d l : Nat) : Touches s (s.retag a d l) := by
  unfold State.retag
  extract_lets t u
  have h1 : Touches s t := rehome s a d l
  split
  · split
    · have h2 : Touches t u := writeBack t _ _
      split
      · exact (h1.trans h2).trans (putLine u _ _ _)
      · exact h1.trans h2
    · exact h1
  · exact h1

theorem countRemote (s : State) (d pa : Nat) : Touches s (s.countRemote d pa) := by
  have hd : ∀ f : Die → Die, (∀ x, (f x).noCount = x.noCount) → Touches s (s.modDie d f) := fun f hf => by
    refine ⟨rfl, id, fun _ => rfl, rfl, ?_, rfl⟩
    show (s.dies.modify d f).map Die.noCount = _
    apply List.ext_getElem?
    intro i
    rw [List.getElem?_map, List.getElem?_map, List.getElem?_modify]
    cases s.dies[i]? with
    | none => rfl
    | some x => by_cases e : d = i <;> simp [e, hf]
  unfold State.countRemote
  extract_lets x r old n hit entry
  split
  · exact refl s
  · have k := hd (fun (y : Die) =>
        let x := y.putRegion entry
        if hit then
          if x.reqs.length < 64 then { x with reqs := x.reqs ++ [{ region := r, count := n, hint := false }] }
          else { x with ovf := true }
        else x) fun y => by dsimp only; split <;> [split; skip] <;> rfl
    clear_value old
    rcases old with _ | ⟨r', n', _ | c'⟩
    · exact k
    · exact k
    · exact refl s

theorem l2Read (s : State) (a : Acc) (c : BitVec 2) (hm pa n h : Nat) : Touches s (s.l2Read a c hm pa n h).1 := by
  unfold State.l2Read
  extract_lets d line s1 s2 s3 s4 s5 sec hv need t1 t2 t3 s6
  have h2 : Touches s s2 := (bump s _ _ _).trans (ite (cohShare s1 _ _) (refl s1))
  have h4 : Touches s s4 := (h2.trans (retag s2 _ _ _)).trans (touch s3 _ _ _)
  have h5 : Touches s s5 := h4.trans (ite (refl s4) (countLink s4 _ _ _))
  refine h5.trans ?_
  show Touches s5 (if _ then _ else _)
  split
  · have k1 : Touches s5 t1 := (bump s5 _ _ _).trans (rimTouch _ _ _ _)
    have k2 : Touches t1 t2 := (countRemote t1 _ _).trans (countLink _ _ _ _)
    have k3 : Touches t2 t3 := ite (refl t2) (l2Alloc t2 _ _ _ _ _)
    have k := (k1.trans k2).trans k3
    split
    · exact k.trans (putLine t3 _ _ _)
    · exact k
  · exact refl s5

theorem l1Fill (s : State) (a : Acc) (c pa h : Nat) (all : Bool) : Touches s (s.l1Fill a c pa h all) := by
  unfold State.l1Fill
  extract_lets t sec served
  have h1 : Touches s t := ite ((l1Alloc s _ _ _ _).trans (touchL1 _ _ _ _)) (refl s)
  exact h1.trans (setL1 _ _ _ _)

theorem loadBytes (s : State) (a : Acc) (c : BitVec 2) (hm pa n h : Nat) (f : Bool) : Touches s (s.loadBytes a c hm pa n h f).1 := by
  unfold State.loadBytes
  split
  · exact l2Read s _ _ _ _ _ _
  · extract_lets hit
    split
    · exact (ite (retag s _ _ _) (refl s) : Touches s (if _ then _ else _)).trans (touchL1 _ _ _ _)
    · have k := l2Read s a c hm pa n h
      rcases e : s.l2Read a c hm pa n h with ⟨t, v⟩
      rw [e] at k
      exact k.trans (l1Fill t _ _ _ _ _)

theorem l2Put (s : State) (a : Acc) (c : BitVec 2) (hm pa h : Nat) (data : List Byte) : Touches s (s.l2Put a c hm pa h data) := by
  unfold State.l2Put
  extract_lets d line s1 s2 s3 s4 t1 s5 w s6
  have h2 : Touches s s1 := ite (cohOwn s _ _) (refl s)
  have h4 : Touches s s3 := (h2.trans (retag s1 _ _ _)).trans (touch s2 _ _ _)
  have h5 : Touches s s4 := h4.trans (ite (refl s3) (countLink s3 _ _ _))
  have h6 : Touches s4 s5 := by
    show Touches s4 (if _ then _ else _)
    split
    · exact refl s4
    · have k1 : Touches s4 t1 := (bump s4 _ _ _).trans (countRemote _ _ _)
      exact k1.trans (ite (refl t1) (l2Alloc t1 _ _ _ _ _))
  have h7 : Touches s5 s6 := by
    simp only [s6]
    split
    · exact ite ((putLine s5 _ _ _).trans (homeWrite _ _ _ _ _)) (putLine s5 _ _ _)
    · exact homeWrite s5 _ _ _ _
  exact ((h5.trans h6).trans h7).trans (markWritten s6 _)

theorem l2Write (s : State) (a : Acc) (c : BitVec 2) (hm pa h : Nat) (data : List Byte) : Touches s (s.l2Write a c hm pa h data) :=
  (bump s _ _ _).trans (l2Put _ _ _ _ _ _ _)

theorem ownWords (s : State) (a : Acc) (c : BitVec 2) (hm pa h : Nat) (k : Option Nat) (data : List Byte) :
    Touches s (s.ownWords a c hm pa h k data) := by
  unfold State.ownWords
  extract_lets d line t
  have h1 : Touches s t := unown s _ _ _ _ _
  split
  · exact h1
  · extract_lets u
    have h2 : Touches t u := ite ((l1Alloc t _ _ _ _).trans (touchL1 _ _ _ _)) (refl t)
    exact ((h1.trans h2).trans (setL1 _ _ _ _)).trans (tagL1 _ _ _ _)

theorem storeBytes (s : State) (a : Acc) (c : BitVec 2) (hm pa h : Nat) (data : List Byte) : Touches s (s.storeBytes a c hm pa h data) :=
  (l2Write s _ _ _ _ _ _).trans (ownWords _ _ _ _ _ _ _ _)

theorem renewWord (s : State) (c p : Nat) (v : List Byte) : Touches s (s.renewWord c p v) := setL1 s _ _ _

theorem recallSites (s : State) (a : Acc) (c : BitVec 2) (hm l : Nat) : Touches s (s.recallSites a c hm l) := by
  unfold State.recallSites
  extract_lets t u
  have h1 : Touches s t := ite (cohOwn s _ _) (refl s)
  have h2 : Touches t u := (dropUnits t _ _).trans (flushLine _ _ _)
  exact (h1.trans h2).trans (ite ((dropUnits u _ _).trans (flushLine _ _ _)) (refl u))

theorem recallRim (s : State) (pa : Nat) : Touches s (s.recallRim pa) := by
  unfold State.recallRim
  split
  · exact refl s
  · split
    · exact (toMemory s _ _).trans (dropLine _ _ _)
    · exact refl s

theorem siteRead (s : State) (a : Acc) (c : BitVec 2) (hm pa n : Nat) (site : Site) : Touches s (s.siteRead a c hm pa n site).1 := by
  unfold State.siteRead
  cases site with
  | unit =>
    dsimp only
    split
    · exact (ite (retag s _ _ _) (refl s) : Touches s (if _ then _ else _)).trans (touchL1 _ _ _ _)
    · exact l2Read s _ _ _ _ _ _
  | slice => exact (dropUnits s _ _).trans (l2Read _ _ _ _ _ _ _)
  | rim => exact ((recallSites s _ _ _ _).trans (rimTouch _ _ _ _)).trans (countLink _ _ _ _)
  | fabric =>
    dsimp only
    exact (((recallSites s _ _ _ _).trans (recallRim _ _)).trans (countLink _ _ _ _)).trans (ite (bump _ _ _ _) (refl _))

theorem siteWrite (s : State) (a : Acc) (c : BitVec 2) (hm pa : Nat) (site : Site) (data : List Byte) : Touches s (s.siteWrite a c hm pa site data) := by
  unfold State.siteWrite
  cases site with
  | unit => exact (l2Put s _ _ _ _ _ _).trans (ownWords _ _ _ _ _ _ _ _)
  | slice => exact (l2Put s _ _ _ _ _ _).trans (ownWords _ _ _ _ _ _ _ _)
  | rim => exact (foldl _ _ (fun s _ => homePut s _ _ _ _) s).trans (markWritten _ _)
  | fabric =>
    dsimp only
    have h1 : Touches s (if s.deadPa pa = true then s else { s with mem := s.mem.writeN pa data }) :=
      ite (refl s) (caches s _ s.l1 s.l2 s.tlb s.poison s.owns s.free fun h => Memory.wf_writeN pa data h)
    exact (h1.trans (ite (bump _ _ _ _) (refl _))).trans (markWritten _ _)

theorem release (s : State) (a : Acc) (sc : Nat) : Touches s (s.release a sc) :=
  ite (refl s) (foldl _ _ (fun s _ => writeBack s _ _) s)

theorem releaseGate (s : State) (a : Acc) (g : Nat) : Touches s (s.releaseGate a g) := foldl _ _ (fun s _ => writeBack s _ _) s

theorem dropClean (s : State) (p : Nat → L2Line → Bool) : Touches s (s.dropClean p) := foldl _ _ (fun s _ => putLine s _ _ _) s

theorem acquireOf (s : State) (a : Acc) (sc : Nat) (mine : Nat → Bool) : Touches s (s.acquireOf a sc mine) := by
  unfold State.acquireOf
  split
  · exact refl s
  · extract_lets bound s1 s2
    have h1 : Touches s s1 := by
      simp only [s1]
      split
      · exact filterL1 s _
      · exact refl s
    have h2 : Touches s1 s2 := ite (dropClean s1 _) (refl s1)
    exact (h1.trans h2).trans (ite (dropClean s2 _) (refl s2))

theorem acquire (s : State) (a : Acc) (sc : Nat) : Touches s (s.acquire a sc) := acquireOf s a sc _

theorem acquireGate (s : State) (a : Acc) (g : Nat) : Touches s (s.acquireGate a g) := acquireOf s a 4 _

theorem maintain (s : State) (a : Acc) (c : BitVec 2) (hm pa sc : Nat) (inv : Bool) : Touches s (s.maintain a c hm pa sc inv) := by
  unfold State.maintain
  split
  · exact refl s
  · extract_lets line d s1 owned s2 s3
    have h1 : Touches s s1 := ite (cleanLine s _ _) (unown s _ _ _ _ _)
    split
    · have h2 : Touches s1 s2 := filterL1 s1 _
      split
      · have h3 : Touches s2 s3 := dropLine s2 _ _
        split
        · exact ((h1.trans h2).trans h3).trans (dropLine s3 _ _)
        · exact (h1.trans h2).trans h3
      · exact h1.trans h2
    · exact h1

theorem recallLine (s : State) (d l : Nat) : Touches s (s.recallLine d l) := (flushLine s d l).trans (dropL1 _ _ _)

theorem cohWrite (s : State) (a : Acc) (pa : Nat) (data : List Byte) : Touches s (s.cohWrite a pa data) := by
  unfold State.cohWrite
  extract_lets lines s1
  have h1 : Touches s s1 := foldl _ _ (fun s l => foldl _ _ (fun s d => by
    split
    · exact ite (refl s) (flushLine s _ _)
    · exact flushLine s _ _) s) s
  exact (h1.trans (homeBytes s1 _ _ _ _)).trans (foldl _ _ (fun s _ => markWritten s _) _)

/-! ## Translated accesses -/

theorem tlbFill (s : State) (e : TlbEntry) : Touches s (s.tlbFill e) := caches s s.mem s.l1 s.l2 _ s.poison s.owns s.free id

theorem translate (s : State) (a : Acc) (va : Nat) : Touches s (s.translate a va).1 := by
  unfold State.translate
  extract_lets asid hit root read bad w s1 s2
  split
  · exact refl s
  · split
    · split
      · exact tlbFill s _
      · exact refl s
    · have h1 : Touches s s1 := foldl _ _ (fun s _ => cohShare s _ _) s
      have h2 : Touches s s2 := h1.trans (foldl _ _ (fun s _ => report s _) s1)
      clear_value w
      cases w with
      | leaf lvl e =>
        have h3 := tlbFill s2 { die := a.die, core := none, asid := asid, base := va / levelSize lvl * levelSize lvl, lvl := lvl, leaf := e }
        refine (h2.trans h3).trans ?_
        dsimp only
        split
        · exact tlbFill _ _
        · exact refl _
      | malformed => exact h2.trans (report s2 _)
      | absent => exact h2

theorem requestPage (s : State) (p l d : Nat) (wr : Bool) : Touches s (s.requestPage p l d wr) := by
  unfold State.requestPage
  extract_lets o o'
  exact ite (refl s) (caches s s.mem s.l1 s.l2 s.tlb s.poison _ s.free id)

theorem notePage (s : State) (p l : Nat) : Touches s (s.notePage p l) :=
  ite (refl s) (caches s s.mem s.l1 s.l2 s.tlb s.poison _ s.free id)

theorem askHost (s : State) (c p : Nat) : Touches s (s.askHost c p) := ite (refl s) ⟨rfl, id, fun _ => rfl, rfl, rfl, rfl⟩

theorem lookLeaf (s : State) (a : Acc) (k : AccKind) (va lvl : Nat) (e : BitVec 64) : Touches s (s.lookLeaf a k va lvl e).1 := by
  unfold State.lookLeaf
  split
  · exact refl s
  · split
    · exact refl s
    · extract_lets wr pa page t
      split
      · exact refl s
      · split
        · exact askHost s _ _
        · split
          · exact requestPage s _ _ _ _
          · have h1 : Touches s t := ite (notePage s _ _) (refl s)
            refine h1.trans ?_
            dsimp only
            exact ite (bindPage t _) (refl t)

/-- An access that is translated and checked. -/
theorem look (s : State) (a : Acc) (k : AccKind) (va : Nat) : Touches s (s.look a k va).1 := by
  have h := translate s a va
  unfold State.look
  split
  · rename_i e; rw [e] at h; exact h.trans (lookLeaf _ _ _ _ _ _)
  · rename_i e; rw [e] at h; exact h

/-- An access that reads, translated and checked. -/
theorem lookRead (s : State) (a : Acc) (k : AccKind) (va n : Nat) (f : Bool) (b : Option Nat) : Touches s (s.lookRead a k va n f b).1 := by
  have h := look s a k va
  unfold State.lookRead
  split
  · rename_i e
    rw [e] at h
    extract_lets at_
    split
    · exact h.trans (report _ _)
    · exact h
  · exact h

theorem consume (s : State) (a : Acc) (e : BitVec 64) (pa n : Nat) (f : Bool) (b : Option Nat) : Touches s (s.consume a e pa n f b) :=
  ite (report s _) (refl s)

theorem freeBytes (s : State) (n : Nat) : Touches s (s.freeBytes n).1 := caches s s.mem s.l1 s.l2 s.tlb s.poison s.owns _ id

theorem dropForeign (s : State) (a : Acc) (pa : Nat) : Touches s (s.dropForeign a pa) := report s _

/-- A load at a translated address. -/
theorem readPa (s : State) (a : Acc) (e : BitVec 64) (pa n h : Nat) (f : Bool) (b : Option Nat) :
    Touches s (s.readPa a e pa n h f b).1 := by
  unfold State.readPa
  extract_lets pa' gone s1 s2 s3
  have h1 : Touches s s1 := consume s _ _ _ _ _ _
  refine h1.trans ?_
  split
  · exact freeBytes s1 n
  · split
    · exact (dropForeign s1 _ _).trans (freeBytes _ _)
    · split
      · have h2 : Touches s1 s2 := (rimTouch s1 _ _ _).trans (countLink _ _ _ _)
        exact h2.trans (ite (cohShare s2 _ _) (refl s2))
      · exact loadBytes s1 _ _ _ _ _ _ _

/-- A store at a translated address. -/
theorem writePa (s : State) (a : Acc) (e : BitVec 64) (pa h : Nat) (data : List Byte) : Touches s (s.writePa a e pa h data) :=
  ite (report s _) (ite (report s _) (ite (ite (cohWrite s _ _ _) ((homeBytes s _ _ _ _).trans (markWritten _ _)))
    (storeBytes s _ _ _ _ _ _)))

/-- An atomic at a translated address. -/
theorem atomicPa (s : State) (a : Acc) (e : BitVec 64) (pa n sc : Nat) (b : Option Nat) (wr : Bool) (f : List Byte → Option (List Byte)) :
    Touches s (s.atomicPa a e pa n sc b wr f).1 := by
  unfold State.atomicPa
  extract_lets pa' bound who cls home site gone s1
  have h1 : Touches s s1 := consume s _ _ _ _ _ _
  refine h1.trans ?_
  split
  · have k := freeBytes s1 n
    rcases e1 : s1.freeBytes n with ⟨t, old⟩
    rw [e1] at k
    cases hf : f old with
    | none => simpa [hf] using k
    | some x => simpa [hf, State.dropWrite] using k.trans (report t _)
  · split
    · exact (dropForeign s1 _ _).trans (freeBytes _ _)
    · have k := siteRead s1 who cls home pa' n site
      rcases e1 : s1.siteRead who cls home pa' n site with ⟨t, old⟩
      rw [e1] at k
      refine k.trans ?_
      dsimp only
      have k2 : Touches t (match f old with | some new => t.siteWrite who cls home pa' site new | none => t) := by
        split
        · exact siteWrite t _ _ _ _ _ _
        · exact refl t
      refine k2.trans ?_
      cases who.core with
      | some core => exact ite (dropWord _ _ _ _) (renewWord _ _ _ _)
      | none => exact refl _

end Touches

end Sys2Proof.Machine
end

