-- ==== Sys2Proof/Laws/Lanes.lean ====
section
/-! SUPPORT. What the shared shapes of the register instructions do, said once: a function on the lanes of the issue, a lane
form under a guard, and a uniform form. -/

namespace Sys2Proof.Machine

/-- A thread after a function has been applied to the lanes of the issue. -/
theorem State.onLanes_thread (s : State) (f : Nat → Nat → Group → Thread → Thread) (gid ti : Nat) (g : Group) (th : Thread)
    (hg : s.groups[gid]? = some g) (ht : g.threads[ti]? = some th) :
    (s.onLanes f).thread? gid ti = some (if (gid, ti) ∈ s.issue.lanes then f gid ti g th else th) := by
  simp only [State.thread?, State.onLanes, List.getElem?_mapIdx, hg, Option.map_some, Option.bind_some]
  by_cases h : s.issue.lanes.any (fun l => l.1 == gid) = true
  · simp only [h, if_true, List.getElem?_mapIdx, ht, Option.map_some, List.contains_eq_mem, decide_eq_true_eq]
  · have h' : (gid, ti) ∉ s.issue.lanes := fun hm => h (List.any_eq_true.2 ⟨(gid, ti), hm, by simp⟩)
    simp only [h, h', if_false, ht, Bool.false_eq_true]

/-- A group after a function has been applied to the lanes of the issue. -/
theorem State.onLanes_group (s : State) (f : Nat → Nat → Group → Thread → Thread) (gid : Nat) (g : Group)
    (hg : s.groups[gid]? = some g) : ∃ g' : Group, (s.onLanes f).groups[gid]? = some g' ∧ { g' with threads := g.threads } = g ∧
      g'.threads.length = g.threads.length := by
  simp only [State.onLanes, List.getElem?_mapIdx, hg, Option.map_some]
  by_cases h : s.issue.lanes.any (fun l => l.1 == gid) = true <;> simp [h]

/-- A function applied to the lanes of the issue changes their threads and nothing else. -/
theorem State.onLanes_only (s : State) (f : Nat → Nat → Group → Thread → Thread) (h : Lane → Thread)
    (hf : ∀ gid ti g t, f gid ti g t = h { g := g, ti := ti, t := t }) : OnlyLanes s (s.onLanes f) h where
  others := rfl
  groups := by simp [State.onLanes]
  group := s.onLanes_group f
  thread gid g ti th hg ht := by rw [s.onLanes_thread f gid ti g th hg ht, hf]
  memory _ := rfl

/-- A lane form under a guard: each lane of the issue takes the effect if its guard is true, and goes on. -/
theorem State.laneOp_only (s : State) (g : BitVec 4) (f : Issue → Lane → Thread → Thread) :
    OnlyLanes s (s.laneOp g f) (guarded s g fun l => f s.issue l l.t) :=
  s.onLanes_only _ _ fun _ _ _ _ => rfl

/-- A lane form that writes one V register. -/
theorem State.laneV_only (s : State) (g : BitVec 4) (d : BitVec 7) (f : Issue → Lane → Word) :
    OnlyLanes s (s.laneV g d f) (guarded s g fun l => l.t.putV d.toNat (f s.issue l)) := s.laneOp_only g _

/-- Every participant of a group goes on after a uniform instruction (R168). -/
theorem State.advanceU_group (s : State) (k : Nat) (h : s.issue.who = .group k) :
    s.advanceU = s.onLanes fun _ _ _ t => s.issue.advance t := by
  simp [State.advanceU, h]

/-- A stream goes on after its instruction (R54). -/
theorem State.advanceU_stream (s : State) (sid : Nat) (h : s.issue.who = .stream sid) :
    s.advanceU = s.modStream sid fun x => { x with pc := streamNext s.issue x.pc } := by
  have e : (fun x : Stream => match s.issue.rep with
      | some r => if s.issue.iter < r.cnt.toNat then x else { x with pc := s.issue.next }
      | none => { x with pc := s.issue.next }) = fun x => { x with pc := streamNext s.issue x.pc } := by
    funext x
    cases hr : s.issue.rep with
    | none => simp [streamNext, hr]
    | some r => by_cases hc : s.issue.iter < r.cnt.toNat <;> simp [streamNext, hr, hc]
  simp only [State.advanceU, h]
  exact congrArg _ e

/-- The group of an agent with its uniform registers changed. -/
theorem State.modU_group (s : State) (k : Nat) (h : UFile → UFile) (gid : Nat) (x : Group) (hx : s.groups[gid]? = some x) :
    (s.modU (.group k) h).groups[gid]? = some { x with u := if k = gid then h x.u else x.u } := by
  by_cases hk : k = gid <;> simp [State.modU, hx, hk]

/-- A uniform form: the agent's registers take the effect if its guard is true, and the agent goes on; nothing else changes. -/
theorem State.uniOp_only (s : State) (g : BitVec 4) (f : Issue → UFile → UFile) :
    OnlyUniform s (s.uniOp g f) fun u => if u.guard g then f s.issue u else u := by
  obtain ⟨h, hh⟩ : ∃ h : UFile → UFile, h = fun u => if u.guard g then f s.issue u else u := ⟨_, rfl⟩
  rw [State.uniOp, ← hh]
  cases hw : s.issue.who with
  | group k =>
    rw [State.advanceU_group (s.modU (.group k) h) k hw]
    refine ⟨rfl, by simp [State.onLanes, State.modU], rfl, ?_, ?_, ?_, ?_, fun _ => rfl⟩
    · intro gid x hx
      obtain ⟨g', h1, h2, h3⟩ := State.onLanes_group _ (fun _ _ _ t => s.issue.advance t) gid _ (s.modU_group k h gid x hx)
      refine ⟨g', h1, ?_, h3⟩
      have := congrArg (fun y : Group => { y with u := x.u }) h2
      exact this
    · intro sid x hx
      exact ⟨x, hx, rfl, by simp [hw]⟩
    · intro who u hu
      cases who with
      | stream sid => rw [if_neg (by simp [hw])]; exact hu
      | group gid =>
        obtain ⟨x, hx, rfl⟩ := Option.map_eq_some_iff.1 hu
        obtain ⟨g', h1, h2, -⟩ := State.onLanes_group _ (fun _ _ _ t => s.issue.advance t) gid _ (s.modU_group k h gid x hx)
        have e : g'.u = if k = gid then h x.u else x.u := congrArg Group.u h2
        refine (congrArg (Option.map Group.u) h1).trans ?_
        simp only [Option.map_some, e, hw, Agent.group.injEq]
        by_cases hk : k = gid
        · simp [hk]
        · simp [hk, Ne.symm hk]
    · intro gid ti th ht
      simp only [State.thread?, Option.bind_eq_some_iff] at ht
      obtain ⟨x, hx, hth⟩ := ht
      refine (State.onLanes_thread _ _ gid ti _ th (s.modU_group k h gid x hx) hth).trans ?_
      by_cases hm : (gid, ti) ∈ s.issue.lanes <;> simp [isStream, hw, hm, State.modU]
  | stream sid =>
    rw [State.advanceU_stream (s.modU (.stream sid) h) sid hw]
    have hs : ∀ (k : Nat) (x : Stream), s.streams[k]? = some x →
        ((s.modU (.stream sid) h).modStream sid fun x => { x with pc := streamNext s.issue x.pc }).streams[k]? =
          some (if sid = k then { x with u := h x.u, pc := streamNext s.issue x.pc } else x) := by
      intro k x hx
      by_cases hk : sid = k <;> simp [State.modU, hx, hk]
    refine ⟨rfl, rfl, by simp [State.modU], fun gid x hx => ⟨x, hx, rfl, rfl⟩, ?_, ?_, ?_, fun _ => rfl⟩
    · intro k x hx
      refine ⟨_, hs k x hx, ?_, ?_⟩
      · by_cases hk : sid = k <;> simp [hk]
      · by_cases hk : sid = k <;> simp [hk, hw]
    · intro who u hu
      cases who with
      | group gid => rw [if_neg (by simp [hw])]; exact hu
      | stream k =>
        obtain ⟨x, hx, rfl⟩ := Option.map_eq_some_iff.1 hu
        refine (congrArg (Option.map Stream.u) (hs k x hx)).trans ?_
        simp only [hw, Option.map_some, Agent.stream.injEq]
        by_cases hk : sid = k
        · simp [hk]
        · simp [hk, Ne.symm hk]
    · intro gid ti th ht
      rw [if_neg (by simp [isStream, hw])]
      exact ht

/-- A uniform form that writes one S register. -/
theorem State.uniS_only (s : State) (g : BitVec 4) (d : BitVec 8) (f : Issue → UFile → Word) :
    OnlyUniform s (s.uniS g d f) fun u => if u.guard g then u.putS d.toNat (f s.issue u) else u := s.uniOp_only g _

end Sys2Proof.Machine
end

