-- ==== Sys2Proof/Laws/Inv.lean ====
section
/-! SUPPORT. The shared operations keep the invariant: updates of one object, accesses, traps and the shapes of register
instructions; and what the halt line and a trap leave. -/

namespace Sys2Proof.Machine

/-- What an access touches keeps the invariant. -/
theorem Touches.inv {s t : State} (h : Touches s t) (hs : s.Inv) : t.Inv := by
  have hd := congrArg List.length h.dies
  have e := h.rest
  have hl := congrArg (fun x : State => x.links) e
  have hp := congrArg (fun x : State => x.parts) e
  have hc := congrArg (fun x : State => x.clusters) e
  have hsl := congrArg (fun x : State => x.slices) e
  have hcg := congrArg (fun x : State => x.cgs) e
  simp only [State.withAccess] at hl hp hc hsl hcg
  simp only [List.length_map] at hd
  exact ⟨h.mem hs.1, hd.trans hs.2.1, hl ▸ hs.2.2.1, hp ▸ hs.2.2.2.1, hc ▸ hs.2.2.2.2.1, hsl ▸ hs.2.2.2.2.2.1, hcg ▸ hs.2.2.2.2.2.2⟩

section
variable {s : State}

theorem State.Inv.modCtx (h : s.Inv) (c : Nat) (f : Ctx → Ctx) : (s.modCtx c f).Inv := h
theorem State.Inv.modGroup (h : s.Inv) (g : Nat) (f : Group → Group) : (s.modGroup g f).Inv := h
theorem State.Inv.modThread (h : s.Inv) (g t : Nat) (f : Thread → Thread) : (s.modThread g t f).Inv := h
theorem State.Inv.modStream (h : s.Inv) (x : Nat) (f : Stream → Stream) : (s.modStream x f).Inv := h
theorem State.Inv.modBlock (h : s.Inv) (b : Nat) (f : Block → Block) : (s.modBlock b f).Inv := h
theorem State.Inv.modKernel (h : s.Inv) (k : Nat) (f : Kernel → Kernel) : (s.modKernel k f).Inv := h
theorem State.Inv.modCopy (h : s.Inv) (c : Nat) (f : Copy → Copy) : (s.modCopy c f).Inv := h
theorem State.Inv.modTile (h : s.Inv) (o : Nat) (f : TileOp → TileOp) : (s.modTile o f).Inv := h
theorem State.Inv.modGate (h : s.Inv) (g : Nat) (f : Gate → Gate) : (s.modGate g f).Inv := h
theorem State.Inv.modHub (h : s.Inv) (f : Hub → Hub) : (s.modHub f).Inv := h
theorem State.Inv.nextStamp (h : s.Inv) : s.nextStamp.Inv := h
theorem State.Inv.drawFree (h : s.Inv) : s.drawFree.Inv := h
theorem State.Inv.report (h : s.Inv) (e : ErrorReport) : (s.report e).Inv := h

theorem State.Inv.modPart (h : s.Inv) (p : Nat) (f : Part → Part) : (s.modPart p f).Inv := by
  obtain ⟨h1, h2, h3, h4, h5⟩ := h
  exact ⟨h1, h2, h3, (List.length_modify ..).trans h4, h5⟩

theorem State.Inv.modDie (h : s.Inv) (d : Nat) (f : Die → Die) : (s.modDie d f).Inv := by
  obtain ⟨h1, h2, h3⟩ := h
  exact ⟨h1, (List.length_modify ..).trans h2, h3⟩

theorem State.Inv.modLink (h : s.Inv) (l : Nat) (f : Link → Link) : (s.modLink l f).Inv := by
  obtain ⟨h1, h2, h3, h4⟩ := h
  exact ⟨h1, h2, (List.length_modify ..).trans h3, h4⟩

theorem State.Inv.onLanes (h : s.Inv) (f : Nat → Nat → Group → Thread → Thread) : (s.onLanes f).Inv := h
theorem State.Inv.laneOp (h : s.Inv) (g : BitVec 4) (f : Issue → Lane → Thread → Thread) : (s.laneOp g f).Inv := h
theorem State.Inv.modU (h : s.Inv) (w : Agent) (f : UFile → UFile) : (s.modU w f).Inv := by cases w <;> exact h

theorem State.Inv.advanceU (h : s.Inv) : s.advanceU.Inv := by
  unfold State.advanceU; split <;> exact h

theorem State.Inv.gotoU (h : s.Inv) (p : Word) : (s.gotoU p).Inv := by
  unfold State.gotoU; split <;> exact h

theorem State.Inv.waitU (h : s.Inv) : s.waitU.Inv := by
  unfold State.waitU; extract_lets k hold; split <;> exact h

theorem State.Inv.unwaitU (h : s.Inv) : s.unwaitU.Inv := by
  unfold State.unwaitU; split <;> exact h

theorem State.Inv.uniOp (h : s.Inv) (g : BitVec 4) (f : Issue → UFile → UFile) : (s.uniOp g f).Inv := (h.modU _ _).advanceU

theorem State.Inv.halt (h : s.Inv) (c : Nat) (k : HaltKind) : (s.halt c k).Inv := h
theorem State.Inv.standAt (h : s.Inv) (g t : Nat) (c : Cause) (e : Bool) (v : Nat) : (s.standAt g t c e v).Inv := h
theorem State.Inv.standStream (h : s.Inv) (x : Nat) (c : Cause) (e : Bool) (v : Nat) : (s.standStream x c e v).Inv := h

/-- A look at the call stack touches what an access may. -/
theorem Touches.stackLook (s : State) (g : Nat) (k : AccKind) (o : Nat) : Touches s (s.stackLook g k o).1 := by
  unfold State.stackLook
  split
  · exact Touches.refl s
  · extract_lets a g15 va
    split
    · exact Touches.refl s
    · split
      · exact Touches.refl s
      · dsimp only
        split
        · exact Touches.lookRead s a k va _ _ _
        · exact Touches.look s a k va

/-- What a push does: nothing beyond the look where it traps or waits, else the store and the new CSP (R175). -/
theorem State.push_cases (s : State) (gid t : Nat) (v : Word) :
    Touches s (s.push gid t v).1 ∨ ∃ u, Touches s u ∧ (s.push gid t v).1 = u.modThread gid t fun th => { th with csp := th.csp - 4 } := by
  unfold State.push
  split
  · rename_i g th _ _
    split
    · exact .inl (Touches.refl s)
    · have h := Touches.stackLook s gid .write (g.thrix t * s.sliceSize g + th.csp - 4)
      split <;> rename_i e <;> rw [e] at h
      · exact .inl h
      · exact .inl h
      · exact .inl h
      · exact .inr ⟨_, h.trans (Touches.writePa _ _ _ _ _ _), rfl⟩
  · exact .inl (Touches.refl s)

theorem State.Inv.push (h : s.Inv) (g t : Nat) (v : Word) : (s.push g t v).1.Inv := by
  rcases s.push_cases g t v with k | ⟨u, k, e⟩
  · exact k.inv h
  · rw [e]; exact (k.inv h).modThread _ _ _

theorem State.Inv.pop (h : s.Inv) (gid t : Nat) : (s.pop gid t).1.Inv := by
  unfold State.pop
  split
  · rename_i g th _ _
    split
    · exact h
    · have k := (Touches.stackLook s gid .read (g.thrix t * s.sliceSize g + th.csp)).inv h
      split <;> rename_i e <;> rw [e] at k
      · exact k
      · exact k
      · exact k
      · exact ((Touches.readPa _ _ _ _ _ _ _ _).inv k).modThread _ _ _
  · exact h

theorem State.Inv.userTrap (h : s.Inv) (g t : Nat) (c : Cause) (v : Nat) (r : Word) : (s.userTrap g t c v r).Inv := by
  unfold State.userTrap
  extract_lets uvec later u
  split
  · exact h
  · split
    · exact h
    · split
      · exact h
      · have k : (u.push g t r).1.Inv := State.Inv.push (s := u) h g t r
        split <;> rename_i e <;> rw [e] at k <;> exact k

theorem State.Inv.trapLane (h : s.Inv) (g t : Nat) (c : Cause) (v : Nat) : (s.trapLane g t c v).Inv := by
  unfold State.trapLane
  split
  · exact h.userTrap _ _ _ _ _
  · exact h.standAt _ _ _ _ _

theorem State.Inv.userTrapStream (h : s.Inv) (x : Nat) (c : Cause) (v : Nat) (r : Word) : (s.userTrapStream x c v r).Inv := by
  unfold State.userTrapStream
  extract_lets uvec
  split
  · exact h
  · split
    · exact h
    · split <;> exact h

/-- A fold of steps that keep the invariant. -/
theorem State.Inv.foldl {α : Type} (h : s.Inv) (l : List α) (f : State → α → State) (hf : ∀ (s : State) (x : α), s.Inv → (f s x).Inv) :
    (l.foldl f s).Inv := by
  induction l generalizing s with
  | nil => exact h
  | cons x r ih => exact ih (hf s x h)

theorem State.Inv.trapU (h : s.Inv) (c : Cause) (v : Nat) : (s.trapU c v).Inv := by
  unfold State.trapU
  split
  · exact h.foldl _ _ fun s l k => k.trapLane _ _ _ _
  · split
    · exact h.userTrapStream _ _ _ _
    · exact h.standStream _ _ _ _

end

/-! ## The halt line -/

/-- A context after its halt line is raised: READY and RUNNING begin to halt, a halting one takes the higher kind, any other
stays; no other context changes (R373, R381). -/
theorem State.halt_ctx (s : State) (c d : Nat) (k : HaltKind) :
    (s.halt c k).ctx d = if d = c then
      (match (s.ctx c).st with
        | .ready | .running => { s.ctx c with st := .halting, line := some { kind := k, at_ := s.clock, rto := (s.ctx c).timeout, drained := false } }
        | .halting => { s.ctx c with line := (s.ctx c).line.map fun l => if l.kind.rank < k.rank then { l with kind := k } else l }
        | _ => s.ctx c) else s.ctx d := by
  unfold State.halt; exact State.ctx_modCtx ..

/-- A cause that stands at a thread is its cause, and its wait is over (R376). -/
theorem State.standAt_thread (s : State) (gid t : Nat) (c : Cause) (e : Bool) (v : Nat) (th : Thread) (h : s.thread? gid t = some th) :
    (s.standAt gid t c e v).thread? gid t =
      some { th with standing := some { cause := c.code, esc := e, val := BitVec.ofNat 64 v, at_ := s.clock }, wait := .none } := by
  simp only [State.thread?, Option.bind_eq_some_iff] at h
  obtain ⟨g, hg, ht⟩ := h
  have e1 : (s.standAt gid t c e v).groups = (s.modThread gid t fun th =>
    { th with standing := some { cause := c.code, esc := e, val := BitVec.ofNat 64 v, at_ := s.clock }, wait := .none }).groups := rfl
  simp [State.thread?, e1, State.modThread, Group.modThread, hg, ht]

end Sys2Proof.Machine
end

