-- ==== Sys2Proof/Tests/Slice0.lean ====
section
/-! SUPPORT. Small tests: words of the manual's listings, ill-formed terms, single steps on a small state, and for each statement
with hypotheses a state that meets them. -/

namespace Sys2Proof.Tests

open Sys2Proof Sys2Proof.Machine

-- The theorems below are long evaluations: one after another, they need no more threads than there are processors.
set_option Elab.async false

/-! ## Words -/

/-- The words of the listings that read as the instructions beside them in the manual (R36 to R39, R63). -/
theorem test_decode_lane_words :
    decode [0x070080EA] = .ok (.mov 1 0xEA) ∧ decode [0x00010284] = .ok (.iadd 2 2 0x84) ∧ decode [0x054080C5] = .ok (.shl 1 0 0xC5) ∧
      decode [0x00018086] = .ok (.iadd 3 0 0x86) := by decide +kernel

theorem test_decode_uniform_words :
    decode [0x8441802F] = .ok (.umov 6 0x2F) ∧ decode [0x80014161] = .ok (.uadd 5 5 0x21) ∧
      decode [0xA0410000, 0xFC00C000] = .ok (.umovlo 14 4 0xC000) ∧ decode [0xA0824000, 0xFC00001F] = .ok (.umovhi 14 9 0x1F) ∧
      decode [0xA0C0017F, 0xFC000383] = .ok (.usetp 14 5 0x3F 0 7 0 0 0 3) ∧ decode [0xA201C180, 0xFC01C000] = .ok (.v2s 14 0 7 6 7) := by
  decide +kernel

theorem test_decode_carry_words :
    decode [0x21420002, 0xFC001C80] = .ok (.iaddc 14 4 0 2 7 1) ∧ decode [0x21428103, 0xFC000780] = .ok (.iaddc 14 5 1 3 1 7) ∧
      decode [0x21C18305, 0xFC000000] = .ok (.iaddw 14 3 3 5 0 0) ∧ decode [0x234001C2, 0xFC00078A] = .ok (.isetp 14 1 0xC2 1 7 0 0 1 2) := by
  decide +kernel

theorem test_decode_conversion_words :
    decode [0x27840100, 0xFC000900] = .ok (.cvtn 14 8 1 2 1 0) ∧ decode [0x27C48800, 0xFC000A00] = .ok (.cvtw 14 9 8 2 2 0) := by
  decide +kernel

theorem test_decode_control_words :
    decode [0x2C000000, 0xE41FFFF9] = .ok (.bra 2 0x1FFFF9) ∧ decode [0x2C000000, 0xE4000003] = .ok (.bra 2 3) ∧
      decode [0x2D800000, 0xFC001000] = .ok (.join 14 0x1000) ∧ decode [0x2D400000, 0xFC000000] = .ok (.exitT 14) ∧
      decode [0x2D000000, 0xFC000000] = .ok (.ret 14) ∧ decode [0x2F000000, 0xE4000005] = .ok (.trap 2 5) ∧
      decode [0xA4000000, 0xE01FFFD7] = .ok (.ubra 0 0x1FFFD7) := by decide +kernel

theorem test_decode_collective_words :
    decode [0x2B418100, 0xFC180100] = .ok (.scanx 14 0 3 1 0xC0 0 0 1 0) ∧ decode [0x2F820000, 0xFC200080] = .ok (.rdctr 14 1 4 0x80) := by
  decide +kernel

theorem test_decode_memory_words :
    decode [0x30418140, 0xFC000000] = .ok (.st 14 3 1 2 0 0 0 0 0 0 0) ∧ decode [0x30418140, 0xFC1A0000] = .ok (.st 14 3 1 2 0 0 0 13 0 0 0) ∧
      decode [0x31420140, 0xFC042000] = .ok (.atom 14 0 4 1 2 0 0 0 2 0 2 0) ∧ decode [0x30C28140, 0xFC000000] = .ok (.pld 14 0 5 1 2 0 0 0 0 0 0 0) ∧
      decode [0x31018240, 0xFC000000] = .ok (.pst 14 3 2 2 0 0 0 0 0 0 0) := by decide +kernel

theorem test_decode_copy_words :
    decode [0xA8000202, 0xFC000000] = .ok (.shape 14 8 2) ∧ decode [0xA8400000, 0xFC001000] = .ok (.xcopy 14 0 0 0 0 0 0 1 0 0 0 0) ∧
      decode [0xA8810142, 0xFC021306] = .ok (.xgath 14 4 5 2 1 0 1 3 6) := by decide +kernel

theorem test_decode_barrier_words :
    decode [0xAA000002, 0xFC000002] = .ok (.binit 14 0 0 0 2 2) ∧ decode [0xAA400002, 0xFC000000] = .ok (.barv 14 0 2 0 0 0) ∧
      decode [0xAB400002, 0xFC000001] = .ok (.bexp 14 0 2 0 0 1) ∧ decode [0xAAC00002, 0xFC000000] = .ok (.bwait 14 0 2 0 0 0 0) := by
  decide +kernel

theorem test_decode_tile_words :
    decode [0xB2420093, 0xFC008010] = .ok (.tmma 14 8 2 1 3 0 1 0 0 0 0 1 0) ∧ decode [0xB2C30083, 0xFC086160] = .ok (.tdrain 14 12 2 3 2 1 1 0 5 1 0) ∧
      decode [0xB3400083, 0xFC000000] = .ok (.twait 14 2 0 3) := by decide +kernel

theorem test_decode_gate_and_grant_words :
    decode [0xA6000102, 0xFC00C600] = .ok (.gnarrow 14 4 0 2 6 3 0 0) ∧ decode [0xAF058280, 0xFC000000] = .ok (.gread 14 0 22 10 0) ∧
      decode [0xAE400280, 0xFC028000] = .ok (.gwait 14 10 20) ∧ decode [0xA6C00A03, 0xFC000001] = .ok (.gdchk 14 0 0x28 0 3 1) ∧
      decode [0xA6850004, 0xFC000000] = .ok (.pinfo 14 0 0x14 4) := by decide +kernel

/-- The encoder writes the same words. -/
theorem test_encode_words :
    encode (.iadd 2 2 0x84) = [0x00010284] ∧ encode (.umov 6 0x2F) = [0x8441802F] ∧ encode (.bra 2 3) = [0x2C000000, 0xE4000003] ∧
      encode (.atom 14 0 4 1 2 0 0 0 2 0 2 0) = [0x31420140, 0xFC042000] ∧ encode (.tdrain 14 12 2 3 2 1 1 0 5 1 0) = [0xB2C30083, 0xFC086160] ∧
      encode (.gnarrow 14 4 0 2 6 3 0 0) = [0xA6000102, 0xFC00C600] := by decide +kernel

/-! ## Ill-formed terms -/

/-- Selectors and register codes out of range, odd pairs (R40, R42, R43). -/
theorem test_ill_formed_registers :
    Instr.wf (.iadd 0 0 0xEB) = false ∧ Instr.wf (.uadd 192 0 0) = false ∧ Instr.wf (.imacw 14 1 0 0 0 0) = false ∧
      Instr.wf (.imacw 14 2 0 0 3 0) = false ∧ Instr.wf (.gwait 14 0 1) = false ∧ Instr.wf (.gwait 14 0 192) = false ∧
      Instr.wf (.lea 14 1 0 0 0 1 0) = false ∧ Instr.wf (.h2f 0 0 0xC2) = false := by decide +kernel

/-- Guards and predicates of uniform forms, reserved operations and comparisons (R45, R135, R153, R187). -/
theorem test_ill_formed_fields :
    Instr.wf (.ubra 8 0) = false ∧ Instr.wf (.usetp 14 0 0 4 7 0 0 0 0) = false ∧ Instr.wf (.isetp 14 0 0 0 7 0 3 0 0) = false ∧
      Instr.wf (.isetp 14 0 0 0 7 0 0 0 6) = false ∧ Instr.wf (.fsetp 14 0 0 0 7 0 0 1 6) = false ∧ Instr.wf (.iaddw 14 0 0 0 2 2) = false ∧
      Instr.wf (.vote 14 0 0 0 7 3 0 0) = false ∧ Instr.wf (.vote 14 0 0 0 7 0 1 2) = false := by decide +kernel

/-- Sizes, scopes and orders of accesses (R46, R47, R262, R270, R271, R273). -/
theorem test_ill_formed_accesses :
    Instr.wf (.ld 14 0 0 0 5 0 0 0 0 0 0 0) = false ∧ Instr.wf (.ld 14 0 0 0 2 1 0 0 0 0 0 0) = false ∧
      Instr.wf (.ld 14 0 0 0 2 0 2 0 0 0 0 0) = false ∧ Instr.wf (.ld 14 0 0 0 2 0 1 0 0 0 5 0) = false ∧
      Instr.wf (.ld 14 0 1 0 3 0 0 0 0 0 0 0) = false ∧ Instr.wf (.st 14 0 0 2 0 1 0 0 0 0 0) = false ∧
      Instr.wf (.st 14 0 0 2 1 0 0 0 0 0 0) = false ∧ Instr.wf (.atom 14 0 0 0 1 0 0 0 0 0 0 0) = false ∧
      Instr.wf (.atom 14 0 0 0 2 0 0 0 0 0 0 0xA00) = false ∧ Instr.wf (.atomc 14 0 1 0 2 0 0 0 0 0 0 0) = false ∧
      Instr.wf (.pld 14 0 0 0 2 0 0 0 1 0 0 0) = false ∧ Instr.wf (.pld 14 0 0 0 2 0 0 0 0 0 2 0) = false := by decide +kernel

/-- Copies, barriers, counters, guards and tiles (R35, R287, R304, R396, R466, R331). -/
theorem test_ill_formed_engines :
    Instr.wf (.shape 14 4 0) = false ∧ Instr.wf (.xcopy 14 0 0 3 0 0 0 0 0 0 0 0) = false ∧ Instr.wf (.binit 14 0 0 1 0 3) = false ∧
      Instr.wf (.barv 14 0 0 0 1 0) = false ∧ Instr.wf (.bwait 14 0 0 0 0 1 0) = false ∧ Instr.wf (.rdctr 14 0 0 0x04) = false ∧
      Instr.wf (.gdchk 14 0 0 3 0 0) = false ∧ Instr.wf (.tdrain 14 1 0 0 0 0 0 0 0 0 0) = false ∧ Instr.wf (.twait 14 0 1 1) = false ∧
      Instr.wf (.tmma 14 0 0 0 0 0 0 1 0 0 0 0 0) = false ∧ Instr.wf (.umovs 14 0 0x3F) = false := by decide +kernel

/-- The decoder refuses words whose instruction is ill formed, reserved codes and missing words (R31, R35). -/
theorem test_decode_refuses :
    (decode [0x000100EB]).toOption = none ∧ (decode [0x2C000000]).toOption = none ∧ (decode [0xFC000000]).toOption = none ∧
      (decode []).toOption = none := by decide +kernel

/-! ## A small world -/

/-- A kernel of one block and one group (R192): the record that withFetchWord places. -/
def ker : Kernel :=
  { ctx := 0, queue := 0, inQueue := true, record := fetchRecord, kst := .draining, parent := none, parentGrants := none, positions := [], code := 0, retired := 0, faulted := 0, prio := 0 }

/-- A grant over 64 KiB from 0x10000 with RD, W and A. -/
def data : Grant := Grant.make 0x10000 65536 7 0 0 0 0

/-- Registers of a group or a stream: S1 is 1, G1, G2 and G15 the data grant, G3 one under the range guard 0. -/
def file : UFile :=
  { s := (List.replicate 192 0).set 1 1, q := 0, g := (List.replicate 16 Grant.null).set 1 data |>.set 2 data |>.set 3 (Grant.make 0x10000 65536 7 0 1 0 0) |>.set 15 data, gdflag := 0, pend := [] }

/-- A live thread of 16 registers at 0x100. -/
def thr : Thread :=
  { v := List.replicate 16 0, p := 1, pc := 0x100, csp := 64, prog := 0, hcsp := none, going := none, launched := true, live := true, monitor := none, wait := .none, coll := none, pend := [], trap := TrapRec.zero, standing := none, tinsn := 1, tpack := 0, ready := 0 }

/-- A group of four such threads. -/
def grp : Group :=
  { bid := 0, grpix := 0, width := 4, slot := 0, lane0 := 0, gst := .running, full := false, vregs := 16, u := file, tp := 0, arrBlk := false, arrClu := false, arrDie := false, bards := [], threads := List.replicate 4 thr }

/-- The block of the group, on core 0 of the package. -/
def blk : Block := ker.entryBlock 0 0 0 0 0 0 0

/-- A stream on cluster 0. -/
def str : Stream :=
  { kid := 0, pos := 0, die := 0, clu := 0, sst := .running, pc := 0x100, u := file, rstack := [], hcsp := none, tps := [], tileSeq := 0, rgWait := none, wait := .none, trap := TrapRec.zero, standing := none, snapLatest := none, snapWriting := none, log := [], replay := [] }

/-- A leaf of class SYN with RD and W over frame 1. -/
def rw : BitVec 64 := 0xD300000000010000

/-- The translation of the data grant's page. -/
def held (core : Option Nat) (leaf : BitVec 64) : TlbEntry := { die := 0, core := core, asid := 0, base := 0x10000, lvl := 0, leaf := leaf }

/-- Context 0, running. -/
def run0 : Ctx := { Ctx.free with st := .running }

/-- A package that runs one group, one block and one stream, with channel group 0 in partition 0. -/
def world (g : Group := grp) (b : Block := blk) (x : Stream := str) (k : Kernel := ker) (c : Ctx := run0) (leaf : BitVec 64 := rw) : State :=
  { State.reset with ctxs := [(0, c)], kernels := [k], blocks := [b], groups := [g], streams := [x], cgs := State.reset.cgs.set 0 { UnitRec.free with cond := 1 }, tlb := [held (some 0) leaf, held none leaf], tick := 1200000 }

/-- An issue of one lane. -/
def one (s : State) : State := { s with issue := { who := .group 0, lanes := [(0, 0)], pc := 0x100, ipc := 0x100, next := 0x108, iter := 0, pre := none, rep := none, again := false, cut := none } }

/-- An issue of all four lanes. -/
def four (s : State) : State := { (one s) with issue := { (one s).issue with lanes := [(0, 0), (0, 1), (0, 2), (0, 3)] } }

/-- An issue of the stream. -/
def solo (s : State) : State := { (one s) with issue := { (one s).issue with who := .stream 0, lanes := [] } }

/-- The group with its first thread changed. -/
def first (f : Thread → Thread) : Group := { grp with threads := grp.threads.modify 0 f }

/-- The registers of lane 0 set from V0 on. -/
def regs (l : List Word) : Group := first fun t => { t with v := l ++ List.replicate 8 0 }

/-- The state after an instruction, where it goes on. -/
def after (i : Instr) (s : State) : State := match exec i s with
  | .next t => t
  | _ => s

/-- What a register of lane 0 holds after an instruction. -/
def gives (i : Instr) (s : State) (r : Nat) : Option Word := match exec i s with
  | .next t => (t.thread? 0 0).map fun th => th.getV r
  | _ => none

/-- What a predicate of lane 0 holds after an instruction. -/
def givesP (i : Instr) (s : State) (p : Nat) : Option Bool := match exec i s with
  | .next t => (t.thread? 0 0).map fun th => th.getP p
  | _ => none

/-- The cause that stands at lane 0 after an instruction. -/
def stands (i : Instr) (s : State) : Option (BitVec 8) := match exec i s with
  | .next t => (t.thread? 0 0).bind fun th => th.standing.map (·.cause)
  | _ => none

theorem oneLane (g : Group) (b : Block) (x : Stream) (k : Kernel) (c : Ctx) (leaf : BitVec 64) (th : Thread) (gd : BitVec 4)
    (h : g.threads[0]? = some th) (hg : Lane.guard { g := g, ti := 0, t := th } gd = true) :
    OneLane (one (world g b x k c leaf)) gd 0 0 g th := ⟨rfl, rfl, rfl, h, hg⟩

/-- The issue under MOD sat 01. -/
def sat (s : State) : State := { s with issue := { s.issue with pre := some { sat := 1, rnd := 0, ftz := 0 } } }

/-! ## The manual's worked values -/

/-- The carry chain of R134. -/
theorem test_iaddc :
    gives (.iaddc 14 4 0 2 7 1) (one (world (regs [0xFFFFFFFF, 1, 3, 0]))) 4 = some 2 ∧
      givesP (.iaddc 14 4 0 2 7 1) (one (world (regs [0xFFFFFFFF, 1, 3, 0]))) 1 = some true ∧
      gives (.iaddc 14 5 1 3 0 7) (one (world (regs [0xFFFFFFFF, 1, 3, 0]))) 5 = some 2 := by decide +kernel

/-- IDOT8 of R128. -/
theorem test_idot8 :
    gives (.idot8 14 3 0 1 2 0 0) (one (world (regs [0x04030201, 0xFF02FE05, 100]))) 3 = some 103 ∧
      gives (.idot8 14 3 0 1 2 0 1) (one (world (regs [0x04030201, 0xFF02FE05, 100]))) 3 = some 1639 := by decide +kernel

/-- IABS with and without sat, and IMUL.sat (R122). -/
theorem test_iabs_and_sat :
    gives (.iabs 1 0) (one (world (regs [0x80000000]))) 1 = some 0x80000000 ∧
      gives (.iabs 1 0) (sat (one (world (regs [0x80000000])))) 1 = some 0x7FFFFFFF ∧
      gives (.imul 1 0 0) (sat (one (world (regs [0x00010000])))) 1 = some 0x7FFFFFFF := by decide +kernel

/-- The selectors of R132. -/
theorem test_bytex :
    gives (.bytex 14 3 0 1 2) (one (world (regs [0x11228344, 0x55667788, 0x00010203]))) 3 = some 0x44832211 ∧
      gives (.bytex 14 3 0 1 2) (one (world (regs [0x1122B344, 0x55667788, 0x09090100]))) 3 = some 0xFFFFB344 ∧
      gives (.bytex 14 3 0 1 2) (one (world (regs [0x11228344, 0x55667788, 0x07060504]))) 3 = some 0x55667788 := by decide +kernel

/-- FCEIL(−0.5) = −0 and FRINT(−0.25) = −0 (R148), FMUL by −1 turns +0 into −0. -/
theorem test_rounding_forms :
    gives (.fceil 1 0) (one (world (regs [0xBF000000]))) 1 = some 0x80000000 ∧
      gives (.frint 1 0) (one (world (regs [0xBE800000]))) 1 = some 0x80000000 ∧
      gives (.fmul 2 0 1) (one (world (regs [0x00000000, 0xBF800000]))) 2 = some 0x80000000 ∧
      gives (.fabs 1 0) (one (world (regs [0xFFC12345]))) 1 = some 0x7FC00000 := by decide +kernel

/-- A shift by the width or more (R123). -/
theorem test_shifts :
    gives (.shl 2 0 1) (one (world (regs [0xFFFFFFFF, 32]))) 2 = some 0 ∧ gives (.sar 2 0 1) (one (world (regs [0x80000000, 99]))) 2 = some 0xFFFFFFFF ∧
      gives (.rotl 2 0 1) (one (world (regs [0x80000001, 33]))) 2 = some 3 := by decide +kernel

/-- A load and a store of one lane, a store out of bounds and a misaligned one (R267, R347, R264). -/
theorem test_store_and_load :
    byteAt (after (.st 14 0 1 2 0 0 0 1 0 0 0) (one (world (regs [0xDEADBEEF, 8])))) 0 0x10009 = 0xBE ∧
      gives (.ld 14 0 2 1 2 0 0 0 1 0 0 0) (one (after (.st 14 0 1 2 0 0 0 1 0 0 0) (one (world (regs [0xDEADBEEF, 8]))))) 2 = some 0xDEADBEEF ∧
      stands (.st 14 0 1 2 0 0 0 1 0 0 0) (one (world (regs [0, 0xFFFD]))) = some Cause.grantBounds.code ∧
      stands (.st 14 0 1 2 0 0 0 1 0 0 0) (one (world (regs [0, 2]))) = some Cause.misalign.code ∧
      stands (.st 14 0 1 2 0 0 0 4 0 0 0) (one (world (regs [0, 0]))) = some Cause.grantBounds.code := by decide +kernel

/-- The instruction that is placed is the first that a step runs. -/
theorem test_step_runs_placed_word :
    (match step (State.reset.withFetchWord 32 0x070080EA) with
      | .next t => (t.thread? 0 0).map fun (th : Thread) => (th.pc, th.getV 1)
      | _ => none) = some (4, 0) := by decide +kernel

/-! ## States that meet the hypotheses of the statements -/

theorem test_meets_PredicateForms : (7 : Nat) ≤ 7 ∧ (4 : Nat) ≤ 4 ∧ 14 + 1 < thr.v.length := by decide

theorem test_meets_PackedAndConversionForms : (3 : BitVec 2).toNat < 32 / fmtBits (slotFmt (ker.slot 0)) := by decide +kernel

theorem test_meets_Rounding :
    (0x7F800000 : Nat) < 2 * fp32.signBit ∧ fp32.dec 0x7F800000 ≠ .nan ∧ (0x3BFF : Nat) < 2 * fp16.signBit ∧ fp16.dec 0x3BFF ≠ .nan ∧
      (0x80 : Nat) < 2 * bf16.signBit ∧ bf16.dec 0x80 ≠ .nan ∧ (255 : Nat) < 2 ^ (7 + 1) ∧ (63 : Nat) < 2 ^ (5 + 1) ∧ (-3 : Int) ≤ 5 := by
  decide +kernel

/-- The group whose first thread waits after YIELD. -/
def yields (limit : Nat) (others : Bool) : Group :=
  { first (fun t => { t with wait := .yield limit }) with threads := { thr with wait := .yield limit } :: List.replicate 3 { thr with pc := 0x200, live := others } }

theorem test_meets_LaneBranchesAndYield :
    (0 ≤ ((world (yields 0 true)).picker ((world (yields 0 true)).coreOf (yields 0 true)) (quadrantOf 0)).issues) ∧
      (∀ h ∈ (world (yields 64 false)).groupsOn 0, quadrantOf h.slot = 0 → (world (yields 64 false)).issues h = true → (world (yields 64 false)).readyEntry 0 0 h { thr with wait := .yield 64 } = false) ∧
      (¬ 64 ≤ ((world (yields 64 true)).picker 0 (quadrantOf 0)).issues ∧
        ∃ h ∈ (world (yields 64 true)).groupsOn 0, quadrantOf h.slot = 0 ∧ (world (yields 64 true)).issues h = true ∧ (world (yields 64 true)).readyEntry 0 0 h { thr with wait := .yield 64 } = true) ∧
      (world (yields 64 true)).coreOf (yields 64 true) = 0 := by decide +kernel

/-- Every live thread has arrived at a JOIN, or three of four have not. -/
theorem test_meets_ExitAndJoin :
    (∀ l ∈ (four (world)).issue.lanes, l.1 = 0) ∧ (four (world)).issue.lanes ≠ [] ∧
      (∀ th ∈ grp.threads, th.live = true ∧ th.pc = (four (world)).issue.pc) ∧
      (∃ th ∈ grp.threads, th.live = true ∧ th.joining = false) ∧ (one (world)).issue.lanes = [(0, 0)] ∧
      Lane.guard { g := grp, ti := 0, t := thr } 0 = true ∧ Lane.guard { g := grp, ti := 0, t := thr } 1 = false ∧
      ((world (first fun t => { t with wait := .join 1200000 })).thread? 0 0).map Thread.wait = some (.join 1200000) ∧
      (1200000 ≤ (world).tick) ∧ ¬ (1200001 ≤ (world).tick) := by decide +kernel

theorem test_meets_GrowAndShrink :
    (∀ l ∈ (four (world)).issue.lanes, l.1 = 0) ∧ (∀ th ∈ grp.threads, th.pc = (four (world)).issue.pc ∧ th.wait = .none ∧ th.pend = []) ∧
      grp.liveLanes = [0, 1, 2, 3] ∧ (four (world)).olderRequest ((four (world)).coreOf grp) (1200000 * 192 + grp.slot) = false ∧ 1200000 ≤ (four (world)).tick ∧
      (∀ th ∈ grp.threads, ∀ p ∈ th.pend, p.known = true) ∧
      grp.vregs + 8 * 14 ≤ 128 ∧ 4 * (grp.vregs + 8 * 14) * grp.width ≤ ker.vru * 65536 ∧
      (four (world)).fileUsed ((four (world)).coreOf grp) + 4 * 8 * 14 * grp.width ≤ ker.vru * 65536 ∧
      (four (world)).kernelOf grp.bid = some ker ∧ 8 * 1 + 8 ≤ grp.vregs := by decide +kernel

/-- A call stack that takes a push and a pop, one that is full and one that is empty, and one on a page without W. -/
theorem test_meets_LaneCallsAndReturns :
    ((one (world)).push 0 0 0x108).2 = .ok 0x108 ∧ ((one (world)).pop 0 0).2 = .ok 0 ∧
      ((one (world (first fun t => { t with csp := 0 }))).push 0 0 0x108).2 = .trap .stackLimit 0xFFFC ∧
      ((one (world (first fun t => { t with csp := 2048 }))).pop 0 0).2 = .trap .stackLimit 0x10800 ∧ (world).sliceSize grp = 2048 ∧
      Lane.guard { g := grp, ti := 0, t := thr } 1 = false ∧ Lane.guard { g := grp, ti := 0, t := thr } 14 = true ∧
      grantCheck ((world).accOf (.group 0)) (grp.u.getG 15) (grp.u.getG 15).wr 60 4 = none ∧
      grantCheck ((world).accOf (.group 0)) (grp.u.getG 15) (grp.u.getG 15).rd 64 4 = none ∧ (data.base + 60) % 4 = 0 ∧
      ((world).look ((world).accOf (.group 0)) .write 0x1003C).2 = .ok 0x1003C rw ∧
      ((world).look ((world).accOf (.group 0)) .read 0x10040).2 = .ok 0x10040 rw ∧
      ((world (leaf := 0xD200000000010000)).look ((world).accOf (.group 0)) .write 0x1003C).2 = .fault .pageProt := by decide +kernel

theorem test_meets_UniformControl :
    (four (world)).ufile (four (world)).issue.who = some file ∧ file.guard 14 = true ∧ file.guard 15 = false ∧
      (solo (world)).ufile (solo (world)).issue.who = some file ∧ (solo (world)).streams[0]? = some str ∧ str.rstack.length = 0 ∧
      ({ str with rstack := List.replicate 32 0x40 } : Stream).rstack.length = 32 ∧ (solo (world)).tileOps = [] ∧
      (four (world)).groups[0]? = some grp ∧ ((one (world)).push 0 0 0x108).2 = .ok 0x108 ∧ ((one (world)).pop 0 0).2 = .ok 0 := by decide +kernel

theorem test_meets_MonitorWaits :
    ((world (first fun t => { t with wait := .mwait (some 1200001) true 2 7 })).thread? 0 0).map Thread.wait = some (.mwait (some 1200001) true 2 7) ∧
      (world).tick < 1200001 ∧ 1200000 ≤ (world).tick := by decide +kernel

theorem test_meets_Collectives :
    (four (world)).issue.who = .group 0 ∧ grp.threads.length = grp.width ∧ grp.width ≤ 64 ∧ (∀ l ∈ (four (world)).issue.lanes, l.1 = 0) ∧
      (∀ ti < 4, (0, ti) ∈ (four (world)).issue.lanes) ∧ (∀ th ∈ grp.threads, th.live = true ∧ th.launched = true ∧ th.coll = none ∧ th.pend = []) ∧
      (∀ ti < 4, Lane.guard { g := grp, ti := ti, t := thr } 14 = true) ∧
      (∀ u ∈ grp.liveLanes, ((({ file with s := file.s.set 2 0xF } : UFile).getS 2).setWidth 64).getLsbD u = true) := by decide +kernel

/-- A context with a handler, without one, and with BKEN. -/
theorem test_meets_Traps :
    ((one (world (c := { run0 with uvec := 0x800 }))).push 0 0 0x108).2 = .ok 0x108 ∧ ({ run0 with uvec := 0x800 } : Ctx).uvec ≠ 0xFFFFFFFF ∧
      run0.uvec = 0xFFFFFFFF ∧ 4 ≤ thr.csp ∧ thr.hcsp = none ∧ thr.pend = [] ∧ (one (world (c := { run0 with uvec := 0x800 }))).ctxOf (.group 0) = 0 ∧
      (world (c := { run0 with uvec := 0x800 })).ctx 0 = { run0 with uvec := 0x800 } ∧ ((world (c := { run0 with bken := true })).ctx 0).bken = true ∧
      ((world).ctx 0).bken = false ∧ Lane.guard { g := grp, ti := 0, t := thr } 1 = false ∧ (solo (world)).ctxOf (.stream 0) = 0 ∧
      str.hcsp = none ∧ str.rstack.length < 32 ∧ 32 ≤ ({ str with rstack := List.replicate 32 0 } : Stream).rstack.length := by decide +kernel

theorem test_meets_CountersAndSpecialRegisters :
    (∀ l ∈ (four (world)).issue.lanes, l.1 = 0) ∧ (four (world)).blocks[grp.bid]? = some blk ∧ (four (world)).kernels[blk.kid]? = some ker ∧
      (four (world)).issue.lanes = (0, 0) :: [(0, 1), (0, 2), (0, 3)] ∧ grp.threads[0]? = some thr ∧ (solo (world)).streams[0]? = some str ∧
      (solo (world)).kernels[str.kid]? = some ker ∧ 0 < grp.width ∧ grp.threads[(file.getS 1).toNat % grp.width]? = some thr := by decide +kernel

/-- A result that is known and one that is not. -/
def pendOf (known : Bool) : Pend := { left := 3, known := known, regs := [(4, 9)], preds := [] }

theorem test_meets_CompletionsAndLoading :
    (∀ k ∈ [true, false], (world { grp with u := { file with pend := [pendOf k] } }).ufile (.group 0) = some { file with pend := [pendOf k] } ∧
      ({ file with pend := [pendOf k] } : UFile).pend[0]? = some (pendOf k) ∧
      (first fun t => { t with pend := [pendOf k] }).threads[0]?.map (fun (x : Thread) => x.pend[0]?) = some (some (pendOf k))) ∧
      (world { grp with gst := .loading }).groups[0]?.map Group.gst = some .loading ∧ grp.gst ≠ .loading := by decide +kernel

/-! ## Accesses -/

/-- The store's one lane, its index 8 in V1 and its data in V0. -/
def acc0 : State := one (world (regs [0xDEADBEEF, 8, 3, 0]))

/-- What a look answers, without the state that it leaves. -/
def looked (s : State) (who : Agent) (k : AccKind) (va : Nat) : Look := (s.look (s.accOf who) k va).2

/-- What an access of some bytes meets, the state that it leaves apart. -/
def met (s : State) (who : Agent) (k : AccKind) (va n : Nat) (data : Option Bool) : Look := (s.lookFor (s.accOf who) k va n data (s.bidOf who)).2

/-- Each check of a lane fails somewhere: a stale grant, one without rights, an index past the end, a misaligned one; a page that
refuses, one that migrates. -/
theorem test_meets_AccessChecks :
    (grantCheck (acc0.accOf (.group 0)) (Grant.make 0x10000 65536 7 0 0 1 0) true 8 4 = some .grantStale) ∧
      (grantCheck (acc0.accOf (.group 0)) (Grant.make 0x10000 65536 0 0 0 0 0) (Grant.make 0x10000 65536 0 0 0 0 0).rd 8 4 = some .grantPerm) ∧
      grantCheck (acc0.accOf (.group 0)) data data.rd 65533 4 = some .grantBounds ∧ grantCheck (acc0.accOf (.group 0)) data data.rd 65532 4 = none ∧
      grantCheck (acc0.accOf (.group 0)) data data.rd (-1) 4 = some .grantBounds ∧ (data.base + 2) % 4 ≠ 0 ∧ data.ge = false ∧
      looked (world (leaf := 0xD200000000010000)) (.group 0) .write 0x10008 = .fault .pageProt ∧
      looked (world (leaf := 0xD700000000010000)) (.group 0) .write 0x10008 = .wait ∧ Lane.guard { g := grp, ti := 0, t := thr } 14 = true ∧
      (1 : BitVec 3) ≠ 4 ∧ (acc0.ctx (acc0.ctxOf (.group 0))).priv = false := by decide +kernel

/-- The line of 0x10000 in the L2 of die 0, its first sector valid. -/
def warmLine : L2Line :=
  { cls := 1, part := 0, tag := 0, slice := 0, way := 0, age := 0, keep := false, owned := false, poison := false, counted := true, cells := (List.range 32).map fun i => (i, { val := BitVec.ofNat 8 i, dirty := false }) }

/-- A package whose L2 holds that line, and whose thread 1 monitors it. -/
def warm : State := { acc0 with l2 := [(512, warmLine)], groups := acc0.groups.map fun g => { g with threads := g.threads.modify 1 fun t => { t with monitor := some { line := 512, written := false, lost := false } } } }

/-- Its line POISON. -/
def sick : State := { warm with l2 := [(512, { warmLine with poison := true })] }

/-- What the checks of a lane leave to the access: a page that refuses, one that migrates, poison, and a kind that a host page does not take. -/
theorem test_meets_AccessChecks_found :
    met (world (leaf := 0xD200000000010000)) (.group 0) .write 0x10008 4 none = .fault .pageProt ∧
      met (world (leaf := 0xD700000000010000)) (.group 0) .write 0x10008 4 none = .wait ∧
      met sick (.group 0) .read 0x10008 4 (some false) = .poison ∧ met sick (.group 0) (atomKind 0) 0x10008 4 (some true) = .poison ∧
      met (world (leaf := 0xD3F8000000000000)) (.group 0) (atomKind 1) 0x10008 4 (some true) = .fault .pageClass ∧
      met (world (leaf := 0xD7F8000000000000)) (.group 0) (atomKind 1) 0x10008 4 (some true) = .fault .pageClass ∧
      stands (.atom 14 0 2 1 2 0 0 0 1 0 2 0x100) (one (world (regs [0, 8]) (leaf := 0xD7F8000000000000))) = some Cause.pageClass.code ∧
      paKind (leafPa 0xD7F8000000000000) = .host ∧ leafRd 0xD7F8000000000000 = true ∧ leafW 0xD7F8000000000000 = true ∧
      (acc0.translate (acc0.accOf (.group 0)) 0x10008).2 = .leaf 0 rw := by decide +kernel

theorem test_meets_LoadsAndStores :
    notReplaying acc0 (.group 0) ∧ (acc0.lookRead (acc0.accOf (.group 0)) .read 0x10008 4 false (some 0)).2 = .ok 0x10008 rw ∧
      (acc0.lookRead (acc0.accOf (.group 0)) .read 0x10008 4 true (some 0)).2 = .ok 0x10008 rw ∧
      (acc0.lookRead (acc0.accOf (.group 0)) (atomKind 0) 0x10008 4 true (some 0)).2 = .ok 0x10008 rw := by
  decide +kernel

theorem test_meets_LoadsAndStores_warm :
    looked acc0 (.group 0) .read 0x10008 = .ok 0x10008 rw ∧ looked acc0 (.group 0) .write 0x10008 = .ok 0x10008 rw ∧
      grantCheck (acc0.accOf (.group 0)) data data.wr 8 8 = none ∧ (data.base + 8) % 8 = 0 ∧ (acc0.kernelOf 0).isSome = true ∧
      warm.look (warm.accOf (.group 0)) .write 0x10008 = (warm, .ok 0x10008 rw) ∧ warm.look (warm.accOf (.group 0)) .read 0x10008 = (warm, .ok 0x10008 rw) ∧
      (warm.accOf (.group 0)).die = 0 ∧ (warm.accOf (.group 0)).core = some 0 ∧ (warm.accOf (.group 0)).part = 0 ∧ (warm.accOf (.group 0)).ctx = 0 ∧
      leafCls rw = 1 ∧ warm.rucHome (warm.accOf (.group 0)) rw = 0 ∧ warm.atGateHome (warm.accOf (.group 0)) rw = false ∧
      warm.lost (warm.accOf (.group 0)) rw 0x10008 4 true true = false ∧ warm.lost (warm.accOf (.group 0)) rw 0x10008 4 false true = false ∧
      warm.foreign (warm.accOf (.group 0)) rw 0x10008 = false ∧ warm.poisoned (warm.accOf (.group 0)) rw 0x10008 4 false = false ∧ warmLine.cells ≠ [] ∧
      warm.line? 0 (lineOf 0x10008) = some warmLine ∧ warm.sliceOf 0 0 (lineOf 0x10008) = 0 ∧ warm.poison.contains (lineOf 0x10008) = false ∧
      (∀ i < 4, warm.l1Byte? 0 (0x10008 + i) = none) ∧ (∀ i < 4, warmLine.byte? (0x10008 % 128 + i) = some (BitVec.ofNat 8 (8 + i))) := by
  decide +kernel

/-- The same package with four bytes in the L1 of core 0. -/
def hot : State := { warm with l1 := [(512, { age := 0, keep := false, tag := 0, cells := (List.range 4).map fun i => (8 + i, { val := BitVec.ofNat 8 (65 + i), owned := false }) })] }

theorem test_meets_LoadsAndStores_hit :
    hot.look (hot.accOf (.group 0)) .read 0x10008 = (hot, .ok 0x10008 rw) ∧ hot.foreign (hot.accOf (.group 0)) rw 0x10008 = false ∧ hot.poisoned (hot.accOf (.group 0)) rw 0x10008 4 false = false ∧
      (∀ i < 4, (hot.l1Byte? 0 (0x10008 + i)).map L1Byte.val = some (BitVec.ofNat 8 (65 + i))) ∧
      gives (.ld 14 0 2 1 2 0 0 0 1 0 0 0) hot 2 = some 0x44434241 ∧ gives (.ld 14 0 2 1 2 0 0 0 1 0 0 0) warm 2 = some 0x0B0A0908 := by decide +kernel

/-- Device and host pages under an atomic, and the worked atomics: add, compare and swap that matches. -/
theorem test_meets_Atomics :
    looked acc0 (.group 0) .atomic 0x10008 = .ok 0x10008 rw ∧ paKind 0x10008 ≠ .host ∧
      looked (world (leaf := 0xD3F8000000000000)) (.group 0) .atomic 0x10008 = .ok (2 ^ 51 + 0x8) 0xD3F8000000000000 ∧ paKind (2 ^ 51 + 0x8) = .host ∧
      acc0.logBlock (.group 0) = some 0 ∧ blk.replay = [] ∧ acc0.protects 0 = false ∧ data.at' = true ∧
      gives (.atom 14 0 2 1 2 0 0 0 1 0 2 0) warm 2 = some 0x0B0A0908 ∧
      byteAt (after (.atom 14 0 2 1 2 0 0 0 1 0 2 0) warm) 0 0x10008 = 0x0B ∧ byteAt (after (.atom 14 0 2 1 2 0 0 0 1 0 2 0) warm) 0 0x10009 = 0x09 := by decide +kernel

theorem test_meets_UniformAccesses :
    (∀ s ∈ [four (world), solo (world)], s.ufile s.issue.who = some file ∧ file.guard 14 = true ∧ file.guard 15 = false ∧
        grantCheck (s.accOf s.issue.who) (file.getG 1) true (file.getS 5).toNat 4 = none ∧ (file.getG 1).ge = false ∧
        looked s s.issue.who .read 0x10000 = .ok 0x10000 rw ∧ looked s s.issue.who .write 0x10000 = .ok 0x10000 rw ∧
        looked s s.issue.who .atomic 0x10000 = .ok 0x10000 rw ∧
        met s s.issue.who .read 0x10000 4 (some false) = .ok 0x10000 rw ∧ met s s.issue.who (atomKind 0) 0x10000 4 (some true) = .ok 0x10000 rw) ∧
      (solo (world)).logBlock (.stream 0) = some 0 ∧ (world).protects 0 = false := by decide +kernel

/-- The kernel whose guard 0 has an action. -/
def kerAct (act : Byte) : Kernel := { ker with record := ker.record.set 0xF0 act }

/-- Data that the guard 0..0 of G3 refuses and data that it lets pass; the pads and their bounds. -/
theorem test_meets_GuardsAndPads :
    (∀ act ∈ [0, 1, 2, 3], (kerAct (BitVec.ofNat 8 act)).gdact 0 = act ∧ (kerAct (BitVec.ofNat 8 act)).guardPass 0 (fp32.dec 0x3F800000) = false ∧
        (kerAct (BitVec.ofNat 8 act)).guardPass 0 (fp32.dec 0) = true) ∧
      (one (world (k := kerAct 3))).kernelOf 0 = some (kerAct 3) ∧ (one (world)).issue.rep = none ∧ thr.standing = none ∧
      (one (world)).issue.next ≠ (one (world)).issue.pc ∧ (file.getG 3).ge = true ∧ (file.getG 3).gi = 0 ∧
      grantCheck (acc0.accOf (.group 0)) (file.getG 3) (file.getG 3).wr 8 8 = none ∧ acc0.padTarget 0 1 = some 0 ∧ acc0.padTarget 0 8 = some 0 ∧
      blk.padsz = 65536 ∧ blk.bst = .placed ∧ ({ blk with bst := .saved } : Block).bst ≠ .placed ∧ acc0.blocks[0]? = some blk ∧ blk.padPoison = [] ∧ acc0.tileOps = [] ∧ blk.pad.wf = true ∧
      stands (.pst 14 0 1 2 0 0 0 0 0 0 0) (one (world (regs [0, 65536]))) = some Cause.padBounds.code ∧
      stands (.pst 14 0 1 2 0 0 0 0 0 0 0) (one (world (regs [0, 65408]))) = some Cause.barrierMisuse.code ∧
      stands (.pst 14 0 1 2 0 0 0 0 0 0 0) (one (world (regs [0, 65404]))) = none ∧
      stands (.pld 14 0 0 1 2 0 0 0 0 0 0 0) (one (world (regs [0, 2]))) = some Cause.misalign.code ∧
      gives (.pld 14 0 0 1 2 0 0 0 0 0 0 0) (one (world (regs [0, 65532]))) 0 = some 0 := by decide +kernel

/-- A strict context, and one that is not, under an issue at SYS; addresses at each scope. -/
theorem test_meets_FencesAndMaintenance :
    (acc0.kernels[acc0.kidOf acc0.issue.who]?).isSome = true ∧ (acc0.ctx (acc0.ctxOf (.group 0))).priv = false ∧
      (acc0.ctx 0).strict = false ∧ ker.strict = false ∧ (acc0.part 0).mode.getLsbD 2 = false ∧
      ((world (c := { run0 with strict := true })).ctx 0).strict = true ∧ file.guard 14 = true ∧ file.guard 15 = false ∧
      grantCheck (acc0.accOf (.group 0)) data data.rd 8 1 = none ∧ (acc0.accOf (.group 0)).core = some 0 ∧
      looked acc0 (.group 0) .flush 0x10008 = .ok 0x10008 rw ∧ (acc0.heldLeaf (acc0.accOf (.group 0)) 0x10008).isSome = true ∧
      acc0.heldLeaf (acc0.accOf (.group 0)) 0x20008 = none ∧
      stands (.fence 14 2 4) (one (world (c := { run0 with strict := true }))) = some Cause.scope.code ∧
      stands (.fence 14 2 4) acc0 = none ∧ acc0.issue.again = false ∧ acc0.rucHome (acc0.accOf (.group 0)) rw = 0 ∧
      leafRd 0xD100000000010000 = false ∧ ((world (leaf := 0xDB00000000010000)).gatedCheck 0 .read 0xDB00000000010000).isSome = true ∧
      stands (.pref 14 1 2 0 0 0 4 0 0 0) acc0 = none := by decide +kernel

/-- A page that is translated, one with gate rights that are not there, and one that is absent. -/
theorem test_meets_ProbesAndHints :
    (acc0.translate (acc0.accOf (.group 0)) 0x10008).2 = .leaf 0 rw ∧ (0 : Nat) < 4 ∧ acc0.gatedCheck 0 .read rw = none ∧
      ((world (leaf := 0xDB00000000010000)).gatedCheck 0 .read 0xDB00000000010000).isSome = true ∧
      (∀ lvl e, (acc0.translate (acc0.accOf (.group 0)) 0x30008).2 ≠ .leaf lvl e) ∧
      grantCheck (acc0.accOf (.group 0)) data (data.rd || data.wr || data.at') 8 1 = none ∧
      ((acc0.die 0).regions.filter fun q => q.region != (9 : Nat)).length < 4096 := by
  refine ⟨by decide +kernel, by decide +kernel, by decide +kernel, by decide +kernel, fun lvl e h => ?_, by decide +kernel, by decide +kernel⟩
  have h2 : (acc0.translate (acc0.accOf (.group 0)) 0x30008).2 = .absent := by decide +kernel
  rw [h2] at h; cases h

/-- The pairs that give GNARROW its offset and length: S0 an offset of 0, S4 a length. -/
def fileN (len : Word) : UFile := { file with s := file.s.set 4 len |>.set 6 0 }

theorem test_meets_GrantNarrowingAndInformation :
    (solo (world (x := { str with u := fileN 16 }))).ufile (.stream 0) = some (fileN 16) ∧ (fileN 16).getS2 6 = 0 ∧ (fileN 16).getS2 4 = 16 ∧
      (fileN 0).getS2 4 = 0 ∧ (fileN 65537).getS2 4 = 65537 ∧ ((fileN 16).getG 1).tag = true ∧ ((fileN 16).getG 0).tag = false ∧
      ((fileN 16).getG 1).part = ((solo (world)).accOf (.stream 0)).part ∧ ((fileN 16).getG 1).ctxNo = ((solo (world)).accOf (.stream 0)).ctx ∧
      (Grant.make 0x10000 65536 7 0 0 1 0).part ≠ ((solo (world)).accOf (.stream 0)).part ∧ ((fileN 16).getG 1).len = 65536 ∧
      (3 : BitVec 4) &&& BitVec.ofNat 4 ((fileN 16).getG 1).perms = 3 ∧ (15 : BitVec 4) &&& BitVec.ofNat 4 ((fileN 16).getG 1).perms ≠ 15 ∧
      ((fileN 16).getG 3).ge = true ∧ bitAt ker.gdmask 0 = true ∧ ((fileN 16).getG 1).base + 0 < 2 ^ 57 ∧ (fileN 16).guard 15 = false ∧
      ((four (world)).kernels[(four (world)).kidOf (.group 0)]?).isSome = true := by decide +kernel

/-! ## Copies and barriers -/

/-- A shape of eight words in one dimension. -/
def flat : List Word := [2, 7, 0, 0, 0, 0, 0, 0]

/-- A copy of eight words from the data grant into the pad, as SHAPE and XCOPY make it. -/
def cp : Copy :=
  { gid := 0, bid := 0, kind := 0, dir := 0, k := 0, gix := 1, grant := data, scope := 1, hint := 0, stage := 0, get := false, off64 := false, far := 8, pbase := 0, mask := 0, shape := flat, cst := .running, prog := 0, cause := 0, tval := 0, recips := [0], ctx := 0, slot := none }

/-- A barrier word in use that counts n members. -/
def wordN (n : Nat) : BitVec 64 := BitVec.ofNat 64 (2 ^ 62 + n * 2 ^ 34)

/-- A block with the shape entry 0 set and word 0 counting two members. -/
def shaped : Block := { blk with shapes := blk.shapes.set 0 (some flat), words := blk.words.set 0 (wordN 2) }

theorem test_meets_CopyIssue :
    (four (world)).issue.who = .group 0 ∧ (four (world)).groups[0]? = some grp ∧ (four (world)).kernelOf grp.bid = some ker ∧
      (four (world)).uguard 14 = true ∧ (solo (world)).issue.who = .stream 0 ∧ (four (world (b := shaped))).blocks[0]? = some shaped ∧
      file.guard 14 = true ∧ (four (world)).copyCheck { cp with shape := List.replicate 8 0 } blk false = some (.shapeInvalid, 0) ∧
      (four (world (b := shaped))).copyCheck cp shaped true = none ∧ (four (world (b := shaped))).copyCheck { cp with pbase := 65504 } shaped true = some (.padBounds, 65504) ∧
      (four (world (b := shaped))).copyCheck { cp with far := 2 } shaped true = some (.misalign, 0x10002) ∧
      (four (world)).copyCheck cp blk true = some (.barrierMisuse, 0) ∧ (four (world)).blockCopies 0 = 0 ∧ (four (world)).clusterCopies blk = 0 ∧
      (four (world)).copies.length < 64 ∧ 32 ≤ ({ (world) with copies := List.replicate 32 cp } : State).blockCopies 0 ∧ ((shaped.shapes[0]?).join).isSome = true ∧
      (4 : Nat) % 4 = 0 ∧ (flat[0]?).map BitVec.toNat = some 2 := by decide +kernel

/-- A block of stage 1 beside it, a kernel of two stages, and a copy that puts the pad of stage 0 into that of stage 1. -/
def piped : State :=
  { world (b := shaped) (k := { ker with record := ker.record.set 0x12 2 }) with blocks := [shaped, { shaped with stage := 1 }], copies := [{ cp with dir := 2, stage := 1, far := 64 }] }

/-- The line of a halt that was raised at some time. -/
def lined (at_ : Nat) : Ctx := { run0 with line := some { kind := .fault, at_ := at_, drained := false, rto := 2000 } }

/-- The package with copies. -/
def copying (l : List Copy) (b : Block := shaped) (leaf : BitVec 64 := rw) : State := { world (b := b) (leaf := leaf) with copies := l }

/-- A copy whose source line is POISON. -/
def sickCopy : State := { sick with copies := [cp] }

theorem test_meets_CopyProgress :
    ((copying [cp]).ctx cp.ctx).st = .running ∧ cp.sectors = 1 ∧ cp.window = false ∧ (cp.sector 0).length = 8 ∧
      ((copying [cp]).copyLook ((copying [cp]).accAt 0 0 0 none) .read 4 (some true) 0 [0x10008, 0x1000C]).2 = .done ∧
      ((copying [cp] (leaf := 0xD100000000010000)).copyLook ((copying [cp]).accAt 0 0 0 none) .read 4 (some true) 0 [0x10008]).2 = .trap .pageProt 0x10008 ∧
      ((copying [{ cp with dir := 1 }] (leaf := 0xD700000000010000)).copyLook ((copying [cp]).accAt 0 0 0 none) .write 4 none 0 [0x10008]).2 = .wait ∧
      (sickCopy.copyLook (sickCopy.accAt 0 0 0 none) .read 4 (some true) 0 [0x10008]).2 = .poison ∧
      (∀ i ∈ cp.recips, (copying [cp]).placed i = true) ∧ (copying [cp] { shaped with bst := .saved }).placed 0 = false ∧
      ({ cp with prog := 1 } : Copy).sectors ≤ 1 ∧ shaped.halt = none ∧ grp.bards = [] ∧
      piped.padTarget 0 (BitVec.ofNat 4 (8 + 1)) = some 1 ∧ (piped.copies[0]?).map Copy.window = some true ∧ (piped.ctx 0).st = .running ∧
      (piped.kernelOf 1).isSome = true ∧ piped.tileOps = [] ∧ piped.placed 1 = true ∧ piped.placed 0 = true ∧ shaped.padPoison = [] ∧ shaped.pad.wf = true ∧ shZ cp.shape = 4 ∧
      (∀ e ∈ ({ cp with dir := 2, stage := 1, far := 64 } : Copy).sector 0, 64 + (cp.place e).1 + 4 + 128 ≤ shaped.padsz) ∧
      (∀ e ∈ cp.sector 0, ∀ e' ∈ cp.sector 0, e ≠ e' → 64 + (cp.place e).1 + 4 ≤ 64 + (cp.place e').1 ∨ 64 + (cp.place e').1 + 4 ≤ 64 + (cp.place e).1) ∧
      ((world (c := lined 0)).ctx 0).line.isSome = true ∧ (world).clock = 100000 ∧ ¬ ((world).clock < 98000 + 2000) ∧ (world).clock < 98001 + 2000 := by decide +kernel

/-- A word with an arrival missing, at its phase's end, and not in use, seen by its own group and through a window. -/
theorem test_meets_BarrierInstructions :
    (∀ n ∈ [1, 2], shaped.words.set 0 (wordN n) ≠ [] ∧ (BWord.ofBits (wordN n)).init = true ∧ (BWord.ofBits (wordN n)).exp = n ∧ (BWord.ofBits (wordN n)).arr = 0 ∧
        (BWord.ofBits (wordN n)).tx = 0 ∧ (BWord.ofBits (wordN n)).ph = false ∧ (BWord.ofBits (wordN n)).ws < 8 ∧ (BWord.ofBits (wordN n)).cc = 0) ∧
      (BWord.ofBits (wordN 2 ||| 2 ^ 63)).ph = true ∧ (BWord.ofBits (wordN 2 ||| 2 ^ 23)).arr = 2 ∧ (BWord.ofBits (wordN 2 ||| 2 ^ 54)).tx = 256 ∧
      (BWord.ofBits (0x1FF * 2 ^ 46)).tx = 511 ∧ shaped.heldOn 0 = [] ∧ (0 : Nat) < shaped.words.length ∧ (blk.word 0).init = false ∧
      (four (world (b := shaped))).groups[0]? = some grp ∧ file.guard 14 = true ∧ (four (world (b := shaped))).blocks[0]? = some shaped ∧
      (four (world (b := shaped))).barTarget 0 0 0 = .block 0 ∧ (four piped).barTarget 1 1 0 = .block 1 ∧
      (four { piped with blocks := [shaped, { shaped with stage := 1, bst := .saved }] }).barTarget 1 1 0 = .wait ∧
      (∀ t ∈ grp.liveLanes, ((0 : Nat), t) ∈ (four (world)).issue.lanes) ∧ ¬ (∀ t ∈ grp.liveLanes, ((0 : Nat), t) ∈ (one (world)).issue.lanes) ∧
      (shaped.word 0).init = true ∧ (shaped.word 0).arr < (shaped.word 0).exp ∧ grp.tp.getLsbD 0 = false := by decide +kernel

/-- A second group of the block, which has arrived or has not. -/
def pair (arrived : Bool) : State :=
  four { world with groups := [grp, { grp with slot := 4, arrBlk := arrived, arrClu := arrived, arrDie := arrived }] }

/-- The image that is being written. -/
def image : Snapshot := { groups := [grp], pad := [], words := [], held := [], shapes := [], tiles := [], logAt := 0, at_ := none }

theorem test_meets_ArrivalsAndFixedBarriers :
    (four (world (b := shaped))).outstanding 0 0 = 0 ∧ (four (world (b := shaped))).groupCopies 0 = [] ∧ (four (copying [cp])).groupCopies 0 = [0] ∧
      (four (copying [cp])).barTarget 0 0 0 = .block 0 ∧ (BWord.ofBits (wordN 2 ||| 2 ^ 23)).exp ≤ (BWord.ofBits (wordN 2 ||| 2 ^ 23)).arr ∧
      63 ≤ (four (world (b := { shaped with held := shaped.held.set 0 (List.replicate 63 0) }))).outstanding 0 0 ∧
      8 ≤ ({ grp with bards := List.replicate 8 { k := 0, win := false, stage := 0, scope := 0, copies := [0] } } : Group).bards.length ∧
      ker.rollback = false ∧ ker.resident = false ∧ ({ ker with record := ker.record.set 2 1 } : Kernel).resident = true ∧
      (∀ f ∈ [Fixed.blk, .clu, .die], (pair true).members 0 f = [0, 1] ∧ 0 ∈ (pair false).members 0 f ∧
        ((pair true).groups[1]?).map (fun (x : Group) => x.arrived f) = some true ∧ ((pair false).groups[1]?).map (fun (x : Group) => x.arrived f) = some false) ∧
      (∀ t ∈ grp.liveLanes, ((0 : Nat), t) ∈ (pair true).issue.lanes) ∧ (world (b := { blk with snapWriting := some image })).blocks[0]? = some { blk with snapWriting := some image } ∧
      blk.snapWriting = none := by decide +kernel

/-! ## Gates, queues and tiles -/

/-- An entry of partition 0 with every right: without a rate, or with one and n tokens. -/
def gent (rate : BitVec 14) (n : Nat) : GateEntry := { valid := true, part := 0, rights := 15, burst := 9, rate := rate, tokens := n, faults := 0, stalls := 0 }

/-- A gate in a state, with that entry, at SEQ 5. -/
def gate1 (st : GateSt) (resp : Bool := false) (e : GateEntry := gent 0 0) : Gate :=
  { Gate.free with gst := st, resp := resp, seq := 5, entries := e :: List.replicate 7 GateEntry.zero }

/-- The group's issue beside gate 0, which S2 names: S4 is 3, S6 is 9. -/
def gated (x : Gate) : State := { four (world { grp with u := { file with s := (file.s.set 4 3).set 6 9 } }) with gates := [(0, x)] }

theorem test_meets_GateOperations :
    (gated Gate.free).gate 0 = Gate.free ∧ (gated Gate.free).waitStamp = none ∧ notReplaying (gated Gate.free) (.group 0) ∧ ((gated Gate.free).ufile (.group 0)).map (fun u => ((u.getS 2).toNat, u.getS2 4, u.getS2 6, u.guard 14)) = some (0, 3, 9, true) ∧
      (gate1 .opened).entryOf 0 = some 0 ∧ (gate1 .opened).rightsOf 0 = 15 ∧ (gate1 .opened).parked = [] ∧ (gate1 .opened).stalled = [] ∧
      (gate1 .opened).pay[0]? = some 0 ∧ Gate.free.entryOf 0 = none ∧ ({ gate1 .opened with entries := List.replicate 8 GateEntry.zero } : Gate).entryOf 0 = none ∧
      (gate1 .frozen).gst = .frozen ∧ (gent 100 0).rate ≠ 0 ∧ (gent 100 0).tokens = 0 ∧ 0 < (gent 100 3).tokens ∧
      (3 : BitVec 64) ≤ (gate1 .opened).seq ∧ ¬ (9 : BitVec 64) ≤ (gate1 .opened).seq ∧ (gate1 .opened true).resp = true := by decide +kernel

/-- A stream stalled at a gate since a time. -/
def stall (since : Nat) : State :=
  { world with gates := [(0, { gate1 .opened false (gent 100 0) with stalled := [{ who := .stream 0, stamp := 0, entry := 0, since := since }] })] }

theorem test_meets_GateManagement :
    ({ gated (gate1 .opened false (gent 100 0)) with tick := 120000 } : State).tick / (1000000 / 100 * 12) ≠ (120000 - 10) / (1000000 / 100 * 12) ∧
      1200010 / (1000000 / 100 * 12) = (1200010 - 10) / (1000000 / 100 * 12) ∧ ((stall 0).gate 0).stalled.length = 1 ∧ (stall 0).clock = 100000 ∧
      (((stall 0).gate 0).entries[0]?).map (·.tokens) = some 0 ∧ (gent 100 3).tokens = 3 ∧
      0 + 10000 ≤ (stall 0).clock ∧ (stall 95000).clock < 95000 + 10000 ∧ (stall 0).gates.length = 1 ∧ (stall 0).streams[0]? = some str ∧
      (∀ st ∈ [GateSt.opened, .frozen], (gated (gate1 st)).gate 0 = gate1 st ∧ (gate1 st).gst ≠ .free) ∧ (0 : Nat) < (gate1 .opened).entries.length ∧
      ((0x80000000 : Word).extractLsb' 26 5).toNat = 0 ∧ (0x80000000 : Word).extractLsb' 14 8 = 0 ∧ (0x80004000 : Word).extractLsb' 14 8 = 1 ∧
      (0x80004000 : Word).getLsbD 31 = true ∧ (gate1 .opened).entries[0]? = some (gent 0 0) := by decide +kernel

/-- A context whose queue 0 is open and has taken some beats, in a formed partition. -/
def openQ (beats : List (Nat × List Byte)) : Ctx :=
  { run0 with queues := run0.queues.set 0 { Queue.closed with opened := true, beats := beats } }

/-- Partition 0 ACTIVE. -/
def formed (s : State) : State := { s with parts := s.parts.set 0 { Part.unformed with formed := true, active := true } }

/-- A kernel that waits in queue 0. -/
def kq : Kernel := { ker with kst := .queued }

/-- A context with a wait for event counter 0. -/
def notMet : Ctx := { run0 with evwaits := [{ who := .group 0, stamp := 7, ev := 0, t := 1 }] }

/-- A package whose page is EXCLUSIVE to device 1. -/
def away : State := { four (world (leaf := 0xD340000000010000)) with owns := [(1, { PageOwn.home with excl := some 1 })], links := State.reset.links.modify 12 fun l => { l with lst := .up } }

theorem test_meets_EventCountersAndLaunches :
    (four (world (c := openQ []))).ufile (.group 0) = some file ∧ file.guard 14 = true ∧ notReplaying (four (world (c := openQ []))) (.group 0) ∧
      (four (world (c := openQ []))).waitStamp = none ∧ ((four (world (c := openQ []))).queue 0 0).opened = true ∧ ((four (world)).queue 0 0).opened = false ∧
      (four (world (c := openQ []))).kernels[(four (world (c := openQ []))).kidOf (.group 0)]? = some ker ∧
      (file.getS 1).toNat % 64 = 1 ∧ grantCheck ((four (world)).accOf (.group 0)) data data.rd 1 512 = none ∧
      grantCheck ((four (world)).accOf (.group 0)) data data.rd 65472 512 = some .grantBounds ∧ (file.getS 5).toNat % 64 = 0 ∧
      ((four (world (c := openQ []))).entries 0 0).length < 64 ∧ 64 ≤ ((four { world with kernels := List.replicate 64 kq } : State).entries 0 0).length ∧
      (∀ i ∈ List.range 8, looked (four (world (c := openQ []))) (.group 0) .read (0x10000 + 64 * i) = .ok (0x10000 + 64 * i) rw) ∧
      (file.getS2 5).setWidth 48 ≤ run0.event 0 ∧ ¬ (1 : BitVec 48) ≤ run0.event 0 ∧ notMet.evwaits.find? (fun w => w.who == Agent.group 0 && some w.stamp == some 7) = some { who := .group 0, stamp := 7, ev := 0, t := 1 } ∧
      (notMet.evwaits.filter fun x => !(x.ev == 0 && decide (x.t ≤ (1 : BitVec 48)))) = [] ∧ (world).ctx 0 = run0 ∧ run0.st ≠ .free ∧ ((world).ctx 1).st = .free ∧ run0.evwaits = [] ∧
      (((four (world (c := openQ []))).release ((four (world)).accOf (.group 0)) 3).readRecord ((four (world)).accOf (.group 0)) (some 0) (alignedPieces 0x10000 512)).2.1 = .done ∧
      (((four (world (leaf := 0xD100000000010000))).release ((four (world)).accOf (.group 0)) 3).readRecord ((four (world)).accOf (.group 0)) (some 0) (alignedPieces 0x10000 512)).2.1 = .trap .pageProt 0x10000 ∧
      ((away.release ((four (world)).accOf (.group 0)) 3).readRecord ((four (world)).accOf (.group 0)) (some 0) (alignedPieces 0x10000 512)).2.1 = .wait ∧
      ((four (world (c := openQ []))).queue 0 0).waiting = [] ∧ ((four (world { grp with threads := List.replicate 4 { thr with wait := Wait.uni 7 false } })).waitStamp = some 7) := by decide +kernel

/-- Seven beats of a record. -/
def beats7 : List (Nat × List Byte) := (List.range 7).map fun i => (i, List.replicate 64 0)

theorem test_meets_QueuePortsAndCommands :
    ((world (c := openQ beats7)).ctx 0).queues.length = 16 ∧ ((world (c := openQ beats7)).queue 0 0).opened = true ∧ (List.replicate 64 (0 : Byte)).length = 64 ∧
      (tset beats7 7 (List.replicate 64 0)).length = 8 ∧ (tset ([] : List (Nat × List Byte)) 7 (List.replicate 64 0)).length ≠ 8 ∧
      ((world (c := openQ beats7)).entries 0 0).length < 64 ∧ (world).partLive 0 = false ∧ (formed (world)).partLive 0 = true ∧
      ((formed (world)).ctx 0).st ≠ .free ∧ ((formed (world)).ctx 0).part = 0 ∧ ((formed (world)).ctx 1).st = .free ∧ run0.st ≠ .bound ∧ run0.st ≠ .dead ∧
      ({ run0 with st := .bound } : Ctx).st = .bound := by decide +kernel

/-- A tile operation of the stream on the block of the group. -/
def top (i : Instr) (r : List Word) (st : TileSt) (prog : Nat) : TileOp :=
  { sid := 0, bid := 0, ins := i, handle := 0, rec_ := r, prog := prog, ost := st, cause := 0, started := st != .queued, rgHit := none, tainted := false, acquired := false, scales := [], seq := 0, phase := none, slot := none }

/-- A kernel with two tiles, two pad units and a format in its slot 0. -/
def kerFmt (f : Byte) : Kernel := { ker with record := (((ker.record.set 0x04 0x40).set 0x05 8).set 0x50 f) }

/-- The block of that kernel, with its tiles. -/
def tiled (f : Byte) : Block := { (kerFmt f).entryBlock 0 0 0 0 0 0 0 with words := blk.words.set 0 (wordN 2) }

/-- The stream's issue on that block beside tile operations. -/
def tile (f : Byte) (l : List TileOp) : State := { solo (world (b := tiled f) (k := kerFmt f)) with tileOps := l }

/-- A product of rows at 0 and 0x4000, and a drain to 0x8000, at a pitch of 512. -/
def mma : Instr := .tmma 14 0 0 0 0 0 0 0 0 0 0 0 0
/-- The drain. -/
def drain : Instr := .tdrain 14 0 0 0 0 0 0 1 0 0 0

theorem test_meets_TileIssue :
    (tile 2 []).issue.who = .stream 0 ∧ (tile 2 []).streams[0]? = some str ∧ (tile 2 []).handleTarget 0 0 = .block 0 ∧ (tile 2 []).blocks[0]? = some (tiled 2) ∧
      (tile 2 []).handleTarget 0 0x80000 = .bad ∧
      ({ tile 2 [] with blocks := [{ tiled 2 with bst := .saved }] } : State).handleTarget 0 0 = .wait ∧ (kerFmt 2).accn = 2 ∧ ker.accn = 1 ∧ recordAligned (kerFmt 2) mma [0, 512, 0x4000, 512] = true ∧ recordAligned (kerFmt 2) mma [1, 512, 0x4000, 512] = false ∧
      (∀ f ∈ tileFoot (kerFmt 2) mma [0, 512, 0x4000, 64], f.1 + f.2 + 128 ≤ (tiled 2).padsz) ∧
      (∃ f ∈ tileFoot (kerFmt 2) mma [0, 512, 0x1C000, 512], (tiled 2).padsz < f.1 + f.2 + 128) ∧ ((tiled 2).word 0).init = true ∧ ((tiled 2).word 1).init = false ∧
      (tile 2 []).unitOps (tiled 2).coreNo < 8 ∧ 8 ≤ (tile 2 (List.replicate 8 (top mma [] .queued 0))).unitOps (tiled 2).coreNo ∧ (tile 2 []).outstanding 0 0 < 63 := by decide +kernel

theorem test_meets_TileWaitsAndEnds :
    (kerFmt 2).rollback = false ∧ (tile 2 [top mma [] .queued 0, top mma [] .queued 0]).tileFirst 0 (top mma [] .queued 0) = true ∧
      (tile 2 [top mma [] .queued 0, top mma [] .queued 0]).tileFirst 1 (top mma [] .queued 0) = false ∧ slotScale ((kerFmt 2).slot 0) = 0 ∧
      (tile 2 [top mma [] .queued 0]).handleTarget 0 0 = .block 0 ∧
      ([top mma [] .queued 0].filter fun o => o.sid == 0 && o.open') ≠ [] ∧ ([top mma [] .complete 0].filter fun o => o.sid == 0 && o.open') = [] ∧
      (tileNames mma).contains 0 = true ∧ (tiled 2).bst = .placed ∧ (tiled 2).trigger = none ∧ ((tile 2 []).ctx ((tile 2 []).ctxOf (.stream 0))).st = .running ∧
      tileSteps mma ≤ 2 ∧ 0 < tileSteps mma ∧ (top mma [] .running 2).word = none ∧ (top (.tmma 14 0 0 0 0 0 0 0 0 0 1 0 0) [] .running 2).word = some 0 ∧
      ((tiled 2).word 0).arr < ((tiled 2).word 0).exp := by decide +kernel

/-- Formats 2, 5 and 8 in slot 0, a chunk of a product and a row group of a drain. -/
theorem test_meets_TileArithmetic :
    (∀ f ∈ [(2 : Byte), 5, 8], slotFmt ((kerFmt f).slot 0) = f.toNat ∧ (tile f [top mma [0, 512, 0x4000, 64] .running 0]).kernelOf 0 = some (kerFmt f) ∧
        (tiled f).padPoison = [] ∧ (tiled f).tilePoison = [] ∧ (0 : Nat) < (tiled f).tiles.length) ∧
      slotSat ((kerFmt 2).slot 0) = false ∧ 1 * 128 ≤ 512 ∧ 0 + 127 * 512 + 1 * 128 + 128 ≤ (tiled 2).padsz ∧ 4 * 128 ≤ 512 ∧ 0 + 127 * 512 + 4 * 128 + 128 ≤ (tiled 8).padsz ∧
      (top drain [0, 128] .running 0).tainted = false ∧ (top drain [0, 128] .running 7).prog < 8 ∧ (kerFmt 8).slot 0 % 64 = 8 := by decide +kernel

/-! ## Kernels, pages and contexts -/

/-- A kernel with one position that dispatches. -/
def kd : Kernel := { ker with kst := .dispatching, positions := [{ bound := none, next := 0, since := none, freed := false }] }

/-- Partition 0 owns cluster 0 of spoke 0 and channel group 0, and nothing is placed. -/
def owning (l : List Kernel) (c : Ctx := openQ []) : State :=
  { world (c := c) with kernels := l, blocks := [], groups := [], streams := [], clusters := State.reset.clusters.set 0 { UnitRec.free with cond := 1 }, cgs := State.reset.cgs.set 0 { UnitRec.free with cond := 1 }, parts := State.reset.parts.set 0 { Part.unformed with formed := true, active := true, map := 8 }, dies := State.reset.dies.modify 0 fun d => { d with st := .serving } }

/-- A second context of the same partition whose queue has priority 3. -/
def prio3 : Ctx := { run0 with queues := run0.queues.set 0 { Queue.closed with opened := true, prio := 3 } }

/-- The two kernels in the two contexts. -/
def rivals : State := { owning [kq, { kq with ctx := 1 }] with ctxs := [(0, openQ []), (1, prio3)] }

theorem test_meets_AdmissionAndPlacement :
    (owning []).eligibleHeads = [] ∧ (owning [kq]).eligibleHeads = [0] ∧ (owning [kq]).admissionCode kq true = 0 ∧ kq.cva = 0 ∧
      (owning [{ kq with record := kq.record.set 0x11 0 }]).admissionCode { kq with record := kq.record.set 0x11 0 } true = 2 ∧
      rivals.eligibleHeads = [0, 1] ∧ (rivals.queue 0 0).prio < (rivals.queue 1 0).prio ∧ (rivals.ctx 0).part = (rivals.ctx 1).part ∧
      ((owning [kd]).tryPlace 0 0).isSome = true ∧ ((world (k := kd)).tryPlace 0 0).isSome = false ∧ ((owning [kd]).ctx 0).active = true ∧
      kd.resident = false ∧ (owning [kd]).givesWay 0 0 = false ∧ ({ kd with record := kd.record.set 2 1 } : Kernel).resident = true ∧
      ((owning [{ kd with record := kd.record.set 2 1 }]).placeAll 0 0 kd.ncoord).isSome = true ∧
      ((world (k := { kd with record := kd.record.set 2 1 })).placeAll 0 0 kd.ncoord).isSome = false := by decide +kernel

/-- The work of the block has ended. -/
def workless (k : Kernel := ker) : State := world { grp with gst := .ended } (k := k)

/-- A kernel of priority 3 whose set has waited since time 0, and one without a record of completion. -/
def waiter : Kernel := { kd with ctx := 1, prio := 3, positions := [{ bound := none, next := 0, since := some 0, freed := false }] }

/-- The waiting kernel beside a running one of a lower priority. -/
def contest : State :=
  { owning [ker, waiter] with ctxs := [(0, openQ []), (1, { prio3 with st := .ready })], blocks := [blk], groups := [grp] }

/-- The kernel that has drained, with a completion record at 0x10000 or at none. -/
def drained (cva : Byte) : Kernel := { kd with kst := .draining, retired := 1, record := ker.record.set 0x2A cva }

/-- The hub holds the translation of the data page. -/
def hubLook : State := { world with tlb := [{ held none rw with die := 12 }] }

/-- The hub holds the translation of a page that migrates. -/
def rimWait : State := { world with tlb := [{ held none 0xD700000000010000 with die := 12 }] }

theorem test_meets_EndsOfKernels :
    (workless).workDone 0 = true ∧ (world).workDone 0 = false ∧ ((workless).ctx ((workless).ctxOfKernel 0)).st = .running ∧ blk.trigger = none ∧
      (drained 0).finished = true ∧ ({ kd with kst := .draining } : Kernel).finished = false ∧ (drained 0).cva = 0 ∧ (drained 1).cva = 0x10000 ∧ ((world).ctx 0).active = true ∧
      (hubLook.look (hubLook.accAt 0 12 0 none) .write 0x10000).2 = .ok 0x10000 rw ∧
      contest.waited waiter = true ∧ (contest.ctx 1).active = true ∧ contest.preemptVictim waiter = some 0 ∧ contest.waited kd = false ∧
      run0.dog < 2000 * 1000000 ∧ run0.rung = false ∧ ({ run0 with rung := true } : Ctx).rung = true ∧ (∀ b ∈ contest.blocks, b.halt = none) ∧ contest.tileOps = [] ∧
      (∃ g ∈ contest.groups, g.bid = 0 ∧ g.gst = .running) ∧ (hubLook.look (hubLook.accAt 0 12 0 none) .write 0x20000).2 = .fault .pageAbsent ∧
      (rimWait.look (rimWait.accAt 0 12 0 none) .write 0x10000).2 = .wait ∧ ((world).kernelOf 0).isSome = true ∧
      ({ run0 with dog := 2000000000 } : Ctx).st = .running := by decide +kernel

/-- A TLBI_PH1 of die 1 for the page at 0x10000, and its acknowledgement. -/
def ph1 (kind : Nat) : Msg :=
  { hdr := BitVec.ofNat 64 (kind + 256), body := [0, 0x10000, 0, 7, BitVec.ofNat 64 (2 ^ 63 + 1)], credit := true }

/-- Die 0 with messages held and being worked on, and a shoot-down of its own that waits for dies 1 and 2. -/
def shot (held work : List Msg) (got : BitVec 13) : State :=
  { world with dies := (world).dies.modify 0 fun d => { d with heldMsgs := held, ph1Work := work, shoots := [{ seq := 7, asid := 0, need := 6, got := got }] } }

/-- Tables from address 0 whose walk of address 0 ends in a leaf of 2 MiB at level 1. -/
def tabled : State :=
  { owning [] with tlb := [], mem := [(1, 0x10), (7, 0x80), (0x1001, 0x20), (0x1007, 0x80), (0x2001, 0x30), (0x2007, 0x80), (0x3007, 0xD3)] }

theorem test_meets_ShootDowns :
    (shot [ph1 0x80] [] 0).dies[0]?.map Die.heldMsgs = some [ph1 0x80] ∧ (ph1 0x80).kind = 0x80 ∧ (ph1 0x81).kind ≠ 0x80 ∧ (ph1 0x80).src = 1 ∧
      (ph1 0x80).mc = false ∧ (ph1 0x80).credit = true ∧ (ph1 0x80).ph1.frame = some 0x10000 ∧ (ph1 0x80).ph1.seq = 7 ∧ (ph1 0x80).ph1.asid = 0 ∧
      (shot [] [ph1 0x80] 0).dies[0]?.map Die.ph1Work = some [ph1 0x80] ∧ ((shot [] [] 0).dies[1]?).isSome = true ∧
      (shot [ph1 0x81] [] 0).dies[0]?.map Die.heldMsgs = some [ph1 0x81] ∧ (6 : BitVec 13).getLsbD 1 = true ∧ (0 : BitVec 13).getLsbD 1 = false ∧
      (2 : BitVec 13).getLsbD 1 = true ∧ (4 : BitVec 13) ||| BitVec.twoPow 13 1 = 6 ∧
      ((world).tlb.any fun e => e.matches 0 (some 0) 0 0x10000) = true ∧ tabled.walk 0 0 0x10000 = .leaf 1 0xD300000000000000 ∧
      tabled.walk 0 0 0x400000 = .absent ∧ (∀ va ∈ [0x10000, 0x400000], ∀ pa ∈ tabled.walkReads 0 va walkLevels 0, tabled.badEntry pa = false ∧ tabled.l2 = []) ∧ tabled.tlb = [] ∧ (tabled.ctx 0).root = 0 ∧ tabled.mem.wf = true := by decide +kernel

/-- A page whose ownership stands as given. -/
def shared (o : PageOwn) : State := { world with owns := [(1, o)] }

theorem test_meets_PagesCountersAndOutsideAgents :
    (∀ o ∈ [({ excl := some 0, readers := [], flushing := [1], grantTo := some (2, true), waiting := [], lvl := 0 } : PageOwn),
        { excl := some 0, readers := [], flushing := [], grantTo := none, waiting := [], lvl := 0 }, { excl := none, readers := [1], flushing := [], grantTo := none, waiting := [], lvl := 0 },
        { excl := none, readers := [], flushing := [], grantTo := none, waiting := [], lvl := 0 }, { excl := some 1, readers := [], flushing := [1], grantTo := some (2, false), waiting := [], lvl := 0 },
        { excl := none, readers := [0], flushing := [0], grantTo := some (1, true), waiting := [], lvl := 0 }], (shared o).pageOwn 1 = o) ∧
      (1 : Nat) < 2 ^ 36 ∧ ((world).dies[0]?).map Die.reqs = some [] ∧ (world).deadPa 0x20000 = false ∧
      paKind (2 ^ 49 * 3) = .reserved ∧ paKind 0x1000 = .device ∧ (world).clock = 100000 := by decide +kernel

/-- Context 0 in a state, owned by die 0, its areas in memory that its partition owns. -/
def inState (st : CtxSt) (sz : BitVec 64 := 0) : Ctx := { run0 with st := st, savesz := sz, root := 0x300000 }

/-- A package whose partition owns no channel group. -/
def homeless (c : Ctx) : State := { world (c := c) with cgs := State.reset.cgs }

theorem test_meets_ContextCommands :
    (∀ st ∈ [CtxSt.free, .bound, .ready, .running, .halting, .halted, .saved, .migrating, .faulted, .dead],
        ((owning [] (inState st)).ctx 0).st = st ∧ ((owning [] (inState st)).ctx 0).owner = 0 ∧ ((owning [] (inState st)).dies[0]?).map Die.cmdSts = some 0) ∧
      ((world (c := { run0 with owner := 1 })).ctx 0).owner ≠ 0 ∧ (owning []).partLive 0 = true ∧ (owning []).partLive 1 = false ∧
      (owning [] (inState .bound)).stopAreaOk 0 = true ∧ (homeless (inState .bound)).stopAreaOk 0 = false ∧
      (owning [] (inState .halted)).faultPending 0 = false ∧
      ({ owning [] (inState .halted) with mem := [(0, 1), (0x41000, 3)] } : State).faultPending 0 = true ∧
      (owning [] (inState .halted)).saveAreaOk 0 = true ∧ (homeless (inState .halted 64)).saveAreaOk 0 = false ∧
      (owning [] (inState .halted)).saveBytes 0 = 0x40000 ∧ (owning [] (inState .halted 0x40000)).saveAreaOk 0 = true ∧
      ((owning []).dies.modify 0 fun d => { d with cmdSts := 1 })[0]?.map Die.cmdSts = some 1 := by decide +kernel

/-! ## Stopping and partitions -/

/-- A halting context with a line of a kind, raised at 0. -/
def halting (k : HaltKind) : Ctx := { run0 with st := .halting, line := some { kind := k, at_ := 0, drained := true, rto := 40000 } }

/-- Die 0 with a command of context 0 in progress. -/
def cmding (op arg : Nat) (s : State) : State := { s with dies := s.dies.modify 0 fun d => { d with cmdSts := 1, cmd := some (op, 0, arg) } }

/-- The bound kernel, its block saved or in the reserve, with nothing else on the cores. -/
def laidUp (b : BlockSt) (st : CtxSt) : State :=
  { owning [{ kd with kst := .draining, positions := [{ bound := some (0, 0), next := 1, since := none, freed := false }] }] { run0 with st := st } with blocks := [{ blk with bst := b }], groups := [{ grp with gst := .stopped }] }

/-- A kernel of a higher priority waits for the cluster of the block in the reserve. -/
def ruled : State :=
  { laidUp .reserve .running with kernels := (laidUp .reserve .running).kernels ++ [{ kd with prio := 3, positions := [{ bound := none, next := 0, since := some 0, freed := false }] }] }

theorem test_meets_StoppingAndSavingContexts :
    grp.reconverged = true ∧ (first fun t => { t with pc := 8 }).reconverged = false ∧ blk.halt = none ∧ blk.trigger = none ∧ grp.gst = .running ∧ ({ blk with halt := some (0, 40000) } : Block).halt = some (0, 40000) ∧ blk.bst = .placed ∧
      (laidUp .reserve .running).reserveCluster 0 0 = some (0, 0) ∧ (laidUp .reserve .running).outranked 0 (0, 0) = false ∧ ruled.outranked 0 (0, 0) = true ∧
      ({ laidUp .reserve .running with clusters := State.reset.clusters, kernels := [{ kd with positions := [{ bound := none, next := 1, since := none, freed := false }] }] } : State).reserveCluster 0 0 = none ∧ (laidUp .reserve .running).tileOps = [] ∧
      ((world (c := halting .preempt)).ctx 0).st = .halting ∧ 0 + 40 * 1000 ≤ (world).clock ∧ ¬ (100000 + 40 * 1000 ≤ (world).clock) ∧
      (world (c := halting .stop)).enginesStopped 0 { kind := .stop, at_ := 0, drained := true, rto := 40000 } = true ∧
      (world (c := halting .preempt)).enginesStopped 0 { kind := .preempt, at_ := 0, drained := true, rto := 40000 } = false ∧ thr.standing = none ∧ str.standing = none ∧
      ((cmding 5 0 (laidUp .placed .halted)).dies[0]?).map Die.cmd = some (some (5, 0, 0)) ∧ (cmding 6 0 (laidUp .saved .migrating)).cmdArg 0 6 = some 0 ∧
      (cmding 6 0 (laidUp .saved .migrating)).savedBlocks 0 = [0] ∧ (cmding 6 0 (laidUp .saved .migrating)).savedStreams 0 = [] ∧
      ((cmding 6 0 (laidUp .saved .migrating)).seatSame 0).isSome = true ∧ ((cmding 6 1 (laidUp .saved .migrating)).seatAny 0).isSome = true ∧
      (((cmding 6 1 { laidUp .saved .migrating with groups := [], blocks := [{ blk with bst := .saved, padsz := 0, tiles := [] }] }).seatAny 0).map fun u => (u.lostImages 0 [0] [], u.lostStreams 0 1 [])) = some ([], []) ∧
      ((laidUp .reserve .running).reseat 0 0 0).isSome = true ∧ (({ laidUp .reserve .running with blocks := ((List.range 4).map fun c => { blk with core := c, tiles := List.replicate 16 [] }) ++ [{ blk with bst := .reserve }] } : State).reseat 4 0 0).isSome = false := by decide +kernel

/-- The partition record, changed. -/
def parted (f : Part → Part) (s : State) : State := { s with parts := s.parts.modify 0 f }

/-- Cluster 0, slice 0 and channel group 0 owned by partition 0, another partition 1 ACTIVE that maps the same spoke. -/
def lots (f : Part → Part := id) : State :=
  let s := owning []
  parted f { s with slices := s.slices.set 0 { UnitRec.free with cond := 1 }, parts := s.parts.set 1 { Part.unformed with formed := true, active := true, map := 8, mode := 3 } }

/-- A lent cluster. -/
def lentOut : State := { lots with clusters := (lots).clusters.set 0 { UnitRec.free with cond := 2, borrower := 1 } }

theorem test_meets_FormingAndResizing :
    (lots).partState 0 = 2 ∧ (lots fun x => { x with active := false }).partState 0 = 1 ∧ (lots fun x => { x with dissolved := true }).partState 0 = 8 ∧ (world).partState 0 = 0 ∧
      lentOut.partState 0 = 4 ∧ (lots).unit? (.cluster 0 0) = some { UnitRec.free with cond := 1 } ∧ (lots).unit? (.slice 0 0) = some { UnitRec.free with cond := 1 } ∧
      (lots).unit? (.cg 0) = some { UnitRec.free with cond := 1 } ∧ (lots).unit? (.cluster 0 1) = some UnitRec.free ∧ (lots).unit? (.cluster 9 0) = none ∧
      ((lots).part 0).maps (.cluster 0 1) = true ∧ ((lots).part 0).maps (.cluster 1 1) = false ∧ ((lots).part 0).spoke 0 = some 0 ∧ ((lots).part 0).spoke 1 = none ∧
      (lots).ownMemory 0 0 4096 = true ∧ (lots).ownMemory 0 (2 ^ 33) 4096 = false ∧ (lots).ownSlices 0 0 = [0] ∧ ((lots).part 0).ressz = 0 ∧
      (lots fun x => { x with mode := 1 }).lendStatus 0 1 (.cluster 0 0) 0 = 0 ∧ (lots).lendStatus 0 1 (.cluster 0 0) 0 ≠ 0 ∧ (lots).clusterEmpty 0 0 = true ∧ (lots).ownSlices 0 1 = [] ∧
      (lots fun x => { x with mode := 1 }).lendStatus 0 1 (.slice 0 0) 0 = 0 ∧
      (lots fun x => { x with mode := 1 }).lendStatus 0 1 (.cg 0) 1 = 0 ∧ ((lots).part 1).shadows.length = 4 := by decide +kernel

/-- A kernel whose set has waited, in a partition that may revoke for it. -/
def starved : State := { parted (fun x => { x with mode := 8 }) lentOut with kernels := [{ kd with positions := [{ bound := none, next := 0, since := some 0, freed := false }] }] }

/-- A shadow slot of partition 0 on channel group 1, which partition 1 takes back. -/
def shadowed (redir : Bool) : State :=
  let s := parted (fun x => { x with shadows := x.shadows.set 0 (some { cg := 1, window := 0, redir := redir }) }) lots
  { s with cgs := s.cgs.set 1 { UnitRec.free with cond := 3, owner := 1 } }

/-- A command that waits for the contexts of partition 0, whose memory is another's. -/
def pending (l : List (Nat × Bool)) (st : CtxSt) : State :=
  { owning [] { run0 with st := st, savesz := 64 } with cgs := State.reset.cgs, hub := { (world).hub with drPend := some (.setmode 0 true 5), drCtxs := l } }

theorem test_meets_RevocationsAndModes :
    lentOut.unit? (.cluster 0 0) = some { UnitRec.free with cond := 2, borrower := 1 } ∧ lentOut.hub.revs.length < 16 ∧
      16 ≤ (List.replicate 16 ({ unit_ := .cg 0, lender := 0, borrower := 1 } : Revocation)).length ∧ (starved.kernels[0]?).map starved.waited = some true ∧
      starved.hub.revs = [] ∧ (starved.part 0).mode.getLsbD 3 = true ∧ ((lots).part 0).mode.getLsbD 3 = false ∧ (starved.ctx 0).part = 0 ∧
      (((shadowed true).part 0).shadows[0]?).join = some { cg := 1, window := 0, redir := true } ∧ ((shadowed false).part 0).slotOf 1 = some 0 ∧
      ((shadowed false).part 0).slotOf 2 = none ∧ ((shadowed false).cgs[1]?).map UnitRec.cond = some 3 ∧ ((shadowed false).cgs[1]?).map UnitRec.borrower = some 0 ∧
      mapOk 0x98 = true ∧ mapOk 0x88 = false ∧ mapOk 8 = true ∧ (lots).hub.drPend = none ∧ (pending [(0, false)] .saved).hub.drCtxs = [(0, false)] ∧ ((pending [(0, false)] .saved).ctx 0).st = .saved ∧
      (pending [(0, false)] .saved).partCtxs 0 Ctx.busy = [] ∧ ((pending [(0, false)] .halted).ctx 0).st = .halted ∧ (pending [(0, false)] .halted).saveAreaOk 0 = false ∧
      (pending [] .saved).hub.drPend = some (.setmode 0 true 5) ∧ (lots).partCtxs 0 Ctx.busy = [0] ∧
      ({ lots with ctxs := [] } : State).partCtxs 0 Ctx.busy = [] ∧ 8 = 0x98 / 2 ^ (4 * 0) % 16 ∧ 0x98 / 2 ^ (4 * 1) % 16 ≠ 8 := by decide +kernel

/-- A RESET of partition 0 has begun. -/
def nextReset : State :=
  { lots fun x => { x with quiescing := true } with hub := { (world).hub with drPend := some (.reset 0), drSts := 1 } }

theorem test_meets_ResettingAndMoving :
    ((lots).part 0).resetting = false ∧ (lots).resetsNext 0 = false ∧ nextReset.resetsNext 0 = true ∧ (nextReset.part 0).resetting = false ∧
      (pending [(0, false)] .saved).partCtxs 0 Ctx.inUse = [] ∧ (lots).part 0 = { (lots).part 0 with shift := none } ∧ ((lots).part 0).quiescing = false ∧
      ((lots fun x => { x with quiescing := true }).part 0).quiescing = true ∧ (lentOut.unitsWhere fun r => r.cond == 2 && r.owner == 0) = [.cluster 0 0] ∧
      (lots).partState 0 = 2 ∧ (world).partState 0 < 2 ∧ (lots).unitsMoving 0 = false ∧ ((lots).parts[2]?).isSome = true ∧
      ({ lots with clusters := (lots).clusters.set 0 { UnitRec.free with cond := 4, after := 5 } } : State).unitsMoving 0 = true ∧
      (lots).partCtxs 0 (fun c => c.st != .dead) = [0] ∧ ({ lots with ctxs := [] } : State).partCtxs 0 (fun c => c.st != .dead) = [] ∧
      (lots).partState 2 = 0 ∧ (lots).unitsWhere (fun r => r.cond == 1 && r.owner == 0) ≠ [] ∧
      (lots).unitsWhere (fun r => r.cond == 1 && r.owner == 2) = [] ∧ ((lots).ctx 0).active = true := by decide +kernel

theorem test_meets_ScrubsAndShifts :
    (∀ a ∈ [0, 1, 2, 3, 4, 5], ({ lots with clusters := (lots).clusters.set 0 { UnitRec.free with cond := 4, after := a } } : State).unit? (.cluster 0 0) =
        some { UnitRec.free with cond := 4, after := a }) ∧ (lots fun x => { x with active := false }).partState 0 = 1 ∧ (lots).hub.revs = [] ∧
      (∀ st ∈ [2, 3, 4, 5], ∀ w ∈ [0, 1, 2, 3], ((lots fun x => { x with shift := some { step := st, what := w, unit_ := .slice 0 0 } }).part 0).shift =
        some { step := st, what := w, unit_ := .slice 0 0 }) ∧ ((lots).part 0).shift = none ∧ (lots).clusterEmpty 0 0 = true ∧
      ({ lots with blocks := [blk] } : State).clusterEmpty 0 0 = false ∧ (lentOut.hub.revs ++ [({ unit_ := .cluster 0 0, lender := 1, borrower := 0 } : Revocation)]).any (fun v => v.borrower == 0) = true ∧
      (∀ w ∈ [0, 1, 2, 3], ((lots fun x => { x with shift := some { step := w + 2, what := w, unit_ := .cluster 0 0 } }).part 0).shift ≠ none) ∧
      ({ lots with clusters := (lots).clusters.set 0 { UnitRec.free with cond := 3 } } : State).unit? (.cluster 0 0) = some { UnitRec.free with cond := 3 } ∧
      ({ lots with slices := (lots).slices.set 0 { UnitRec.free with cond := 3 } } : State).unit? (.slice 0 0) = some { UnitRec.free with cond := 3 } := by decide +kernel

/-! ## Links, dies, errors and registers -/

/-- Link l in a state. -/
def linked (l : Nat) (x : Link) : State := { world with links := (world).links.set l x }

theorem test_meets_LinksAndFlits :
    ((world).links[0]?).map Link.lst = some .training ∧ ((world).links[12]?).map Link.lst = some .down ∧
      ((linked 12 { Link.tandemReset with lst := .up }).links[12]?).map Link.lst = some .up ∧ 16 ≤ ({ Link.hubReset with lst := .up, retries := 16 } : Link).retries ∧
      (7 < Link.hubReset.least ∧ Link.hubReset.least ≤ 8 ∧ 8 < Link.hubReset.full ∧ Link.hubReset.full ≤ 16) ∧ ((world).dies[0]?).map Die.st = some .booting ∧
      (crc16 [0x31] == 0) = false ∧ paKind 0x1000 ≠ .reserved ∧ paKind (3 * 2 ^ 49) = .reserved := by decide +kernel

/-- Die 0 with a header, its credits and its messages. -/
def chant (h : BitVec 64) (cr : Nat) (held inbox : List Msg) : State :=
  { world with dies := (world).dies.modify 0 fun d => { d with st := .serving, chtx := d.chtx.set 0 h, txcr := cr, heldMsgs := held, inbox := inbox } }

theorem test_meets_ChanterMessages :
    badHeader 0x10010 = false ∧ badHeader 0x83 = true ∧ badHeader 0xD0010 = true ∧ badHeader 0x1010 = true ∧ (0x10010 : BitVec 64).getLsbD 12 = false ∧
      bitsOf (0x10010 : BitVec 64).toNat 0 8 < 0x80 ∧ bitsOf (0x10010 : BitVec 64).toNat 16 13 = 1 ∧ ((chant 0x10010 1 [] []).dies[1]?).map Die.st = some .booting ∧
      ((chant 0x10010 0 [] []).dies[0]?).map Die.txcr = some 0 ∧ ((chant 0x10010 1 [] []).dies[0]?).map (fun (x : Die) => x.chtx.length) = some 8 ∧
      (ph1 0x10).kind = 0x10 ∧ (ph1 0x10).mc = false ∧ (ph1 0x10).src = 1 ∧ 256 ≤ (List.replicate 256 (ph1 0x10)).length := by decide +kernel

/-- Die 0 in a state, its last heartbeat at a time, its link UP. -/
def spoke (st : DieSt) (at_ : Nat) : State :=
  { linked 0 { Link.hubReset with lst := .up } with dies := (world).dies.modify 0 fun d => { d with st := st, hbAt := at_, hbto := 1 }, tick := 12 * 2000000 }

theorem test_meets_SpokesFailAndRejoin :
    (∀ st ∈ [DieSt.booting, .serving, .fenced, .failed, .rejoining], ((spoke st 0).dies[0]?).map Die.st = some st) ∧ 0 + 1 * 1000000 ≤ (spoke .serving 0).clock ∧
      (spoke .serving 1500000).clock < 1500000 + 1 * 1000000 ∧ ((spoke .failed 0).links[0]?).map Link.lst = some .up ∧ ((world).links[0]?).map Link.lst ≠ some .up ∧
      (spoke .failed 0).hub.stage = 0 ∧ unitOn 0 (.cluster 0 0) = true ∧ ((spoke .fenced 0).ctx 0).st ≠ .free ∧ ((spoke .fenced 0).ctx 0).owner = 0 := by decide +kernel

/-- A report of a class and source on die 0. -/
def report (cls src : Nat) : ErrorReport := { cls := cls, src := src, die := 0, unitNo := 0, ctx := some 0, bid := some 0, addr := 0, place := .nowhere }

/-- A matrix that gives one action everywhere, and an error log of n records. -/
def matrix (a n : Nat) : State := { world with hub := { (world).hub with sev := List.replicate 16 (sevAll a), elogn := BitVec.ofNat 64 n } }

/-- A block of a ROLLBACK launch that is covered by a snapshot, with a trigger and rollbacks made. -/
def covered (tr : Option Trigger) (n : Nat) : State :=
  { world (b := { blk with covered := true, snapLatest := some image, trigger := tr, rollbacks := n }) (k := { ker with record := ker.record.set 2 2 }) with streams := [] }

/-- What a block has performed and will perform again. -/
def again : List LogRec := [{ who := .group 0, t := some 1, kind := 9, addr := 4, vals := [7] }]

theorem test_meets_ErrorsAndRollbacks :
    retireKey (report 4 5) = none ∧ (∀ a ∈ [0, 1, 2, 3, 4, 5, 6], bitsOf (((matrix a 0).hub.sev[4]?).getD 0).toNat (4 * 5) 3 = a) ∧
      (matrix 1 0).hub.elogn.toNat ≤ ((matrix 1 0).hub.elogwr - (matrix 1 0).hub.elogrd).toNat ∧
      ¬ ((matrix 1 4).hub.elogn.toNat ≤ ((matrix 1 4).hub.elogwr - (matrix 1 4).hub.elogrd).toNat) ∧ ((matrix 3 0).ctx 0).st ≠ .free ∧ (lots).partLive 0 = true ∧
      ((spoke .serving 0).dies[0]?).map Die.st = some .serving ∧ (covered none 0).protects 0 = true ∧ (covered (some (.poison (report 6 0))) 3).protects 0 = true ∧
      bitsOf (((world).hub.sev[6]?).getD 0).toNat (4 * 0) 3 ≤ 3 ∧ bitsOf (((matrix 1 0).hub.sev[3]?).getD 0).toNat (4 * 0) 3 ≤ 1 ∧
      (covered (some (.guard (.group 0) 0 0)) 2).streamsOf 0 0 = [] ∧ (report 6 0).bid = some 0 ∧
      (∀ g ∈ (covered none 0).groups ++ image.groups, g.bards = []) ∧ (covered none 0).logOf (.group 0) = some ([], 0) ∧ (world).logOf (.group 0) = none ∧ again.find? (fun r => r.who == Agent.group 0 && r.t == some 1) = some { who := .group 0, t := some 1, kind := 9, addr := 4, vals := [7] } ∧
      again.find? (fun r => r.who == Agent.group 0 && r.t == some 2) = none ∧ 4096 ≤ (List.replicate 4096 again).length := by decide +kernel

theorem test_meets_BootAndAttestation :
    (world).hub.stage = 0 ∧ (world).hub.attSts = 0 ∧ ((world).dies[12]?).isSome = true ∧ (0x1000 : BitVec 13).getLsbD 12 = true ∧ (0xFFF : BitVec 13).getLsbD 12 = false ∧
      (∃ l ∈ (world).links.take 12, l.lst = .training) ∧ (∀ l ∈ ({ world with links := (world).links.map fun l => { l with lst := .up } } : State).links.take 12, l.lst ≠ .training) ∧
      (∃ x ∈ (world).dies.take 12, x.st = .booting) ∧
      (∀ x ∈ ({ world with dies := (world).dies.map fun d => { d with st := .serving } } : State).dies.take 12, x.st ≠ .booting) := by decide +kernel

theorem test_meets_TemperaturePowerAndSupply :
    1760 ≤ (1760 : BitVec 16).toNat ∧ (1759 : BitVec 16).toNat < 1760 ∧ 1680 ≤ (1680 : BitVec 16).toNat ∧ (1679 : BitVec 16).toNat < 1680 ∧ ((world).dies[12]?).isSome = true ∧
      (world).hub.supplyMv = 54000 ∧ ¬ (48000 ≤ 44000 ∧ 44000 ≤ 54000) ∧ (world).hub.supplyAt + 1000000 ≤ (spoke .serving 0).clock ∧ (world).clock < (world).hub.supplyAt + 1000000 := by
  decide +kernel

theorem test_meets_RegisterWindows :
    (14 : Nat) < (world).hub.sev.length ∧ ((lots).parts[0]?).isSome = true ∧ (lots fun x => { x with active := false }).partState 0 = 1 ∧ (lots).partState 0 ≠ 1 ∧
      ((world).dies[11]?).isSome = true ∧ tfind (world).ways 0 = none ∧ (world).reachable 0 0 = true ∧ (world).reachable 1 0 = false ∧
      (∀ st ∈ [CtxSt.bound, .saved], ((world (c := { run0 with st := st })).ctx 0).st = st) ∧ ((world).ctx 0).st ≠ .bound ∧ (world).hub.drSts ≠ 1 ∧
      ((world).die 0).cmdSts ≠ 1 ∧ (world).hub.drSts = 0 ∧ ((2 ^ 59 + 2 ^ 58 : BitVec 64).toNat / 2 ^ 59 % 32) = 1 ∧ (regAt .hub 0xD00010).2 = 8 ∧ (∀ i < 15, 14 < (world).hub.sev.length) ∧ (7 : BitVec 64).toNat % 2 ^ 24 = 7 := by decide +kernel

/-- The placed instruction: IADD V1, V1, 42 in the first word of a group of the package. -/
def placed : State := State.reset.withFetchWord 32 0x070080EA

/-- An instruction of two words placed, with the threads of its group changed. -/
def placed2 (i : Instr) (f : Thread → Thread) : State :=
  let s := State.reset.withFetchWord 64 ((encode i)[0]! + 2 ^ 32 * (encode i)[1]!)
  { s with groups := s.groups.map fun g => { g with u := { g.u with s := g.u.s.set 2 1 }, threads := g.threads.map f } }

/-- The entry of the placed group. -/
def lead0 : Entry := { gid := 0, bid := 0, slot := 0, grpix := 0, pc := 0, prog := 0, csp := 0, lanes := List.range 32, since := 0 }

/-- What the decoder finds there. -/
def mov1 : Run := { ins := .mov 1 0xEA, pre := none, rep := none, ipc := 0, next := 4 }

/-- The threads that a placed entry issues for, and whether all of them wait on after it. -/
def served (s : State) : Option (List (Nat × Nat) × Bool) := match s.before lead0 with
  | (u, .run r) =>
    let lanes := u.byLane (u.leadLanes lead0 r.ins)
    match exec (r.stepped 0) ((u.countIssue 0 0 lead0).startIssue 0 0 0 r none lanes) with
    | .next v => some (lanes, s.stillWaits (v.endIssue u.tick r lanes []) lead0)
    | _ => none
  | _ => none

/-- A thread that waited for an event counter, or has arrived at a collective. -/
def lies : Thread → Thread := fun t => { t with wait := .uni 0 true }
/-- One that has arrived. -/
def meets : Thread → Thread := fun t => { t with coll := some { pc := 0, ins := .mov 1 0xEA, val := 0, sel := 0, fill := 0, mask := 0 } }
/-- One that stands past the end of its code. -/
def strays : Thread → Thread := fun t => { t with pc := 0x10000 }
/-- One that has started a repeated instruction. -/
def goesOn : Thread → Thread := fun t => { t with going := some mov1 }

theorem test_meets_StepRuns_entries :
    placed.hub.errors = [] ∧ (placed.agenda.map fun t => match t with
        | .quadrant _ q _ => q
        | _ => 9) = [0] ∧
      (State.reset.hub.errors = [] ∧ State.reset.agenda = []) ∧ ({ placed with agenda := [.event .kernelAdmit] } : State).agenda.length = 1 ∧
      Instr.kernelAdmit.isEvent = true ∧ placed.candidates 0 0 = [lead0] ∧ placed.candidates 0 1 = [] ∧ placed.issuable lead0 = true ∧
      placed.before lead0 = (placed, .run mov1) ∧ placed.entryLanes lead0 mov1.ins = List.range 32 ∧ placed.packed 0 0 lead0 mov1.ins (placed.leadLanes lead0 mov1.ins) = [] ∧
      placed.groups.length = 1 ∧ (∀ g ∈ placed.groups, mov1.belowCeiling g.vregs = true) ∧ served placed = some ((List.range 32).map fun i => (0, i), false) := by decide +kernel

/-- The placed instruction on a page that is EXCLUSIVE to device 1. -/
def afar : State :=
  { placed with tlb := placed.tlb.map fun e => { e with leaf := e.leaf ||| 2 ^ 54 }, owns := [(0, { PageOwn.home with excl := some 1 })], links := State.reset.links.modify 12 fun l => { l with lst := .up } }

theorem test_meets_StepRuns_waits :
    (placed2 (.evwait 14 0 2) lies).candidates 0 0 = [lead0] ∧ served (placed2 (.evwait 14 0 2) lies) = some ((List.range 32).map fun i => (0, i), true) ∧
      (placed2 (.vote 14 0 0 0 7 0 1 0) meets).candidates 0 0 = [lead0] ∧ (placed2 (.vote 14 0 0 0 7 0 1 0) meets).issuable lead0 = false ∧
      ((placed2 (.vote 14 0 0 0 7 0 1 0) strays).before { lead0 with pc := 0x10000 }).2 = .trap .grantBounds 0x10000 0x10000 ∧
      ((placed2 (.vote 14 0 0 0 7 0 1 0) strays).candidates 0 0).map Entry.pc = [0x10000] ∧
      ((placed2 (.vote 14 0 0 0 7 0 1 0) goesOn).before lead0).2 = .run mov1 ∧
      ((afar.before lead0).2 = .wait ∧ (afar.before lead0).1 ≠ afar ∧ afar.candidates 0 0 = [lead0]) := by decide +kernel

theorem test_meets_StepRunsTheDecodedInstruction :
    (placed.decodeAt (.group 0) 0).2 = .run mov1 ∧ (placed.fetchWord (.group 0) ker.codeGrant 0).2 = .word 0x070080EA ∧
      (placed.streams[0]?).map placed.streamReady = some true ∧ (placed.streams[0]?).map Stream.rgWait = some none ∧
      ((State.reset.withFetchWord 32 0x8441802F).decodeAt (.stream 0) 0).2 = .run { ins := .umov 6 0x2F, pre := none, rep := none, ipc := 0, next := 4 } ∧
      decode [0x070080EA] = .ok (.mov 1 0xEA) ∧ wordClass 0x070080EA = .lr ∧ wordClass 0x0C000000 = .lr ∧ launchOk ker false (.mov 1 0xEA) = true ∧
      fetchCheck (placed.accOf (.group 0)) ker.codeGrant 0 = none ∧ fetchCheck (placed.accOf (.group 0)) ker.codeGrant 65536 = some .grantBounds ∧
      fetchCheck (placed.accOf (.group 0)) (Grant.make 0 65536 9 0 0 1 0) 65536 = some .grantStale ∧ fetchCheck (placed.accOf (.group 0)) data 0 = some .grantPerm ∧
      placed.lookRead (placed.accOf (.group 0)) .fetch 0 4 true (some 0) = (placed, .ok 0 fetchLeaf) ∧ placed.bidOf (.group 0) = some 0 ∧ ker.codeGrant.base = 0 ∧
      placed.lost { placed.accOf (.group 0) with core := none } fetchLeaf 0 4 false true = false ∧ placed.consume { placed.accOf (.group 0) with core := none } fetchLeaf 0 4 true (some 0) = placed ∧
      placed.foreign { placed.accOf (.group 0) with core := none } fetchLeaf 0 = false ∧ placed.atGateHome { placed.accOf (.group 0) with core := none } fetchLeaf = false := by decide +kernel

theorem test_meets_DecodeEncode :
    (Instr.iadd 2 2 0x84).wf = true ∧ (Instr.iadd 2 2 0x84).isEvent = false ∧ decode [0x00010284] = .ok (.iadd 2 2 0x84) := by decide +kernel

/-- A step that goes on. -/
def goes (o : Out) : Bool := match o with
  | .next _ => true
  | _ => false

theorem test_meets_StepKeepsInv : placed.Inv ∧ ∃ t, step placed = .next t := by
  refine ⟨by unfold State.Inv; decide +kernel, ?_⟩
  have h : goes (step placed) = true := by decide +kernel
  cases he : step placed with
  | next t => exact ⟨t, rfl⟩
  | fault f => rw [he] at h; cases h
  | refused r => rw [he] at h; cases h


/-! ## Further clauses -/

/-- Operands of the special functions: the special values, powers of two, integers, halves, quarters and the others (R155, R156). -/
theorem test_meets_SpecialFunctions :
    fp32.dec 0x7FC00001 = .nan ∧ fp32.dec 0xFF800000 = .inf true ∧ fp32.dec 0x80000000 = .zero true ∧ fp32.dec 0xBF800000 = .fin true (2 ^ 23) (-23) ∧
      fp32.dec 0x3F800000 = .fin false (2 ^ 23) (-23) ∧ fp32.dec 0x3FC00000 = .fin false 0xC00000 (-23) ∧ fp32.dec 0x3E800000 = .fin false (2 ^ 23) (-25) ∧
      fp32.dec 0x3E99999A = .fin false 0x99999A (-25) ∧ fp32.dec 0x43000000 = .fin false (2 ^ 23) (-16) ∧ fp32.dec 0xC3170000 = .fin true 0x970000 (-16) ∧
      fp32.dec 1 = .fin false 1 (-149) ∧ fp32.dec 0x00200000 = .fin false (2 ^ 21) (-149) ∧ fp32.dec 0x7F7FFFFF = .fin false 0xFFFFFF 104 ∧
      128 * 2 ^ 16 ≤ 2 ^ 23 ∧ 150 * 2 ^ 16 < 0x970000 ∧ 0xC00000 % 2 ^ 23 ≠ 0 ∧ 2 * 0xC00000 % 2 ^ 23 = 0 ∧ 4 * 2 ^ 23 % 2 ^ 25 = 0 ∧ 4 * 0x99999A % 2 ^ 25 ≠ 0 := by
  decide +kernel

/-- Results at the bounds: 1/2^-149, 2^-70 to the power of two and 1/√4 (R155, R156). -/
theorem test_special_results :
    specialFn .rcp FMod.none 1 = 0x7F800000 ∧ specialFn .rsq FMod.none 0x40800000 = 0x3F000000 ∧ specialFn .sqrt FMod.none 0x41100000 = 0x40400000 ∧
      specialFn .exp2 FMod.none 0x40400000 = 0x41000000 ∧ specialFn .log2 FMod.none 0x41000000 = 0x40400000 ∧ specialFn .sint FMod.none 0x3E800000 = 0x3F800000 ∧
      specialFn .cost FMod.none 0x3F000000 = 0xBF800000 ∧ (enclExp2 false 1 (-70)).near (2 * (enclExp2 false 1 (-70)).ulp) (fp32.dec 0x3F7FFFFC) = false := by
  decide +kernel


/-- The group with an index for each lane in V1. -/
def spread (l : List Word) : Group := { grp with threads := l.map fun x => { thr with v := [0xDEADBEEF, x, 0, 0] ++ List.replicate 12 0 } }

/-- An issue of four lanes that is left after some of them. -/
def cutAt (k : Option Nat) (s : State) : State := { four s with issue := { (four s).issue with cut := k } }

/-- The PC, PROG, wait and cause of a lane. -/
structure LaneNow where
  pc : Word
  prog : Nat
  wait : Wait
  cause : Option (BitVec 8)
  deriving DecidableEq

/-- What each of the four lanes has for PC, PROG, wait and cause after an instruction. -/
def ends (i : Instr) (s : State) : List LaneNow := match exec i s with
  | .next t => (List.range 4).filterMap fun u => (t.thread? 0 u).map fun th => ⟨th.pc, th.prog, th.wait, th.standing.map (·.cause)⟩
  | _ => []

/-- Lanes that pass and fail their checks, that are left by a cut, and that a page stops. -/
theorem test_meets_LoadsAndStores_lanes :
    (cutAt (some 1) (world (spread [0, 4, 8, 12]))).issue.leaves 0 2 = true ∧ (cutAt (some 1) (world (spread [0, 4, 8, 12]))).issue.leaves 0 1 = false ∧
      (cutAt none (world (spread [0, 4, 8, 12]))).issue.leaves 0 3 = false ∧
      ends (.st 14 0 1 2 0 0 0 1 0 0 0) (cutAt none (world (spread [0, 4, 8, 12]))) = List.replicate 4 ⟨0x108, 0, .none, none⟩ ∧
      ends (.st 14 0 1 2 0 0 0 1 0 0 0) (cutAt (some 1) (world (spread [0, 4, 8, 12]))) =
        [⟨0x108, 0, .none, none⟩, ⟨0x108, 0, .none, none⟩, ⟨0x100, 2, .lane true, none⟩, ⟨0x100, 2, .held 0 2, none⟩] ∧
      ends (.st 14 0 1 2 0 0 0 1 0 0 0) (cutAt none (world (spread [0, 0xFFFD, 8, 2]))) =
        [⟨0x100, 0, .none, none⟩, ⟨0x100, 0, .none, some Cause.grantBounds.code⟩, ⟨0x100, 0, .none, none⟩, ⟨0x100, 0, .none, some Cause.misalign.code⟩] ∧
      ends (.st 14 0 1 2 0 0 0 1 0 0 0) (cutAt none (world (spread [0, 4, 8, 12]) (leaf := 0xD200000000010000))) =
        [⟨0x100, 0, .none, some Cause.pageProt.code⟩, ⟨0x100, 0, .held 0 0, none⟩, ⟨0x100, 0, .held 0 0, none⟩, ⟨0x100, 0, .held 0 0, none⟩] ∧
      file.getG 1 = data ∧ data.ge = false ∧ ((world (spread [0, 4, 8, 12])).kernelOf 0).isSome = true := by decide +kernel

/-- A window that names a stage the launch does not have, one whose block is not there, and lanes of a pad access. -/
theorem test_meets_GuardsAndPads_window :
    ker.nstage = 1 ∧ 8 ≤ (9 : BitVec 4).toNat ∧ acc0.padTarget 0 9 = none ∧ stands (.pld 14 0 0 1 2 0 0 0 9 0 0 0) acc0 = some Cause.padBounds.code ∧
      ({ piped with blocks := [shaped, { shaped with stage := 1, bst := .retired }] } : State).padTarget 0 9 = none ∧ (piped.kernelOf 0).map Kernel.nstage = some 2 ∧
      ends (.pst 14 0 1 2 0 0 0 0 0 0 0) (cutAt (some 2) (world (spread [0, 4, 8, 12]))) =
        [⟨0x108, 0, .none, none⟩, ⟨0x108, 0, .none, none⟩, ⟨0x108, 0, .none, none⟩, ⟨0x100, 3, .lane true, none⟩] ∧
      ends (.pst 14 0 1 2 0 0 0 0 0 0 0) (cutAt none (world (spread [0, 4, 8, 12]) (b := { blk with bst := .saved }))) =
        [⟨0x100, 0, .lane false, none⟩, ⟨0x100, 0, .held 0 0, none⟩, ⟨0x100, 0, .held 0 0, none⟩, ⟨0x100, 0, .held 0 0, none⟩] ∧
      ends (.pst 14 0 1 2 0 0 0 0 0 0 0) (cutAt none (world (spread [0, 65536, 8, 2]))) =
        [⟨0x100, 0, .none, none⟩, ⟨0x100, 0, .none, some Cause.padBounds.code⟩, ⟨0x100, 0, .none, none⟩, ⟨0x100, 0, .none, some Cause.misalign.code⟩] := by
  decide +kernel

/-- An arrival at a collective. -/
def arrival (i : Instr) (v : Word) (m : Nat) : CollArr := { pc := 0x100, ins := i, val := v, sel := 1, fill := 9, mask := m }

/-- The group with threads that have arrived with the lane number plus 1, their results incomplete, under a mask. -/
def met' (i : Instr) (left m : Nat) : State := { world with groups := [{ grp with threads := (List.range 4).map fun u =>
  { thr with pc := 0x108, coll := some (arrival i (BitVec.ofNat 32 (u + 1)) m), pend := [{ left := left, known := false, regs := [(4, 0)], preds := [] }] } }] }

/-- What V4 of the four lanes holds after the exchange, and the results that are still incomplete. -/
def exchanged (s : State) : List (Word × List Pend) := match exec (.collectiveExchange 0 0x100) s with
  | .next t => (List.range 4).filterMap fun u => (t.thread? 0 u).map fun th => (th.getV 4, th.pend)
  | _ => []

/-- Collectives under masks that leave lanes out, with windows, and with a lane that has arrived before (R185 to R187). -/
theorem test_meets_Collectives_masks :
    exchanged (met' (.redux 14 0 4 0 0 0 1 0) 0 15) = List.replicate 4 (19, []) ∧
      exchanged (met' (.redux 14 0 4 0 0 0 0 2) 0 5) = [(13, []), (15, []), (13, []), (17, [])] ∧
      exchanged (met' (.scanx 14 0 4 0 0 1 0 1 0) 0 15) = [(9, []), (10, []), (12, []), (15, [])] ∧
      exchanged (met' (.shfl 14 0 4 0 0 0 2 1 0) 0 15) = [(2, []), (3, []), (4, []), (9, [])] ∧
      exchanged (met' (.redux 14 2 4 0 0 0 1 0) 2 15) = List.replicate 4 (0, [{ left := 2, known := true, regs := [(4, 19)], preds := [] }]) ∧
      ((four (met' (.redux 14 0 4 0 0 0 1 0) 0 15)).thread? 0 0).map (fun (x : Thread) => x.coll.isSome) = some true ∧
      Lane.guard { g := grp, ti := 0, t := thr } 15 = false ∧ grp.width = 4 := by decide +kernel


/-- The first bytes of the pad of block 0 after a sector of copy 0. -/
def padAfter (s : State) : List Byte := match exec (.copySector 0) s with
  | .next t => ((t.blocks[0]?).map fun b => (List.range 4).map b.padByte).getD []
  | _ => []

/-- A sector from memory into the pad, and one from the pad to memory (R293): the bytes of the line in the L2 and of the pad. -/
theorem test_meets_CopyProgress_bytes :
    ({ cp with dir := 1 } : Copy).toPad = false ∧ cp.toPad = true ∧
      padAfter { warm with copies := [cp], blocks := [shaped] } = [8, 9, 10, 11] ∧
      (match exec (.copySector 0) { warm with copies := [{ cp with dir := 1 }], blocks := [{ shaped with pad := [(1, 0x55)] }] } with
        | .next t => ([0x10008, 0x10009, 0x1000A].map (byteAt t 0), (t.copies[0]?).map Copy.prog)
        | _ => ([], none)) = ([0, 0x55, 0], some 1) ∧
      ({ warm with copies := [cp], blocks := [shaped] } : State).tileOps = [] ∧ (∀ e ∈ cp.sector 0, cp.pbase + (cp.place e).2 + 4 + 128 ≤ shaped.padsz) := by
  decide +kernel

/-- Words behind a window of a stage that is not there, and behind handles that name none; a word whose phases are counted. -/
theorem test_meets_BarrierInstructions_absent :
    ker.nstage ≤ (1 : BitVec 3).toNat ∧ (four (world)).barTarget 1 1 0 = .bad ∧
      (four { piped with blocks := [shaped, { shaped with stage := 1, bst := .retired }] }).barTarget 1 1 0 = .bad ∧
      ker.ncoord = 1 ∧ (∀ h ∈ [2 ^ 19, 2 ^ 16, 1], (solo (world)).handleTarget 0 (BitVec.ofNat 32 h) = .bad) ∧
      (solo (world (b := { blk with bst := .retired }))).handleTarget 0 0 = .bad ∧ ({ blk with bst := .retired } : Block).gone = true ∧
      shaped.phases.length = 16 ∧ shaped.phase 0 = 0 ∧
      (shaped.settle 0 { BWord.ofBits (wordN 1) with arr := 1 }).phase 0 = 1 ∧ (shaped.settle 0 (BWord.ofBits (wordN 1))).phase 0 = 0 := by decide +kernel

/-- A drain whose guard has hit, before and after it completes; a handle that names no block, one that waits. -/
theorem test_meets_TileWaitsAndEnds_guards :
    ({ top drain [0, 128] .running 2 with rgHit := some 3 } : TileOp).rgHit.isSome = true ∧ ({ top drain [0, 128] .running 2 with rgHit := some 3 } : TileOp).open' = true ∧
      (match exec (.tstat 14 0 4 0 1 0) (tile 2 [{ top drain [0, 128] .running 2 with rgHit := some 3 }]) with
        | .next t => (t.streams[0]?).map fun (x : Stream) => x.u.getS 4
        | _ => none) = some 0x10101 ∧
      (match exec (.tileOpComplete 0) (tile 2 [{ top drain [0, 128] .running 8 with rgHit := some 3 }]) with
        | .next t => (t.streams[0]?).map fun (x : Stream) => x.rgWait
        | _ => none) = some (some 3) ∧
      tileSteps drain ≤ 8 ∧ (tile 2 []).handleTarget 0 0x80000 = .bad ∧ (top drain [0, 128] .running 8).tainted = false ∧
      ((tiled 2).heldOn 0) = [] ∧ (BWord.ofBits (wordN 2 ||| 2 ^ 23)).exp ≤ (BWord.ofBits (wordN 2 ||| 2 ^ 23)).arr := by decide +kernel

/-- The image of a stream. -/
def streamImg : StreamSnap := { pc := 0x40, u := file, rstack := [], hcsp := none, tps := [], tileSeq := 0, logAt := 1, at_ := none }

/-- What a stream has performed. -/
def did (n : Nat) : LogRec := { who := .stream 0, t := none, kind := 9, addr := n, vals := [7] }

/-- A stream whose image is being written, with its log. -/
def imaging : Stream := { str with snapWriting := some streamImg, log := [did 1, did 2] }

/-- Images of a block and of a stream, their logs, and what is replayed from them (R467 to R469). -/
theorem test_meets_ErrorsAndRollbacks_streams :
    ({ world (x := imaging) with kernels := [{ ker with record := ker.record.set 2 2 }] } : State).logOf (.stream 0) = some ([did 1, did 2], 1) ∧
      (match exec (.snapshotComplete (.stream 0)) (world (x := imaging)) with
        | .next t => (t.streams[0]?).map fun (x : Stream) => (x.log, x.snapLatest.isSome, x.snapWriting.isSome)
        | _ => none) = some ([did 2], true, false) ∧
      str.snapWriting = none ∧ str.snapLatest = none ∧
      ((world (x := { str with replay := [did 1] })).replayOp (.stream 0) none 9 1).2 = .result [7] ∧
      (match exec (.snapshotComplete (.block 0)) (world (b := { blk with padsz := 0, tiles := [], snapWriting := some { image with groups := [] } })) with
        | .next t => (t.blocks[0]?).map fun (b : Block) => (b.snapLatest.isSome, b.snapWriting.isSome, b.covered)
        | _ => none) = some (true, false, true) ∧
      (report 6 0).place = .nowhere ∧ (world).atWay (report 4 5) = report 4 5 ∧ (covered none 0).streamsOf 0 0 = [] ∧
      image.at_ = none ∧ ({ image with at_ := some 0x1000 } : Snapshot).at_ = some 0x1000 := by decide +kernel

/-- A gate whose park holds waiters of which a signal reaches some. -/
def parkedAt (ts : List (BitVec 64)) : Gate := { gate1 .opened with parked := ts.zipIdx.map fun x => { who := .stream x.2, stamp := 7 + x.2, entry := 0, t := x.1 } }

/-- Waiters at a gate that a signal reaches, at a counter that a signal sets, and a launch that waits its turn (R219, R221, R432). -/
theorem test_meets_GateOperations_wakes :
    ((parkedAt [6, 9]).parked.filter fun q => decide (q.t ≤ (6 : BitVec 64))).map (·.stamp) = [7] ∧ (parkedAt [6, 9]).stalled = [] ∧ (parkedAt [6, 9]).seq = 5 ∧
      (match exec (.gsig 14 2) { gated (parkedAt [6, 9]) with streams := [{ str with wait := .uni 7 false }] } with
        | .next t => ((t.gate 0).parked.map (·.t), (t.streams[0]?).map fun (x : Stream) => (x.pc, x.wait))
        | _ => ([], none)) = ([9], some (0x108, .none)) ∧
      (match exec (.evsig 14 2 0 1) { four (world (c := { run0 with evwaits := [{ who := .stream 0, stamp := 7, ev := 0, t := 1 }] })) with streams := [{ str with wait := .uni 7 false }] } with
        | .next t => ((t.ctx 0).evwaits.length, (t.streams[0]?).map fun (x : Stream) => (x.pc, x.wait))
        | _ => (9, none)) = (0, some (0x108, .none)) ∧
      (gate1 .frozen).gst = .frozen ∧ ((gate1 .frozen).entryOf 0).isSome = true ∧ (gate1 .frozen).waiting = [] ∧
      (match exec (.gsig 14 2) (gated (gate1 .frozen)) with
        | .next t => (t.gate 0).waiting.length
        | _ => 9) = 1 ∧
      (match exec (.launch 14 5 0 1) { four (world (c := openQ [])) with kernels := [ker] ++ List.replicate 64 kq } with
        | .next t => ((t.queue 0 0).waiting.length, t.kernels.length)
        | _ => (9, 9)) = (1, 65) ∧
      (match exec (.launch 14 5 0 1) (four (world (c := openQ []))) with
        | .next t => ((t.queue 0 0).waiting.length, t.kernels.length)
        | _ => (9, 9)) = (0, 2) := by decide +kernel


/-- A page known to be shared, its ports UP. -/
def heardBy (o : PageOwn) : State := { shared o with links := (world).links.modify 12 fun l => { l with lst := .up } }

/-- Accesses of outside agents: not heard, of a partition without the group, waiting for a page, to a dead home, and performed. -/
theorem test_meets_Outside_access :
    (world).heard 1 = false ∧ (heardBy PageOwn.home).heard 1 = true ∧ (world).heard 0 = true ∧ outsideDevice (.peer 0) = 1 ∧ outsideDevice .host = 0 ∧
      (∀ p ∈ [1, 2], (world).ownsGroup p (groupOf 0x1000) = false ∧ (world).borrows p 0x1000 = false) ∧ (world).ownsGroup 0 (groupOf 0x1000) = true ∧
      (heardBy PageOwn.home).awaits { agent := .peer 0, part := none, pa := 0x10000, op := .write [1] } = some 1 ∧
      (heardBy { PageOwn.home with excl := some 1 }).awaits { agent := .peer 0, part := none, pa := 0x10000, op := .write [1] } = none ∧
      (world).awaits { agent := .host, part := none, pa := 0x10000, op := .write [1] } = none ∧
      (world).outsideDead { agent := .host, part := none, pa := 0x10000, op := .read 4 } = false ∧
      ({ world with dies := (world).dies.modify 8 fun d => { d with st := .failed } } : State).outsideDead { agent := .host, part := none, pa := 0, op := .read 4 } = true ∧
      (world).badEntry 0x10000 = false ∧ paKind (2 ^ 51) = .host ∧ (world).pageOwn 1 = PageOwn.home ∧ (world).ownPage 0x10000 0 = 1 ∧
      (heardBy PageOwn.home).ownPage 0x10000 0 = 1 ∧ ({ shared PageOwn.home with owns := [(0, { PageOwn.home with lvl := 1 })] } : State).ownPage 0x10000 0 = 0 := by
  decide +kernel

/-- An access to a host page that the host has unmapped waits, and asks for the page once (R448). -/
theorem test_meets_Outside_hostPages :
    (let s : State := { world (leaf := 0xD3F8000000000000) with hub := { (world).hub with absent := [2 ^ 39] } }
     ((s.look (s.accOf (.group 0)) .read 0x10008).2, (s.look (s.accOf (.group 0)) .read 0x10008).1.hub.pageReqs)) = (.wait, [(0, 2 ^ 39)]) ∧
      (let s : State := { world with hub := { (world).hub with absent := [2 ^ 39], pageReqs := [(0, 2 ^ 39)] } }
       match exec (.pageRequestResponse 0 (2 ^ 39)) s with
        | .next t => (t.hub.absent, t.hub.pageReqs)
        | _ => ([1], [])) = ([], []) ∧
      (match exec (.saddleHostPeerAccess { agent := .host, part := none, pa := 2 ^ 51, op := .unmap }) (world) with
        | .next t => t.hub.absent
        | _ => []) = [2 ^ 39] := by decide +kernel

/-- Shoot-downs at a die that is FENCED, with a full inbox, and an acknowledgement behind what is held (R443, R444). -/
theorem test_meets_ShootDowns_held :
    (shot [ph1 0x80] [] 0).dies[0]?.map Die.st = some .booting ∧ 256 ≤ (List.replicate 256 (ph1 0x10)).length ∧
      (match exec (.tlbiPh1 0) { shot [ph1 0x80] [] 0 with dies := (shot [ph1 0x80] [] 0).dies.modify 0 fun d => { d with st := .fenced } } with
        | .next t => (t.dies[0]?).map fun (d : Die) => (d.heldMsgs.length, d.ph1Work.length)
        | _ => none) = some (0, 0) ∧
      (match exec (.tlbiPh1 0) { shot [ph1 0x80] [] 0 with dies := (shot [ph1 0x80] [] 0).dies.modify 0 fun d => { d with inbox := List.replicate 256 (ph1 0x10) } } with
        | .next t => (t.dies[0]?).map fun (d : Die) => (d.heldMsgs.length, d.ph1Work.length)
        | _ => none) = some (1, 0) ∧
      (match exec (.tlbiAck 0) (shot [] [ph1 0x80] 0) with
        | .next t => (t.dies[1]?).map fun (d : Die) => d.heldMsgs.map fun m => (m.kind, m.src)
        | _ => none) = some [(0x81, 0)] := by decide +kernel

/-- A failed memory spoke, on which the images lie. -/
def lostMem (s : State) : State := { s with dies := s.dies.modify 8 fun d => { d with st := .failed } }

/-- A block in the reserve of a halting context, rebuilt from its snapshot or not. -/
def shelved (again : Bool) : State :=
  { laidUp .reserve .halting with blocks := [{ blk with bst := .reserve, rebuilt := again }], groups := [{ grp with gst := .saved }] }

/-- A command of the context in another window, a halting context with a rebuilt block, and images that are lost (R452, R457). -/
theorem test_meets_Contexts_more :
    ((owning []).dies.modify 1 fun d => { d with cmdSts := 1, cmd := some (3, 0, 0) })[1]?.map Die.cmd = some (some (3, 0, 0)) ∧ (0 : Nat) < noCtx ∧
      (∀ a ∈ [true, false], (match exec (.reserveRestore 0) (shelved a) with
        | .next t => ((t.blocks[0]?).map Block.bst, (t.groups[0]?).map Group.gst)
        | _ => (none, none)) = (some (if a then .placed else .reserve), some (if a then .stopped else .saved))) ∧
      (lostMem (cmding 6 0 (laidUp .saved .migrating))).lostImages 0 [0] [] = [0] ∧
      (lostMem (cmding 6 0 (laidUp .saved .migrating))).lostStreams 0 1 [0] = [0] := by decide +kernel


/-- Partition 0 with a loan of channel group 1 that it is still adding, which the lender's REVOKE abandons. -/
def adding : State :=
  let s := lots fun x => { x with shift := some { step := 2, what := 3, unit_ := .cg 1 } }
  { s with cgs := s.cgs.set 1 { UnitRec.free with cond := 2, owner := 1, borrower := 0 } }

/-- Loans and moves (R410, R419, R435): a loan that is abandoned, gates that name a moved partition, and its contexts restored. -/
theorem test_meets_Partitions_more :
    (adding.part 0).loans = [] ∧ (adding.part 0).shift = some { step := 2, what := 3, unit_ := .cg 1 } ∧
      (match exec (.revoke 1 (.cg 1)) adding with
        | .next t => ((t.part 0).shift, t.hub.drSts)
        | _ => (none, 0)) = (none, 5) ∧
      (gate1 .opened).touches 0 = true ∧ (gate1 .opened).touches 3 = false ∧ ((owning [] (inState .saved)).stopAreaOk 0) = true ∧
      (match exec (.move 0 2) { owning [] (inState .saved) with gates := [(0, gate1 .frozen)], hub := { (world).hub with drPend := some (.move 0 2 [0]), drCtxs := [(0, true)] } } with
        | .next t => ((t.ctx 0).st, (t.ctx 0).part, (t.gate 0).gst, (t.gate 0).owner)
        | _ => (.free, 9, .free, 9)) = (.migrating, 2, .opened, 2) ∧
      (match exec (.move 0 2) { owning [] (inState .running) with gates := [(0, gate1 .opened)] } with
        | .next t => ((t.ctx 0).st, (t.gate 0).gst, t.hub.drPend)
        | _ => (.free, .free, none)) = (.halting, .frozen, some (.move 0 2 [0])) := by decide +kernel

/-- Lanes of each direction, a PCI Express port whose partner answers on none, a flit of two slots, and messages behind a shoot-down
that waits (R436, R438, R443, R448). -/
theorem test_meets_Links_more :
    (match exec (.linkTrainingDone 28 (0, 0)) (linked 28 { Link.pcieReset with lst := .training }) with
        | .next t => (t.links[28]?).map Link.lst
        | _ => none) = some .down ∧
      (match exec (.linkTrainingDone 12 (16, 15)) (linked 12 { Link.tandemReset with lst := .training }) with
        | .next t => (t.links[12]?).map fun (l : Link) => (l.lst, l.lanes)
        | _ => none) = some (if 15 < Link.tandemReset.full then .degraded else .up, (min 16 Link.tandemReset.full, min 15 Link.tandemReset.full)) ∧
      (flitSlots [List.replicate 64 0, [1], List.replicate 64 2] [crc16 (List.replicate 64 0), 0, 7] [true, true, false] [0x1000, 0, 0x2000] [(0, none), (0, none), (0, some 0)]).length = 2 ∧
      paKind 0x1000 ≠ .reserved ∧ (List.replicate 64 (0 : Byte)).length = 64 ∧ (world).homeDead noCtx 0x1000 = false ∧
      ((chant 0x10010 1 [] []).dies.modify 0 fun d => { d with later := [ph1 0x80] })[0]?.map (fun (d : Die) => d.later.length) = some 1 := by
  decide +kernel

/-- The image of a die that boot finds, good, unsigned, or with a version below the least (R473). -/
def img (signed : Bool) : BootImage := { bytes := [1], signed := signed, version := 0xFFFFFFFF }

/-- Boot finds images, the hub's and those of the spokes; a spoke that rejoins; the fuses; a function that is bound (R448, R458, R472 to R474). -/
theorem test_meets_Boot_more :
    (List.replicate 13 (some (img true)))[12]? = some (some (img true)) ∧ (img true).signed = true ∧
      (∀ m : Word, m.toNat ≤ (img true).version.toNat) ∧ (List.replicate 13 (some (img false)))[12]? = some (some (img false)) ∧
      (img false).signed = false ∧ ((spoke .rejoining 0).dies[0]?).map Die.imaged = some false ∧ (world).hub.fused = (0, 0, 0) ∧
      ({ world (c := { run0 with fn := some 1 }) with hub := { (world).hub with stage := 5 } } : State).fnCtx 1 = some 0 ∧ (world).fnCtx 1 = none ∧
      (world).hub.stage ≠ 7 := by
  refine ⟨?_, ?_, fun m => ?_, ?_, ?_, ?_, ?_, ?_, ?_, ?_⟩ <;> first | decide +kernel | (show m.toNat ≤ 2 ^ 32 - 1; omega)

/-- A turn that leaves an issue, a derailleur command and an event that a package left in reset does not take (R266, R422, R472). -/
theorem test_meets_StepRuns_turns :
    ({ placed with agenda := [.quadrant placed.idleCore 0 (some 3)] } : State).agenda.length = 1 ∧
      ({ placed with agenda := [.derailleur (.reset 0)] } : State).agenda = [.derailleur (.reset 0)] ∧
      inReset .packageReset = true ∧ inReset .kernelAdmit = false ∧ Instr.packageReset.isEvent = true ∧
      ({ placed with hub := { placed.hub with stage := 7 } } : State).hub.stage = 7 ∧ placed.hub.stage ≠ 7 := by decide +kernel

end Sys2Proof.Tests
end

section
/-! O55. A write that begins inside the last register of a context record and runs past it goes on in the record of the next
context (R4), which a window may reach where it does not reach the first (R371). -/

namespace Sys2Proof.Machine

/-! ## The registers of a context record -/

/-- A register from UVEC on has four bytes (R371). -/
theorem regAt_ctxTable_high {off : Nat} (d : Nat) (h : 0x28 ≤ off % 0x40) : regAt (.ctxTable d) off = (off - off % 4, 4) := by
  simp [regAt, h]

/-- The first register of a record, ASID to WEIGHT, has four bytes (R371). -/
theorem regAt_ctxTable_first (d c : Nat) : regAt (.ctxTable d) (0x40 * c) = (0x40 * c, 4) := by
  have h4 : 0x40 * c % 4 = 0 := by omega
  simp [regAt, h4]

/-- A record that the window does not reach ignores a write (R371). -/
theorem State.writeRegister_ctxTable_unreachable {s : State} {d off : Nat} (v : BitVec 64) (hoff : off < 0x40000)
    (h : s.reachable d (off / 0x40) = false) : s.writeRegister (.ctxTable d) off v = .next s := by
  have hcmd : off ≠ 0xFF000 := by omega
  simp [State.writeRegister, State.writeCtxTable, h, hcmd]

/-- Every context stands as it did when an address space takes its owner (R353). -/
@[simp] theorem State.ownAsid_ctx (s : State) (d : Nat) (a : BitVec 16) (c : Nat) : (s.ownAsid d a).ctx c = s.ctx c := by
  unfold State.ownAsid; split <;> rfl

/-- A write of the first register of a record that the window reaches sets WEIGHT to its low byte (R371, R372). -/
theorem State.writeRegister_ctxTable_weight {s : State} {d c : Nat} (v : BitVec 64) (hc : c < 4096) (h : s.reachable d c = true) :
    ∃ t, s.writeRegister (.ctxTable d) (0x40 * c) v = .next t ∧ (t.ctx c).weight = v.extractLsb' 0 8 := by
  have hcmd : 0x40 * c ≠ 0xFF000 := by omega
  have hlow : 0x40 * c < 0x40000 := by omega
  simp [State.writeRegister, State.writeCtxTable, h, hcmd, hlow, Ctx.write]

/-- The lowest byte of a register of which that byte alone is written. -/
theorem mergeBytes_low_byte (old v : BitVec 64) : (mergeBytes old v 0 1).extractLsb' 0 8 = v.extractLsb' 0 8 := by
  have hkeep : (~~~ (255 : BitVec 64)).extractLsb' 0 8 = 0#8 := by decide
  have htake : (255 : BitVec 64).extractLsb' 0 8 = BitVec.allOnes 8 := by decide
  have hm : BitVec.ofNat 64 (2 ^ (8 * 1) - 1) <<< (8 * 0) = 255 := by decide
  rw [mergeBytes, hm, BitVec.extractLsb'_or, BitVec.extractLsb'_and, BitVec.extractLsb'_and, hkeep, htake, BitVec.and_zero,
    BitVec.zero_or, BitVec.and_allOnes, Nat.mul_zero, BitVec.shiftLeft_zero]

/-! ## Across two records -/

/-- Four bytes written to a window from the second byte of a record's last register on: the record of context c, which the window
does not reach, ignores the first three, and the fourth is the WEIGHT of context c + 1. -/
theorem exec_write_across_ctx_records {s : State} {d c : Nat} (v : BitVec 64) (hboot : s.hub.stage ≠ 7) (hc : c + 1 < 4096)
    (hthis : s.reachable d c = false) (hnext : s.reachable d (c + 1) = true) :
    ∃ t, exec (.privilegedRegisterWrite (.ctxTable d) (0x40 * c + 0x3D) ⟨4, v⟩) s = .next t ∧
      (t.ctx (c + 1)).weight = v.extractLsb' 24 8 := by
  have hreg : regAt (.ctxTable d) (0x40 * c + 0x3D) = (0x40 * c + 0x3C, 4) := by
    rw [regAt_ctxTable_high d (by omega)]; congr 1; omega
  have hhead : s.writePiece (.ctxTable d) (0x40 * c + 0x3D) 3 v = .next s := by
    have hc' : (0x40 * c + 0x3C) / 0x40 = c := by omega
    simp [State.writePiece, hreg,
      State.writeRegister_ctxTable_unreachable _ (show 0x40 * c + 0x3C < 0x40000 by omega) (hc' ▸ hthis)]
  have htail : s.writePiece (.ctxTable d) (0x40 * (c + 1)) 1 (v >>> 24) =
      s.writeRegister (.ctxTable d) (0x40 * (c + 1)) (mergeBytes (s.kept (.ctxTable d) (0x40 * (c + 1))) (v >>> 24) 0 1) := by
    simp [State.writePiece, regAt_ctxTable_first]
  obtain ⟨t, ht, hw⟩ := State.writeRegister_ctxTable_weight
    (mergeBytes (s.kept (.ctxTable d) (0x40 * (c + 1))) (v >>> 24) 0 1) hc hnext
  refine ⟨t, ?_, ?_⟩
  · calc exec (.privilegedRegisterWrite (.ctxTable d) (0x40 * c + 0x3D) ⟨4, v⟩) s
        = execPrivilegedRegisterWrite (.ctxTable d) (0x40 * c + 0x3D) ⟨4, v⟩ s := rfl
      _ = s.writePiece (.ctxTable d) (0x40 * (c + 1)) 1 (v >>> 24) := by
        have hn : 0x40 * c + 0x3C + 4 - (0x40 * c + 0x3D) = 3 := by omega
        simp [execPrivilegedRegisterWrite, hboot, hreg, hn, hhead, Nat.mul_add, Nat.add_assoc]
      _ = .next t := htail.trans ht
  · rw [hw, mergeBytes_low_byte]
    ext i
    simp

end Sys2Proof.Machine

open Sys2Proof Sys2Proof.Machine

/-- Refutes O55: the clause on contexts that a window does not reach (R371) also speaks of writes that are not aligned. Of the
package at reset but for context 1, which is BOUND and owned by die 0, the window of die 0 does not reach the FREE context 0; yet
the four bytes 00 00 00 02 written there at offset 0x3D end in the record of context 1, whose WEIGHT becomes 2 from 1. -/
theorem not_registerWindows : ¬ Obligations.RegisterWindows := by
  intro h
  let s : State := State.reset.modCtx 1 fun c => { c with st := .bound }
  have hboot : s.hub.stage ≠ 7 := by decide +kernel
  have hthis : s.reachable 0 0 = false := by decide +kernel
  have hnext : s.reachable 0 1 = true := by decide +kernel
  have hignored : exec (.privilegedRegisterWrite (.ctxTable 0) 0x3D ⟨4, 0x0200_0000⟩) s = .next s := by
    obtain ⟨-, hwrites⟩ := h s 0x0200_0000
    obtain ⟨-, -, -, -, -, -, -, -, -, -, -, -, -, -, -, -, -, -, -, hunreached, -⟩ := hwrites hboot
    exact hunreached 0 0 0x3D hthis (by decide) (by decide)
  obtain ⟨t, ht, hweight⟩ := exec_write_across_ctx_records (d := 0) (c := 0) 0x0200_0000 hboot (by decide) hthis hnext
  obtain rfl : s = t := Host.Outcome.next.inj (hignored.symm.trans ht)
  have hreset : (s.ctx 1).weight = 1 := by decide +kernel
  exact absurd (hreset.symm.trans hweight) (by decide)

end

section
/-! O59, O58. Decoding and encoding (R29 to R48): a word is a sum of fields, each of which can be read back, so the decoder finds
the instruction that was encoded; and it accepts nothing but an instruction that has just the words read. -/

namespace Sys2Proof

/-! ## Fields of a sum

A word is written `header + x.toNat * 2 ^ lo + …`, the fields from high to low; reading a field drops what stands below it
and finds it in front of what stands above. -/

/-- A field below a power of two is lost in the quotient by it. -/
theorem add_toNat_mul_div {A m p k : Nat} (x : BitVec k) (hp : 2 ^ k * m ∣ p) (hA : 2 ^ k * m ∣ A) :
    (A + x.toNat * m) / p = A / p := by
  rcases Nat.eq_zero_or_pos m with rfl | hm
  · simp
  obtain ⟨a, rfl⟩ := hA
  obtain ⟨b, rfl⟩ := hp
  have hc : 0 < 2 ^ k * m := by positivity
  have hx : (2 ^ k * m * a + x.toNat * m) / (2 ^ k * m) = a := by
    rw [Nat.mul_add_div hc, Nat.div_eq_of_lt (Nat.mul_lt_mul_of_pos_right x.isLt hm), Nat.add_zero]
  rw [← Nat.div_div_eq_div_mul _ (2 ^ k * m), ← Nat.div_div_eq_div_mul _ (2 ^ k * m), hx, Nat.mul_div_cancel_left a hc]

/-- The same of a field at bit 0. -/
theorem add_toNat_div {A p k : Nat} (x : BitVec k) (hp : 2 ^ k ∣ p) (hA : 2 ^ k ∣ A) : (A + x.toNat) / p = A / p := by
  simpa using add_toNat_mul_div (m := 1) x (by simpa using hp) (by simpa using hA)

/-- A field does not depend on one below it. -/
theorem fld_add_toNat_mul {A m lo n k : Nat} (x : BitVec k) (h : 2 ^ k * m ∣ 2 ^ lo) (hA : 2 ^ k * m ∣ A) :
    fld (A + x.toNat * m) lo n = fld A lo n := by
  rw [fld, fld, add_toNat_mul_div x h hA]

/-- The same of one at bit 0. -/
theorem fld_add_toNat {A lo n k : Nat} (x : BitVec k) (h : 2 ^ k ∣ 2 ^ lo) (hA : 2 ^ k ∣ A) :
    fld (A + x.toNat) lo n = fld A lo n := by
  rw [fld, fld, add_toNat_div x h hA]

/-- A field is read where it was written, in front of what stands above it. -/
theorem fld_add_toNat_mul_self {A lo n m : Nat} (x : BitVec n) (hm : m = 2 ^ lo) (hA : 2 ^ (lo + n) ∣ A) :
    fld (A + x.toNat * m) lo n = x := by
  obtain ⟨a, rfl⟩ := hA
  subst hm
  apply BitVec.eq_of_toNat_eq
  rw [fld, pow_add, Nat.mul_comm x.toNat, Nat.mul_assoc, ← Nat.mul_add, Nat.mul_div_cancel_left _ (Nat.two_pow_pos lo),
    BitVec.toNat_ofNat, Nat.mul_add_mod, Nat.mod_eq_of_lt x.isLt]

/-- The same at bit 0. -/
theorem fld_add_toNat_self {A n : Nat} (x : BitVec n) (hA : 2 ^ n ∣ A) : fld (A + x.toNat) 0 n = x := by
  simpa using fld_add_toNat_mul_self (lo := 0) x rfl (by simpa using hA)

/-- What stands above a bit is a multiple of its power of two, field for field. -/
theorem dvd_add_mul_iff {c A x m : Nat} (h : c ∣ m) : c ∣ A + x * m ↔ c ∣ A := Nat.dvd_add_left (h.mul_left x)

/-- Two bits written low to high, as the negations of FFMA and the signs of IDOT8 are, in the order of the other fields. -/
theorem add_bit_add_bit_mul_two {A : Nat} (x y : BitVec 1) : A + x.toNat + y.toNat * 2 = A + y.toNat * 2 + x.toNat :=
  Nat.add_right_comm ..

/-! ## Reading back the words of an instruction -/

/-- The fields of one word of a 32-bit form or of two words of an extended form, by the class and the opcode of the first;
nothing is tested but that a continuation follows (R30, R31, R36 to R39). -/
def fieldsOf : List Nat → Option Instr
  | [w] =>
    if fld w 29 3 = 0 then fieldsLr (fld w 22 7).toNat w
    else if fld w 29 3 = 4 then fieldsUr (fld w 22 7).toNat w
    else none
  | [w, c] =>
    if fld c 29 3 = 7 then
      if fld w 29 3 = 1 then fieldsLx (fld w 22 7).toNat w c
      else if fld w 29 3 = 5 then fieldsUx (fld w 22 7).toNat w c
      else none
    else none
  | _ => none

/-- The fields of a 32-bit form are read back (R36, R38): its class and its opcode, which lead to the arm of its opcode, and
then each field that this arm reads. -/
theorem fieldsOf_encode_of_length_one (i : Instr) (hl : (encode i).length = 1) : fieldsOf (encode i) = some i := by
  cases i <;> cases hl
  all_goals change fieldsOf [_] = _
  all_goals simp only [fieldsOf, fld_add_toNat_mul, fld_add_toNat, dvd_add_mul_iff, Nat.reducePow, Nat.reduceMul, Nat.reduceDvd]
  all_goals change some _ = _
  all_goals simp only [fld_add_toNat_mul, fld_add_toNat, fld_add_toNat_mul_self, fld_add_toNat_self, dvd_add_mul_iff,
    Nat.reducePow, Nat.reduceAdd, Nat.reduceMul, Nat.reduceDvd]

/-- The fields of an extended form are read back from its two words (R37, R39), as those of a 32-bit form are. -/
theorem fieldsOf_encode_of_length_two (i : Instr) (hl : (encode i).length = 2) : fieldsOf (encode i) = some i := by
  cases i <;> cases hl
  all_goals change fieldsOf [_, _] = _
  all_goals simp only [fieldsOf, fld_add_toNat_mul, fld_add_toNat, add_bit_add_bit_mul_two, dvd_add_mul_iff, Nat.reducePow,
    Nat.reduceMul, Nat.reduceDvd]
  all_goals change some _ = _
  all_goals simp only [fld_add_toNat_mul, fld_add_toNat, fld_add_toNat_mul_self, fld_add_toNat_self, dvd_add_mul_iff,
    Nat.reducePow, Nat.reduceAdd, Nat.reduceMul, Nat.reduceDvd]

/-- An event is what has no words. -/
theorem isEvent_eq_encode_isEmpty (i : Instr) : i.isEvent = (encode i).isEmpty := by
  cases i <;> rfl

/-- An instruction has two words at most. -/
theorem encode_length_le_two (i : Instr) : (encode i).length ≤ 2 := by
  cases i <;> exact Nat.le_of_ble_eq_true rfl

/-- The fields that stand in the words of an instruction are its own. -/
theorem fieldsOf_encode {i : Instr} (h : i.isEvent = false) : fieldsOf (encode i) = some i := by
  have hpos : (encode i).length ≠ 0 := by
    simpa [isEvent_eq_encode_isEmpty] using h
  have hle := encode_length_le_two i
  obtain h1 | h2 : (encode i).length = 1 ∨ (encode i).length = 2 := by omega
  · exact fieldsOf_encode_of_length_one i h1
  · exact fieldsOf_encode_of_length_two i h2

/-! ## The decoder -/

/-- A candidate is accepted if the words read are its own and it is well formed (R35, R62). -/
theorem acceptInstr_eq_ok_iff {ws : List Nat} {o : Option Instr} {i : Instr} :
    acceptInstr ws o = .ok i ↔ o = some i ∧ encode i = ws ∧ i.wf = true := by
  cases o with
  | none => simp [acceptInstr]
  | some j =>
    simp only [acceptInstr, Option.some.injEq]
    split_ifs with he hw
    · exact ⟨fun h => by cases h; exact ⟨rfl, he, hw⟩, fun ⟨h, _⟩ => h ▸ rfl⟩
    · exact ⟨nofun, fun ⟨h, _, hw'⟩ => absurd hw' (h ▸ hw)⟩
    · exact ⟨nofun, fun ⟨h, he', _⟩ => absurd he' (h ▸ he)⟩

/-- The class of a word is its field of bits 29 to 31 (R30). -/
theorem class_of_fld {w : Nat} {v : BitVec 3} (h : fld w 29 3 = v) : w / 2 ^ 29 % 8 = v.toNat := by
  rw [← h, fld, BitVec.toNat_ofNat]

/-- A word of class LR is decoded by its opcode (R36). -/
theorem decode_of_lr {w : Nat} {rest : List Nat} (h : fld w 29 3 = 0) :
    decode (w :: rest) = acceptInstr [w] (fieldsLr (fld w 22 7).toNat w) := by
  have hw : wordClass w = .lr := by rw [wordClass, class_of_fld h]; rfl
  simp only [decode, hw]; rfl

/-- A word of class UR is decoded by its opcode (R38). -/
theorem decode_of_ur {w : Nat} {rest : List Nat} (h : fld w 29 3 = 4) :
    decode (w :: rest) = acceptInstr [w] (fieldsUr (fld w 22 7).toNat w) := by
  have hw : wordClass w = .ur := by rw [wordClass, class_of_fld h]; rfl
  simp only [decode, hw]; rfl

/-- A word of class LX is decoded with the continuation after it (R31, R37). -/
theorem decode_of_lx {w c : Nat} {rest : List Nat} (h : fld w 29 3 = 1) (hc : fld c 29 3 = 7) :
    decode (w :: c :: rest) = acceptInstr [w, c] (fieldsLx (fld w 22 7).toNat w c) := by
  have hw : wordClass w = .lx := by rw [wordClass, class_of_fld h]; rfl
  have hcont : wordClass c = .cont := by rw [wordClass, class_of_fld hc]; rfl
  simp only [decode, hw, hcont, if_true]; rfl

/-- A word of class UX is decoded with the continuation after it (R31, R39). -/
theorem decode_of_ux {w c : Nat} {rest : List Nat} (h : fld w 29 3 = 5) (hc : fld c 29 3 = 7) :
    decode (w :: c :: rest) = acceptInstr [w, c] (fieldsUx (fld w 22 7).toNat w c) := by
  have hw : wordClass w = .ux := by rw [wordClass, class_of_fld h]; rfl
  have hcont : wordClass c = .cont := by rw [wordClass, class_of_fld hc]; rfl
  simp only [decode, hw, hcont, if_true]; rfl

/-- The words of one instruction are decoded by accepting what their fields name. -/
theorem decode_eq_acceptInstr {ws : List Nat} {i : Instr} (h : fieldsOf ws = some i) : decode ws = acceptInstr ws (some i) := by
  match ws with
  | [] => simp [fieldsOf] at h
  | [w] =>
    simp only [fieldsOf] at h
    split_ifs at h with h0 h4
    · rw [decode_of_lr h0, h]
    · rw [decode_of_ur h4, h]
  | [w, c] =>
    simp only [fieldsOf] at h
    split_ifs at h with h7 h1 h5
    · rw [decode_of_lx h1 h7, h]
    · rw [decode_of_ux h5 h7, h]
  | _ :: _ :: _ :: _ => simp [fieldsOf] at h

/-- A well-formed instruction is decoded from its words (R29 to R48). -/
theorem decode_encode {i : Instr} (hw : i.wf = true) (he : i.isEvent = false) : decode (encode i) = .ok i :=
  (decode_eq_acceptInstr (fieldsOf_encode he)).trans (acceptInstr_eq_ok_iff.2 ⟨rfl, rfl, hw⟩)

/-- What is decoded was accepted for the first word or the first two words read. -/
theorem exists_accepted_of_decode {ws : List Nat} {i : Instr} (h : decode ws = .ok i) :
    ∃ used o, used ≠ [] ∧ used <+: ws ∧ acceptInstr used o = .ok i := by
  cases ws with
  | nil => cases h
  | cons w rest =>
    simp only [decode] at h
    split at h
    · exact ⟨[w], _, by simp, by simp, h⟩
    · exact ⟨[w], _, by simp, by simp, h⟩
    iterate 2
      · split at h
        · split_ifs at h
          exact ⟨_, _, by simp, by simp, h⟩
        · cases h
    all_goals cases h

/-- What is decoded is well formed, and its words are the first of those read (R35, R62). -/
theorem wf_and_words_of_decode {ws : List Nat} {i : Instr} (h : decode ws = .ok i) :
    i.wf = true ∧ encode i ≠ [] ∧ encode i <+: ws := by
  obtain ⟨used, o, hne, hpre, ha⟩ := exists_accepted_of_decode h
  obtain ⟨-, rfl, hw⟩ := acceptInstr_eq_ok_iff.1 ha
  exact ⟨hw, hne, hpre⟩

end Sys2Proof

open Sys2Proof

/-- Settles O59: the fields read from the words of an instruction are its own, and the decoder accepts a candidate only if its
words are those read. -/
theorem decodeEncode : Obligations.DecodeEncode := by
  refine ⟨fun i hw he => decode_encode hw he, fun ws i h => ?_⟩
  obtain ⟨hw, hne, rest, rfl⟩ := wf_and_words_of_decode h
  exact ⟨hw, by simpa [isEvent_eq_encode_isEmpty] using hne, List.take_left.symm⟩

/-- Settles O58: each listed word is the encoding of the well-formed instruction beside it, and so is decoded as it. -/
theorem listedWords : Obligations.ListedWords := by
  intro e he
  obtain ⟨hw, hev, henc⟩ : e.2.wf = true ∧ e.2.isEvent = false ∧ encode e.2 = e.1 := by
    revert e; decide
  rw [← henc]
  exact decode_encode hw hev
end

section
/-! O19. A result written early (R60, R61), and a group that is loaded (R161). -/

namespace Sys2Proof.Machine

/-! ## One object changed -/

/-- A change of one entry depends only on what it makes of that entry. -/
theorem modify_eq_of_apply_eq {α : Type} {l : List α} {i : Nat} {a : α} {f g : α → α} (ha : l[i]? = some a) (h : f a = g a) :
    l.modify i f = l.modify i g := by
  simp [List.modify_eq_set_getElem?, ha, h]

/-- A change of an agent's uniform registers depends only on what it makes of them. -/
theorem State.modU_eq_of_apply_eq {s : State} {who : Agent} {u : UFile} {f g : UFile → UFile} (hu : s.ufile who = some u)
    (h : f u = g u) : s.modU who f = s.modU who g := by
  cases who with
  | group gid =>
    obtain ⟨x, hx, rfl⟩ := Option.map_eq_some_iff.1 hu
    have hm : s.groups.modify gid (fun y => { y with u := f y.u }) = s.groups.modify gid fun y => { y with u := g y.u } :=
      modify_eq_of_apply_eq hx (by rw [h])
    exact congrArg (fun l => { s with groups := l }) hm
  | stream sid =>
    obtain ⟨x, hx, rfl⟩ := Option.map_eq_some_iff.1 hu
    have hm : s.streams.modify sid (fun y => { y with u := f y.u }) = s.streams.modify sid fun y => { y with u := g y.u } :=
      modify_eq_of_apply_eq hx (by rw [h])
    exact congrArg (fun l => { s with streams := l }) hm

/-- Uniform registers changed into themselves. -/
theorem State.modU_id (s : State) (who : Agent) : s.modU who id = s := by
  cases who with
  | group gid => exact congrArg (fun l => { s with groups := l }) (List.modify_id gid s.groups)
  | stream sid => exact congrArg (fun l => { s with streams := l }) (List.modify_id sid s.streams)

/-- A change of a thread depends only on what it makes of it. -/
theorem State.modThread_eq_of_apply_eq {s : State} {gid ti : Nat} {x : Group} {th : Thread} {f g : Thread → Thread}
    (hx : s.groups[gid]? = some x) (ht : x.threads[ti]? = some th) (h : f th = g th) :
    s.modThread gid ti f = s.modThread gid ti g := by
  have hg : x.modThread ti f = x.modThread ti g :=
    congrArg (fun l => { x with threads := l }) (modify_eq_of_apply_eq ht h)
  have hm : s.groups.modify gid (·.modThread ti f) = s.groups.modify gid (·.modThread ti g) := modify_eq_of_apply_eq hx hg
  exact congrArg (fun l => { s with groups := l }) hm

/-- A thread changed into itself. -/
theorem State.modThread_id (s : State) (gid ti : Nat) : s.modThread gid ti id = s := by
  have hg : (fun x : Group => x.modThread ti id) = id :=
    funext fun x => congrArg (fun l => { x with threads := l }) (List.modify_id ti x.threads)
  have hm : s.groups.modify gid (·.modThread ti id) = s.groups := by rw [hg, List.modify_id]
  exact congrArg (fun l => { s with groups := l }) hm

/-! ## Incomplete results -/

/-- Registers lost one after another are lost in one filter. -/
theorem foldl_pendDropReg (rs : List (Nat × Word)) (l : List Pend) : rs.foldl (fun l r => pendDropReg l r.1) l =
    l.map fun q => { q with regs := q.regs.filter fun r => !(rs.any fun w => w.1 == r.1) } := by
  induction rs generalizing l with
  | nil => simp
  | cons w rs ih =>
    rw [List.foldl_cons, ih, pendDropReg, List.map_map]
    simp [Function.comp_def, List.filter_filter, bne, BEq.comm (a := w.1), Bool.and_comm]

/-- Predicates lost one after another are lost in one filter. -/
theorem foldl_pendDropPred (ps : List (Nat × Bool)) (l : List Pend) : ps.foldl (fun l r => pendDropPred l r.1) l =
    l.map fun q => { q with preds := q.preds.filter fun r => !(ps.any fun w => w.1 == r.1) } := by
  induction ps generalizing l with
  | nil => simp
  | cons w ps ih =>
    rw [List.foldl_cons, ih, pendDropPred, List.map_map]
    simp [Function.comp_def, List.filter_filter, bne, BEq.comm (a := w.1), Bool.and_comm]

/-- Older incomplete results lose the registers and the predicates of a younger one (R61). -/
theorem pendLose_eq_map (l : List Pend) (p : Pend) : pendLose l p = l.map fun q =>
    { q with regs := q.regs.filter fun r => !(p.regs.any fun w => w.1 == r.1),
             preds := q.preds.filter fun r => !(p.preds.any fun w => w.1 == r.1) } := by
  rw [pendLose, foldl_pendDropReg, foldl_pendDropPred, List.map_map]; rfl

/-- A known uniform result is written (R60). -/
theorem UFile.completeAt_known {u : UFile} {k : Nat} {p : Pend} (hp : u.pend[k]? = some p) (hk : p.known = true) :
    u.completeAt k = { u.complete1 p with pend := pendLose (u.pend.take k) p ++ u.pend.drop (k + 1) } := by
  simp [UFile.completeAt, hp, hk]

/-- An unknown uniform result stays (R60). -/
theorem UFile.completeAt_unknown {u : UFile} {k : Nat} {p : Pend} (hp : u.pend[k]? = some p) (hk : p.known = false) :
    u.completeAt k = u := by
  simp [UFile.completeAt, hp, hk]

/-- A known result of a thread is written (R60). -/
theorem Thread.completeAt_known {t : Thread} {k : Nat} {p : Pend} (hp : t.pend[k]? = some p) (hk : p.known = true) :
    t.completeAt k = { t.complete1 p with pend := pendLose (t.pend.take k) p ++ t.pend.drop (k + 1) } := by
  simp [Thread.completeAt, hp, hk]

/-- An unknown result of a thread stays (R60). -/
theorem Thread.completeAt_unknown {t : Thread} {k : Nat} {p : Pend} (hp : t.pend[k]? = some p) (hk : p.known = false) :
    t.completeAt k = t := by
  simp [Thread.completeAt, hp, hk]

/-- Counting on over the threads before it, a thread's k-th incomplete result is found (R60). -/
theorem pendAt_threads {l : List Thread} {ti k : Nat} {th : Thread} (ht : l[ti]? = some th) (hk : k < th.pend.length) :
    pendAt l (((l.map fun t => t.pend.length).take ti).sum + k) = some (ti, k) := by
  induction l generalizing ti with
  | nil => simp at ht
  | cons t r ih =>
    cases ti with
    | zero =>
      obtain rfl : t = th := by simpa using ht
      simp [pendAt, hk]
    | succ ti => simp [pendAt, Nat.add_assoc, ih (by simpa using ht)]

/-! ## The two events -/

/-- INSTRUCTION_COMPLETE of a number below that of the uniform results completes one of these (R60). -/
theorem exec_instructionComplete_uniform {s : State} {who : Agent} {u : UFile} {k : Nat} (hu : s.ufile who = some u)
    (hk : k < u.pend.length) : exec (.instructionComplete who k) s = .next (s.modU who (·.completeAt k)) := by
  change execInstructionComplete who k s = _
  simp [execInstructionComplete, hu, hk]

/-- INSTRUCTION_COMPLETE of a number that counts on over the threads completes the result of a thread (R60). -/
theorem exec_instructionComplete_thread {s : State} {gid ti k : Nat} {x : Group} {th : Thread} (hx : s.groups[gid]? = some x)
    (ht : x.threads[ti]? = some th) (hk : k < th.pend.length) :
    exec (.instructionComplete (.group gid) (x.u.pend.length + ((x.threads.take ti).map fun t => t.pend.length).sum + k)) s =
      .next (s.modThread gid ti (·.completeAt k)) := by
  have hu : s.ufile (.group gid) = some x.u := by simp [State.ufile, hx]
  change execInstructionComplete _ _ s = _
  simp [execInstructionComplete, hu, hx, Nat.add_assoc, pendAt_threads ht hk]

/-- A group that GROUP_LOADED lets run, its threads ready (R161). -/
def Group.loadedAt (now : Nat) (x : Group) : Group :=
  { x with gst := .running, threads := x.threads.map fun t => { t with ready := now } }

/-- GROUP_LOADED lets a LOADING group run (R161). -/
theorem exec_groupLoaded_loading {s : State} {gid : Nat} {x : Group} (hx : s.groups[gid]? = some x) (hl : x.gst = .loading) :
    exec (.groupLoaded gid) s = .next (s.modGroup gid (Group.loadedAt s.tick)) := by
  refine congrArg (fun l => Host.Outcome.next { s with groups := l }) (modify_eq_of_apply_eq hx ?_)
  rw [if_pos hl]; rfl

/-- GROUP_LOADED changes no group that is not LOADING (R161). -/
theorem exec_groupLoaded_other {s : State} {gid : Nat} {x : Group} (hx : s.groups[gid]? = some x) (hl : x.gst ≠ .loading) :
    exec (.groupLoaded gid) s = .next s := by
  refine congrArg (fun l => Host.Outcome.next { s with groups := l }) (Eq.trans ?_ (List.modify_id gid s.groups))
  exact modify_eq_of_apply_eq hx (if_neg hl)

end Sys2Proof.Machine

open Sys2Proof Sys2Proof.Machine

/-- Settles O19: at the agent or thread that is named the event's change is that of the k-th result, and a group is loaded by its
state alone. -/
theorem completionsAndLoading : Obligations.CompletionsAndLoading := by
  simp only [Obligations.CompletionsAndLoading, ← pendLose_eq_map]
  refine ⟨fun s who u k p hu hp => ?_, fun s gid ti k x th p hx ht hp => ?_, fun s gid x hx => ⟨fun hl => ?_, ?_⟩⟩
  · rw [exec_instructionComplete_uniform hu (List.getElem?_eq_some_iff.1 hp).1]
    refine ⟨fun hk => ?_, fun hk => ?_⟩
    · exact congrArg _ (State.modU_eq_of_apply_eq hu (UFile.completeAt_known hp hk))
    · rw [State.modU_eq_of_apply_eq (g := id) hu (UFile.completeAt_unknown hp hk), State.modU_id]
  · rw [exec_instructionComplete_thread hx ht (List.getElem?_eq_some_iff.1 hp).1]
    cases hk : p.known with
    | true => exact congrArg _ (State.modThread_eq_of_apply_eq hx ht (Thread.completeAt_known hp hk))
    | false =>
      rw [State.modThread_eq_of_apply_eq (g := id) hx ht (Thread.completeAt_unknown hp hk), State.modThread_id]; rfl
  · refine ⟨_, x.loadedAt s.tick, exec_groupLoaded_loading hx hl, rfl, by simp [hx], rfl, ?_, fun ti th ht => ?_⟩
    · rw [Group.loadedAt, ← hl]
    · simp [Group.loadedAt, ht]
  · exact exec_groupLoaded_other hx

end

section
/-! O9. Rounding: a value that a format holds is kept (R82, R87, R96), and a directed mode stays on its side of the value (R87). -/

namespace Sys2Proof.Machine

/-! ## NaN (R83) -/

/-- A sum with a NaN on the left is NaN. -/
@[simp] theorem Num.nan_add (rm : Rm) (x : Num) : Num.nan.add rm x = .nan := rfl

/-- A sum with a NaN on the right is NaN. -/
@[simp] theorem Num.add_nan (rm : Rm) (x : Num) : x.add rm .nan = .nan := by cases x <;> rfl

/-- A product with a NaN on the left is NaN. -/
@[simp] theorem Num.nan_mul (x : Num) : Num.nan.mul x = .nan := rfl

/-- A product with a NaN on the right is NaN. -/
@[simp] theorem Num.mul_nan (x : Num) : x.mul .nan = .nan := by cases x <;> rfl

/-! ## Rounding to a multiple of a power of two (R87) -/

/-- A magnitude of an exponent not below the target's is kept. -/
theorem roundAt_of_le {e s : Int} (h : s ≤ e) (rm : Rm) (neg : Bool) (m : Nat) :
    roundAt rm neg m e s = m * 2 ^ (e - s).toNat := if_pos h

/-- A magnitude more than two bits below the unit is below it. -/
theorem lt_two_pow_of_log2_lt {m d : Nat} (h : Nat.log2 m + 2 < d) : m < 2 ^ d :=
  Nat.lt_log2_self.trans_le (Nat.pow_le_pow_right Nat.two_pos (by omega))

/-- A mode that looks only at whether a remainder stands gives the quotient, or for one that rounds up the next above it. -/
theorem roundAt_directed {rm : Rm} {neg up : Bool} (h : ∀ q inexact tie, roundsUp rm neg q inexact tie = (inexact && up)) (m d : Nat) :
    roundAt rm neg m 0 d = if m % 2 ^ d = 0 ∨ up = false then m / 2 ^ d else m / 2 ^ d + 1 := by
  rcases Nat.eq_zero_or_pos d with rfl | hd
  · simp [roundAt_of_le, Nat.mod_one]
  · have hpos : ¬ (d : Int) ≤ 0 := by omega
    simp only [roundAt, if_neg hpos, h, sub_zero, Int.toNat_natCast]
    split
    · rename_i hlow
      have hm := lt_two_pow_of_log2_lt hlow
      rw [Nat.div_eq_of_lt hm, Nat.mod_eq_of_lt hm]
      by_cases h0 : m = 0 <;> cases up <;> simp [h0]
    · by_cases h0 : m % 2 ^ d = 0 <;> cases up <;> simp [h0]

/-- A mode that never rounds a magnitude up gives the quotient. -/
theorem roundAt_toward_zero {rm : Rm} {neg : Bool} (h : ∀ q inexact tie, roundsUp rm neg q inexact tie = false) (m d : Nat) :
    roundAt rm neg m 0 d = m / 2 ^ d := by
  simpa using roundAt_directed (up := false) (by simpa using h) m d

/-- A mode that rounds up every magnitude with a remainder gives the quotient or the next above it. -/
theorem roundAt_away_from_zero {rm : Rm} {neg : Bool} (h : ∀ q inexact tie, roundsUp rm neg q inexact tie = inexact) (m d : Nat) :
    roundAt rm neg m 0 d = if m % 2 ^ d = 0 then m / 2 ^ d else m / 2 ^ d + 1 := by
  simpa using roundAt_directed (up := true) (by simpa using h) m d

/-! ## The IEEE formats (R82) -/

/-- The sign and the magnitude of a bit pattern make it up. -/
theorem Fmt.signed_signOf_magOf {f : Fmt} {x : Nat} (hx : x < 2 * f.signBit) : f.signed (f.signOf x) (f.magOf x) = x := by
  have hq : x / f.signBit < 2 := Nat.div_lt_of_lt_mul (by rwa [Nat.mul_comm])
  have hx' := Nat.div_add_mod x f.signBit
  rcases Nat.le_one_iff_eq_zero_or_eq_one.1 (Nat.le_of_lt_succ hq) with h | h
  · simpa [signed, signOf, magOf, h] using hx'
  · simpa [signed, signOf, magOf, h] using hx'

/-- A magnitude that stands at the exponent of its last place is kept. -/
theorem Fmt.rnd_fin_of_last_place {f : Fmt} {m : Nat} {e : Int} (hlast : max (e + Nat.log2 m - f.fb) f.emin = e)
    (hfin : (e - f.emin).toNat * 2 ^ f.fb + m < f.infBits) (rm : Rm) (n : Bool) :
    f.rnd rm (.fin n m e) = f.signed n ((e - f.emin).toNat * 2 ^ f.fb + m) := by
  simp [rnd, hlast, roundAt_of_le, hfin]

/-- A subnormal magnitude is kept. -/
theorem Fmt.rnd_subnormal {f : Fmt} {m : Nat} (hm : m < 2 ^ f.fb) (hfin : m < f.infBits) (rm : Rm) (n : Bool) :
    f.rnd rm (Num.mk' n m f.emin) = f.signed n m := by
  rcases Nat.eq_zero_or_pos m with rfl | hpos
  · rfl
  · have hlog : Nat.log2 m < f.fb := (Nat.log2_lt hpos.ne').2 hm
    rw [Num.mk', if_neg hpos.ne', rnd_fin_of_last_place (by omega) (by simpa using hfin)]
    simp

/-- A normal magnitude is kept. -/
theorem Fmt.rnd_normal {f : Fmt} {ex fr : Nat} (hfr : fr < 2 ^ f.fb) (hex : 0 < ex) (hfin : 2 ^ f.fb * ex + fr < f.infBits)
    (rm : Rm) (n : Bool) : f.rnd rm (.fin n (2 ^ f.fb + fr) (f.emin + (ex - 1 : Nat))) = f.signed n (2 ^ f.fb * ex + fr) := by
  obtain ⟨k, rfl⟩ := Nat.exists_eq_add_of_lt hex
  have hlog : Nat.log2 (2 ^ f.fb + fr) = f.fb := (Nat.log2_eq_iff (by positivity)).2 ⟨by omega, by rw [pow_succ]; omega⟩
  have hsum : k * 2 ^ f.fb + (2 ^ f.fb + fr) = 2 ^ f.fb * (0 + k + 1) + fr := by ring
  rw [rnd_fin_of_last_place (by rw [hlog]; omega) (by simpa [hsum] using hfin)]
  simp [hsum]

/-- The value of a bit pattern that is no NaN is rounded to that bit pattern. -/
theorem Fmt.rnd_dec {f : Fmt} {x : Nat} (hx : x < 2 * f.signBit) (hnan : f.dec x ≠ .nan) (rm : Rm) : f.rnd rm (f.dec x) = x := by
  conv_rhs => rw [← signed_signOf_magOf hx]
  have hsplit := Nat.div_add_mod (f.magOf x) (2 ^ f.fb)
  have hfr : f.magOf x % 2 ^ f.fb < 2 ^ f.fb := Nat.mod_lt _ (by positivity)
  simp only [dec] at hnan ⊢
  split_ifs at hnan ⊢ with habove hinf hsub
  · exact absurd rfl hnan
  · rw [hinf]; rfl
  · rw [hsub, Nat.mul_zero, Nat.zero_add] at hsplit
    rw [hsplit] at hfr ⊢
    exact rnd_subnormal hfr (by omega) rm _
  · rw [rnd_normal hfr (Nat.pos_of_ne_zero hsub) (by omega), hsplit]

/-! ## The tapered formats (R92, R96) -/

/-- A mantissa taken to a lower exponent keeps its value. -/
theorem cast_mul_two_pow_toNat {s e : Int} (h : s ≤ e) (m : Nat) :
    ((m * 2 ^ (e - s).toNat : Nat) : ℚ) * 2 ^ s = m * 2 ^ e := by
  have hexp : ((e - s).toNat : Int) + s = e := by omega
  calc ((m * 2 ^ (e - s).toNat : Nat) : ℚ) * 2 ^ s = m * (2 ^ ((e - s).toNat : Int) * 2 ^ s) := by
        push_cast [zpow_natCast]; ring
    _ = m * 2 ^ e := by rw [← zpow_add₀ two_ne_zero, hexp]

/-- The mantissas of two magnitudes over their common exponent compare as their values do. -/
theorem alignPair_le_iff (m1 : Nat) (e1 : Int) (m2 : Nat) (e2 : Int) :
    (alignPair false m1 e1 false m2 e2).1 ≤ (alignPair false m1 e1 false m2 e2).2.1 ↔ (m1 : ℚ) * 2 ^ e1 ≤ m2 * 2 ^ e2 := by
  have hpos : (0 : ℚ) < 2 ^ min e1 e2 := by positivity
  rw [← cast_mul_two_pow_toNat (min_le_left e1 e2), ← cast_mul_two_pow_toNat (min_le_right e1 e2),
    mul_le_mul_iff_left₀ hpos, Nat.cast_le]
  exact Int.ofNat_le

/-- The magnitude of a body as a number (R92). -/
def taperValue (n body : Nat) : ℚ := (taperMag n body).1 * 2 ^ (taperMag n body).2

/-- A body's magnitude is compared with a value by that magnitude. -/
theorem taperLe_iff {n body m : Nat} {e : Int} : taperLe n body m e = true ↔ taperValue n body ≤ m * 2 ^ e := by
  rw [taperValue, ← alignPair_le_iff, taperLe, decide_eq_true_eq]

/-- The magnitude of each body of T8 and of T6 is below that of the next (R92). -/
theorem taperLe_succ {n : Nat} (hn : n = 7 ∨ n = 5) {b : Nat} (hb : b < 2 ^ n - 2) :
    taperLe n (b + 2) (taperMag n (b + 1)).1 (taperMag n (b + 1)).2 = false := by
  revert b
  rcases hn with rfl | rfl
  · decide +kernel
  · decide +kernel

/-- The magnitudes of T8 and of T6 rise with the body (R92). -/
theorem taperValue_strictMonoOn {n : Nat} (hn : n = 7 ∨ n = 5) : StrictMonoOn (taperValue n) (Set.Icc 1 (2 ^ n - 1)) := by
  refine strictMonoOn_of_lt_succ Set.ordConnected_Icc fun b _ hb hb' => ?_
  obtain ⟨c, rfl⟩ := Nat.exists_eq_add_of_le' hb.1
  have hc : c + 2 ≤ 2 ^ n - 1 := hb'.2
  have h := taperLe_succ hn (b := c) (by omega)
  rwa [← Bool.not_eq_true, taperLe_iff, not_le] at h

/-- The greatest body that does not exceed a value is the one that does not, where those above it do. -/
theorem taperFloor_eq {n m b : Nat} {e : Int} (hb : 0 < b) (hle : taperLe n b m e = true) {i : Nat} (hi : b ≤ i)
    (habove : ∀ c, b < c → c ≤ i → taperLe n c m e = false) : taperFloor n m e i = b := by
  induction i with
  | zero => omega
  | succ i ih =>
    rcases hi.eq_or_lt with rfl | hlt
    · rw [taperFloor, if_pos hle]
    · rw [taperFloor, habove _ hlt le_rfl, if_neg Bool.false_ne_true]
      exact ih (by omega) fun c hc hci => habove c hc (by omega)

/-- The magnitude of a body is rounded to that body (R96). -/
theorem taperRound_taperMag {n : Nat} (hn : n = 7 ∨ n = 5) {b : Nat} (hb : 0 < b) (hlt : b < 2 ^ n) (rm : Rm) (neg : Bool) :
    taperRound n rm neg (taperMag n b).1 (taperMag n b).2 = b := by
  have hfloor : taperFloor n (taperMag n b).1 (taperMag n b).2 (2 ^ n - 1) = b := by
    refine taperFloor_eq hb (taperLe_iff.2 le_rfl) (by omega) fun c hc hci => ?_
    rw [← Bool.not_eq_true, taperLe_iff, not_le]
    exact taperValue_strictMonoOn hn ⟨hb, by omega⟩ ⟨by omega, hci⟩ hc
  have hexact : (alignPair false (taperMag n b).1 (taperMag n b).2 false (taperMag n b).1 (taperMag n b).2).1 =
      (alignPair false (taperMag n b).1 (taperMag n b).2 false (taperMag n b).1 (taperMag n b).2).2.1 := rfl
  simp [taperRound, hfloor, hb.ne', hexact]

/-- The value of a tapered encoding is rounded to that encoding (R96). -/
theorem taperRnd_taperDec {n : Nat} (hn : n = 7 ∨ n = 5) {x : Nat} (hx : x < 2 ^ (n + 1)) (rm : Rm) : taperRnd n rm (taperDec n x) = x := by
  have hq : x / 2 ^ n < 2 := Nat.div_lt_of_lt_mul (by rwa [← pow_succ])
  have hsplit := Nat.div_add_mod x (2 ^ n)
  have hlt : x % 2 ^ n < 2 ^ n := Nat.mod_lt _ (by positivity)
  by_cases hbody : x % 2 ^ n = 0
  · rcases Nat.le_one_iff_eq_zero_or_eq_one.1 (Nat.le_of_lt_succ hq) with h | h
    · simpa [taperDec, hbody, h, taperRnd] using hsplit
    · simpa [taperDec, hbody, h, taperRnd] using hsplit
  · have hround := taperRound_taperMag hn (Nat.pos_of_ne_zero hbody) hlt rm
    rcases Nat.le_one_iff_eq_zero_or_eq_one.1 (Nat.le_of_lt_succ hq) with h | h
    · simpa [taperDec, hbody, h, taperRnd, hround] using hsplit
    · simpa [taperDec, hbody, h, taperRnd, hround] using hsplit

end Sys2Proof.Machine

open Sys2Proof Sys2Proof.Machine

/-- Settles O9: a bit pattern is taken apart into what its value is made of; the magnitudes of a tapered format rise with the body;
and a directed mode gives the quotient or the next above it. -/
theorem rounding : Obligations.Rounding := by
  refine ⟨⟨fun f _ rm x hx hnan => f.rnd_dec hx hnan rm, fun n rm x hn hx => taperRnd_taperDec hn hx rm⟩,
    fun x rm => by simp, fun _ => ⟨rfl, rfl, rfl⟩, fun neg m e s h rm => roundAt_of_le h rm neg m, fun m d => ?_⟩
  rw [roundAt_toward_zero (rm := .rz) (by simp [roundsUp])]
  exact ⟨Nat.div_mul_le_self m _, (Nat.div_lt_iff_lt_mul (Nat.two_pow_pos d)).1 (Nat.lt_succ_self _),
    roundAt_toward_zero (by simp [roundsUp]) m d, roundAt_toward_zero (by simp [roundsUp]) m d,
    roundAt_away_from_zero (by simp [roundsUp]) m d, roundAt_away_from_zero (by simp [roundsUp]) m d⟩

end

section
/-! O38. What a chunk of TMMA and a row group of TDRAIN compute and write (R100, R101, R107, R333, R334). -/

namespace Sys2Proof.Machine

/-! ## Tiles -/

/-- The value under a number in a table of the values that a function gives to the numbers of a list. -/
theorem tfind_filterMap {β : Type} (g : Nat → Option β) (l : List Nat) (k : Nat) :
    tfind (l.filterMap fun e => (g e).map (e, ·)) k = if k ∈ l then g k else none := by
  induction l with
  | nil => simp [tfind]
  | cons a l ih =>
    cases ha : g a with
    | none =>
      by_cases hk : k = a
      · subst hk; simp [ih, ha]
      · simp [ih, ha, hk]
    | some v =>
      by_cases hk : k = a
      · subst hk; simp [ha, tfind]
      · simp [ih, ha, hk, tfind]

/-- An element of a tile made of its elements (R321). -/
theorem tileGet_tileOf (f : Nat → Nat → Word) {i j : Nat} (hi : i < 128) (hj : j < 128) : tileGet (tileOf f) i j = f i j := by
  let g (e : Nat) : Option Word := if f (e / 128) (e % 128) = 0 then none else some (f (e / 128) (e % 128))
  have htile : tileOf f = (List.range 16384).filterMap fun e => (g e).map (e, ·) := by
    refine List.filterMap_congr fun e _ => ?_
    by_cases h : f (e / 128) (e % 128) = 0
    · simp only [g, if_pos h]; rfl
    · simp only [g, if_neg h]; rfl
  have hq : (128 * i + j) / 128 = i := by omega
  have hr : (128 * i + j) % 128 = j := by omega
  have hmem : 128 * i + j ∈ List.range 16384 := List.mem_range.2 (by omega)
  rw [tileGet, htile, tfind_filterMap, if_pos hmem]
  simp only [g, hq, hr]
  split
  · rename_i h; rw [h]; rfl
  · rfl

/-- A block with one tile replaced, which loses the poison in that tile where it overwrites it whole. -/
def Block.putTile (b : Block) (an : Nat) (t : List (Nat × Word)) (whole : Prop) [Decidable whole] : Block :=
  { b with tiles := b.tiles.set an t, tilePoison := if whole then b.tilePoison.filter (· != an) else b.tilePoison }

section
variable {b : Block} {an : Nat} {t : List (Nat × Word)} {whole : Prop} [Decidable whole]

/-- The tile that is replaced. -/
theorem Block.putTile_tile_same (han : an < b.tiles.length) : (b.putTile an t whole).tile an = t := by
  simp [putTile, tile, han]

/-- Every other tile stays. -/
theorem Block.putTile_tile_of_ne {n : Nat} (hn : n ≠ an) : (b.putTile an t whole).tile n = b.tile n := by
  simp [putTile, tile, hn.symm]

/-- The pad stays. -/
theorem Block.putTile_padByte (p : Nat) : (b.putTile an t whole).padByte p = b.padByte p := rfl

/-- Nothing but the tiles changes in a block without poison in them. -/
theorem Block.putTile_frame (hpoison : b.tilePoison = []) : { b.putTile an t whole with tiles := b.tiles } = b := by
  rw [putTile, hpoison, List.filter_nil, ite_self, ← hpoison]

end

/-! ## Elements of a pad (R79, R82, R98) -/

/-- An element of an INT8, a UINT8, an FP16 or a BF16 row is its byte or its two bytes (R98, R325). -/
theorem Block.element_eq (b : Block) {fmt : Nat} (h : fmt = 2 ∨ fmt = 3 ∨ fmt = 5 ∨ fmt = 6) (row pos : Nat) :
    b.element fmt row pos = if fmt ≤ 3 then (b.padByte (row + pos)).toNat else
      (b.padByte (row + 2 * pos)).toNat + 256 * (b.padByte (row + 2 * pos + 1)).toNat := by
  rcases h with rfl | rfl | rfl | rfl <;> simp [element, fmtBits, padRead, leNat, List.range_succ]

/-- An element of an INT8 or a UINT8 row is a byte. -/
theorem Block.element_byte_lt (b : Block) {fmt : Nat} (h : fmt = 2 ∨ fmt = 3) (row pos : Nat) : b.element fmt row pos < 256 := by
  rw [b.element_eq (by omega), if_pos (by omega)]
  exact (b.padByte _).isLt

/-- The integer of a byte, signed for INT8 (R79). -/
theorem elementInt_byte {fmt x : Nat} (h : fmt = 2 ∨ fmt = 3) (hx : x < 256) :
    elementInt fmt x = if fmt = 2 ∧ 128 ≤ x then (x : Int) - 256 else x := by
  rcases h with rfl | rfl
  · simp [elementInt, sextNat, fmtBits]; split_ifs <;> omega
  · simp [elementInt]; omega

/-- The value of a half of FP16 or BF16 (R82). -/
theorem elementNum_half {fmt : Nat} (h : fmt = 5 ∨ fmt = 6) (x : Nat) : elementNum fmt x = if fmt = 5 then fp16.dec x else bf16.dec x := by
  rcases h with rfl | rfl <;> rfl

/-! ## Products (R100, R101) -/

/-- The A elements of a chunk of a TMMA from the pad: 16 of row i, from column 16 × c on (R333). -/
theorem chunkA_tmma {o : TileOp} {g : BitVec 4} {d a : BitVec 8} {kc : BitVec 2} {an am m : BitVec 4} {fa fb : BitVec 3} {e z ci : BitVec 1}
    (hins : o.ins = .tmma g d a kc an fa fb 0 am m e z ci) (b : Block) (k : Kernel) (i c : Nat) :
    chunkA b k o i c =
      let fmt := slotFmt (k.slot fa.toNat)
      let x (q : Nat) : Nat := b.element fmt (recWord o.rec_ 0 + i * recWord o.rec_ 1) (16 * c + q)
      (List.range 16).map fun q => (some (16 * c + q), elementNum fmt (x q), elementInt fmt (x q)) := by
  simp [chunkA, hins]

/-- A chunk of integer products is exact modulo 2^32 (R100). -/
theorem chunkElement_int {k : Kernel} {o : TileOp} (hf : fmtB k o.ins = 2 ∨ fmtB k o.ins = 3) (b : Block) (n j : Nat) (pos : Nat → Nat)
    (x : Nat → Num) (y : Nat → Int) (acc : Word) :
    chunkElement b k o ((List.range n).map fun q => (some (pos q), x q, y q)) j acc =
      acc + BitVec.ofInt 32 ((List.range n).map fun q =>
        y q * elementInt (fmtB k o.ins) (b.element (fmtB k o.ins) (recWord o.rec_ 2 + j * recWord o.rec_ 3) (pos q))).sum := by
  rw [List.sum_eq_foldl, List.foldl_map]
  simp only [chunkElement, if_pos hf, List.foldl_map]

/-- A chunk of floating products is the exact sum rounded once, added with one rounding (R101). -/
theorem chunkElement_float {k : Kernel} {o : TileOp} (hf : ¬ (fmtB k o.ins = 2 ∨ fmtB k o.ins = 3)) (b : Block) (n j : Nat)
    (pos : Nat → Nat) (x : Nat → Num) (y : Nat → Int) (acc : Word) :
    let p (q : Nat) : Num :=
      (x q).mul (elementNum (fmtB k o.ins) (b.element (fmtB k o.ins) (recWord o.rec_ 2 + j * recWord o.rec_ 3) (pos q)))
    chunkElement b k o ((List.range (n + 1)).map fun q => (some (pos q), x q, y q)) j acc =
      BitVec.ofNat 32 (fp32.rnd .rne ((fp32.dec acc.toNat).add .rne
        (fp32.dec (fp32.rnd .rne ((List.range n).foldl (fun m q => m.add .rne (p (q + 1))) (p 0)))))) := by
  simp [chunkElement, if_neg hf, List.range_succ_eq_map, List.foldl_map, Function.comp_def]

/-- The tile that a chunk of a product makes, its accumulator taken as zero at the first chunk of a product with Z (R333). -/
def chunkTile (b : Block) (k : Kernel) (o : TileOp) (an : Nat) (z : Bool) : List (Nat × Word) :=
  tileOf fun i j => chunkElement b k o ((((List.range 128).map fun i => chunkA b k o i o.prog)[i]?).getD []) j
    (tileGet (if o.prog = 0 ∧ z then [] else b.tile an) i j)

/-- An element of that tile. -/
theorem tileGet_chunkTile (b : Block) (k : Kernel) (o : TileOp) (an : Nat) (z : Bool) {i j : Nat} (hi : i < 128) (hj : j < 128) :
    tileGet (chunkTile b k o an z) i j =
      chunkElement b k o (chunkA b k o i o.prog) j (if z = true ∧ o.prog = 0 then 0 else tileGet (b.tile an) i j) := by
  have hold : tileGet (if o.prog = 0 ∧ z then [] else b.tile an) i j = if z = true ∧ o.prog = 0 then 0 else tileGet (b.tile an) i j := by
    simp only [And.comm (a := z = true)]
    split <;> rfl
  rw [chunkTile, tileGet_tileOf _ hi hj, hold]
  simp [hi]

/-! ## Rows written to a pad (R325) -/

/-- A byte of a pad after bytes are written below its barrier words (R22). -/
theorem Block.padByte_padWrite {b : Block} {off : Nat} {d : List Byte} (hroom : off + d.length + 128 ≤ b.padsz) (p : Nat) :
    (b.padWrite off d).padByte p = if off ≤ p ∧ p < off + d.length then (d[p - off]?).getD 0 else b.padByte p := by
  have hread : (b.padWrite off d).pad.read p = if off ≤ p then (d[p - off]?).getD (b.pad.read p) else b.pad.read p :=
    Memory.read_writeN b.pad off p d
  by_cases hin : off ≤ p ∧ p < off + d.length
  · have hlt : p - off < d.length := by omega
    rw [padByte, if_neg (by show ¬ (b.padsz ≤ p + 128 ∧ p < b.padsz); omega), hread, if_pos hin.1, if_pos hin]
    simp [hlt]
  · have hkeep : (b.padWrite off d).pad.read p = b.pad.read p := by
      rw [hread]
      split
      · rw [List.getElem?_eq_none (by omega)]; rfl
      · rfl
    rw [if_neg hin, padByte, hkeep]
    rfl

/-- Rows 0 to n − 1 written to a pad, each at its place. -/
def Block.padRows (b : Block) (row : Nat → Nat) (data : Nat → List Byte) (n : Nat) : Block :=
  (List.range n).foldl (fun b q => b.padWrite (row q) (data q)) b

section
variable {b : Block} {row : Nat → Nat} {data : Nat → List Byte}

/-- No rows are written. -/
@[simp] theorem Block.padRows_zero : b.padRows row data 0 = b := rfl

/-- The last row is written after those before it. -/
theorem Block.padRows_succ (n : Nat) : b.padRows row data (n + 1) = (b.padRows row data n).padWrite (row n) (data n) := by
  simp [padRows, List.range_succ]

/-- Rows change a block's pad and its poison there, and nothing else. -/
theorem Block.padRows_frame (n : Nat) : { b.padRows row data n with pad := b.pad, padPoison := b.padPoison } = b := by
  induction n with
  | zero => rfl
  | succ n ih => rw [padRows_succ]; exact ih

/-- Rows leave the size of the pad. -/
@[simp] theorem Block.padRows_padsz (n : Nat) : (b.padRows row data n).padsz = b.padsz := by
  induction n with
  | zero => rfl
  | succ n ih => rw [padRows_succ]; exact ih

/-- Rows leave the tiles. -/
@[simp] theorem Block.padRows_tiles (n : Nat) : (b.padRows row data n).tiles = b.tiles := by
  induction n with
  | zero => rfl
  | succ n ih => rw [padRows_succ]; exact ih

/-- Rows leave the poison in the tiles. -/
@[simp] theorem Block.padRows_tilePoison (n : Nat) : (b.padRows row data n).tilePoison = b.tilePoison := by
  induction n with
  | zero => rfl
  | succ n ih => rw [padRows_succ]; exact ih

/-- A byte outside every row is as it was. -/
theorem Block.padByte_padRows_of_outside {n p : Nat} (hroom : ∀ q < n, row q + (data q).length + 128 ≤ b.padsz)
    (hout : ∀ q < n, p < row q ∨ row q + (data q).length ≤ p) : (b.padRows row data n).padByte p = b.padByte p := by
  induction n with
  | zero => rfl
  | succ n ih =>
    have hn := hout n n.lt_succ_self
    rw [padRows_succ, padByte_padWrite (by simpa using hroom n n.lt_succ_self), if_neg (by omega)]
    exact ih (fun q hq => hroom q (by omega)) fun q hq => hout q (by omega)

/-- A byte of a row is what was written there, where no later row meets it. -/
theorem Block.padByte_padRows {n q i : Nat} (hroom : ∀ q < n, row q + (data q).length + 128 ≤ b.padsz)
    (hapart : ∀ q < n, ∀ r < n, q < r → row q + (data q).length ≤ row r) (hq : q < n) (hi : i < (data q).length) :
    (b.padRows row data n).padByte (row q + i) = ((data q)[i]?).getD 0 := by
  induction n with
  | zero => omega
  | succ n ih =>
    rw [padRows_succ, padByte_padWrite (by simpa using hroom n n.lt_succ_self)]
    rcases Nat.lt_succ_iff_lt_or_eq.1 hq with hlt | rfl
    · have hbefore := hapart q hq n n.lt_succ_self hlt
      rw [if_neg (by omega)]
      exact ih (fun q hq => hroom q (by omega)) (fun q hq r hr => hapart q (by omega) r (by omega)) hlt
    · rw [if_pos (by omega), Nat.add_sub_cancel_left]

end

/-- Changes of a block one after another are one change. -/
theorem State.foldl_modBlock {α : Type} (s : State) (bid : Nat) (f : α → Block → Block) (l : List α) :
    l.foldl (fun s x => s.modBlock bid (f x)) s = s.modBlock bid fun b => l.foldl (fun b x => f x b) b := by
  induction l generalizing s with
  | nil => exact congrArg (fun x => { s with blocks := x }) (List.modify_id bid s.blocks).symm
  | cons x l ih =>
    rw [List.foldl_cons, ih]
    exact congrArg (fun y => { s with blocks := y }) (List.modify_modify_eq ..)

/-- Rows written to the pad of a block one after another, as a drain numbers them. -/
theorem State.foldl_padWrite {α : Type} (s : State) (bid n : Nat) (row : Nat → Nat) (x : Nat → α) (bytes : α → List Byte) :
    (((List.range n).map fun q => (row q, x q)).zipIdx).foldl (fun s e => s.modBlock bid fun b => b.padWrite e.1.1 (bytes e.1.2)) s =
      s.modBlock bid fun b => b.padRows row (fun q => bytes (x q)) n := by
  let write (e : Nat × α) (b : Block) : Block := b.padWrite e.1 (bytes e.2)
  calc _ = (((List.range n).map fun q => (row q, x q)).zipIdx.map Prod.fst).foldl (fun s e => s.modBlock bid (write e)) s :=
        List.foldl_map.symm
    _ = s.modBlock bid fun b => b.padRows row (fun q => bytes (x q)) n := by
        rw [List.zipIdx_map_fst, List.foldl_map, foldl_modBlock]; rfl

/-- Each value of a list kept in its place. -/
theorem mapIdx_self {α : Type} (l : List α) : l.mapIdx (fun _ v => v) = l := by
  simp [List.mapIdx_eq_zipIdx_map]

/-! ## Drained rows (R107) -/

/-- The bytes of row i that a drain without scales makes of INT32 elements for an integer format (R107). -/
def drainedInts (f : Nat) (t : List (Nat × Word)) (i : Nat) : List Byte :=
  rowOut (slotFmt f) ((List.range 128).map fun j => narrowInt (slotFmt f) (slotSat f) (tileGet t i j).toInt)

/-- Without scales and without a guard a drain narrows each INT32 element (R107). -/
theorem rowOut_drainRow_ints {f : Nat} (hscale : slotScale f = 0) (hint : fmtIsInt (slotFmt f) = true) (m : List Byte) (k : Kernel)
    (t : List (Nat × Word)) (i : Nat) : rowOut (slotFmt f) ((drainRow m k f true none t i).map (·.1)) = drainedInts f t i := by
  simp [drainRow, drainElement, drainedInts, hscale, hint, Function.comp_def]

/-- Without a guard none fails. -/
theorem drainRow_none_any (m : List Byte) (k : Kernel) (f : Nat) (ci : Bool) (t : List (Nat × Word)) (i : Nat) :
    (drainRow m k f ci none t i).any (·.2) = false := by
  simp [drainRow]

/-- A row of numbers of n bytes each has n bytes for each of them. -/
theorem length_flatMap_leBytes (n : Nat) (xs : List Nat) : (xs.flatMap (leBytes n)).length = n * xs.length := by
  induction xs with
  | nil => rfl
  | cons x xs ih => rw [List.flatMap_cons, List.length_append, leBytes_length, ih, List.length_cons, Nat.mul_succ, Nat.add_comm]

/-- Byte m of number j in a row of numbers of n bytes each. -/
theorem getElem?_flatMap_leBytes (n : Nat) (xs : List Nat) {j m : Nat} (hm : m < n) :
    (xs.flatMap (leBytes n))[n * j + m]? = (xs[j]?).bind fun x => (leBytes n x)[m]? := by
  induction xs generalizing j with
  | nil => simp
  | cons x xs ih =>
    rw [List.flatMap_cons]
    cases j with
    | zero => rw [List.getElem?_append_left (by simpa using hm)]; simp
    | succ j =>
      rw [List.getElem?_append_right (by simp [Nat.mul_succ]; omega), leBytes_length, List.getElem?_cons_succ, ← ih]
      congr 1; rw [Nat.mul_succ]; omega

/-- Byte m of a number (R4). -/
theorem getElem?_leBytes {n m : Nat} (x : Nat) (hm : m < n) : (leBytes n x)[m]? = some (BitVec.ofNat 8 (x / 256 ^ m)) := by
  induction n generalizing x m with
  | zero => omega
  | succ n ih =>
    cases m with
    | zero => simp [leBytes]
    | succ m => rw [leBytes, List.getElem?_cons_succ, ih _ (by omega), Nat.div_div_eq_div_mul, Nat.pow_succ']

/-- A drained row has 128 numbers of its format. -/
theorem length_drainedInts {f : Nat} (hfmt : slotFmt f ≠ 1) (t : List (Nat × Word)) (i : Nat) :
    (drainedInts f t i).length = fmtBits (slotFmt f) / 8 * 128 := by
  rw [drainedInts, rowOut, if_neg hfmt, length_flatMap_leBytes, List.length_map, List.length_range]

/-- Byte m of element j of a drained row. -/
theorem getElem?_drainedInts {f : Nat} (hfmt : slotFmt f ≠ 1) (t : List (Nat × Word)) (i : Nat) {j m : Nat} (hj : j < 128)
    (hm : m < fmtBits (slotFmt f) / 8) : (drainedInts f t i)[fmtBits (slotFmt f) / 8 * j + m]? =
      some (BitVec.ofNat 8 (narrowInt (slotFmt f) (slotSat f) (tileGet t i j).toInt / 256 ^ m)) := by
  rw [drainedInts, rowOut, if_neg hfmt, getElem?_flatMap_leBytes _ _ hm]
  simp [hj, getElem?_leBytes _ hm]

/-- The 16 rows of a row group in the pad (R325, R334): byte m of element j of row q stands where the row's base and pitch put it, and
a byte outside the rows is as it was. -/
theorem Block.padByte_drainedInts {b : Block} {f n base pitch c : Nat} {t : List (Nat × Word)} (hfmt : slotFmt f ≠ 1)
    (hn : fmtBits (slotFmt f) / 8 = n) (hpitch : n * 128 ≤ pitch) (hroom : base + 127 * pitch + n * 128 + 128 ≤ b.padsz) (hc : c < 8) :
    let row (q : Nat) : Nat := base + (16 * c + q) * pitch
    let b' := b.padRows row (fun q => drainedInts f t (16 * c + q)) 16
    (∀ q < 16, ∀ j < 128, ∀ m < n, b'.padByte (row q + n * j + m) =
      BitVec.ofNat 8 (narrowInt (slotFmt f) (slotSat f) (tileGet t (16 * c + q) j).toInt / 256 ^ m)) ∧
    ∀ p, (∀ q < 16, p < row q ∨ row q + n * 128 ≤ p) → b'.padByte p = b.padByte p := by
  intro row b'
  have hlen (q : Nat) : (drainedInts f t (16 * c + q)).length = n * 128 := by rw [length_drainedInts hfmt, hn]
  have hfits (q : Nat) (hq : q < 16) : row q + (drainedInts f t (16 * c + q)).length + 128 ≤ b.padsz := by
    have hle := Nat.mul_le_mul_right pitch (show 16 * c + q ≤ 127 by omega)
    rw [hlen]; simp only [row]; omega
  have hapart (q : Nat) (_ : q < 16) (r : Nat) (_ : r < 16) (hqr : q < r) :
      row q + (drainedInts f t (16 * c + q)).length ≤ row r := by
    have hle := Nat.mul_le_mul_right pitch (show 16 * c + q + 1 ≤ 16 * c + r by omega)
    rw [Nat.add_mul _ 1, Nat.one_mul] at hle
    rw [hlen]; simp only [row]; omega
  refine ⟨fun q hq j hj m hm => ?_, fun p hp => ?_⟩
  · subst hn
    have hin : fmtBits (slotFmt f) / 8 * j + m < fmtBits (slotFmt f) / 8 * 128 := by nlinarith
    rw [Nat.add_assoc, padByte_padRows hfits hapart hq (by rwa [hlen]), getElem?_drainedInts hfmt _ _ hj hm, Option.getD_some]
  · exact padByte_padRows_of_outside hfits fun q hq => by rw [hlen]; exact hp q hq

/-- A value clamped to a range. -/
theorem clampInt_eq_max_min {lo hi : Int} (h : lo ≤ hi) (x : Int) : clampInt lo hi x = max lo (min hi x) := by
  unfold clampInt; split_ifs <;> omega

/-- The bounds of an integer format are in order. -/
theorem fmtRange_le (fmt : Nat) : (fmtRange fmt).1 ≤ (fmtRange fmt).2 := by
  unfold fmtRange; split <;> decide

/-- A narrowed integer is the low bits of the element, with SAT those of the clamped one (R107). -/
theorem narrowInt_eq_toNat_ofInt (fmt : Nat) (sat : Bool) (x : Int) : narrowInt fmt sat x =
    (BitVec.ofInt (fmtBits fmt) (if sat then max (fmtRange fmt).1 (min (fmtRange fmt).2 x) else x)).toNat := by
  rw [BitVec.toNat_ofInt, narrowInt, clampInt_eq_max_min (fmtRange_le fmt)]

/-- Each byte of an element drained to INT32 is that of the element (R107). -/
theorem narrowInt_int32_byte (sat : Bool) (x : Word) (m : Nat) :
    BitVec.ofNat 8 (narrowInt 8 sat x.toInt / 256 ^ m) = x.extractLsb' (8 * m) 8 := by
  have hlo := BitVec.le_toInt x
  have hhi := BitVec.toInt_lt (x := x)
  have hclamp : (if sat then max (-2147483648) (min 2147483647 x.toInt) else x.toInt) = x.toInt := by
    split
    · omega
    · rfl
  have hnarrow : narrowInt 8 sat x.toInt = x.toNat := by
    rw [narrowInt_eq_toNat_ofInt]
    exact (congrArg (fun y => (BitVec.ofInt 32 y).toNat) hclamp).trans (by rw [BitVec.ofInt_toInt])
  rw [hnarrow, BitVec.extractLsb', Nat.shiftRight_eq_div_pow, Nat.pow_mul]

/-- An element drained to INT8 is its low byte, under SAT clamped (R107). -/
theorem narrowInt_int8_byte (sat : Bool) (x : Int) :
    BitVec.ofNat 8 (narrowInt 2 sat x) = BitVec.ofInt 8 (if sat then max (-128) (min 127 x) else x) := by
  rw [narrowInt_eq_toNat_ofInt]
  exact BitVec.ofNat_toNat ..

/-! ## What a step of the matrix unit leaves -/

/-- Counting changes no block. -/
@[simp] theorem State.bump_blocks (s : State) (c i n : Nat) : (s.bump c i n).blocks = s.blocks := by
  unfold State.bump; split <;> rfl

/-- Counting changes no tile operation. -/
@[simp] theorem State.bump_tileOps (s : State) (c i n : Nat) : (s.bump c i n).tileOps = s.tileOps := by
  unfold State.bump; split <;> rfl

/-- An entry changed where it stands. -/
theorem modify_eq_set {α : Type} {l : List α} {i : Nat} {a : α} (f : α → α) (ha : l[i]? = some a) : l.modify i f = l.set i (f a) := by
  simp [List.modify_eq_set_getElem?, ha]

/-- An operation whose next step the matrix unit makes, where it meets no poison and no race (R322, R333, R334): its block is
placed, its context runs, and its storage is neither poisoned nor raced. -/
structure State.TileReady (s : State) (oid : Nat) (o : TileOp) (b : Block) (k : Kernel) : Prop where
  op : s.tileOps[oid]? = some o
  block : s.blocks[o.bid]? = some b
  kernel : s.kernelOf o.bid = some k
  placed : b.bst = .placed
  untriggered : b.trigger = none
  context : (s.ctx (s.ctxOf (.stream o.sid))).st = .running
  running : o.ost = .running
  unraced : o.tainted = false
  padPoison : b.padPoison = []
  tilePoison : b.tilePoison = []

namespace State.TileReady

variable {s : State} {oid : Nat} {o : TileOp} {b : Block} {k : Kernel}

/-- The matrix unit goes on with it. -/
theorem tileRuns (h : s.TileReady oid o b k) : s.tileRuns o = true := by
  simp [State.tileRuns, State.ctxOfTile, h.block, h.placed, h.untriggered, h.context]

/-- Its step consumes no error (R341). -/
theorem tileStep (h : s.TileReady oid o b k) (act : State → State) : s.tileStep k oid o act = act s := by
  have herr : s.tileError k o = none := by simp [State.tileError, h.block, h.padPoison, h.tilePoison]
  simp only [State.tileStep, herr]

/-- One chunk of a product (R333): its tile holds the elements that the chunk makes, and nothing else of a block changes. -/
theorem exec_tileChunk (h : s.TileReady oid o b k) {an n : Nat} {z : Bool} (hprod : productOf o.ins = some (an, z, n))
    (hprog : o.prog < n) (han : an < b.tiles.length) :
    ∃ (t : State) (b' : Block), exec (.tileChunk oid) s = .next t ∧ t.tileOps = s.tileOps.set oid { o with prog := o.prog + 1 } ∧
      t.blocks[o.bid]? = some b' ∧ { b' with tiles := b.tiles } = b ∧ (∀ m, m ≠ an → b'.tile m = b.tile m) ∧
      (∀ m, m ≠ o.bid → t.blocks[m]? = s.blocks[m]?) ∧ ∀ i < 128, ∀ j < 128, tileGet (b'.tile an) i j =
        chunkElement b k o (chunkA b k o i o.prog) j (if z = true ∧ o.prog = 0 then 0 else tileGet (b.tile an) i j) := by
  have hexec : exec (.tileChunk oid) s = .next (((s.modBlock o.bid (·.putTile an (chunkTile b k o an z) (o.prog = 0 ∧ z))).modTile oid
      fun o => { o with prog := o.prog + 1 }).bump (s.ctxOfTile o) 8 (128 * 128 * 16)) := by
    change execTileChunk oid s = _
    simp only [execTileChunk, h.op, h.block, h.kernel, hprod, h.running, h.tileRuns, h.tileStep, h.unraced]
    rw [if_neg (by simp; omega)]
    rfl
  refine ⟨_, b.putTile an (chunkTile b k o an z) (o.prog = 0 ∧ z), hexec, ?_, ?_, Block.putTile_frame h.tilePoison,
    fun m hm => Block.putTile_tile_of_ne hm, fun m hm => ?_, fun i hi j hj => ?_⟩
  · simp [modify_eq_set _ h.op]
  · simp [h.block]
  · simp [hm.symm]
  · rw [Block.putTile_tile_same han, tileGet_chunkTile b k o an z hi hj]

variable {g : BitVec 4} {d a : BitVec 8} {an gd m : BitVec 4} {fd : BitVec 3} {e z : BitVec 1}

/-- One row group of a drain of INT32 elements to an integer format, without scales and without a guard (R334): 16 rows are written,
and with Z the tile is zero after the last group. -/
theorem exec_tileRowGroup (h : s.TileReady oid o b k) (hins : o.ins = .tdrain g d a an fd gd 0 1 m e z) (hprog : o.prog < 8)
    (hscale : slotScale (k.slot fd.toNat) = 0) (hint : fmtIsInt (slotFmt (k.slot fd.toNat)) = true) :
    let row (q : Nat) : Nat := recWord o.rec_ 0 + (16 * o.prog + q) * recWord o.rec_ 1
    let data (q : Nat) : List Byte := drainedInts (k.slot fd.toNat) (b.tile an.toNat) (16 * o.prog + q)
    let t : State := (({ s with free := s.free + 16 * 512 } : State).modBlock o.bid (·.padRows row data 16)).modTile oid
      fun o => { o with prog := o.prog + 1 }
    exec (.tileRowGroup oid) s = .next (if o.prog = 7 ∧ z = 1 then t.modBlock o.bid (·.putTile an.toNat [] True) else t) := by
  intro row data t
  change execTileRowGroup oid s = _
  have hfoot : scaleFoot (k.slot fd.toNat) = [] := by simp [scaleFoot, hscale]
  simp only [execTileRowGroup, h.op, h.block, h.kernel, hins, h.running, h.tileRuns, h.tileStep, h.unraced, hfoot]
  rw [if_neg (by simp; omega)]
  simp only [BitVec.ofNat_eq_ofNat, BEq.rfl, BitVec.zero_eq_one_iff, one_ne_zero, ↓reduceIte, List.any_map, List.any_eq_true,
    Function.comp_apply, drainRow_none_any, Bool.false_eq_true, and_false, exists_const, false_and, List.any_nil, Bool.or_self,
    mapIdx_self]
  rw [State.foldl_padWrite (bytes := fun xs : List (Nat × Bool) => rowOut (slotFmt (k.slot fd.toNat)) (xs.map (·.1)))]
  simp only [rowOut_drainRow_ints hscale hint]
  rfl

/-- Such a row group changes the rows in the pad, after the last group with Z the tile, and nothing else of a block. -/
theorem exec_tileRowGroup_only (h : s.TileReady oid o b k) (hins : o.ins = .tdrain g d a an fd gd 0 1 m e z) (hprog : o.prog < 8)
    (hscale : slotScale (k.slot fd.toNat) = 0) (hint : fmtIsInt (slotFmt (k.slot fd.toNat)) = true) (han : an.toNat < b.tiles.length) :
    ∃ (t : State) (b' : Block), exec (.tileRowGroup oid) s = .next t ∧ t.tileOps = s.tileOps.set oid { o with prog := o.prog + 1 } ∧
      t.blocks[o.bid]? = some b' ∧ { b' with tiles := b.tiles, pad := b.pad, padPoison := b.padPoison } = b ∧
      (∀ p, b'.padByte p = (b.padRows (fun q => recWord o.rec_ 0 + (16 * o.prog + q) * recWord o.rec_ 1)
        (fun q => drainedInts (k.slot fd.toNat) (b.tile an.toNat) (16 * o.prog + q)) 16).padByte p) ∧
      (∀ n, n ≠ an.toNat → b'.tile n = b.tile n) ∧ b'.tile an.toNat = (if o.prog = 7 ∧ z = 1 then [] else b.tile an.toNat) ∧
      ∀ n, n ≠ o.bid → t.blocks[n]? = s.blocks[n]? := by
  have hexec := h.exec_tileRowGroup hins hprog hscale hint
  extract_lets row data t at hexec
  have hops : t.tileOps = s.tileOps.set oid { o with prog := o.prog + 1 } := modify_eq_set _ h.op
  have hblock : t.blocks[o.bid]? = some (b.padRows row data 16) := by simp [t, h.block]
  have hothers (n : Nat) (hn : n ≠ o.bid) : t.blocks[n]? = s.blocks[n]? := by simp [t, hn.symm]
  have hframe := Block.padRows_frame (b := b) (row := row) (data := data) 16
  have htile (n : Nat) : (b.padRows row data 16).tile n = b.tile n := by simp [Block.tile]
  by_cases hlast : o.prog = 7 ∧ z = 1
  · rw [if_pos hlast] at hexec
    refine ⟨_, (b.padRows row data 16).putTile an.toNat [] True, hexec, hops, ?_, ?_, Block.putTile_padByte,
      fun n hn => (Block.putTile_tile_of_ne hn).trans (htile n), ?_, fun n hn => ?_⟩
    · simp [hblock]
    · simpa [Block.putTile, h.tilePoison] using hframe
    · rw [if_pos hlast, Block.putTile_tile_same (by simpa using han)]
    · simp [hn.symm, hothers n hn]
  · rw [if_neg hlast] at hexec ⊢
    refine ⟨_, _, hexec, hops, hblock, ?_, fun p => rfl, fun n _ => htile n, htile _, hothers⟩
    simpa using hframe

end State.TileReady

end Sys2Proof.Machine

open Sys2Proof Sys2Proof.Machine

/-- Settles O38: a step that meets no poison and no race replaces one tile, or writes 16 rows to the pad; an element of a chunk is
rewritten as the products of its formats, and a byte of a drained row as that of the narrowed element. -/
theorem tileArithmetic : Obligations.TileArithmetic := by
  unfold Obligations.TileArithmetic
  constructor
  · intro s oid o b kr g d a kc an am k fa fb e z ci ho hb hk hplaced htrigger hctx hrun htaint hins hprog han hpad htile
      fA fB w raw int num A B old goes
    have h : s.TileReady oid o b kr := ⟨ho, hb, hk, hplaced, htrigger, hctx, hrun, htaint, hpad, htile⟩
    have hprod : productOf o.ins = some (an.toNat, z == 1, tileK kc / 16) := by rw [hins]; rfl
    have hlt : o.prog < tileK kc / 16 := by unfold tileK; omega
    obtain ⟨t, b', hexec, hops, hb', hframe, htiles, hothers, helems⟩ := h.exec_tileChunk hprod hlt han
    have hB : fmtB kr o.ins = slotFmt (kr.slot fb.toNat) := by rw [hins]; rfl
    have hold (i j : Nat) : (if (z == 1) = true ∧ o.prog = 0 then 0 else tileGet (b.tile an.toNat) i j) = old i j := by
      simp only [old, beq_iff_eq]
    constructor
    · intro (hfA : slotFmt (kr.slot fa.toNat) = 2 ∨ slotFmt (kr.slot fa.toNat) = 3)
        (hfB : slotFmt (kr.slot fb.toNat) = 2 ∨ slotFmt (kr.slot fb.toNat) = 3)
      have hint {fmt : Nat} (hf : fmt = 2 ∨ fmt = 3) (row kk : Nat) : elementInt fmt (b.element fmt row kk) = int fmt (raw fmt row kk) := by
        rw [elementInt_byte hf (b.element_byte_lt hf row kk), b.element_eq (by omega)]
      refine ⟨t, b', hexec, hops, hb', hframe, htiles, hothers, fun i hi j hj => ?_⟩
      rw [helems i hi j hj, chunkA_tmma hins, chunkElement_int (by rwa [hB]), hB, hold]
      simp only [hint hfA, hint hfB]
      rfl
    · intro (hAB : slotFmt (kr.slot fa.toNat) = slotFmt (kr.slot fb.toNat))
        (hfA : slotFmt (kr.slot fa.toNat) = 5 ∨ slotFmt (kr.slot fa.toNat) = 6)
      have hnum {fmt : Nat} (hf : fmt = 5 ∨ fmt = 6) (row kk : Nat) : elementNum fmt (b.element fmt row kk) = num fmt (raw fmt row kk) := by
        rw [elementNum_half hf, b.element_eq (by omega)]
      refine ⟨t, b', hexec, hops, hb', hframe, htiles, hothers, fun i hi j hj => ?_⟩
      rw [helems i hi j hj, chunkA_tmma hins, chunkElement_float (by rw [hB]; omega), hB, hold]
      simp only [A, B, fB, ← hAB, hnum hfA]
      rfl
  · intro s oid o b kr g d a an gd k fd e z ho hb hk hplaced htrigger hctx hrun htaint hins hprog hpad htile han
      f w row el goes
    have h : s.TileReady oid o b kr := ⟨ho, hb, hk, hplaced, htrigger, hctx, hrun, htaint, hpad, htile⟩
    have hgoes (fmt n : Nat) (byte : Word → Nat → Byte) (hf : f % 64 = fmt) (hlow : fmt < 16) (hint : fmtIsInt fmt = true)
        (hn : fmtBits fmt / 8 = n)
        (hbyte : ∀ (x : Word) (m : Nat), m < n → BitVec.ofNat 8 (narrowInt fmt (slotSat f) x.toInt / 256 ^ m) = byte x m) : goes n byte := by
      intro hpitch hroom
      have hfmt : slotFmt f = fmt := by simp only [slotFmt, bitsOf]; omega
      have hscale : slotScale f = 0 := by simp only [slotScale, bitsOf]; omega
      have hne : slotFmt f ≠ 1 := fun h1 => by rw [← hfmt, h1] at hint; exact absurd hint (by decide)
      obtain ⟨t, b', hexec, hops, hb', hframe, hbytes, htiles, htile, hothers⟩ :=
        h.exec_tileRowGroup_only hins hprog hscale (hfmt ▸ hint) han
      obtain ⟨hin, hout⟩ := Block.padByte_drainedInts (t := b.tile an.toNat) hne (hfmt.symm ▸ hn) hpitch hroom hprog
      refine ⟨t, b', hexec, hops, hb', hframe, fun q hq j hj m hm => ?_, fun p hp => ?_, htiles, htile, hothers⟩
      · rw [hfmt] at hin
        exact (hbytes _).trans ((hin q hq j hj m hm).trans (hbyte _ m hm))
      · exact (hbytes p).trans (hout p hp)
    refine ⟨fun hf => hgoes 8 4 (fun x m => x.extractLsb' (8 * m) 8) hf (by decide) rfl rfl fun x m _ => narrowInt_int32_byte _ x m,
      fun hf hsat => hgoes 2 1 (fun x _ => x.setWidth 8) hf (by decide) rfl rfl fun x m hm => ?_,
      fun hf hsat => hgoes 2 1 (fun x _ => BitVec.ofInt 8 (max (-128) (min 127 x.toInt))) hf (by decide) rfl rfl fun x m hm => ?_⟩
    · obtain rfl : m = 0 := by omega
      rw [Nat.pow_zero, Nat.div_one, hsat, narrowInt_int8_byte, if_neg Bool.false_ne_true]
      exact BitVec.signExtend_eq_setWidth_of_le x (by decide)
    · obtain rfl : m = 0 := by omega
      rw [Nat.pow_zero, Nat.div_one, hsat, narrowInt_int8_byte, if_pos rfl]

end

section
/-! O1. Two-operand integer forms (R122) and carry chains (R134). A form is settled by what its function makes of one lane, or of the
uniform registers; a lane form and its uniform twin share the lemma about the two words. -/

namespace Sys2Proof.Machine

/-! ## The forms -/

/-- A lane instruction that acts on registers only has the effect that it computes from each lane. -/
theorem laneForm_of_laneOp {i : Instr} {s : State} {g : BitVec 4} {f : Issue → Lane → Thread → Thread} {w : Lane → Thread}
    (hexec : exec i s = .next (s.laneOp g f)) (hf : ∀ l, f s.issue l l.t = w l) : LaneForm i s (guarded s g w) := by
  obtain rfl : (fun l => f s.issue l l.t) = w := funext hf
  exact ⟨_, hexec, s.laneOp_only g f⟩

/-- A lane instruction that writes V[d] writes the value that it computes from each lane. -/
theorem writesV_of_laneV {i : Instr} {s : State} {g : BitVec 4} {d : BitVec 7} {f : Issue → Lane → Word} {x : Lane → Word}
    (hexec : exec i s = .next (s.laneV g d f)) (hf : ∀ l, f s.issue l = x l) : WritesV i s g d x :=
  laneForm_of_laneOp hexec fun l => congrArg (l.t.putV d.toNat) (hf l)

/-- A uniform instruction that acts on the uniform registers only has the effect that it computes from them. -/
theorem uniformForm_of_uniOp {i : Instr} {s : State} {g : BitVec 4} {f : Issue → UFile → UFile} {w : UFile → UFile}
    (hexec : exec i s = .next (s.uniOp g f)) (hf : ∀ u, f s.issue u = w u) :
    UniformForm i s fun u => if u.guard g then w u else u := by
  obtain rfl : f s.issue = w := funext hf
  exact ⟨_, hexec, s.uniOp_only g f⟩

/-- A uniform instruction that writes S[d] writes the value that it computes from the uniform registers. -/
theorem writesS_of_uniS {i : Instr} {s : State} {g : BitVec 4} {d : BitVec 8} {f : Issue → UFile → Word} {x : UFile → Word}
    (hexec : exec i s = .next (s.uniS g d f)) (hf : ∀ u, f s.issue u = x u) : WritesS i s g d x :=
  uniformForm_of_uniOp hexec fun u => congrArg (u.putS d.toNat) (hf u)

/-! ## Results kept or clamped (R80, R81) -/

/-- The low word of a value clamped to INT32. -/
theorem low32_clampS32 (x : Int) : low32 (clampS32 x) = inS32 x := congrArg _ (clampInt_eq_max_min (by decide) x)

/-- The low word of a value clamped to UINT32. -/
theorem low32_clampU32 (x : Int) : low32 (clampU32 x) = inU32 x := congrArg _ (clampInt_eq_max_min (by decide) x)

/-- A signed result under MOD sat. -/
theorem satS_eq (t : Bool) (x : Int) : satS t x = if t then inS32 x else BitVec.ofInt 32 x := by
  cases t with
  | false => rfl
  | true => exact low32_clampS32 x

/-- An unsigned result under MOD sat. -/
theorem satU_eq (t : Bool) (x : Int) : satU t x = if t then inU32 x else BitVec.ofInt 32 x := by
  cases t with
  | false => rfl
  | true => exact low32_clampU32 x

/-- A result in the range of INT32 is not clamped. -/
theorem satS_of_mem {x : Int} (hlo : -2 ^ 31 ≤ x) (hhi : x < 2 ^ 31) (t : Bool) : satS t x = BitVec.ofInt 32 x := by
  have h : max (-2147483648) (min 2147483647 x) = x := by omega
  rw [satS_eq, inS32, h, ite_self]

/-- A result in the range of UINT32 is not clamped. -/
theorem satU_of_lt {n : Nat} (hn : n < 2 ^ 32) (t : Bool) : satU t n = BitVec.ofNat 32 n := by
  have h : max 0 (min 4294967295 (n : Int)) = n := by omega
  rw [satU_eq, inU32, h, ite_self, BitVec.ofInt_natCast]

/-! ## The two-operand results (R122) -/

section
variable (t : Bool) (x y : Word)

/-- The sum of IADD and UADD. -/
theorem satS_add : satS t (sv x + sv y) = if t then inS32 (x.toInt + y.toInt) else x + y := by
  rw [satS_eq, BitVec.ofInt_add, BitVec.ofInt_toInt, BitVec.ofInt_toInt]

/-- The difference of ISUB and USUB. -/
theorem satS_sub : satS t (sv x - sv y) = if t then inS32 (x.toInt - y.toInt) else x - y := by
  rw [satS_eq, Int.sub_eq_add_neg, BitVec.ofInt_add, BitVec.ofInt_neg, BitVec.ofInt_toInt, BitVec.ofInt_toInt, BitVec.sub_eq_add_neg]

/-- The product of IMUL and UMUL. -/
theorem satS_mul : satS t (sv x * sv y) = if t then inS32 (x.toInt * y.toInt) else x * y := by
  rw [satS_eq, BitVec.ofInt_mul, BitVec.ofInt_toInt, BitVec.ofInt_toInt]

/-- The high word of a signed product is in the range of INT32. -/
theorem satS_high32_mul : satS t (high32 (sv x * sv y)) = BitVec.ofInt 32 (x.toInt * y.toInt / 4294967296) := by
  have hlo := BitVec.le_toInt_mul_toInt (x := x) (y := y)
  have hhi := BitVec.toInt_mul_toInt_le (x := x) (y := y)
  exact satS_of_mem (by rw [high32, sv, sv]; omega) (by rw [high32, sv, sv]; omega) t

/-- The high word of an unsigned product is in the range of UINT32. -/
theorem satU_high32_mul : satU t (high32 (uv x * uv y)) = BitVec.ofNat 32 (x.toNat * y.toNat / 4294967296) := by
  have h : high32 (uv x * uv y) = (x.toNat * y.toNat / 4294967296 : Nat) := by simp [high32]
  have hhi := BitVec.toNat_mul_toNat_lt (x := x) (y := y)
  rw [h, satU_of_lt (by omega)]

/-- The signed value of a word is kept under MOD sat. -/
theorem satS_toInt : satS t x.toInt = x := by
  rw [satS_of_mem (BitVec.le_toInt x) BitVec.toInt_lt, BitVec.ofInt_toInt]

/-- The unsigned value of a word is kept under MOD sat. -/
theorem satU_toNat : satU t x.toNat = x := by
  rw [satU_of_lt x.isLt, BitVec.ofNat_toNat, BitVec.setWidth_eq]

/-- The minimum of two integers. -/
theorem pick_false (m n : Int) : pick false m n = if m ≤ n then m else n := by
  simp only [pick, decide_eq_false_iff_not]; split_ifs <;> omega

/-- The maximum of two integers. -/
theorem pick_true (m n : Int) : pick true m n = if m ≤ n then n else m := by
  simp only [pick, decide_eq_true_eq]; split_ifs <;> omega

/-- The minimum of IMIN and UMIN. -/
theorem satS_pick_false : satS t (pick false (sv x) (sv y)) = if x.toInt ≤ y.toInt then x else y := by
  rw [pick_false, apply_ite (satS t), satS_toInt, satS_toInt]

/-- The maximum of IMAX and UMAX. -/
theorem satS_pick_true : satS t (pick true (sv x) (sv y)) = if x.toInt ≤ y.toInt then y else x := by
  rw [pick_true, apply_ite (satS t), satS_toInt, satS_toInt]

/-- The minimum of IMINU and UMINU. -/
theorem satU_pick_false : satU t (pick false (uv x) (uv y)) = if x.toNat ≤ y.toNat then x else y := by
  simp only [pick_false, apply_ite (satU t), satU_toNat, Nat.cast_le]

/-- The maximum of IMAXU and UMAXU. -/
theorem satU_pick_true : satU t (pick true (uv x) (uv y)) = if x.toNat ≤ y.toNat then y else x := by
  simp only [pick_true, apply_ite (satU t), satU_toNat, Nat.cast_le]

/-- The absolute value of IABS. -/
theorem satS_natAbs : satS t (sv x).natAbs = if t then inS32 |x.toInt| else if x.toInt < 0 then -x else x := by
  rw [satS_eq, Int.natCast_natAbs]
  congr 1
  split_ifs with hneg
  · rw [abs_of_neg hneg, BitVec.ofInt_neg, BitVec.ofInt_toInt]
  · rw [abs_of_nonneg (not_lt.1 hneg), BitVec.ofInt_toInt]

end

/-! ## Carry and borrow (R134) -/

/-- The carry or borrow in is bit cin of the predicates, 0 for code 7. -/
theorem carryIn_eq (t : Thread) (cin : BitVec 3) :
    carryIn t cin.toNat = (if cin = 7 then 0 else if t.p.getLsbD cin.toNat then 1 else 0 : Nat) := by
  by_cases h : cin = 7
  · subst h; rfl
  · have hlt : cin.toNat < 7 := by bv_omega
    rw [carryIn, if_pos hlt, Thread.getP, if_pos hlt, if_neg h]; split <;> rfl

/-- The low word of a sum with a carry in. -/
theorem low32_add_add (x y : Word) (c : Nat) : low32 (uv x + uv y + c) = x + y + BitVec.ofNat 32 c := by
  simp [low32, BitVec.ofInt_add]

/-- The low word of a difference with a borrow in. -/
theorem low32_sub_sub (x y : Word) (c : Nat) : low32 (uv x - uv y - c) = x - y - BitVec.ofNat 32 c := by
  simp [low32, Int.sub_eq_add_neg, BitVec.ofInt_add, BitVec.ofInt_neg, BitVec.sub_eq_add_neg]

/-- The carry of a sum with a carry in. -/
theorem decide_carry (x y : Word) (c : Nat) :
    decide (4294967296 ≤ uv x + uv y + c) = decide (2 ^ 32 ≤ x.toNat + y.toNat + c) :=
  decide_eq_decide.2 (by rw [uv, uv]; omega)

/-- The borrow of a difference with a borrow in. -/
theorem decide_borrow (x y : Word) (c : Nat) : decide (uv x - uv y - c < 0) = decide (x.toNat < y.toNat + c) :=
  decide_eq_decide.2 (by rw [uv, uv]; omega)

end Sys2Proof.Machine

open Sys2Proof Sys2Proof.Machine

/-- Settles O1: each form computes the exact value of its two words, clamped where it says so; the carry is that of the exact sum. -/
theorem integerArithmeticForms : Obligations.IntegerArithmeticForms := by
  refine ⟨⟨fun s d a b => ?_, fun s d a b => ?_⟩, fun s g d a b cin cout => ?_⟩
  · exact ⟨writesV_of_laneV rfl fun _ => satS_add .., writesV_of_laneV rfl fun _ => satS_sub ..,
      writesV_of_laneV rfl fun _ => satS_mul .., writesV_of_laneV rfl fun _ => satS_high32_mul ..,
      writesV_of_laneV rfl fun _ => satU_high32_mul ..,
      writesV_of_laneV rfl fun _ => satS_pick_false .., writesV_of_laneV rfl fun _ => satS_pick_true ..,
      writesV_of_laneV rfl fun _ => satU_pick_false .., writesV_of_laneV rfl fun _ => satU_pick_true ..,
      writesV_of_laneV rfl fun _ => satS_natAbs .., writesV_of_laneV rfl fun _ => low32_clampS32 _,
      writesV_of_laneV rfl fun _ => low32_clampS32 _, writesV_of_laneV rfl fun _ => low32_clampU32 _,
      writesV_of_laneV rfl fun _ => low32_clampU32 _⟩
  · exact ⟨writesS_of_uniS rfl fun _ => satS_add .., writesS_of_uniS rfl fun _ => satS_sub .., writesS_of_uniS rfl fun _ => satS_mul ..,
      writesS_of_uniS rfl fun _ => satS_high32_mul .., writesS_of_uniS rfl fun _ => satS_pick_false ..,
      writesS_of_uniS rfl fun _ => satS_pick_true .., writesS_of_uniS rfl fun _ => satU_pick_false ..,
      writesS_of_uniS rfl fun _ => satU_pick_true ..⟩
  · exact ⟨laneForm_of_laneOp rfl fun _ => by simp only [carryIn_eq, low32_add_add, decide_carry],
      laneForm_of_laneOp rfl fun _ => by simp only [carryIn_eq, low32_sub_sub, decide_borrow]⟩

end

section
/-! O2. Logic, shifts and moves (R123): the operations are those of words, and the counts and the reversal read each bit once. -/

namespace Sys2Proof.Machine

/-! ## Shifts (R123) -/

/-- The shift of SHL and USHL is that of words, which gives 0 from 32 on. -/
theorem shlW_eq (x y : Word) : shlW x y = x <<< y.toNat := by
  rw [shlW]
  split_ifs with h
  · rfl
  · exact (BitVec.shiftLeft_eq_zero (not_lt.1 h)).symm

/-- The shift of SHR and USHR is that of words, which gives 0 from 32 on. -/
theorem shrW_eq (x y : Word) : shrW x y = x >>> y.toNat := by
  rw [shrW]
  split_ifs with h
  · rfl
  · exact (BitVec.ushiftRight_eq_zero (not_lt.1 h)).symm

/-- The shift of SAR and USAR is that of words, which gives copies of the sign from 31 on. -/
theorem sarW_eq (x y : Word) : sarW x y = x.sshiftRight y.toNat := by
  refine BitVec.eq_of_getLsbD_eq fun i _ => ?_
  have hsign : ∀ k, 31 ≤ k → (if k + i < 32 then x.getLsbD (k + i) else x.msb) = x.msb := by
    intro k hk
    split_ifs with hlt
    · obtain ⟨rfl, rfl⟩ : k = 31 ∧ i = 0 := by omega
      exact (BitVec.msb_eq_getLsbD_last x).symm
    · rfl
  rw [sarW, BitVec.getLsbD_sshiftRight, BitVec.getLsbD_sshiftRight]
  rcases le_total y.toNat 31 with h | h
  · rw [min_eq_left h]
  · rw [min_eq_right h, hsign 31 le_rfl, hsign _ h]

/-- The rotation of ROTL is that of words, which takes the count modulo 32. -/
theorem rotlW_eq (x y : Word) : rotlW x y = x.rotateLeft y.toNat := BitVec.rotateLeft_mod_eq_rotateLeft

/-! ## Counts and reversal (R123) -/

/-- Ones added up one after another count the elements that satisfy a test. -/
theorem foldl_add_ite {α : Type} (p : α → Bool) (l : List α) (n : Nat) :
    l.foldl (fun n i => n + if p i then 1 else 0) n = n + l.countP p := by
  induction l generalizing n with
  | nil => rfl
  | cons a l ih => rw [List.foldl_cons, ih, List.countP_cons, Nat.add_assoc, Nat.add_comm (l.countP p)]

/-- POPC counts the bits that are set. -/
theorem popcount_eq (x : Word) : popcount x = (List.range 32).countP fun i => x.getLsbD i := by
  rw [popcount, foldl_add_ite, Nat.zero_add]

/-- Bits taken in from the low end, each below those before it: the last one taken is bit 0. -/
theorem testBit_foldl_two_mul (p : Nat → Bool) (n j : Nat) :
    ((List.range n).foldl (fun m i => 2 * m + if p i then 1 else 0) 0).testBit j = (decide (j < n) && p (n - 1 - j)) := by
  induction n generalizing j with
  | zero => simp
  | succ n ih =>
    rw [List.range_succ, List.foldl_append, List.foldl_cons, List.foldl_nil]
    have hbit : (if p n then 1 else 0) < 2 ^ 1 := by split <;> decide
    rw [← Nat.pow_one 2, Nat.testBit_two_pow_mul_add _ hbit]
    cases j with
    | zero => cases hp : p n <;> simp [hp]
    | succ j => simp [ih, Nat.sub_sub, Nat.add_comm 1 j]

/-- BREV is the reversal of words. -/
theorem bitReverse_eq (x : Word) : bitReverse x = x.reverse := by
  refine BitVec.eq_of_getLsbD_eq fun j hj => ?_
  rw [bitReverse, BitVec.getLsbD_ofNat, testBit_foldl_two_mul, BitVec.getLsbD_reverse, BitVec.getMsbD]
  simp [hj]

end Sys2Proof.Machine

open Sys2Proof Sys2Proof.Machine

/-- Settles O2: each operation is that of words, and NOP and UNOP change no register. -/
theorem logicShiftAndMoveForms : Obligations.LogicShiftAndMoveForms := by
  refine ⟨fun s d a b => ?_, fun s d a b => ?_⟩
  · exact ⟨writesV_of_laneV rfl fun _ => rfl, writesV_of_laneV rfl fun _ => rfl, writesV_of_laneV rfl fun _ => rfl,
      writesV_of_laneV rfl fun _ => rfl, writesV_of_laneV rfl fun _ => rfl, writesV_of_laneV rfl fun _ => shlW_eq ..,
      writesV_of_laneV rfl fun _ => shrW_eq .., writesV_of_laneV rfl fun _ => sarW_eq .., writesV_of_laneV rfl fun _ => rotlW_eq ..,
      writesV_of_laneV rfl fun _ => congrArg _ (popcount_eq _), writesV_of_laneV rfl fun _ => rfl,
      writesV_of_laneV rfl fun _ => bitReverse_eq _, writesV_of_laneV rfl fun _ => rfl, laneForm_of_laneOp rfl fun _ => rfl⟩
  · refine ⟨writesS_of_uniS rfl fun _ => rfl, writesS_of_uniS rfl fun _ => rfl, writesS_of_uniS rfl fun _ => rfl,
      writesS_of_uniS rfl fun _ => rfl, writesS_of_uniS rfl fun _ => shlW_eq .., writesS_of_uniS rfl fun _ => shrW_eq ..,
      writesS_of_uniS rfl fun _ => sarW_eq .., writesS_of_uniS rfl fun _ => congrArg _ (popcount_eq _),
      writesS_of_uniS rfl fun _ => rfl, writesS_of_uniS rfl fun _ => rfl, ?_⟩
    have hunop : UniformForm .unop s fun u => if u.guard always then u else u := uniformForm_of_uniOp rfl fun _ => rfl
    simpa only [ite_self] using hunop

end

section
/-! O3. Three-source integer forms (R126 to R130, R139): the elements of a word are fields of its bits, and a scaled index is a shift. -/

namespace Sys2Proof.Machine

/-! ## Elements of words (R98) -/

/-- A field of a number is that of the word (R131). -/
theorem bitsOf_toNat (x : Word) (lo n : Nat) : bitsOf x.toNat lo n = (x.extractLsb' lo n).toNat := by
  rw [bitsOf, BitVec.extractLsb'_toNat, Nat.shiftRight_eq_div_pow]

/-- A byte of a word. -/
theorem byteOf_eq (x : Word) (k : Nat) : byteOf x k = (x.extractLsb' (8 * k) 8).toNat := bitsOf_toNat x (8 * k) 8

/-- A half of a word. -/
theorem half_eq (x : Word) (h : Nat) : half x h = (x.extractLsb' (16 * h) 16).toNat := bitsOf_toNat x (16 * h) 16

/-- The sign-extended value of a vector of n bits. -/
theorem sextNat_toNat {n : Nat} (x : BitVec n) : sextNat n x.toNat = x.toInt := by
  rw [sextNat, Nat.mod_eq_of_lt x.isLt, BitVec.toInt_eq_toNat_cond]
  cases n with
  | zero => simp [BitVec.of_length_zero]
  | succ n => rw [Nat.add_sub_cancel, Nat.pow_succ']; congr 1; simp

/-! ## The three-source results (R126 to R130) -/

/-- IDOT8 adds the products of the four bytes to C. -/
theorem idot8_eq (ua ub : BitVec 1) (x y z : Word) :
    let el (un : BitVec 1) (x : Word) (n : Nat) : Int :=
      if un = 1 then ((x.extractLsb' (8 * n) 8).toNat : Int) else (x.extractLsb' (8 * n) 8).toInt
    idot8 (ua == 1) (ub == 1) x y z = z.toInt + el ua x 0 * el ub y 0 + el ua x 1 * el ub y 1 + el ua x 2 * el ub y 2 +
      el ua x 3 * el ub y 3 := by
  simp only [idot8, byteOf_eq, sextNat_toNat, beq_iff_eq]
  rfl

/-- The element that IADDW adds. -/
theorem addwElement_eq (ty k : BitVec 2) (y : Word) : addwElement ty.toNat k.toNat y = (match ty.toNat with
    | 0 => ((y.extractLsb' (8 * k.toNat) 8).toNat : Int)
    | 1 => (y.extractLsb' (8 * k.toNat) 8).toInt
    | 2 => ((y.extractLsb' (16 * (k.toNat % 2)) 16).toNat : Int)
    | _ => (y.extractLsb' (16 * (k.toNat % 2)) 16).toInt) := by
  have htypes : ∀ v : BitVec 2, v = 0 ∨ v = 1 ∨ v = 2 ∨ v = 3 := by decide
  rcases htypes ty with rfl | rfl | rfl | rfl
  · exact congrArg Nat.cast (byteOf_eq y _)
  · exact (congrArg (sextNat 8) (byteOf_eq y _)).trans (sextNat_toNat _)
  · exact congrArg Nat.cast (half_eq y _)
  · exact (congrArg (sextNat 16) (half_eq y _)).trans (sextNat_toNat _)

/-- A 64-bit result is clamped to its type under MOD sat (R127). -/
theorem sat64_eq (t : Bool) (u : BitVec 1) (x : Int) : sat64 t (u == 1) x = BitVec.ofInt 64
    (if t then (if u = 1 then max 0 (min (2 ^ 64 - 1) x) else max (-2 ^ 63) (min (2 ^ 63 - 1) x)) else x) := by
  rw [sat64, clampInt_eq_max_min (by decide), clampInt_eq_max_min (by decide)]
  simp only [beq_iff_eq]
  rfl

/-- A power of two as a word has that bit alone. -/
theorem ofNat_two_pow (w n : Nat) : BitVec.ofNat w (2 ^ n) = BitVec.twoPow w n :=
  BitVec.eq_of_toNat_eq (by rw [BitVec.toNat_ofNat, BitVec.toNat_twoPow])

/-- A product with a power of two is a shift. -/
theorem ofInt_mul_two_pow (w n : Nat) (x : Int) : BitVec.ofInt w (x * (2 ^ n : Nat)) = BitVec.ofInt w x <<< n := by
  rw [BitVec.ofInt_mul, BitVec.shiftLeft_eq_mul_twoPow, BitVec.ofInt_natCast, ofNat_two_pow]

/-- A word read as signed or unsigned has the low bits of the word. -/
theorem ofInt_sv_or_uv (p : Prop) [Decidable p] (y : Word) : BitVec.ofInt 32 (if p then sv y else uv y) = y := by
  rw [apply_ite (BitVec.ofInt 32), BitVec.ofInt_toInt, BitVec.ofInt_natCast, BitVec.ofNat_toNat, BitVec.setWidth_eq, ite_self]

/-- The 32-bit address of LEA. -/
theorem low32_add_mul_two_pow (p : Prop) [Decidable p] (x y : Word) (n : Nat) :
    low32 (uv x + (if p then sv y else uv y) * (2 ^ n : Nat)) = x + (y <<< n) := by
  rw [low32, BitVec.ofInt_add, ofInt_mul_two_pow, ofInt_sv_or_uv, BitVec.ofInt_natCast, BitVec.ofNat_toNat, BitVec.setWidth_eq]

/-- The 64-bit address of LEA. -/
theorem ofInt_add_mul_two_pow (p : Prop) [Decidable p] (x : BitVec 64) (y : Word) (n : Nat) :
    BitVec.ofInt 64 (x.toNat + (if p then sv y else uv y) * (2 ^ n : Nat)) =
      x + ((if p then y.signExtend 64 else y.setWidth 64) <<< n) := by
  rw [BitVec.ofInt_add, ofInt_mul_two_pow, apply_ite (BitVec.ofInt 64), BitVec.ofInt_natCast, BitVec.ofInt_natCast, BitVec.ofNat_toNat,
    BitVec.setWidth_eq, BitVec.ofNat_toNat]
  rfl

end Sys2Proof.Machine

open Sys2Proof Sys2Proof.Machine

/-- Settles O3: each form computes its exact value, whose elements are fields of the words, and clamps it under MOD sat. -/
theorem multiplyAddForms : Obligations.MultiplyAddForms := by
  refine ⟨fun s g d a b c u ua ub ty k sg sh => ⟨?imac, ?isum3, ?iabda, ?imacw, ?idot8, ?iaddw, ?lea, ?leaWide⟩,
    fun s g d a sb b => writesS_of_uniS rfl fun _ => satS_eq ..⟩
  case imac => exact writesV_of_laneV rfl fun _ => satS_eq ..
  case isum3 => exact writesV_of_laneV rfl fun _ => satS_eq ..
  case iabda => exact writesV_of_laneV rfl fun _ => by simp only [satS_eq, satU_eq, Int.natCast_natAbs, exactS, exactU]
  case imacw => exact laneForm_of_laneOp rfl fun l => congrArg (l.t.putV2 d.toNat) (sat64_eq ..)
  case idot8 => exact writesV_of_laneV rfl fun _ => (congrArg (satS s.issue.sat) (idot8_eq ..)).trans (satS_eq ..)
  case iaddw =>
    exact writesV_of_laneV rfl fun l =>
      (congrArg (fun e => satS s.issue.sat (sv (l.t.getV a.toNat) + e)) (addwElement_eq ..)).trans (satS_eq ..)
  case lea => exact laneForm_of_laneOp rfl fun l => congrArg (l.t.putV d.toNat) (low32_add_mul_two_pow ..)
  case leaWide => exact laneForm_of_laneOp rfl fun l => congrArg (l.t.putV2 d.toNat) (ofInt_add_mul_two_pow ..)

end

section
/-! O4. Bit fields and byte selection (R131, R132): the model computes on numbers, the statement on bits. -/

namespace Sys2Proof.Machine

/-! ## Bit fields (R131) -/

/-- The position of a field is the low byte of B. -/
theorem fieldPos_eq (y : Word) : y.toNat % 256 = (y.extractLsb' 0 8).toNat :=
  (congrArg (· % 256) (Nat.div_one y.toNat)).symm.trans (bitsOf_toNat y 0 8)

/-- The length of a field is the second byte of B. -/
theorem fieldLen_eq (y : Word) : y.toNat / 256 % 256 = (y.extractLsb' 8 8).toNat := bitsOf_toNat y 8 8

/-- A length of zero is the zero byte. -/
theorem fieldLen_eq_zero_iff (y : Word) : (y.extractLsb' 8 8).toNat = 0 ↔ y.extractLsb' 8 8 = 0 := by rw [BitVec.toNat_eq]; rfl

/-- BFX extracts a field of A, which ends at bit 31, extended to a word. -/
theorem bfxW_eq (sg : BitVec 1) (x y : Word) :
    let pos := (y.extractLsb' 0 8).toNat
    let n := min (y.extractLsb' 8 8).toNat (32 - pos)
    bfxW (sg == 1) x y = if 32 ≤ pos ∨ y.extractLsb' 8 8 = 0 then 0
      else if sg = 1 then (x.extractLsb' pos n).signExtend 32 else (x.extractLsb' pos n).setWidth 32 := by
  simp only [bfxW, fieldPos_eq, fieldLen_eq, fieldLen_eq_zero_iff, bitsOf_toNat, sextNat_toNat, beq_iff_eq, BitVec.ofNat_toNat]
  rfl

/-- A field of a number replaced: the bits above it, the new field and the bits below it. -/
theorem replaced_field (c x pos n : Nat) : c - bitsOf c pos n * 2 ^ pos + x * 2 ^ pos =
    2 ^ pos * (2 ^ n * (c / 2 ^ pos / 2 ^ n) + x) + c % 2 ^ pos := by
  have hhigh : 2 ^ n * (c / 2 ^ pos / 2 ^ n) + bitsOf c pos n = c / 2 ^ pos := Nat.div_add_mod ..
  have hlow : 2 ^ pos * (c / 2 ^ pos) + c % 2 ^ pos = c := Nat.div_add_mod ..
  have hfield : c - bitsOf c pos n * 2 ^ pos = 2 ^ pos * (2 ^ n * (c / 2 ^ pos / 2 ^ n)) + c % 2 ^ pos := by
    refine Nat.sub_eq_of_eq_add ?_
    conv_lhs => rw [← hlow, ← hhigh]
    ring
  rw [hfield]; ring

/-- The mask of a field has the bits of the field. -/
theorem getLsbD_fieldMask {i : Nat} (hi : i < 32) (pos n : Nat) :
    (BitVec.ofNat 32 ((2 ^ n - 1) * 2 ^ pos)).getLsbD i = (decide (pos ≤ i) && decide (i - pos < n)) := by
  rw [BitVec.getLsbD_ofNat, Nat.testBit_mul_two_pow, Nat.testBit_two_pow_sub_one, decide_eq_true hi, Bool.true_and]

/-- A word with a field replaced by the low bits of another is put together under the mask of the field. -/
theorem ofNat_replaced_field (x z : Word) (pos n : Nat) :
    let mask : Word := BitVec.ofNat 32 ((2 ^ n - 1) * 2 ^ pos)
    BitVec.ofNat 32 (z.toNat - bitsOf z.toNat pos n * 2 ^ pos + x.toNat % 2 ^ n * 2 ^ pos) =
      (z &&& ~~~mask) ||| ((x <<< pos) &&& mask) := by
  refine BitVec.eq_of_getLsbD_eq fun i hi => ?_
  rw [replaced_field, BitVec.getLsbD_ofNat, Nat.testBit_two_pow_mul_add _ (Nat.mod_lt _ (Nat.two_pow_pos _)),
    Nat.testBit_two_pow_mul_add _ (Nat.mod_lt _ (Nat.two_pow_pos _)), BitVec.getLsbD_or, BitVec.getLsbD_and, BitVec.getLsbD_and,
    BitVec.getLsbD_not, getLsbD_fieldMask hi, BitVec.getLsbD_shiftLeft]
  rcases lt_or_ge i pos with hlow | hlow
  · simp [hi, hlow, hlow.not_ge, Nat.testBit_mod_two_pow, BitVec.testBit_toNat]
  · by_cases hin : i - pos < n
    · simp [hi, hlow, hlow.not_gt, hin, BitVec.testBit_toNat]
    · have hhigh : i - pos - n + n + pos = i := by omega
      simp [hi, hlow, hlow.not_gt, hin, Nat.testBit_div_two_pow, hhigh, BitVec.testBit_toNat]

/-- BFI inserts the low bits of A into a field of C, which ends at bit 31. -/
theorem bfiW_eq (x y z : Word) :
    let pos := (y.extractLsb' 0 8).toNat
    let n := min (y.extractLsb' 8 8).toNat (32 - pos)
    let mask : Word := BitVec.ofNat 32 ((2 ^ n - 1) * 2 ^ pos)
    bfiW x y z = if 32 ≤ pos ∨ y.extractLsb' 8 8 = 0 then z else (z &&& ~~~mask) ||| ((x <<< pos) &&& mask) := by
  simp only [bfiW, fieldPos_eq, fieldLen_eq, fieldLen_eq_zero_iff, ofNat_replaced_field]

/-! ## Byte selection (R132) -/

/-- A vector before another is a number with the other in its low bits. -/
theorem toNat_append_eq {m n : Nat} (x : BitVec m) (y : BitVec n) : (x ++ y).toNat = 2 ^ n * x.toNat + y.toNat := by
  rw [BitVec.toNat_append, ← Nat.shiftLeft_add_eq_or_of_lt y.isLt, Nat.shiftLeft_eq, Nat.mul_comm]

/-- A sum of four terms. -/
theorem foldl_range_four (f : Nat → Nat) : (List.range 4).foldl (fun n i => n + f i) 0 = f 0 + f 1 + f 2 + f 3 := by
  simp [List.range_succ]

/-- Four bytes added up at their places are the word of the bytes. -/
theorem ofNat_bytes (b0 b1 b2 b3 : BitVec 8) :
    BitVec.ofNat 32 (b0.toNat * 256 ^ 0 + b1.toNat * 256 ^ 1 + b2.toNat * 256 ^ 2 + b3.toNat * 256 ^ 3) = b3 ++ b2 ++ b1 ++ b0 := by
  have hnat : b0.toNat * 256 ^ 0 + b1.toNat * 256 ^ 1 + b2.toNat * 256 ^ 2 + b3.toNat * 256 ^ 3 = (b3 ++ b2 ++ b1 ++ b0).toNat := by
    simp only [toNat_append_eq]; omega
  rw [hnat, BitVec.ofNat_toNat, BitVec.setWidth_eq]

/-- The byte that BYTEX takes from A and B. -/
theorem byteOf_append (x y : Word) {j : Nat} (hj : j < 8) :
    (if j < 4 then byteOf x j else byteOf y (j - 4)) = ((y ++ x).extractLsb' (8 * j) 8).toNat := by
  split_ifs with h
  · rw [byteOf_eq, BitVec.extractLsb'_append_eq_of_add_le (by omega)]
  · rw [byteOf_eq, BitVec.extractLsb'_append_eq_of_le (by omega), Nat.mul_sub]

/-- One result byte of BYTEX: the byte taken, its sign, or a constant. -/
theorem bytexByte_eq (x y : Word) (s : BitVec 8) :
    let b := (y ++ x).extractLsb' (8 * (s.toNat % 8)) 8
    bytexByte x y s.toNat = BitVec.toNat (w := 8) (if s.extractLsb' 3 2 = 0 then b
      else if s.extractLsb' 3 2 = 1 then (if b.msb then 0xFF else 0) else if s.extractLsb' 3 2 = 2 then 0 else 0xFF) := by
  extract_lets b
  have hb : (if s.toNat % 8 < 4 then byteOf x (s.toNat % 8) else byteOf y (s.toNat % 8 - 4)) = b.toNat :=
    byteOf_append x y (Nat.mod_lt _ (by decide))
  have hmode : s.toNat / 8 % 4 = (s.extractLsb' 3 2).toNat := by simp [Nat.shiftRight_eq_div_pow]
  have hmodes : ∀ m : BitVec 2, m = 0 ∨ m = 1 ∨ m = 2 ∨ m = 3 := by decide
  simp only [bytexByte, hb, hmode]
  rcases hmodes (s.extractLsb' 3 2) with h | h | h | h <;> rw [h]
  · rfl
  · have hsign : 128 ≤ b.toNat ↔ b.msb = true := by simp [BitVec.msb_eq_decide]
    simp only [hsign]
    cases b.msb <;> rfl
  · rfl
  · rfl

/-- BYTEX puts four selected bytes together. -/
theorem bytexW_eq (x y z : Word) :
    let bytex (s : BitVec 8) : BitVec 8 :=
      let b := (y ++ x).extractLsb' (8 * (s.toNat % 8)) 8
      if s.extractLsb' 3 2 = 0 then b else if s.extractLsb' 3 2 = 1 then (if b.msb then 0xFF else 0)
      else if s.extractLsb' 3 2 = 2 then 0 else 0xFF
    bytexW x y z = bytex (z.extractLsb' 24 8) ++ bytex (z.extractLsb' 16 8) ++ bytex (z.extractLsb' 8 8) ++ bytex (z.extractLsb' 0 8) := by
  extract_lets bytex
  have hbyte : ∀ i, bytexByte x y (byteOf z i) = (bytex (z.extractLsb' (8 * i) 8)).toNat := fun i => by
    rw [byteOf_eq]; exact bytexByte_eq x y _
  rw [bytexW, foldl_range_four fun i => bytexByte x y (byteOf z i) * 256 ^ i]
  simp only [hbyte]
  exact ofNat_bytes ..

end Sys2Proof.Machine

open Sys2Proof Sys2Proof.Machine

/-- Settles O4: the fields and bytes of the model, which it computes on numbers, are those of the words; the other forms agree as they
stand. -/
theorem fieldAndSelectionForms : Obligations.FieldAndSelectionForms := by
  refine ⟨fun s g d a b c sg pneg p imm => ?_, fun s g d a sb b sg qneg q imm => ?_⟩
  · exact ⟨writesV_of_laneV rfl fun _ => bfxW_eq .., writesV_of_laneV rfl fun _ => bfiW_eq ..,
      writesV_of_laneV rfl fun _ => bytexW_eq .., writesV_of_laneV rfl fun _ => rfl, writesV_of_laneV rfl fun _ => rfl,
      writesV_of_laneV rfl fun _ => rfl⟩
  · exact ⟨writesS_of_uniS rfl fun _ => bfxW_eq .., writesS_of_uniS rfl fun _ => bfiW_eq .., writesS_of_uniS rfl fun _ => rfl,
      writesS_of_uniS rfl fun _ => rfl, writesS_of_uniS rfl fun _ => rfl⟩

end

section
/-! O5. Predicates (R135 to R137), and what a register file keeps (R110). -/

namespace Sys2Proof.Machine

/-! ## What a register file keeps (R110) -/

/-- A bit of a vector after one of its bits is replaced. -/
theorem getLsbD_setBit {w i j : Nat} (x : BitVec w) (hi : i < w) (b : Bool) :
    (setBit x i b).getLsbD j = if j = i then b else x.getLsbD j := by
  rw [setBit, apply_ite (BitVec.ofNat w), ofNat_two_pow, BitVec.getLsbD_or, BitVec.getLsbD_and, BitVec.getLsbD_not, BitVec.getLsbD_twoPow]
  by_cases hj : j = i
  · subst hj; cases b <;> simp [hi]
  · cases b <;> simpa [hj, Ne.symm hj] using BitVec.lt_of_getLsbD

/-- A register of a file after a write, which goes nowhere past the end of the file. -/
theorem getD_getElem?_set (l : List Word) (d r : Nat) (x : Word) :
    ((l.set d x)[r]?).getD 0 = if r = d ∧ d < l.length then x else (l[r]?).getD 0 := by
  rw [List.getElem?_set]
  by_cases h : d = r
  · subst h
    by_cases hd : d < l.length <;> simp [hd]
  · simp [h, Ne.symm h]

/-- A predicate of a file after a write; the code past the file reads true. -/
theorem ite_getLsbD_setBit {w d : Nat} (x : BitVec w) (hd : d < w) (r : Nat) (b : Bool) :
    (if r < w then (setBit x d b).getLsbD r else true) = if r = d then b else if r < w then x.getLsbD r else true := by
  rw [getLsbD_setBit x hd]
  by_cases h : r = d
  · simp [h, hd]
  · simp [h]

/-- A V register after a write. -/
theorem Thread.getV_putV (t : Thread) (d r : Nat) (x : Word) :
    (t.putV d x).getV r = if r = d ∧ d < t.v.length then x else t.getV r := getD_getElem?_set t.v d r x

/-- An S register after a write. -/
theorem UFile.getS_putS (u : UFile) (d r : Nat) (x : Word) :
    (u.putS d x).getS r = if r = d ∧ d < u.s.length then x else u.getS r := getD_getElem?_set u.s d r x

/-- A write to PT is discarded. -/
theorem Thread.putP_of_ge {p : Nat} (hp : 7 ≤ p) (t : Thread) (b : Bool) : t.putP p b = t := if_neg (not_lt.2 hp)

/-- A write to QT is discarded. -/
theorem UFile.putQ_of_ge {q : Nat} (hq : 4 ≤ q) (u : UFile) (b : Bool) : u.putQ q b = u := if_neg (not_lt.2 hq)

/-- A predicate after a write. -/
theorem Thread.getP_putP (t : Thread) (d r : Nat) (b : Bool) :
    (t.putP d b).getP r = if r = d ∧ d < 7 then b else t.getP r := by
  rcases lt_or_ge d 7 with hd | hd
  · simp only [Thread.putP, if_pos hd, and_iff_left hd]
    exact ite_getLsbD_setBit _ hd r b
  · rw [Thread.putP_of_ge hd, if_neg fun h => hd.not_gt h.2]

/-- A uniform predicate after a write. -/
theorem UFile.getQ_putQ (u : UFile) (d r : Nat) (b : Bool) :
    (u.putQ d b).getQ r = if r = d ∧ d < 4 then b else u.getQ r := by
  rcases lt_or_ge d 4 with hd | hd
  · simp only [UFile.putQ, if_pos hd, and_iff_left hd]
    exact ite_getLsbD_setBit _ hd r b
  · rw [UFile.putQ_of_ge hd, if_neg fun h => hd.not_gt h.2]

/-- A register pair holds what is written (R43). -/
theorem Thread.getV2_putV2 {t : Thread} {d : Nat} (hd : d + 1 < t.v.length) (x : BitVec 64) : (t.putV2 d x).getV2 d = x := by
  have hlo : (t.putV2 d x).getV d = pairLo x := by
    rw [Thread.putV2, Thread.getV_putV, if_neg (by simp), Thread.getV_putV, if_pos ⟨rfl, by omega⟩]
  have hhi : (t.putV2 d x).getV (d + 1) = pairHi x := by
    rw [Thread.putV2, Thread.getV_putV, if_pos ⟨rfl, by simpa using hd⟩]
  rw [Thread.getV2, hlo, hhi]
  exact BitVec.extractLsb'_append_extractLsb' (w := 32) (len := 32)

/-! ## Predicates (R135 to R137) -/

/-- The comparison of ISETP and USETP. -/
theorem icmp_eq (cmp : BitVec 3) (u : BitVec 1) (x y : Word) :
    let m : Int := if u = 1 then x.toNat else x.toInt
    let n : Int := if u = 1 then y.toNat else y.toInt
    icmp cmp.toNat (u == 1) x y =
      if cmp = 0 then decide (m = n) else if cmp = 1 then decide (m ≠ n) else if cmp = 2 then decide (m < n)
      else if cmp = 3 then decide (m ≤ n) else if cmp = 4 then decide (n < m) else decide (n ≤ m) := by
  extract_lets m n
  have hm : (if (u == 1) = true then uv x else sv x) = m := by simp only [beq_iff_eq]; rfl
  have hn : (if (u == 1) = true then uv y else sv y) = n := by simp only [beq_iff_eq]; rfl
  have hcmp : ∀ c : BitVec 3, c = 0 ∨ c = 1 ∨ c = 2 ∨ c = 3 ∨ c = 4 ∨ c = 5 ∨ c = 6 ∨ c = 7 := by decide
  simp only [icmp, hm, hn]
  rcases hcmp cmp with rfl | rfl | rfl | rfl | rfl | rfl | rfl | rfl
  · exact Bool.beq_eq_decide_eq m n
  · exact (congrArg not (Bool.beq_eq_decide_eq m n)).trans decide_not.symm
  all_goals rfl

/-- The combination of ISETP and USETP. -/
theorem combine_eq (o : BitVec 2) (c k : Bool) : combine o.toNat c k = if o = 0 then c && k else if o = 1 then c || k else c ^^ k := by
  revert o c k; decide

/-- PTAB reads the bit of its table that the three predicates name. -/
theorem tableBit_eq (table : BitVec 8) (x y z : Bool) :
    tableBit table.toNat x y z = table.getLsbD ((if x then 1 else 0) + (if y then 2 else 0) + (if z then 4 else 0)) := by
  have hbit : ∀ i, bitAt table.toNat i = table.getLsbD i := fun i => by
    rw [← BitVec.testBit_toNat, Nat.testBit_eq_decide_div_mod_eq, bitAt, Bool.beq_eq_decide_eq]
  rw [tableBit, hbit]
  cases x <;> cases y <;> cases z <;> rfl

/-- The first n bits of a word as a mask of predicates (R137). -/
def maskBelow (m : Word) (n : Nat) : BitVec 7 := (m.setWidth n).setWidth 7

/-- The predicates with those under a mask replaced by the bits of a word. -/
def replacedPreds (p mask : BitVec 7) (x : Word) : BitVec 7 := (p &&& ~~~mask) ||| (x.extractLsb' 0 7 &&& mask)

/-- Incomplete results without their writes of the first n predicates that a mask selects (R61). -/
def pendWithout (l : List Pend) (m : Word) (n : Nat) : List Pend :=
  l.map fun q => { q with preds := q.preds.filter fun r => !(decide (r.1 < n) && m.getLsbD r.1) }

/-- A bit of the mask. -/
theorem getLsbD_maskBelow (m : Word) (n : Nat) {j : Nat} (hj : j < 7) :
    (maskBelow m n).getLsbD j = (decide (j < n) && m.getLsbD j) := by
  rw [maskBelow, BitVec.getLsbD_setWidth, BitVec.getLsbD_setWidth, decide_eq_true hj, Bool.true_and]

/-- A replaced predicate is the bit of the word. -/
theorem getLsbD_replacedPreds (p mask : BitVec 7) (x : Word) {j : Nat} (hj : j < 7) :
    (replacedPreds p mask x).getLsbD j = if mask.getLsbD j then x.getLsbD j else p.getLsbD j := by
  rw [replacedPreds, BitVec.getLsbD_or, BitVec.getLsbD_and, BitVec.getLsbD_and, BitVec.getLsbD_not, BitVec.getLsbD_extractLsb']
  cases mask.getLsbD j <;> simp [hj]

/-- A mask of seven bits. -/
theorem maskBelow_seven (m : Word) : maskBelow m 7 = m.extractLsb' 0 7 := by
  rw [maskBelow, BitVec.setWidth_eq, BitVec.setWidth_eq_extractLsb' (by decide)]

/-- Predicate n is replaced next. -/
theorem replacedPreds_succ (p : BitVec 7) (m x : Word) {n : Nat} (hn : n < 7) : replacedPreds p (maskBelow m (n + 1)) x =
    if m.getLsbD n then setBit (replacedPreds p (maskBelow m n) x) n (x.getLsbD n) else replacedPreds p (maskBelow m n) x := by
  refine BitVec.eq_of_getLsbD_eq fun j hj => ?_
  rw [apply_ite (BitVec.getLsbD · j), getLsbD_setBit _ hn, getLsbD_replacedPreds _ _ _ hj, getLsbD_replacedPreds _ _ _ hj,
    getLsbD_maskBelow _ _ hj, getLsbD_maskBelow _ _ hj]
  by_cases h : j = n
  · subst h; simp
  · have hlt : j < n + 1 ↔ j < n := by omega
    simp [h, hlt]

/-- Incomplete results lose predicate n next. -/
theorem pendWithout_succ (l : List Pend) (m : Word) (n : Nat) :
    pendWithout l m (n + 1) = if m.getLsbD n then pendDropPred (pendWithout l m n) n else pendWithout l m n := by
  have htest : ∀ k, (!(decide (k < n + 1) && m.getLsbD k)) =
      if m.getLsbD n then k != n && !(decide (k < n) && m.getLsbD k) else !(decide (k < n) && m.getLsbD k) := by
    intro k
    by_cases h : k = n
    · subst h; cases m.getLsbD k <;> simp
    · have hlt : k < n + 1 ↔ k < n := by omega
      simp [h, hlt]
  rw [pendWithout]
  simp only [htest]
  split_ifs with hm
  · rw [pendDropPred, pendWithout, List.map_map]
    simp [Function.comp_def, List.filter_filter]
  · rfl

/-- V2P writes each of the first n predicates that its mask selects, and incomplete results lose those. -/
theorem foldl_putP (x m : Word) {n : Nat} (hn : n ≤ 7) (t : Thread) :
    (List.range n).foldl (fun t i => if m.getLsbD i then t.putP i (x.getLsbD i) else t) t =
      { t with p := replacedPreds t.p (maskBelow m n) x, pend := pendWithout t.pend m n } := by
  induction n with
  | zero =>
    have hp : replacedPreds t.p (maskBelow m 0) x = t.p := BitVec.eq_of_getLsbD_eq fun j hj => by
      rw [getLsbD_replacedPreds _ _ _ hj, getLsbD_maskBelow _ _ hj]; rfl
    have hpend : pendWithout t.pend m 0 = t.pend := by simp [pendWithout]
    rw [hp, hpend]; rfl
  | succ n ih =>
    rw [List.range_succ, List.foldl_append, List.foldl_cons, List.foldl_nil, ih (Nat.le_of_succ_le hn), replacedPreds_succ _ _ _ hn,
      pendWithout_succ, Thread.putP, if_pos (Nat.lt_of_succ_le hn)]
    split_ifs <;> rfl

/-- What V2P leaves. -/
theorem foldl_putP_seven (x m : Word) (t : Thread) :
    (List.range 7).foldl (fun t i => if m.getLsbD i then t.putP i (x.getLsbD i) else t) t =
      { t with
        p := (t.p &&& ~~~(m.extractLsb' 0 7)) ||| (x.extractLsb' 0 7 &&& m.extractLsb' 0 7)
        pend := t.pend.map fun q => { q with preds := q.preds.filter fun r => !(decide (r.1 < 7) && m.getLsbD r.1) } } := by
  rw [foldl_putP x m le_rfl, maskBelow_seven]; rfl

end Sys2Proof.Machine

open Sys2Proof Sys2Proof.Machine

/-- Settles O5: a comparison and a truth table agree code by code, V2P writes predicate after predicate, and a file keeps what is
written. -/
theorem predicateForms : Obligations.PredicateForms := by
  refine ⟨⟨fun s g d a b pd pc pa pb pcneg u o cmp table => ⟨?isetp, ?ptab, ?p2v, ?v2p⟩,
      fun s g a b pd pc pcneg u o cmp => ?usetp⟩,
    Thread.getV_putV, Thread.getP_putP, fun t d b hd => Thread.putP_of_ge hd t b, UFile.getS_putS, UFile.getQ_putQ,
    fun u d b hd => UFile.putQ_of_ge hd u b, fun t d x hd => Thread.getV2_putV2 hd x⟩
  case isetp => exact laneForm_of_laneOp rfl fun l => congrArg (l.t.putP pd.toNat) (by rw [combine_eq, icmp_eq])
  case ptab => exact laneForm_of_laneOp rfl fun l => congrArg (l.t.putP pd.toNat) (tableBit_eq ..)
  case p2v => exact writesV_of_laneV rfl fun _ => rfl
  case v2p => exact laneForm_of_laneOp rfl fun l => foldl_putP_seven _ _ l.t
  case usetp => exact uniformForm_of_uniOp rfl fun f => congrArg (f.putQ pd.toNat) (by rw [combine_eq, icmp_eq])

end

section
/-! O6. FP32 forms (R146 to R152), comparisons (R153) and class tests (R154). Most forms are the result path of R142 as the model has
it; what is left is how a mode bit, a sign bit and a comparison code are read. -/

namespace Sys2Proof.Machine

/-- A value negated where a bit of the instruction says so (R150). -/
def Num.negatedIf (n : BitVec 1) (x : Num) : Num := if n = 1 then x.flip else x

/-- A fused multiply-add is the exact product and addend, each negated by its bit, through the result path (R142, R150). -/
theorem ffmaBits_eq (f : Fmt) (md : FMod) (np nc : BitVec 1) (x y z : Nat) :
    ffmaBits f md (np == 1) (nc == 1) x y z = f.result md md.rm
      ((Num.negatedIf np ((f.operand md x).mul (f.operand md y))).add md.rm (Num.negatedIf nc (f.operand md z))) := by
  simp only [ffmaBits, Num.negatedIf, beq_iff_eq]

/-- The absolute value is the canonical NaN for a NaN, and the bits below the sign for everything else (R148). -/
theorem fabsWord_eq (md : FMod) (x : Word) :
    fabsWord md x = if fop md x = .nan then ofBits (fp32.exactResult md 0x7FC00000)
      else ofBits (fp32.exactResult md (fp32.ftz md.ftz x.toNat % 2 ^ 31)) :=
  apply_ite (fun y => ofBits (fp32.exactResult md y)) ..

/-- The comparison of FSETP: what a NaN gives, or the outcome of the order (R153). -/
theorem fcmp_eq (cmp : BitVec 3) (u : BitVec 1) (x y : Num) :
    fcmp cmp.toNat (u == 1) x y =
      if (x == .nan || y == .nan) = true then (if cmp = 6 then false else if cmp = 7 then true else u == 1)
      else if cmp = 0 then x.cmp y == .eq else if cmp = 1 then x.cmp y != .eq else if cmp = 2 then x.cmp y == .lt
      else if cmp = 3 then x.cmp y != .gt else if cmp = 4 then x.cmp y == .gt else if cmp = 5 then x.cmp y != .lt
      else cmp == 6 := by
  have hcmp : ∀ c : BitVec 3, c = 0 ∨ c = 1 ∨ c = 2 ∨ c = 3 ∨ c = 4 ∨ c = 5 ∨ c = 6 ∨ c = 7 := by decide
  simp only [fcmp, Bool.or_eq_true, beq_iff_eq]
  refine if_congr Iff.rfl ?_ ?_
  · rcases hcmp cmp with rfl | rfl | rfl | rfl | rfl | rfl | rfl | rfl
    all_goals rfl
  · rcases hcmp cmp with rfl | rfl | rfl | rfl | rfl | rfl | rfl | rfl
    all_goals rfl

end Sys2Proof.Machine

open Sys2Proof Sys2Proof.Machine

/-- Settles O6: each form is its exact result through the result path of R142. -/
theorem fp32Forms : Obligations.Fp32Forms := by
  refine ⟨fun s g d a b c np nc bf => ⟨?fadd, ?fsub, ?fmul, ?fmin, ?fmax, ?fabs, ?ffloor, ?fceil, ?ftrunc, ?frint, ?ffma, ?fdot2, ?fldexp⟩,
    fun s g a b pd pc pcneg u o cmp mask => ⟨?fsetp, ?fclass⟩⟩
  case fabs => exact writesV_of_laneV rfl fun _ => fabsWord_eq ..
  case ffma => exact writesV_of_laneV rfl fun _ => congrArg ofBits (ffmaBits_eq ..)
  case fsetp => exact laneForm_of_laneOp rfl fun l => congrArg (l.t.putP pd.toNat) (by rw [combine_eq, fcmp_eq]; rfl)
  case fclass => exact laneForm_of_laneOp rfl fun _ => rfl
  all_goals exact writesV_of_laneV rfl fun _ => rfl

end

section
/-! O7. Packed forms (R149, R150) and conversions (R157 to R159): a pair is its two halves side by side, and an element of a format
slot is a field of the bits of its register. -/

namespace Sys2Proof.Machine

/-- A word of two halves is the upper half before the lower. -/
theorem ofHalves_eq (lo hi : Nat) : ofHalves lo hi = BitVec.ofNat 16 hi ++ BitVec.ofNat 16 lo := by
  refine BitVec.eq_of_toNat_eq ?_
  rw [ofHalves, toNat_append_eq, BitVec.toNat_ofNat, BitVec.toNat_ofNat, BitVec.toNat_ofNat]
  omega

/-- The conversion of F2I and F2U, clamped to [0, 1] or [−1, 1] under MOD sat 10 and 11 (R90, R144, R157). -/
theorem toIntWord_eq (md : FMod) (lo hi : Int) (x : Word) :
    let y := (fop md x).toRange (rmode md.rnd .rz) lo hi
    toIntWord md lo hi x = BitVec.ofInt 32 (if md.sat = 2 then max 0 (min 1 y) else if md.sat = 3 then max (-1) (min 1 y) else y) := by
  obtain ⟨rnd, sat, ftz⟩ := md
  have hsat : ∀ c : BitVec 2, c = 0 ∨ c = 1 ∨ c = 2 ∨ c = 3 := by decide
  rcases hsat sat with rfl | rfl | rfl | rfl
  · rfl
  · rfl
  · exact congrArg (BitVec.ofInt 32) (clampInt_eq_max_min (by decide : (0 : Int) ≤ 1) _)
  · exact congrArg (BitVec.ofInt 32) (clampInt_eq_max_min (by decide : (-1 : Int) ≤ 1) _)

/-- The elements of a FMT that a register holds end at bit 31 (R158). -/
theorem fmtBits_mul_succ_le {fmt k : Nat} (hk : k < 32 / fmtBits fmt) : fmtBits fmt * (k + 1) ≤ 32 :=
  (Nat.mul_le_mul_left _ hk).trans (Nat.mul_div_le 32 _)

/-- A bit of a word of which element k is replaced: of the new element within its field, of the old word outside (R158). -/
theorem getLsbD_putElement {fmt k : Nat} (hk : k < 32 / fmtBits fmt) (x : Word) (e j : Nat) :
    (putElement fmt k x e).getLsbD j = if fmtBits fmt * k ≤ j ∧ j < fmtBits fmt * (k + 1)
      then e.testBit (j - fmtBits fmt * k) else x.getLsbD j := by
  have hend := fmtBits_mul_succ_le hk
  rw [Nat.mul_succ] at hend ⊢
  rcases lt_or_ge j 32 with hj | hj
  · rw [putElement, replaced_field, BitVec.getLsbD_ofNat, Nat.testBit_two_pow_mul_add _ (Nat.mod_lt _ (Nat.two_pow_pos _)),
      Nat.testBit_two_pow_mul_add _ (Nat.mod_lt _ (Nat.two_pow_pos _)), decide_eq_true hj, Bool.true_and]
    rcases lt_or_ge j (fmtBits fmt * k) with hlow | hlow
    · simp [hlow, hlow.not_ge, Nat.testBit_mod_two_pow, BitVec.testBit_toNat]
    · by_cases hin : j - fmtBits fmt * k < fmtBits fmt
      · have hfield : j < fmtBits fmt * k + fmtBits fmt := by omega
        simp [hlow, hlow.not_gt, hin, hfield, Nat.testBit_mod_two_pow]
      · have hfield : ¬ j < fmtBits fmt * k + fmtBits fmt := by omega
        have hhigh : j - fmtBits fmt * k - fmtBits fmt + fmtBits fmt + fmtBits fmt * k = j := by omega
        simp [hlow.not_gt, hin, hfield, Nat.testBit_div_two_pow, hhigh, BitVec.testBit_toNat]
  · rw [BitVec.getLsbD_of_ge _ _ hj, BitVec.getLsbD_of_ge _ _ hj, if_neg (by omega)]

end Sys2Proof.Machine

open Sys2Proof Sys2Proof.Machine

/-- Settles O7: each half of a pair and each converted value is its result through the result path of R142, and CVTN writes the bits of
one element. -/
theorem packedAndConversionForms : Obligations.PackedAndConversionForms := by
  refine ⟨fun s g d a b c np nc => ⟨?hadd2, ?badd2, ?hmul2, ?bmul2, ?hmin2, ?hmax2, ?hfma2, ?bfma2⟩,
    fun s g d a b n k i => ⟨?i2f, ?u2f, ?f2i, ?f2u, ?f2h, ?f2b, ?h2f, ?b2f, ⟨_, writesV_of_laneV rfl fun _ => rfl, ?cvtn⟩, ?cvtw⟩⟩
  case hfma2 => exact writesV_of_laneV rfl fun _ => by simp only [ffmaBits_eq]; exact ofHalves_eq ..
  case bfma2 => exact writesV_of_laneV rfl fun _ => by simp only [ffmaBits_eq]; exact ofHalves_eq ..
  case i2f => exact writesV_of_laneV rfl fun _ => rfl
  case u2f => exact writesV_of_laneV rfl fun _ => rfl
  case f2i => exact writesV_of_laneV rfl fun _ => toIntWord_eq ..
  case f2u => exact writesV_of_laneV rfl fun _ => toIntWord_eq ..
  case h2f => exact writesV_of_laneV rfl fun _ => rfl
  case b2f => exact writesV_of_laneV rfl fun _ => rfl
  case cvtn => exact fun l j hk => getLsbD_putElement hk _ _ j
  case cvtw => exact writesV_of_laneV rfl fun _ => congrArg (cvtwWord _ _ _) (bitsOf_toNat ..)
  all_goals exact writesV_of_laneV rfl fun _ => ofHalves_eq ..

end

section
/-! O8. Special functions (R155, R156). The free bits of a result are taken only within the bound, and the value nearest to the middle of
the enclosure stands in for them; so what is to be shown is that this value is always within the bound. That needs the width of each
enclosure, the error of one rounding, and that the middle does not round to an infinity. -/

namespace Sys2Proof.Machine

/-! ## Exact values as rational numbers -/

/-- The number that a finite exact value stands for; 0 for NaN and the infinities. -/
def Num.val : Num → ℚ
  | .fin n m e => (if n then -1 else 1) * (m * 2 ^ e)
  | _ => 0

/-- A zero or a number. -/
def Num.isFinite : Num → Prop
  | .zero _ => True
  | .fin _ _ _ => True
  | _ => False

/-- A magnitude that may be 0 stands for itself with its sign. -/
theorem Num.val_mk' (n : Bool) (m : Nat) (e : Int) : (Num.mk' n m e).val = (if n then -1 else 1) * (m * 2 ^ e) := by
  rcases Nat.eq_zero_or_pos m with rfl | hm
  · simp [mk', val]
  · rw [mk', if_neg hm.ne']; rfl

/-- A magnitude that may be 0 is finite. -/
theorem Num.isFinite_mk' (n : Bool) (m : Nat) (e : Int) : (Num.mk' n m e).isFinite := by
  rw [mk']; split_ifs <;> trivial

/-- The unit of an enclosure. -/
def Encl.unit (X : Encl) : ℚ := 2 ^ (X.scale - 128)

/-- A unit is positive. -/
theorem Encl.unit_pos (X : Encl) : 0 < X.unit := by unfold unit; positivity

/-- A finite value is near an enclosure when it lies between the ends, each moved by the tolerance. -/
theorem Encl.near_iff {X : Encl} {tol : Int} {y : Num} (hy : y.isFinite) :
    X.near tol y = true ↔ ((X.hi - tol : Int) : ℚ) * X.unit ≤ y.val ∧ y.val ≤ ((X.lo + tol : Int) : ℚ) * X.unit := by
  have key : ∀ (n : Bool) (m : Nat) (e : Int),
      let el := min e (X.scale - 128)
      let v : Int := (if n then -1 else 1) * (m * 2 ^ (e - el).toNat : Nat)
      let u : Int := (2 ^ (X.scale - 128 - el).toNat : Nat)
      ((X.hi - tol) * u ≤ v ∧ v ≤ (X.lo + tol) * u) ↔
        ((X.hi - tol : Int) : ℚ) * X.unit ≤ (if n then -1 else 1) * (m * 2 ^ e) ∧
          (if n then -1 else 1) * (m * 2 ^ e) ≤ ((X.lo + tol : Int) : ℚ) * X.unit := by
    intro n m e el v u
    have hel : (0 : ℚ) < 2 ^ el := by positivity
    have hu : (u : ℚ) * 2 ^ el = X.unit := by
      have h := cast_mul_two_pow_toNat (min_le_right e (X.scale - 128)) 1
      simpa [u, el, unit] using h
    have hv : (v : ℚ) * 2 ^ el = (if n then -1 else 1) * (m * 2 ^ e) := by
      have h := cast_mul_two_pow_toNat (min_le_left e (X.scale - 128)) m
      rw [← h]; cases n <;> simp [v, el]
    rw [← hv, ← hu, ← mul_assoc, ← mul_assoc, mul_le_mul_iff_left₀ hel, mul_le_mul_iff_left₀ hel]
    norm_cast
  cases y with
  | nan => exact hy.elim
  | inf n => exact hy.elim
  | zero n =>
    have h := key false 0 0
    simpa [near, Num.val] using h
  | fin n m e =>
    have h := key n m e
    simpa [near, Num.val] using h

/-! ## Rounding to FP32 (R82, R87) -/

/-- The magnitude of a signed magnitude. -/
theorem Fmt.magOf_signed (f : Fmt) (n : Bool) {g : Nat} (hg : g < f.signBit) : f.magOf (f.signed n g) = g := by
  cases n <;> simp [magOf, signed, Nat.mod_eq_of_lt hg]

/-- The sign of a signed magnitude. -/
theorem Fmt.signOf_signed (f : Fmt) (n : Bool) {g : Nat} (hg : g < f.signBit) : f.signOf (f.signed n g) = n := by
  have hpos : 0 < f.signBit := Nat.two_pow_pos _
  cases n <;> simp [signOf, signed, Nat.div_eq_of_lt hg, Nat.add_div_left _ hpos]

/-- The value of a mantissa q at the place t above the smallest subnormal of FP32, where q may have been rounded up to the next power
of two. -/
theorem fp32_dec_place (n : Bool) {t q : Nat} (hq : q ≤ 2 ^ 24) (hnormal : t = 0 ∨ 2 ^ 23 ≤ q) (hfin : t * 2 ^ 23 + q < 255 * 2 ^ 23) :
    (fp32.dec (fp32.signed n (t * 2 ^ 23 + q))).isFinite ∧
      (fp32.dec (fp32.signed n (t * 2 ^ 23 + q))).val = (if n then -1 else 1) * (q * 2 ^ ((t : Int) - 149)) := by
  have hsign : t * 2 ^ 23 + q < fp32.signBit := hfin.trans (by decide)
  have hinf : fp32.infBits = 255 * 2 ^ 23 := by decide
  have hemin : fp32.emin = -149 := by decide
  have hfb : fp32.fb = 23 := rfl
  simp only [Fmt.dec, Fmt.magOf_signed _ _ hsign, Fmt.signOf_signed _ _ hsign, hinf, hemin, hfb, if_neg hfin.not_gt, if_neg hfin.ne]
  by_cases hsub : q < 2 ^ 23
  · obtain rfl : t = 0 := by omega
    have hex : (0 * 2 ^ 23 + q) / 2 ^ 23 = 0 := by omega
    have hfr : (0 * 2 ^ 23 + q) % 2 ^ 23 = q := by omega
    rw [if_pos hex, hfr]
    exact ⟨Num.isFinite_mk' .., Num.val_mk' ..⟩
  · have hex : ¬ (t * 2 ^ 23 + q) / 2 ^ 23 = 0 := by omega
    rw [if_neg hex]
    refine ⟨trivial, ?_⟩
    by_cases htop : q = 2 ^ 24
    · have hex' : (t * 2 ^ 23 + q) / 2 ^ 23 - 1 = t + 1 := by omega
      have hfr : (t * 2 ^ 23 + q) % 2 ^ 23 = 0 := by omega
      have hexp : -149 + ((t + 1 : Nat) : Int) = (t - 149) + 1 := by omega
      rw [hex', hfr, htop, hexp, Num.val, zpow_add_one₀ two_ne_zero]
      push_cast; ring
    · have hex' : (t * 2 ^ 23 + q) / 2 ^ 23 - 1 = t := by omega
      have hfr : 2 ^ 23 + (t * 2 ^ 23 + q) % 2 ^ 23 = q := by omega
      have hexp : -149 + (t : Int) = t - 149 := by omega
      rw [hex', hfr, hexp, Num.val]

/-- A magnitude lies between the powers of two around it. -/
theorem two_zpow_log2_le {m : Nat} (hm : 0 < m) (e : Int) :
    (2 : ℚ) ^ (e + Nat.log2 m) ≤ m * 2 ^ e ∧ (m : ℚ) * 2 ^ e < 2 ^ (e + Nat.log2 m + 1) := by
  have hpos : (0 : ℚ) < 2 ^ e := by positivity
  have hlo : (2 : ℚ) ^ Nat.log2 m ≤ m := by exact_mod_cast Nat.log2_self_le hm.ne'
  have hhi : (m : ℚ) < 2 ^ (Nat.log2 m + 1) := by exact_mod_cast Nat.lt_log2_self
  have hsplit : (2 : ℚ) ^ (e + Nat.log2 m + 1) = 2 ^ (Nat.log2 m + 1) * 2 ^ e := by
    rw [← zpow_natCast, ← zpow_add₀ two_ne_zero]; congr 1; push_cast; ring
  rw [hsplit, zpow_add₀ two_ne_zero, zpow_natCast, mul_comm ((2 : ℚ) ^ e)]
  exact ⟨mul_le_mul_of_nonneg_right hlo hpos.le, mul_lt_mul_of_pos_right hhi hpos⟩

/-- Rounding to nearest moves a quotient by half a unit at most. -/
theorem abs_rne_sub_le (neg : Bool) (m d : Nat) (hd : 0 < d) :
    let q := m / 2 ^ d
    let r := m % 2 ^ d
    |(((if roundsUp .rne neg q (decide (r ≠ 0)) (compare r (2 ^ (d - 1))) then q + 1 else q : Nat) : ℚ) * 2 ^ d - m)| ≤ 2 ^ d / 2 := by
  intro q r
  obtain ⟨k, rfl⟩ := Nat.exists_eq_add_of_le' hd
  have hm : (m : ℚ) = 2 ^ (k + 1) * q + r := by exact_mod_cast (Nat.div_add_mod m (2 ^ (k + 1))).symm
  have hr : (r : ℚ) < 2 ^ (k + 1) := by exact_mod_cast Nat.mod_lt m (Nat.two_pow_pos (k + 1))
  have hr0 : (0 : ℚ) ≤ r := Nat.cast_nonneg r
  have hhalf : (2 : ℚ) ^ (k + 1) / 2 = 2 ^ k := by rw [pow_succ]; ring
  have htwo : (2 : ℚ) ^ (k + 1) = 2 * 2 ^ k := by rw [pow_succ]; ring
  rw [hm, hhalf, abs_le, Nat.add_sub_cancel, htwo]
  rw [htwo] at hr
  split_ifs with hup
  · have hge : 2 ^ k ≤ r := by
      by_contra hlt
      have hcmp : compare r (2 ^ k) = .lt := Nat.compare_eq_lt.2 (not_le.1 hlt)
      simp [roundsUp, hcmp] at hup
    have hge' : (2 : ℚ) ^ k ≤ r := by exact_mod_cast hge
    push_cast
    constructor <;> linarith
  · have hle : r ≤ 2 ^ k := by
      by_contra hlt
      have hcmp : compare r (2 ^ k) = .gt := Nat.compare_eq_gt.2 (not_le.1 hlt)
      simp [roundsUp, hcmp] at hup
    have hle' : (r : ℚ) ≤ 2 ^ k := by exact_mod_cast hle
    constructor <;> linarith

/-- Rounding to nearest moves a magnitude by half a unit of its last place at most (R87). -/
theorem abs_roundAt_rne_sub_le (neg : Bool) (m : Nat) (e s : Int) :
    |(roundAt .rne neg m e s : ℚ) * 2 ^ s - m * 2 ^ e| ≤ 2 ^ s / 2 := by
  rcases le_or_gt s e with h | h
  · rw [roundAt_of_le h, cast_mul_two_pow_toNat h, sub_self, abs_zero]
    positivity
  · obtain ⟨d, hd⟩ : ∃ d : Nat, s = e + d := ⟨(s - e).toNat, by omega⟩
    have hdpos : 0 < d := by omega
    have he : (0 : ℚ) < 2 ^ e := by positivity
    have hs : (2 : ℚ) ^ s = 2 ^ d * 2 ^ e := by rw [hd, zpow_add₀ two_ne_zero, zpow_natCast, mul_comm]
    have hto : (s - e).toNat = d := by omega
    have key : |(roundAt .rne neg m e s : ℚ) * 2 ^ d - m| ≤ 2 ^ d / 2 := by
      simp only [roundAt, if_neg h.not_ge, hto]
      split
      · rename_i hlow
        obtain ⟨k, rfl⟩ := Nat.exists_eq_add_of_le' hdpos
        have hm : m < 2 ^ k := Nat.lt_log2_self.trans_le (Nat.pow_le_pow_right Nat.two_pos (by omega))
        have hm' : (m : ℚ) ≤ 2 ^ k := by exact_mod_cast hm.le
        have hhalf : (2 : ℚ) ^ (k + 1) / 2 = 2 ^ k := by rw [pow_succ]; ring
        simpa [roundsUp, hhalf] using hm'
      · exact abs_rne_sub_le neg m d hdpos
    have hfactor : (roundAt .rne neg m e s : ℚ) * 2 ^ s - m * 2 ^ e = ((roundAt .rne neg m e s : ℚ) * 2 ^ d - m) * 2 ^ e := by
      rw [hs]; ring
    rw [hfactor, abs_mul, abs_of_pos he, hs]
    linarith [mul_le_mul_of_nonneg_right key he.le]

/-- The exponent of the last place of FP32 at a magnitude of a given binary exponent (R82). -/
def lastPlace (top : Int) : Int := max (top - 23) (-149)

/-- A value below the midpoint above k is rounded to k at most. -/
theorem rounded_le {q k : Nat} {s : Int} {v : ℚ} (hq : |(q : ℚ) * 2 ^ s - v| ≤ 2 ^ s / 2) (hv : v < (k + 1 / 2) * 2 ^ s) : q ≤ k := by
  have hpos : (0 : ℚ) < 2 ^ s := by positivity
  have h : (q : ℚ) * 2 ^ s < ((k + 1 : Nat) : ℚ) * 2 ^ s := by push_cast; linarith [(abs_le.1 hq).2]
  exact Nat.lt_succ_iff.1 (Nat.cast_lt.1 (lt_of_mul_lt_mul_right h hpos.le))

/-- A value above the midpoint below k is rounded to k at least. -/
theorem le_rounded {q k : Nat} {s : Int} {v : ℚ} (hq : |(q : ℚ) * 2 ^ s - v| ≤ 2 ^ s / 2) (hv : (k - 1 / 2) * 2 ^ s < v) : k ≤ q := by
  have hpos : (0 : ℚ) < 2 ^ s := by positivity
  have h : (k : ℚ) * 2 ^ s < ((q + 1 : Nat) : ℚ) * 2 ^ s := by push_cast; linarith [(abs_le.1 hq).1]
  exact Nat.lt_succ_iff.1 (Nat.cast_lt.1 (lt_of_mul_lt_mul_right h hpos.le))

/-- A magnitude below the midpoint between the greatest number of FP32 and 2^128 is rounded to a number within half a unit of its last
place (R87). -/
theorem fp32_rnd_error (n : Bool) {m : Nat} {e : Int} (hm : 0 < m) (hfit : (m : ℚ) * 2 ^ e < (2 ^ 25 - 1) * 2 ^ 103) :
    (fp32.dec (fp32.rnd .rne (.fin n m e))).isFinite ∧
      |(fp32.dec (fp32.rnd .rne (.fin n m e))).val - (Num.fin n m e).val| ≤ 2 ^ lastPlace (e + Nat.log2 m) / 2 := by
  obtain ⟨s, hs⟩ : ∃ s, s = lastPlace (e + Nat.log2 m) := ⟨_, rfl⟩
  have hs' : s = max (e + Nat.log2 m - 23) (-149) := hs
  obtain ⟨t, ht⟩ : ∃ t : Nat, s = t - 149 := ⟨(s + 149).toNat, by omega⟩
  obtain ⟨q, hq⟩ : ∃ q, q = roundAt .rne n m e s := ⟨_, rfl⟩
  have herr := abs_roundAt_rne_sub_le n m e s
  rw [← hq] at herr
  obtain ⟨hlo, hhi⟩ := two_zpow_log2_le hm e
  have hpos : (0 : ℚ) < 2 ^ s := by positivity
  have htop : e + Nat.log2 m < 128 := by
    have h := hlo.trans_lt (hfit.trans_le (b := (2 ^ 25 - 1) * 2 ^ 103) (c := 2 ^ (128 : Int)) (by norm_num))
    exact (zpow_lt_zpow_iff_right₀ one_lt_two).1 h
  have hle : q ≤ 2 ^ 24 := by
    have h : (2 : ℚ) ^ (e + Nat.log2 m + 1) ≤ 2 ^ ((24 : Nat) + s) := zpow_le_zpow_right₀ one_le_two (by omega)
    rw [zpow_add₀ two_ne_zero (24 : Nat), zpow_natCast] at h
    exact rounded_le herr (by push_cast; linarith)
  have hnormal : t = 0 ∨ 2 ^ 23 ≤ q := by
    rw [or_iff_not_imp_left]
    intro ht0
    have h : (2 : ℚ) ^ (e + Nat.log2 m) = 2 ^ ((23 : Nat) + s) := by congr 1; omega
    rw [zpow_add₀ two_ne_zero (23 : Nat), zpow_natCast] at h
    exact le_rounded herr (by push_cast; linarith)
  have hfin : t * 2 ^ 23 + q < 255 * 2 ^ 23 := by
    by_cases hlast : s = 104
    · have h : q ≤ 2 ^ 24 - 1 := rounded_le herr (hfit.trans_eq (by rw [hlast]; norm_num))
      omega
    · omega
  have hrnd : fp32.rnd .rne (.fin n m e) = fp32.signed n (t * 2 ^ 23 + q) := by
    have hplace : max (e + Nat.log2 m - (fp32.fb : Int)) fp32.emin = s := hs'.symm
    have hemin : (s - fp32.emin).toNat = t := by rw [show fp32.emin = -149 by decide]; omega
    have hinf : t * 2 ^ fp32.fb + q < fp32.infBits := hfin
    simp only [Fmt.rnd, hplace, hemin, ← hq, if_pos hinf]
    rfl
  obtain ⟨hfinite, hval⟩ := fp32_dec_place n hle hnormal hfin
  rw [hrnd, hval, ← hs, ← ht]
  refine ⟨hfinite, ?_⟩
  rw [Num.val, ← mul_sub, abs_mul]
  cases n <;> simpa using herr

/-! ## The value nearest to the middle of an enclosure (R155) -/

namespace Encl

/-- The middle of an enclosure. -/
theorem mid_val (X : Encl) : X.mid.val = ((X.lo + X.hi : Int) : ℚ) / 2 * X.unit := by
  have hunit : (2 : ℚ) ^ (X.scale - 129) = X.unit / 2 := by
    rw [unit, show X.scale - 129 = X.scale - 128 - 1 by ring, zpow_sub_one₀ two_ne_zero, div_eq_mul_inv]
  have hsign : (if X.lo + X.hi < 0 then -1 else 1 : ℚ) * ((X.lo + X.hi).natAbs : ℚ) = ((X.lo + X.hi : Int) : ℚ) := by
    rw [Nat.cast_natAbs, Int.cast_abs]
    split_ifs with h
    · rw [abs_of_neg (by exact_mod_cast h)]; ring
    · rw [abs_of_nonneg (by exact_mod_cast not_lt.1 h)]; ring
  simp only [mid, Num.val_mk', decide_eq_true_eq]
  rw [← mul_assoc, hsign, hunit]; ring

/-- The value nearest to the middle of an enclosure is within a tolerance that covers half its last place and half the width. -/
theorem near_rnd_mid {X : Encl} {tol : Int}
    (hfit : ((X.lo + X.hi).natAbs : ℚ) * 2 ^ (X.scale - 129) < (2 ^ 25 - 1) * 2 ^ 103)
    (htol : (2 : ℚ) ^ lastPlace (X.scale - 129 + Nat.log2 (X.lo + X.hi).natAbs) + (X.hi - X.lo) * X.unit ≤ 2 * tol * X.unit) :
    X.near tol (fp32.dec (fp32.rnd .rne X.mid)) = true := by
  have herr : (fp32.dec (fp32.rnd .rne X.mid)).isFinite ∧ |(fp32.dec (fp32.rnd .rne X.mid)).val - X.mid.val| ≤
      2 ^ lastPlace (X.scale - 129 + Nat.log2 (X.lo + X.hi).natAbs) / 2 := by
    rcases Nat.eq_zero_or_pos (X.lo + X.hi).natAbs with h0 | hpos
    · have hmid : X.mid = .zero false := by simp [mid, Num.mk', Int.natAbs_eq_zero.1 h0]
      have hdec : fp32.dec (fp32.rnd .rne (.zero false)) = .zero false := by decide
      rw [hmid, hdec]
      exact ⟨trivial, by rw [sub_self, abs_zero]; positivity⟩
    · rw [mid, Num.mk', if_neg hpos.ne']
      exact fp32_rnd_error _ hpos hfit
  obtain ⟨hfinite, herr⟩ := herr
  rw [mid_val] at herr
  obtain ⟨h1, h2⟩ := abs_le.1 herr
  rw [near_iff hfinite]
  push_cast at h1 h2 ⊢
  constructor <;> linarith

/-- The lesser magnitude of an enclosure. -/
def least (X : Encl) : Nat := min X.lo.natAbs X.hi.natAbs

/-- One unit in the last place is one unit of the enclosure or a power of two of them. -/
theorem ulp_eq (X : Encl) : X.ulp = if 0 ≤ lastPlace (Nat.log2 X.least - 128 + X.scale) + 128 - X.scale
    then ((2 ^ (lastPlace (Nat.log2 X.least - 128 + X.scale) + 128 - X.scale).toNat : Nat) : Int) else 1 := rfl

/-- One unit in the last place is at least one unit of the enclosure. -/
theorem one_le_ulp (X : Encl) : 1 ≤ X.ulp := by
  rw [ulp_eq]
  split_ifs
  · exact_mod_cast Nat.one_le_two_pow
  · exact le_rfl

/-- One unit in the last place is at least 24 bits below the lesser magnitude. -/
theorem two_pow_le_ulp {X : Encl} {k : Nat} (hk : 2 ^ (k + 23) ≤ X.least) : 2 ^ k ≤ X.ulp := by
  have hlog : k + 23 ≤ Nat.log2 X.least := (Nat.le_log2 ((Nat.two_pow_pos _).trans_le hk).ne').2 hk
  have hexp : k ≤ (lastPlace (Nat.log2 X.least - 128 + X.scale) + 128 - X.scale).toNat := by rw [lastPlace]; omega
  rw [ulp_eq, if_pos (by rw [lastPlace]; omega)]
  exact_mod_cast Nat.pow_le_pow_right Nat.two_pos hexp

/-- One unit in the last place is that of FP32 at the lesser magnitude, or more. -/
theorem two_zpow_lastPlace_le_ulp (X : Encl) : (2 : ℚ) ^ lastPlace (Nat.log2 X.least - 128 + X.scale) ≤ X.ulp * X.unit := by
  rw [ulp_eq, unit]
  split_ifs with h
  · push_cast
    rw [← zpow_natCast, ← zpow_add₀ two_ne_zero]
    exact (zpow_le_zpow_right₀ one_le_two (by omega))
  · rw [Int.cast_one, one_mul]
    exact zpow_le_zpow_right₀ one_le_two (by omega)

/-- The value nearest to the middle is within a tolerance counted in units of the last place, where the middle is at most j binary
exponents above the lesser magnitude. -/
theorem near_rnd_mid_of_ulp {X : Encl} {tol : Int} (j : Nat)
    (hfit : ((X.lo + X.hi).natAbs : ℚ) * 2 ^ (X.scale - 129) < (2 ^ 25 - 1) * 2 ^ 103)
    (hlog : Nat.log2 (X.lo + X.hi).natAbs ≤ Nat.log2 X.least + 1 + j) (htol : 2 ^ j * X.ulp + (X.hi - X.lo) ≤ 2 * tol) :
    X.near tol (fp32.dec (fp32.rnd .rne X.mid)) = true := by
  have hplace : (2 : ℚ) ^ lastPlace (X.scale - 129 + Nat.log2 (X.lo + X.hi).natAbs) ≤ 2 ^ j * (X.ulp * X.unit) :=
    calc (2 : ℚ) ^ lastPlace (X.scale - 129 + Nat.log2 (X.lo + X.hi).natAbs)
        ≤ 2 ^ ((j : Int) + lastPlace (Nat.log2 X.least - 128 + X.scale)) :=
          zpow_le_zpow_right₀ one_le_two (by rw [lastPlace, lastPlace]; omega)
      _ = 2 ^ j * 2 ^ lastPlace (Nat.log2 X.least - 128 + X.scale) := by rw [zpow_add₀ two_ne_zero, zpow_natCast]
      _ ≤ 2 ^ j * (X.ulp * X.unit) := mul_le_mul_of_nonneg_left X.two_zpow_lastPlace_le_ulp (by positivity)
  have htol' : (2 : ℚ) ^ j * X.ulp + (X.hi - X.lo) ≤ 2 * tol := by exact_mod_cast htol
  refine near_rnd_mid hfit ?_
  linarith [mul_le_mul_of_nonneg_right htol' X.unit_pos.le]

end Encl

/-- What stands for a value known by an enclosure is within the bound if the value nearest to the middle is. -/
theorem near_withinBound {X : Encl} {tol : Int} (h : X.near tol (fp32.dec (fp32.rnd .rne X.mid)) = true) (cand : Word) :
    X.near tol (fp32.dec (withinBound X tol cand)) = true := by
  rw [withinBound]
  split_ifs with hcand
  · exact hcand
  · exact h

/-! ## Square roots -/

/-- Trial bits find the root between two bounds that differ by a power of two. -/
theorem isqrtAux_eq_sqrt {x : Nat} {i r : Nat} (hlo : r * r ≤ x) (hhi : x < (r + 2 ^ i) * (r + 2 ^ i)) : isqrtAux x i r = Nat.sqrt x := by
  induction i generalizing r with
  | zero => exact Nat.eq_sqrt.2 ⟨hlo, hhi⟩
  | succ i ih =>
    rw [isqrtAux]
    split_ifs with h
    · exact ih h (by rwa [add_assoc, ← two_mul, ← pow_succ'])
    · exact ih hlo (not_le.1 h)

/-- The integer square root by trial bits is the integer square root. -/
theorem isqrt_eq_sqrt (x : Nat) : isqrt x = Nat.sqrt x := by
  refine isqrtAux_eq_sqrt (Nat.zero_le x) ?_
  have hx : x < 2 ^ (Nat.log2 x + 1) := Nat.lt_log2_self
  refine hx.trans_le ?_
  rw [zero_add, ← pow_add]
  exact Nat.pow_le_pow_right Nat.two_pos (by omega)

/-! ## FRCP and FRSQ: enclosures one unit wide (R155) -/

/-- An enclosure with its sign changed where n is set. -/
def Encl.withSign (X : Encl) (n : Bool) : Encl := if n then { X with lo := -X.hi, hi := -X.lo } else X

/-- The enclosure between two neighbouring units. -/
def unitEncl (q : Nat) (scale : Int) : Encl := { lo := q, hi := q + 1, scale := scale }

/-- The sign leaves the unit in the last place. -/
theorem Encl.withSign_ulp (X : Encl) (n : Bool) : (X.withSign n).ulp = X.ulp := by
  cases n with
  | false => rfl
  | true => simp [withSign, ulp, min_comm]

/-- The value nearest to the middle of an enclosure one unit wide is within a unit of the last place. -/
theorem near_rnd_mid_unitEncl {q : Nat} (hq : 0 < q) {scale : Int} (hfit : ((2 * q + 1 : Nat) : ℚ) * 2 ^ (scale - 129) < (2 ^ 25 - 1) * 2 ^ 103)
    (n : Bool) : ((unitEncl q scale).withSign n).near (unitEncl q scale).ulp
      (fp32.dec (fp32.rnd .rne ((unitEncl q scale).withSign n).mid)) = true := by
  have hscale : ((unitEncl q scale).withSign n).scale = scale := by cases n <;> rfl
  have hsum : (((unitEncl q scale).withSign n).lo + ((unitEncl q scale).withSign n).hi).natAbs = 2 * q + 1 := by
    cases n <;> simp only [Encl.withSign, unitEncl, if_true, Bool.false_eq_true, if_false] <;> omega
  have hwidth : ((unitEncl q scale).withSign n).hi - ((unitEncl q scale).withSign n).lo = 1 := by
    cases n <;> simp [Encl.withSign, unitEncl]
  have hleast : ((unitEncl q scale).withSign n).least = q := by
    cases n <;> simp only [Encl.withSign, unitEncl, Encl.least, if_true, Bool.false_eq_true, if_false] <;> omega
  have hlog : Nat.log2 (2 * q + 1) = Nat.log2 q + 1 := by
    have h : (2 * q + 1) / 2 = q := by omega
    rw [Nat.log2_def, if_pos (by omega), h]
  refine Encl.near_rnd_mid_of_ulp 0 (by rwa [hsum, hscale]) (by rw [hsum, hleast, hlog]) ?_
  have h1 := (unitEncl q scale).one_le_ulp
  rw [hwidth, Encl.withSign_ulp]
  omega

/-- The reciprocal of the mantissa, in units of 2^−128 of its binary exponent. -/
def rcpMantissa (m : Nat) : Nat := 2 ^ 128 * 2 ^ Nat.log2 m / m

/-- The enclosure of a reciprocal is one unit wide. -/
theorem enclRcp_eq (m : Nat) (e : Int) : enclRcp m e = unitEncl (rcpMantissa m) (-e - Nat.log2 m) := rfl

/-- The reciprocal of the mantissa does not exceed the exact one, and the next does. -/
theorem rcpMantissa_mul_le {m : Nat} (hm : 0 < m) :
    rcpMantissa m * m ≤ 2 ^ 128 * 2 ^ Nat.log2 m ∧ 2 ^ 128 * 2 ^ Nat.log2 m ≤ (rcpMantissa m + 1) * m :=
  ⟨Nat.div_mul_le_self _ m, ((Nat.div_lt_iff_lt_mul hm).1 (Nat.lt_succ_self _)).le⟩

/-- The reciprocal of the mantissa is between 1/2 and 1. -/
theorem rcpMantissa_bounds {m : Nat} (hm : 0 < m) : 2 ^ 127 ≤ rcpMantissa m ∧ rcpMantissa m ≤ 2 ^ 128 := by
  have hlo := Nat.log2_self_le hm.ne'
  have hhi : m < 2 ^ Nat.log2 m * 2 := Nat.lt_log2_self
  constructor
  · exact (Nat.le_div_iff_mul_le hm).2 (by omega)
  · exact Nat.div_le_of_le_mul (by rw [Nat.mul_comm m]; exact Nat.mul_le_mul_left _ hlo)

/-- The reciprocal of a mantissa of 24 bits that is no power of two is not rounded up to 1. -/
theorem rcpMantissa_lt {m : Nat} (hm : 0 < m) (h24 : m < 2 ^ 24) (hpow : m ≠ 2 ^ Nat.log2 m) : rcpMantissa m < (2 ^ 25 - 1) * 2 ^ 103 := by
  have hlo : 2 ^ Nat.log2 m + 1 ≤ m := Nat.lt_of_le_of_ne (Nat.log2_self_le hm.ne') (Ne.symm hpow)
  have hmul := (Nat.mul_le_mul_left _ hlo).trans (rcpMantissa_mul_le hm).1
  refine Nat.lt_of_mul_lt_mul_right (a := 2 ^ Nat.log2 m + 1) (hmul.trans_lt ?_)
  omega

/-- The value nearest to the middle of the enclosure of a reciprocal is within one unit of the last place. -/
theorem near_rnd_mid_enclRcp {m : Nat} {e : Int} (hm : 0 < m) (h24 : m < 2 ^ 24) (hk : -128 ≤ Nat.log2 m + e)
    (hpow : ¬ (m = 2 ^ Nat.log2 m ∧ Nat.log2 m + e ≤ 126)) (n : Bool) :
    ((enclRcp m e).withSign n).near (enclRcp m e).ulp (fp32.dec (fp32.rnd .rne ((enclRcp m e).withSign n).mid)) = true := by
  obtain ⟨hlo, hhi⟩ := rcpMantissa_bounds hm
  rw [enclRcp_eq]
  refine near_rnd_mid_unitEncl (by omega) ?_ n
  rcases hk.eq_or_lt with hlow | hhigh
  · have hlt := rcpMantissa_lt hm h24 fun h => hpow ⟨h, by omega⟩
    have hcast : ((2 * rcpMantissa m + 1 : Nat) : ℚ) < (((2 ^ 25 - 1) * 2 ^ 104 : Nat) : ℚ) := by exact_mod_cast (by omega)
    have hscale : -e - Nat.log2 m - 129 = -1 := by omega
    rw [hscale]
    norm_num at hcast ⊢
    linarith
  · have hcast : ((2 * rcpMantissa m + 1 : Nat) : ℚ) ≤ ((2 ^ 129 + 1 : Nat) : ℚ) := by exact_mod_cast (by omega)
    have hscale : (2 : ℚ) ^ (-e - Nat.log2 m - 129) ≤ 2 ^ (-2 : Int) := zpow_le_zpow_right₀ one_le_two (by omega)
    refine (mul_le_mul hcast hscale (by positivity) (by positivity)).trans_lt ?_
    norm_num

/-- The mantissa of a number whose binary exponent is even. -/
def evenMantissa (m : Nat) (e : Int) : Nat := if e % 2 = 0 then m else 2 * m

/-- The reciprocal root of a mantissa, in units of 2^−128 of its binary exponent. -/
def rsqMantissa (m : Nat) : Nat := isqrt (2 ^ 256 * 2 ^ (2 * (Nat.log2 m / 2)) / m)

/-- The enclosure of a reciprocal root is one unit wide. -/
theorem enclRsq_eq (m : Nat) (e : Int) :
    enclRsq m e = unitEncl (rsqMantissa (evenMantissa m e)) (-((e - e % 2) / 2) - (Nat.log2 (evenMantissa m e) / 2 : Nat)) := by
  have hfx : fxOne * fxOne = 2 ^ 256 := by decide
  have he : (if e % 2 = 0 then e else e - 1) = e - e % 2 := by split_ifs <;> omega
  simp only [enclRsq, hfx, he]
  rfl

/-- The square of the reciprocal root of a mantissa does not exceed the exact one, and that of the next does. -/
theorem rsqMantissa_sq_mul_le {m : Nat} (hm : 0 < m) :
    rsqMantissa m ^ 2 * m ≤ 2 ^ 256 * 2 ^ (2 * (Nat.log2 m / 2)) ∧
      2 ^ 256 * 2 ^ (2 * (Nat.log2 m / 2)) ≤ (rsqMantissa m + 1) ^ 2 * m := by
  rw [rsqMantissa, isqrt_eq_sqrt]
  exact ⟨(Nat.le_div_iff_mul_le hm).1 (Nat.sqrt_le' _), ((Nat.div_lt_iff_lt_mul hm).1 (Nat.lt_succ_sqrt' _)).le⟩

/-- The reciprocal root of a mantissa is between 1/2 and 1. -/
theorem rsqMantissa_bounds {m : Nat} (hm : 0 < m) : 2 ^ 127 ≤ rsqMantissa m ∧ rsqMantissa m ≤ 2 ^ 128 := by
  have hlo : 2 ^ (2 * (Nat.log2 m / 2)) ≤ m := (Nat.pow_le_pow_right Nat.two_pos (by omega)).trans (Nat.log2_self_le hm.ne')
  have hhi : m ≤ 2 ^ (2 * (Nat.log2 m / 2)) * 2 ^ 2 := by
    rw [← pow_add]
    exact Nat.lt_log2_self.le.trans (Nat.pow_le_pow_right Nat.two_pos (by omega))
  rw [rsqMantissa, isqrt_eq_sqrt]
  constructor
  · exact Nat.le_sqrt.2 ((Nat.le_div_iff_mul_le hm).2 (by omega))
  · refine (Nat.sqrt_le_sqrt (Nat.div_le_of_le_mul ?_)).trans_eq (Nat.sqrt_eq (2 ^ 128))
    rw [Nat.mul_comm m]; exact Nat.mul_le_mul_left _ hlo

/-- The value nearest to the middle of the enclosure of a reciprocal root is within one unit of the last place. -/
theorem near_rnd_mid_enclRsq {m : Nat} {e : Int} (hm : 0 < m) (he : -149 ≤ e) :
    (enclRsq m e).near (enclRsq m e).ulp (fp32.dec (fp32.rnd .rne (enclRsq m e).mid)) = true := by
  have hpos : 0 < evenMantissa m e := by rw [evenMantissa]; split_ifs <;> omega
  obtain ⟨hlo, hhi⟩ := rsqMantissa_bounds hpos
  rw [enclRsq_eq]
  refine near_rnd_mid_unitEncl (by omega) ?_ false
  have hcast : ((2 * rsqMantissa (evenMantissa m e) + 1 : Nat) : ℚ) ≤ ((2 ^ 129 + 1 : Nat) : ℚ) := by exact_mod_cast (by omega)
  have hscale : (2 : ℚ) ^ (-((e - e % 2) / 2) - (Nat.log2 (evenMantissa m e) / 2 : Nat) - 129) ≤ 2 ^ (-2 : Int) :=
    zpow_le_zpow_right₀ one_le_two (by omega)
  refine (mul_le_mul hcast hscale (by positivity) (by positivity)).trans_lt ?_
  norm_num

/-! ## FLOG2, FSINT and FCOST: enclosures in units of 2^−128 (R155) -/

/-- The value nearest to the middle of a narrow enclosure of a number below 4 is within 2^−22. -/
theorem near_rnd_mid_of_scale_zero {X : Encl} (hscale : X.scale = 0) (hsum : (X.lo + X.hi).natAbs < 2 ^ 131) (hwidth : X.hi - X.lo ≤ 2 ^ 100) :
    X.near (2 ^ 106) (fp32.dec (fp32.rnd .rne X.mid)) = true := by
  have hsum' : ((X.lo + X.hi).natAbs : ℚ) < 2 ^ 131 := by exact_mod_cast hsum
  have hwidth' : (X.hi : ℚ) - X.lo ≤ 2 ^ 100 := by exact_mod_cast hwidth
  have hlog : Nat.log2 (X.lo + X.hi).natAbs ≤ 130 := by
    rcases Nat.eq_zero_or_pos (X.lo + X.hi).natAbs with h0 | hpos
    · rw [h0]; decide
    · exact Nat.lt_succ_iff.1 ((Nat.log2_lt hpos.ne').2 hsum)
  have hplace : (2 : ℚ) ^ lastPlace (X.scale - 129 + Nat.log2 (X.lo + X.hi).natAbs) ≤ 2 ^ (-22 : Int) :=
    zpow_le_zpow_right₀ one_le_two (by rw [lastPlace]; omega)
  refine Encl.near_rnd_mid ?_ ?_
  · rw [hscale]
    norm_num at hsum' ⊢
    linarith
  · rw [hscale] at hplace
    rw [Encl.unit, hscale]
    norm_num at hplace hwidth' ⊢
    linarith

/-- The value nearest to the middle of a narrow enclosure is within two units of the last place. -/
theorem near_rnd_mid_of_le_least {X : Encl} (hfit : ((X.lo + X.hi).natAbs : ℚ) * 2 ^ (X.scale - 129) < (2 ^ 25 - 1) * 2 ^ 103)
    (hsum : (X.lo + X.hi).natAbs ≤ 4 * X.least) (hleast : 2 ^ 123 ≤ X.least) (hwidth : X.hi - X.lo ≤ 2 ^ 100) :
    X.near (2 * X.ulp) (fp32.dec (fp32.rnd .rne X.mid)) = true := by
  have hulp := Encl.two_pow_le_ulp (k := 100) hleast
  have hlog : Nat.log2 (X.lo + X.hi).natAbs ≤ Nat.log2 X.least + 1 + 1 := by
    rcases Nat.eq_zero_or_pos (X.lo + X.hi).natAbs with h0 | hpos
    · rw [h0]; exact Nat.zero_le _
    · have h : X.least < 2 ^ (Nat.log2 X.least + 1) := Nat.lt_log2_self
      refine Nat.lt_succ_iff.1 ((Nat.log2_lt hpos.ne').2 ?_)
      rw [pow_succ, pow_succ]; omega
  exact Encl.near_rnd_mid_of_ulp 1 hfit hlog (by omega)

/-- Each step of the logarithm gives one bit. -/
theorem log2Aux_lt (n y acc : Nat) : log2Aux n y acc < (acc + 1) * 2 ^ n := by
  induction n generalizing y acc with
  | zero => simp [log2Aux]
  | succ n ih =>
    have hstep : ∀ bit ≤ 1, (2 * acc + bit + 1) * 2 ^ n ≤ (acc + 1) * 2 ^ (n + 1) := fun bit hbit => by
      rw [pow_succ', ← Nat.mul_assoc]
      exact Nat.mul_le_mul_right _ (by omega)
    simp only [log2Aux]
    split_ifs
    · exact (ih ..).trans_le (hstep 1 le_rfl)
    · exact (ih ..).trans_le (hstep 0 (Nat.zero_le 1))

/-- The bits that the enclosure of a logarithm has after its binary exponent. -/
theorem enclLog2_eq (m : Nat) (e : Int) : ∃ bits : Nat, bits < 2 ^ 104 ∧
    enclLog2 m e = { lo := (e + Nat.log2 m) * 2 ^ 128 + (bits - 1) * 2 ^ 24, hi := (e + Nat.log2 m) * 2 ^ 128 + (bits + 2) * 2 ^ 24, scale := 0 } :=
  ⟨_, (log2Aux_lt 104 _ 0).trans_eq (by decide), rfl⟩

/-- The value nearest to the middle of the enclosure of a logarithm between −1 and 1 is within 2^−22. -/
theorem near_rnd_mid_enclLog2_narrow {m : Nat} {e : Int} (hk : Nat.log2 m + e = 0 ∨ Nat.log2 m + e = -1) :
    (enclLog2 m e).near (2 ^ 106) (fp32.dec (fp32.rnd .rne (enclLog2 m e).mid)) = true := by
  obtain ⟨bits, hbits, heq⟩ := enclLog2_eq m e
  rw [heq]
  exact near_rnd_mid_of_scale_zero rfl (by dsimp only; omega) (by dsimp only; omega)

/-- The value nearest to the middle of the enclosure of any other logarithm is within two units of the last place. -/
theorem near_rnd_mid_enclLog2 {m : Nat} {e : Int} (hk : ¬ (Nat.log2 m + e = 0 ∨ Nat.log2 m + e = -1)) (hlo : -149 ≤ Nat.log2 m + e)
    (hhi : Nat.log2 m + e ≤ 127) :
    (enclLog2 m e).near (2 * (enclLog2 m e).ulp) (fp32.dec (fp32.rnd .rne (enclLog2 m e).mid)) = true := by
  obtain ⟨bits, hbits, heq⟩ := enclLog2_eq m e
  have hsum : ((enclLog2 m e).lo + (enclLog2 m e).hi).natAbs < 2 ^ 137 := by rw [heq]; dsimp only; omega
  have hsum' : (((enclLog2 m e).lo + (enclLog2 m e).hi).natAbs : ℚ) < 2 ^ 137 := by exact_mod_cast hsum
  have hscale : (enclLog2 m e).scale = 0 := rfl
  refine near_rnd_mid_of_le_least ?_ ?_ ?_ ?_
  · rw [hscale]
    norm_num at hsum' ⊢
    linarith
  · rw [heq]; simp only [Encl.least]; omega
  · rw [heq]; simp only [Encl.least]; omega
  · rw [heq]; dsimp only; omega

/-- The series of sine and cosine stays within its current term of its sum, where the terms at least halve. -/
theorem abs_trigAux_sub_le {x2 : Nat} (hx2 : x2 ≤ 3 * fxOne) (n : Nat) {k : Nat} (hk : 2 ≤ k) (t : Int) (ht : 0 ≤ t) (neg : Bool) (acc : Int) :
    |trigAux x2 n k t neg acc - acc| ≤ t := by
  induction n generalizing k t neg acc with
  | zero => simpa [trigAux] using ht
  | succ n ih =>
    obtain ⟨t', ht'⟩ : ∃ t', t' = t * x2 / fxOne / (k * (k + 1)) := ⟨_, rfl⟩
    have hfx : (0 : Int) < fxOne := by decide
    have h3 : t * x2 / fxOne ≤ 3 * t := by
      refine Int.ediv_le_of_le_mul hfx ?_
      have : (x2 : Int) ≤ 3 * fxOne := by exact_mod_cast hx2
      nlinarith
    have h0 : 0 ≤ t * x2 / fxOne := Int.ediv_nonneg (by positivity) hfx.le
    have h6 : (6 : Int) ≤ k * (k + 1) := by
      have : (2 : Int) ≤ k := by exact_mod_cast hk
      nlinarith
    have hnonneg : 0 ≤ t' := ht' ▸ Int.ediv_nonneg h0 (by omega)
    have hhalf : 2 * t' ≤ t := by
      have h := Int.ediv_mul_le (t * x2 / fxOne) (b := (k : Int) * (k + 1)) (by omega)
      rw [← ht'] at h
      nlinarith
    simp only [trigAux, ← ht']
    have hsum := ih (k := k + 2) (by omega) t' hnonneg (!neg) (if neg then acc - t' else acc + t')
    rw [abs_le] at hsum ⊢
    split_ifs at hsum ⊢ <;> constructor <;> omega

/-- The angle of a quarter turn at most, in radians. -/
def quarterAngle (r : Nat) : Nat := r * twoPi / fxOne

/-- Sine and cosine of a quarter turn are the series of the angle. -/
theorem trigQuarter_eq (cos : Bool) (r : Nat) : trigQuarter cos r =
    if cos then trigAux (quarterAngle r * quarterAngle r / fxOne) 24 1 fxOne true fxOne
    else trigAux (quarterAngle r * quarterAngle r / fxOne) 24 2 (quarterAngle r) true (quarterAngle r) := rfl

/-- A quarter turn is below 1.6 radians. -/
theorem five_mul_quarterAngle_le {r : Nat} (hr : r < fxOne / 4) : 5 * quarterAngle r ≤ 8 * fxOne := by
  have h : quarterAngle r ≤ 8 * fxOne / 5 := Nat.div_le_of_le_mul <|
    calc r * twoPi ≤ fxOne / 4 * twoPi := Nat.mul_le_mul_right _ hr.le
      _ ≤ fxOne * (8 * fxOne / 5) := by decide
  omega

/-- The square of the angle of a quarter turn is below 3. -/
theorem quarterAngle_sq_le {r : Nat} (hr : r < fxOne / 4) : quarterAngle r * quarterAngle r / fxOne ≤ 3 * fxOne := by
  have h := five_mul_quarterAngle_le hr
  exact Nat.div_le_of_le_mul (by nlinarith)

/-- The computed sine and cosine of a quarter turn are between −2 and 4. -/
theorem trigQuarter_bounds (cos : Bool) {r : Nat} (hr : r < fxOne / 4) :
    -(2 * fxOne : Int) ≤ trigQuarter cos r ∧ trigQuarter cos r ≤ 4 * fxOne := by
  have hx2 := quarterAngle_sq_le hr
  rw [trigQuarter_eq]
  generalize hsq : quarterAngle r * quarterAngle r / fxOne = x2 at hx2
  have hfx : (0 : Int) < fxOne := by decide
  cases cos with
  | false =>
    have hangle := five_mul_quarterAngle_le hr
    have h := abs_le.1 (abs_trigAux_sub_le hx2 24 le_rfl (quarterAngle r) (Int.natCast_nonneg _) true (quarterAngle r))
    rw [if_neg Bool.false_ne_true]
    omega
  | true =>
    have hterm : (fxOne : Int) * x2 / fxOne / ((1 : Nat) * ((1 : Nat) + 1)) = (x2 / 2 : Nat) := by
      rw [Int.mul_ediv_cancel_left _ hfx.ne']; simp
    have h := abs_le.1 (abs_trigAux_sub_le hx2 23 (k := 1 + 2) (by decide) (x2 / 2 : Nat) (Int.natCast_nonneg _) false (fxOne - (x2 / 2 : Nat)))
    rw [if_pos rfl, trigAux, hterm]
    simp only [if_true, Bool.not_true]
    omega

/-- The enclosure around a computed sine or cosine x of a quarter turn, negative in the lower half turn. -/
def trigEncl (quad : Nat) (x : Int) : Encl :=
  let lo : Int := max (x - 2 ^ 20) 0
  let hi : Int := min (x + 2 ^ 20) (fxOne : Int)
  if quad < 2 then { lo := lo, hi := hi, scale := 0 } else { lo := -hi, hi := -lo, scale := 0 }

/-- The enclosure of a sine or a cosine is that around one of a quarter turn. -/
theorem enclTrig_eq (cos neg : Bool) (m : Nat) (e : Int) : ∃ quad r, r < fxOne / 4 ∧
    enclTrig cos neg m e = trigEncl quad (if quad % 2 = 0 then trigQuarter false r else trigQuarter true r) :=
  ⟨_, _, Nat.mod_lt _ (by decide), rfl⟩

/-- The enclosure of a sine or a cosine is narrow, and its middle is below 4. -/
theorem enclTrig_bounds (cos neg : Bool) (m : Nat) (e : Int) :
    (enclTrig cos neg m e).scale = 0 ∧ ((enclTrig cos neg m e).lo + (enclTrig cos neg m e).hi).natAbs < 2 ^ 131 ∧
      (enclTrig cos neg m e).hi - (enclTrig cos neg m e).lo ≤ 2 ^ 100 := by
  obtain ⟨quad, r, hr, heq⟩ := enclTrig_eq cos neg m e
  have hfx : (fxOne : Int) = 2 ^ 128 := by decide
  have hx := trigQuarter_bounds (!decide (quad % 2 = 0)) hr
  have hpick : (if quad % 2 = 0 then trigQuarter false r else trigQuarter true r) = trigQuarter (!decide (quad % 2 = 0)) r := by
    split_ifs with h <;> simp [h]
  rw [heq, hpick, trigEncl, hfx]
  rw [hfx] at hx
  split_ifs
  · exact ⟨rfl, by dsimp only; omega, by dsimp only; omega⟩
  · exact ⟨rfl, by dsimp only; omega, by dsimp only; omega⟩

/-- The value nearest to the middle of the enclosure of a sine or a cosine is within 2^−22. -/
theorem near_rnd_mid_enclTrig (cos neg : Bool) (m : Nat) (e : Int) :
    (enclTrig cos neg m e).near (2 ^ 106) (fp32.dec (fp32.rnd .rne (enclTrig cos neg m e).mid)) = true := by
  obtain ⟨hscale, hsum, hwidth⟩ := enclTrig_bounds cos neg m e
  exact near_rnd_mid_of_scale_zero hscale hsum hwidth

/-! ## FEXP2: the enclosure of a product of roots of two (R155) -/

/-- The factor 2^(2^−i) in units of 2^−128: each is the root of the one before. -/
def exp2Factor : Nat → Nat
  | 0 => 2 * fxOne
  | i + 1 => isqrt (exp2Factor i * fxOne)

/-- The square of a factor does not exceed the factor before it. -/
theorem exp2Factor_succ_sq_le (i : Nat) : exp2Factor (i + 1) * exp2Factor (i + 1) ≤ exp2Factor i * fxOne := by
  rw [exp2Factor, isqrt_eq_sqrt]
  exact Nat.sqrt_le _

/-- A factor is at least 1. -/
theorem fxOne_le_exp2Factor (i : Nat) : fxOne ≤ exp2Factor i := by
  induction i with
  | zero => exact Nat.le_mul_of_pos_left _ Nat.two_pos
  | succ i ih =>
    rw [exp2Factor, isqrt_eq_sqrt]
    exact Nat.le_sqrt.2 (Nat.mul_le_mul_right _ ih)

/-- The factors fall. -/
theorem exp2Factor_antitone : Antitone exp2Factor := antitone_nat_of_succ_le fun i => by
  have hpos : 0 < exp2Factor (i + 1) := (by decide : 0 < fxOne).trans_le (fxOne_le_exp2Factor _)
  refine Nat.le_of_mul_le_mul_right ?_ hpos
  exact (exp2Factor_succ_sq_le i).trans (Nat.mul_le_mul_left _ (fxOne_le_exp2Factor _))

/-- Every factor from √2 on is below 3/2. -/
theorem two_mul_exp2Factor_succ_le (i : Nat) : 2 * exp2Factor (i + 1) ≤ 3 * fxOne := by
  have hsq := (exp2Factor_succ_sq_le i).trans (Nat.mul_le_mul_right fxOne (exp2Factor_antitone (Nat.zero_le i)))
  rw [exp2Factor] at hsq
  nlinarith

/-- The factor 2^(2^−17) is more than 2^−20 above 1. -/
theorem lt_exp2Factor_seventeen : 2 ^ 128 + 2 ^ 108 < exp2Factor 17 := by decide +kernel

/-- One step of the product: the bounds take factor i where the fraction has that bit. -/
def exp2Step (f p i r : Nat) (acc : Nat × Nat) : Nat × Nat :=
  if p < i then acc else if f / 2 ^ (p - i) % 2 = 1 then (acc.1 * r / fxOne, acc.2 * (r + 2) / fxOne + 1) else acc

/-- The product takes a step and goes on with the next factor. -/
theorem exp2Aux_succ (f p n i r : Nat) (acc : Nat × Nat) :
    exp2Aux f p (n + 1) i r acc = exp2Aux f p n (i + 1) (isqrt (r * fxOne)) (exp2Step f p i r acc) := rfl

/-- The bounds of a product after the first i factors, of which those above P are not taken: at least 1, the lower with one more
factor at most 2, and the upper not far above it. -/
structure Exp2Bounds (P i : Nat) (acc : Nat × Nat) : Prop where
  one_le_lo : fxOne ≤ acc.1
  one_le_hi : fxOne ≤ acc.2
  lo_mul_le : acc.1 * exp2Factor (min i P) ≤ 2 * fxOne * fxOne
  gap_le : (acc.2 : ℚ) - acc.1 ≤ 8 * (7 / 4) ^ i - 8

/-- The product starts at 1. -/
theorem Exp2Bounds.one (P : Nat) : Exp2Bounds P 0 (fxOne, fxOne) where
  one_le_lo := le_rfl
  one_le_hi := le_rfl
  lo_mul_le := by rw [Nat.zero_min, exp2Factor, Nat.mul_comm]
  gap_le := by simp

namespace Exp2Bounds

variable {P i : Nat} {acc : Nat × Nat}

/-- The lower bound is at most 2. -/
theorem lo_le (h : Exp2Bounds P i acc) : acc.1 ≤ 2 * fxOne :=
  Nat.le_of_mul_le_mul_right ((Nat.mul_le_mul_left _ (fxOne_le_exp2Factor _)).trans h.lo_mul_le) (by decide)

/-- The bounds hold on where a factor is not taken. -/
theorem succ (h : Exp2Bounds P i acc) : Exp2Bounds P (i + 1) acc where
  one_le_lo := h.one_le_lo
  one_le_hi := h.one_le_hi
  lo_mul_le := (Nat.mul_le_mul_left _ (exp2Factor_antitone (by omega))).trans h.lo_mul_le
  gap_le := by
    have hpow : (1 : ℚ) ≤ (7 / 4) ^ i := one_le_pow₀ (by norm_num)
    have hgap := h.gap_le
    rw [pow_succ]; linarith

/-- A factor that is taken widens the gap by less than 3/4 of it and a few units. -/
theorem gap_mul_le (h : Exp2Bounds P i acc) :
    ((acc.2 * (exp2Factor (i + 1) + 2) / fxOne + 1 : Nat) : ℚ) - (acc.1 * exp2Factor (i + 1) / fxOne : Nat) ≤ 8 * (7 / 4) ^ (i + 1) - 8 := by
  obtain ⟨r, hr⟩ : ∃ r, r = exp2Factor (i + 1) := ⟨_, rfl⟩
  obtain ⟨D, hD⟩ : ∃ D : ℚ, D = 8 * (7 / 4) ^ i - 8 := ⟨_, rfl⟩
  have hfx : (0 : ℚ) < fxOne := by exact_mod_cast (by decide : 0 < fxOne)
  have hfx16 : (16 : ℚ) ≤ fxOne := by exact_mod_cast (by decide : 16 ≤ fxOne)
  have hD0 : 0 ≤ D := by
    have : (1 : ℚ) ≤ (7 / 4) ^ i := one_le_pow₀ (by norm_num)
    linarith
  have hr2 : 2 * (r : ℚ) ≤ 3 * fxOne := by exact_mod_cast hr ▸ two_mul_exp2Factor_succ_le i
  have hlo : (acc.1 : ℚ) ≤ 2 * fxOne := by exact_mod_cast h.lo_le
  have hgap : (acc.2 : ℚ) - acc.1 ≤ D := hD ▸ h.gap_le
  have hup : ((acc.2 * (r + 2) / fxOne : Nat) : ℚ) * fxOne ≤ acc.2 * (r + 2) := by exact_mod_cast Nat.div_mul_le_self _ _
  have hdown : (acc.1 : ℚ) * r ≤ ((acc.1 * r / fxOne : Nat) + 1) * fxOne := by
    exact_mod_cast ((Nat.div_lt_iff_lt_mul (by decide)).1 (Nat.lt_succ_self _)).le
  rw [← hr, pow_succ, show 8 * ((7 / 4 : ℚ) ^ i * (7 / 4)) - 8 = 7 / 4 * D + 6 by rw [hD]; ring]
  refine le_of_mul_le_mul_right ?_ hfx
  push_cast
  nlinarith [mul_le_mul_of_nonneg_right hgap (Nat.cast_nonneg (α := ℚ) r), mul_le_mul_of_nonneg_left hr2 hD0,
    mul_le_mul_of_nonneg_left hfx16 hD0]

/-- The bounds hold where a factor is taken: with its square in place of the factor before, the lower is still at most 2. -/
theorem mul (h : Exp2Bounds P i acc) (hP : i + 1 ≤ P) :
    Exp2Bounds P (i + 1) (acc.1 * exp2Factor (i + 1) / fxOne, acc.2 * (exp2Factor (i + 1) + 2) / fxOne + 1) where
  one_le_lo := (Nat.le_div_iff_mul_le (by decide)).2 (Nat.mul_le_mul h.one_le_lo (fxOne_le_exp2Factor _))
  one_le_hi := Nat.le_succ_of_le ((Nat.le_div_iff_mul_le (by decide)).2
    (Nat.mul_le_mul h.one_le_hi (Nat.le_succ_of_le (Nat.le_succ_of_le (fxOne_le_exp2Factor _)))))
  lo_mul_le := by
    have hprod := h.lo_mul_le
    rw [min_eq_left (by omega)] at hprod
    rw [min_eq_left hP]
    refine Nat.le_of_mul_le_mul_right (c := fxOne) ?_ (by decide)
    calc acc.1 * exp2Factor (i + 1) / fxOne * exp2Factor (i + 1) * fxOne
        = acc.1 * exp2Factor (i + 1) / fxOne * fxOne * exp2Factor (i + 1) := Nat.mul_right_comm ..
      _ ≤ acc.1 * exp2Factor (i + 1) * exp2Factor (i + 1) := Nat.mul_le_mul_right _ (Nat.div_mul_le_self _ _)
      _ ≤ acc.1 * (exp2Factor i * fxOne) := by rw [Nat.mul_assoc]; exact Nat.mul_le_mul_left _ (exp2Factor_succ_sq_le i)
      _ ≤ 2 * fxOne * fxOne * fxOne := by rw [← Nat.mul_assoc]; exact Nat.mul_le_mul_right _ hprod
  gap_le := h.gap_mul_le

/-- A step keeps the bounds. -/
theorem step {f p : Nat} (h : Exp2Bounds P i acc) (hp : p ≤ P) : Exp2Bounds P (i + 1) (exp2Step f p (i + 1) (exp2Factor (i + 1)) acc) := by
  rw [exp2Step]
  split_ifs with habove hbit
  · exact h.succ
  · exact h.mul (by omega)
  · exact h.succ

/-- The product keeps the bounds, and moves the upper one up at its end. -/
theorem exp2Aux_eq {f p : Nat} (h : Exp2Bounds P i acc) (hp : p ≤ P) (n : Nat) : ∃ acc', Exp2Bounds P (i + n) acc' ∧
    exp2Aux f p n (i + 1) (exp2Factor (i + 1)) acc = (acc'.1, acc'.2 + acc'.2 / 2 ^ 104 + 1) := by
  induction n generalizing i acc with
  | zero => exact ⟨acc, h, rfl⟩
  | succ n ih =>
    obtain ⟨acc', h', heq⟩ := ih (h.step hp)
    exact ⟨acc', by rwa [Nat.add_right_comm, Nat.add_assoc] at h', (exp2Aux_succ ..).trans heq⟩

end Exp2Bounds

/-- The whole part of a power of two's exponent. -/
def exp2Floor (neg : Bool) (m : Nat) (e : Int) : Int := (if neg then -1 else 1) * (m * 2 ^ e.toNat : Nat) / (2 ^ (-e).toNat : Nat)

/-- The gap of the product after its last factor is far below the last place of FP32. -/
theorem Exp2Bounds.hi_le {P : Nat} {acc : Nat × Nat} (h : Exp2Bounds P 104 acc) : acc.2 ≤ acc.1 + 2 ^ 90 := by
  have hpow : (8 : ℚ) * (7 / 4) ^ 104 - 8 ≤ 2 ^ 90 := by norm_num
  have hgap : (acc.2 : ℚ) ≤ ((acc.1 + 2 ^ 90 : Nat) : ℚ) := by push_cast; linarith [h.gap_le]
  exact Nat.cast_le.1 hgap

/-- The fraction of a power of two's exponent, in units of its last bit. -/
def exp2Fraction (neg : Bool) (m : Nat) (e : Int) : Nat := ((if neg then -1 else 1) * (m * 2 ^ e.toNat : Nat) % (2 ^ (-e).toNat : Nat) : Int).toNat

/-- The enclosure of a power of two lies between 1 and 2 above its whole exponent, is narrow, and its lower end is at most 2 with the
first factor that is never taken. -/
theorem enclExp2_bounds (neg : Bool) (m : Nat) (e : Int) {P : Nat} (hP : (-e).toNat ≤ P) : ∃ lo hi : Nat,
    enclExp2 neg m e = { lo := lo, hi := hi, scale := exp2Floor neg m e } ∧ 2 ^ 128 ≤ lo ∧ lo ≤ 2 ^ 129 ∧ 2 ^ 128 ≤ hi ∧
      hi ≤ 2 ^ 129 ∧ lo * exp2Factor (min 104 P) ≤ 2 * fxOne * fxOne ∧ hi ≤ lo + 2 ^ 100 := by
  obtain ⟨acc, h, heq⟩ := (Exp2Bounds.one P).exp2Aux_eq (f := exp2Fraction neg m e) hP 104
  rw [Nat.zero_add] at h
  rw [Nat.zero_add, exp2Fraction] at heq
  have hfx : fxOne = 2 ^ 128 := rfl
  have hlo := h.one_le_lo
  have hhi := h.one_le_hi
  have hle := h.lo_le
  have hgap := h.hi_le
  have hprod := h.lo_mul_le
  refine ⟨acc.1, min (acc.2 + acc.2 / 2 ^ 104 + 1) (2 * fxOne), ?_, hlo, hle.trans (by decide), ?_, ?_, hprod, ?_⟩
  · have hstart : isqrt (2 * fxOne * fxOne) = exp2Factor 1 := rfl
    simp only [enclExp2, hstart, heq]
    rw [Nat.cast_min, Nat.cast_mul]
    rfl
  · exact le_min (by omega) (by decide)
  · exact (min_le_right _ _).trans (by decide)
  · omega

/-- A power of two below 2^128 has a whole exponent of 127 at most, and then the fraction of its exponent has 17 bits at most. -/
theorem exp2Floor_le {neg : Bool} {m : Nat} {e : Int} (h24 : m < 2 ^ 24) (hlt : neg = false → m * 2 ^ e.toNat < 128 * 2 ^ (-e).toNat) :
    exp2Floor neg m e ≤ 126 ∨ exp2Floor neg m e = 127 ∧ (-e).toNat ≤ 17 := by
  have hd : (0 : Int) < (2 ^ (-e).toNat : Nat) := by exact_mod_cast Nat.two_pow_pos _
  cases neg with
  | true =>
    left
    rw [exp2Floor, if_pos rfl]
    exact (Int.ediv_nonpos_of_nonpos_of_neg (by omega) hd).trans (by decide)
  | false =>
    have hfloor : exp2Floor false m e = (m * 2 ^ e.toNat / 2 ^ (-e).toNat : Nat) := by simp [exp2Floor]
    have hlt' : m * 2 ^ e.toNat / 2 ^ (-e).toNat < 128 := (Nat.div_lt_iff_lt_mul (Nat.two_pow_pos _)).2 (hlt rfl)
    rw [hfloor]
    rcases Nat.lt_or_ge (m * 2 ^ e.toNat / 2 ^ (-e).toNat) 127 with h | h
    · left; omega
    · right
      refine ⟨by omega, ?_⟩
      by_contra hp
      have he : e.toNat = 0 := by omega
      have hM := (Nat.le_div_iff_mul_le (Nat.two_pow_pos _)).1 h
      have hpow : 2 ^ 18 ≤ 2 ^ (-e).toNat := Nat.pow_le_pow_right Nat.two_pos (by omega)
      rw [he] at hM
      omega

/-- The middle of the enclosure of a power of two below 2^128 is below the midpoint above the greatest number of FP32. -/
theorem enclExp2_fits {neg : Bool} {m : Nat} {e : Int} (h24 : m < 2 ^ 24) (hlt : neg = false → m * 2 ^ e.toNat < 128 * 2 ^ (-e).toNat) :
    (((enclExp2 neg m e).lo + (enclExp2 neg m e).hi).natAbs : ℚ) * 2 ^ ((enclExp2 neg m e).scale - 129) < (2 ^ 25 - 1) * 2 ^ 103 := by
  rcases exp2Floor_le h24 hlt with hfloor | ⟨hfloor, hp⟩
  · obtain ⟨lo, hi, heq, -, hlo, -, hhi, -, -⟩ := enclExp2_bounds neg m e le_rfl
    have hsum : ((lo + hi : Int).natAbs : ℚ) ≤ ((2 ^ 130 : Nat) : ℚ) := by exact_mod_cast (by omega)
    have hscale : (2 : ℚ) ^ (exp2Floor neg m e - 129) ≤ 2 ^ (-3 : Int) := zpow_le_zpow_right₀ one_le_two (by omega)
    rw [heq]
    refine (mul_le_mul hsum hscale (by positivity) (by positivity)).trans_lt ?_
    norm_num
  · obtain ⟨lo, hi, heq, -, -, -, hhi, hprod, -⟩ := enclExp2_bounds neg m e hp
    have hlo : lo < 2 ^ 129 - 2 ^ 105 := by
      have h := (Nat.mul_le_mul_left lo lt_exp2Factor_seventeen.le).trans hprod
      rw [fxOne] at h
      omega
    have hsum : ((lo + hi : Int).natAbs : ℚ) < ((2 ^ 130 - 2 ^ 105 : Nat) : ℚ) := by exact_mod_cast (by omega)
    rw [heq]
    dsimp only
    rw [hfloor]
    norm_num at hsum ⊢
    linarith

/-- The value nearest to the middle of the enclosure of a power of two is within two units of the last place. -/
theorem near_rnd_mid_enclExp2 {neg : Bool} {m : Nat} {e : Int} (h24 : m < 2 ^ 24)
    (hlt : neg = false → m * 2 ^ e.toNat < 128 * 2 ^ (-e).toNat) :
    (enclExp2 neg m e).near (2 * (enclExp2 neg m e).ulp) (fp32.dec (fp32.rnd .rne (enclExp2 neg m e).mid)) = true := by
  have hfit := enclExp2_fits h24 hlt
  obtain ⟨lo, hi, heq, hlo, hlo2, hhi, hhi2, -, hgap⟩ := enclExp2_bounds neg m e le_rfl
  rw [heq] at hfit ⊢
  exact near_rnd_mid_of_le_least hfit (by simp only [Encl.least]; omega) (by simp only [Encl.least]; omega) (by simp only; omega)

/-! ## Powers of two (R156) -/

/-- A multiple of the unit is kept. -/
theorem roundAt_mul_two_pow (rm : Rm) (neg : Bool) {q : Nat} (hq : 0 < q) (d : Nat) (e : Int) :
    roundAt rm neg (q * 2 ^ d) e (e + d) = q := by
  rcases Nat.eq_zero_or_pos d with rfl | hd
  · simp [roundAt_of_le]
  · have hlog : d ≤ Nat.log2 (q * 2 ^ d) :=
      (Nat.le_log2 (by positivity)).2 (Nat.le_mul_of_pos_left _ hq)
    have hto : (e + d - e).toNat = d := by omega
    have hcmp : compare 0 (2 ^ (d - 1)) = .lt := Nat.compare_eq_lt.2 (Nat.two_pow_pos _)
    simp only [roundAt, hto, if_neg (show ¬ e + (d : Int) ≤ e by omega), if_neg (show ¬ Nat.log2 (q * 2 ^ d) + 2 < d by omega),
      Nat.mul_div_cancel _ (Nat.two_pow_pos d), Nat.mul_mod_left, hcmp]
    cases rm <;> simp [roundsUp]

/-- A power of two is a normal number of FP32 in every mode. -/
theorem fp32_rnd_two_pow (rm : Rm) (n : Bool) {j : Nat} {e : Int} (hlo : -126 ≤ j + e) (hhi : j + e ≤ 127) :
    fp32.rnd rm (.fin n (2 ^ j) e) = fp32.signed n ((127 + (j + e)).toNat * 2 ^ 23) := by
  have hplace : max (e + Nat.log2 (2 ^ j) - (fp32.fb : Int)) fp32.emin = e + j - 23 := by
    rw [Nat.log2_two_pow, show fp32.emin = -149 by decide, show fp32.fb = 23 from rfl]; omega
  have hround : roundAt rm n (2 ^ j) e (e + j - 23) = 2 ^ 23 := by
    rcases Nat.le_total j 23 with h | h
    · rw [roundAt_of_le (by omega), ← pow_add]; congr 1; omega
    · obtain ⟨d, rfl⟩ := Nat.exists_eq_add_of_le h
      rw [pow_add, show e + (23 + d : Nat) - 23 = e + d by omega]
      exact roundAt_mul_two_pow rm n (by decide) d e
  have hbits : (e + j - 23 - fp32.emin).toNat * 2 ^ fp32.fb + 2 ^ 23 = (127 + (j + e)).toNat * 2 ^ 23 := by
    rw [show fp32.emin = -149 by decide, show fp32.fb = 23 from rfl]; omega
  have hinf : (127 + (j + e)).toNat * 2 ^ 23 < fp32.infBits := by rw [show fp32.infBits = 255 * 2 ^ 23 by decide]; omega
  simp only [Fmt.rnd, hplace, hround, hbits, if_pos hinf]

/-- The root of a power of two of an even exponent is exact. -/
theorem sqrtSticky_two_pow {j : Nat} {e : Int} (heven : (j + e) % 2 = 0) :
    ∃ (k : Nat) (b : Int), sqrtSticky (2 ^ j) e = .fin false (2 ^ k) b ∧ k + b = (j + e) / 2 := by
  obtain ⟨h, hh⟩ : ∃ h : Nat, (j : Int) + e % 2 + 64 = 2 * h := ⟨((j + e % 2 + 64) / 2).toNat, by omega⟩
  have hm : (if (e % 2 != 0) = true then 2 * 2 ^ j else 2 ^ j) * 2 ^ 64 = 2 ^ h * 2 ^ h := by
    rw [← pow_add]
    split_ifs with hodd
    · rw [← pow_succ', ← pow_add]
      congr 1; rw [bne_iff_ne] at hodd; omega
    · rw [← pow_add]
      congr 1; rw [bne_iff_ne, not_not] at hodd; omega
  have he : (if (e % 2 != 0) = true then e - 1 else e) - 64 = e - e % 2 - 64 := by
    split_ifs with hodd
    · rw [bne_iff_ne] at hodd; omega
    · rw [bne_iff_ne, not_not] at hodd; omega
  have hroot : isqrt (2 ^ h * 2 ^ h) = 2 ^ h := by rw [isqrt_eq_sqrt, Nat.sqrt_eq]
  refine ⟨h + 1, (e - e % 2 - 64) / 2 - 1, ?_, by omega⟩
  simp only [sqrtSticky, hm, he, hroot, if_true, Nat.add_zero]
  rw [← pow_succ', Num.mk', if_neg (Nat.two_pow_pos _).ne']

/-! ## The results for finite operands (R155, R156) -/

/-- The finite values of FP32 have mantissas of 24 bits. -/
theorem fp32_dec_fin {a : Nat} {n : Bool} {m : Nat} {e : Int} (h : fp32.dec a = .fin n m e) :
    0 < m ∧ m < 2 ^ 24 ∧ -149 ≤ e ∧ Nat.log2 m + e ≤ 127 := by
  have hlt : fp32.magOf a % 2 ^ 23 < 2 ^ 23 := Nat.mod_lt _ (by decide)
  have hinf : fp32.infBits = 255 * 2 ^ 23 := by decide
  have hemin : fp32.emin = -149 := by decide
  simp only [Fmt.dec, hinf, hemin, show fp32.fb = 23 from rfl, Num.mk'] at h
  split_ifs at h with h1 h2 h3 h4
  all_goals
    obtain ⟨rfl, rfl, rfl⟩ := Num.fin.inj h
  · have hlog := (Nat.log2_lt h4).2 hlt
    omega
  · have hlog : Nat.log2 (2 ^ 23 + fp32.magOf a % 2 ^ 23) < 24 := (Nat.log2_lt (by omega)).2 (by omega)
    omega

/-- A finite number is below an integer when its numerator is below the integer times its denominator. -/
theorem Num.cmp_int_lt (n : Bool) (m : Nat) (e : Int) (n' : Bool) (c : Nat) : (Num.fin n m e).cmp (.fin n' c 0) = .lt ↔
    (if n then -((m * 2 ^ e.toNat : Nat) : Int) else (m * 2 ^ e.toNat : Nat)) <
      (if n' then -((c * 2 ^ (-e).toNat : Nat) : Int) else (c * 2 ^ (-e).toNat : Nat)) := by
  have h1 : (e - min e 0).toNat = e.toNat := by omega
  have h2 : (0 - min e 0).toNat = (-e).toNat := by omega
  simp only [cmp, alignPair, h1, h2]
  exact compare_lt_iff_lt

/-- Whether c times a number is an integer, by its numerator and denominator or by its mantissa. -/
theorem mul_mod_denom_eq_zero_iff (m : Nat) (e : Int) (c : Nat) :
    (0 ≤ e ∨ c * m % 2 ^ (-e).toNat = 0) ↔ c * (m * 2 ^ e.toNat) % 2 ^ (-e).toNat = 0 := by
  rcases le_or_gt 0 e with he | he
  · have hd : (-e).toNat = 0 := by omega
    simp [he, hd, Nat.mod_one]
  · have hM : e.toNat = 0 := by omega
    simp [he.not_ge, hM]

/-- The quarter in which an odd number of quarter turns ends, by its sign and magnitude. -/
theorem quarter_eq_three_iff {m d : Nat} (n : Bool) (hhalf : 2 * m % d ≠ 0) (hquarter : 4 * m % d = 0) :
    decide (4 * (if n then -(m : Int) else m) / (d : Nat) % 4 = 3) = ((4 * m / d % 4 == 3) != n) := by
  obtain ⟨c, hc⟩ := Nat.dvd_of_mod_eq_zero hquarter
  have hd : 0 < d := by
    by_contra h0
    obtain rfl : d = 0 := by omega
    simp at hquarter hhalf
    omega
  have hodd : c % 2 = 1 := by
    by_contra heven
    obtain ⟨b, rfl⟩ : ∃ b, c = 2 * b := ⟨c / 2, by omega⟩
    have h2 : 2 * m = d * b := by
      have : 4 * m = 2 * (d * b) := by rw [hc]; ring
      omega
    exact hhalf (by rw [h2, Nat.mul_mod_right])
  have hnat : 4 * m / d = c := by rw [hc, Nat.mul_div_cancel_left _ hd]
  have hint : 4 * (m : Int) = d * c := by exact_mod_cast hc
  have hd' : (d : Int) ≠ 0 := by omega
  rw [hnat]
  cases n with
  | false =>
    have hq : 4 * (if false = true then -(m : Int) else m) / (d : Nat) = c := by
      rw [if_neg Bool.false_ne_true, hint, Int.mul_ediv_cancel_left _ hd']
    rw [hq, Bool.bne_false, Bool.beq_eq_decide_eq, decide_eq_decide]
    omega
  | true =>
    have hq : 4 * (if true = true then -(m : Int) else m) / (d : Nat) = -c := by
      rw [if_pos rfl, Int.mul_neg, hint, ← Int.mul_neg, Int.mul_ediv_cancel_left _ hd']
    rw [hq, Bool.bne_true, Bool.beq_eq_decide_eq, ← decide_not, decide_eq_decide]
    omega

section
variable {rnd : BitVec 3} {a : Nat} {n : Bool} {m : Nat} {e : Int} (h : fp32.dec a = .fin n m e) (cand : Word)
include h

/-- FRCP of a finite number. -/
theorem specialResult_rcp : specialResult .rcp rnd a cand =
    if Nat.log2 m + e < -128 ∨ (Nat.log2 m + e = -128 ∧ m = 2 ^ Nat.log2 m) then fp32.signed n fp32.infBits
    else if m = 2 ^ Nat.log2 m ∧ Nat.log2 m + e ≤ 126 then fp32.rnd .rne (.fin n 1 (-(Nat.log2 m + e)))
    else if (decide (126 ≤ Nat.log2 m + e) && decide (0x00800000 ≤ cand.toNat % 2 ^ 31)) = true
      then fp32.rnd .rne ((enclRcp m e).withSign n).mid
    else withinBound ((enclRcp m e).withSign n) (enclRcp m e).ulp cand := by
  rw [← Encl.withSign_ulp (enclRcp m e) n]
  simp only [specialResult, h]
  rfl

/-- FRSQ of a finite number. -/
theorem specialResult_rsq : specialResult .rsq rnd a cand =
    if n = true then fp32.nanBits
    else if m = 2 ^ Nat.log2 m ∧ (Nat.log2 m + e) % 2 = 0 then fp32.rnd .rne (.fin false 1 (-((Nat.log2 m + e) / 2)))
    else withinBound (enclRsq m e) (enclRsq m e).ulp cand := by
  simp only [specialResult, h]

/-- FSQRT of a finite number. -/
theorem specialResult_sqrt : specialResult .sqrt rnd a cand =
    if n = true then fp32.nanBits else fp32.rnd (rmode rnd .rne) (sqrtSticky m e) := by
  simp only [specialResult, h]

/-- FLOG2 of a finite number. -/
theorem specialResult_log2 : specialResult .log2 rnd a cand =
    if n = true then fp32.nanBits
    else if m = 2 ^ Nat.log2 m then fp32.rnd .rne (Num.ofInt (Nat.log2 m + e))
    else withinBound (enclLog2 m e) (if Nat.log2 m + e = 0 ∨ Nat.log2 m + e = -1 then 2 ^ 106 else 2 * (enclLog2 m e).ulp) cand := by
  simp only [specialResult, h]

/-- FEXP2 of a finite number. -/
theorem specialResult_exp2 : specialResult .exp2 rnd a cand =
    let M := m * 2 ^ e.toNat
    let d := 2 ^ (-e).toNat
    if n = false ∧ 128 * d ≤ M then fp32.signed false fp32.infBits
    else if n = true ∧ 150 * d < M then 0
    else if M % d = 0 ∧ (n = true → M / d ≤ 149) then fp32.rnd .rne (.fin false 1 (if n then -((M / d : Nat) : Int) else (M / d : Nat)))
    else withinBound (enclExp2 n m e) (2 * (enclExp2 n m e).ulp) cand := by
  extract_lets M d
  have hM : 0 < M := Nat.mul_pos (fp32_dec_fin h).1 (Nat.two_pow_pos _)
  have h128 : (Num.fin n m e).cmp (.fin false 128 0) ≠ .lt ↔ n = false ∧ 128 * d ≤ M := by
    rw [ne_eq, Num.cmp_int_lt, not_lt]
    cases n <;> simp only [if_true, Bool.false_eq_true, Bool.true_eq_false, if_false, true_and, false_and, iff_false] <;> omega
  have h150 : (Num.fin n m e).cmp (.fin true 150 0) = .lt ↔ n = true ∧ 150 * d < M := by
    rw [Num.cmp_int_lt]
    cases n <;> simp only [if_true, Bool.false_eq_true, if_false, true_and, false_and, iff_false] <;> omega
  simp only [specialResult, h, h128, h150]
  rfl

/-- FSINT of a finite number. -/
theorem specialResult_sint : specialResult .sint rnd a cand =
    let M := m * 2 ^ e.toNat
    let d := 2 ^ (-e).toNat
    if 2 * M % d = 0 then 0
    else if 4 * M % d = 0 then fp32.signed ((4 * M / d % 4 == 3) != n) fp32.one
    else withinBound (enclTrig false n m e) (2 ^ 106) cand := by
  extract_lets M d
  simp only [specialResult, h, mul_mod_denom_eq_zero_iff]
  refine if_ctx_congr Iff.rfl (fun _ => rfl) fun hhalf => ?_
  have he : e.toNat = 0 := by
    by_contra hpos
    exact hhalf ((mul_mod_denom_eq_zero_iff m e 2).1 (.inl (by omega)))
  have hM : M = m := by simp [M, he]
  rw [← hM]
  refine if_ctx_congr Iff.rfl (fun hquarter => ?_) fun _ => rfl
  rw [quarter_eq_three_iff n hhalf hquarter]

/-- FCOST of a finite number. -/
theorem specialResult_cost : specialResult .cost rnd a cand =
    let M := m * 2 ^ e.toNat
    let d := 2 ^ (-e).toNat
    if M % d = 0 then fp32.signed false fp32.one
    else if 2 * M % d = 0 then fp32.signed true fp32.one
    else if 4 * M % d = 0 then 0
    else withinBound (enclTrig true n m e) (2 ^ 106) cand := by
  extract_lets M d
  have hwhole : (0 ≤ e ∨ m % 2 ^ (-e).toNat = 0) ↔ M % d = 0 := by simpa using mul_mod_denom_eq_zero_iff m e 1
  simp only [specialResult, h, hwhole]
  refine if_ctx_congr Iff.rfl (fun _ => rfl) fun hne => ?_
  have he : e.toNat = 0 := by
    by_contra hpos
    exact hne (hwhole.1 (.inl (by omega)))
  have hM : M = m := by simp [M, he]
  rw [← hM]

end

/-! ## The results as they are written (R60, R142, R156) -/

/-- What the functions give for an infinity (R156). -/
def infResult (n : Bool) : SpecialFn → Nat
  | .rcp => fp32.signed n 0
  | .rsq => if n then 0x7FC00000 else 0
  | .sqrt => if n then 0x7FC00000 else 0x7F800000
  | .exp2 => if n then 0 else 0x7F800000
  | .log2 => if n then 0x7FC00000 else 0x7F800000
  | .sint => 0x7FC00000
  | .cost => 0x7FC00000

/-- What the functions give for a zero (R156). -/
def zeroResult (n : Bool) : SpecialFn → Nat
  | .rcp => fp32.signed n 0x7F800000
  | .rsq => fp32.signed n 0x7F800000
  | .sqrt => fp32.signed n 0
  | .exp2 => 0x3F800000
  | .log2 => fp32.signed true 0x7F800000
  | .sint => fp32.signed n 0
  | .cost => 0x3F800000

section
variable {rnd : BitVec 3} {a : Nat} (fn : SpecialFn) (cand : Word)

/-- Every function of a NaN is NaN. -/
theorem specialResult_nan (h : fp32.dec a = .nan) : specialResult fn rnd a cand = 0x7FC00000 := by
  cases fn <;> simp only [specialResult, h] <;> rfl

/-- The functions of an infinity. -/
theorem specialResult_inf {n : Bool} (h : fp32.dec a = .inf n) : specialResult fn rnd a cand = infResult n fn := by
  cases fn <;> simp only [specialResult, h] <;> rfl

/-- The functions of a zero. -/
theorem specialResult_zero {n : Bool} (h : fp32.dec a = .zero n) : specialResult fn rnd a cand = zeroResult n fn := by
  cases fn <;> simp only [specialResult, h] <;> rfl

end

/-! ## Powers of two and integers (R156) -/

section
variable {rnd : BitVec 3} {a : Nat} {n : Bool} {j : Nat} {e : Int} (cand : Word)

/-- FRCP of a power of two whose reciprocal is normal is exact. -/
theorem specialResult_rcp_two_pow (h : fp32.dec a = .fin n (2 ^ j) e) (hlo : -127 ≤ j + e) (hhi : j + e ≤ 126) :
    specialResult .rcp rnd a cand = fp32.signed n ((127 - (j + e)).toNat * 2 ^ 23) := by
  have hrnd := fp32_rnd_two_pow .rne n (j := 0) (e := -(j + e)) (by omega) (by omega)
  have hexp : 127 + (((0 : Nat) : Int) + -(j + e)) = 127 - (j + e) := by omega
  rw [pow_zero, hexp] at hrnd
  rw [specialResult_rcp h, Nat.log2_two_pow, if_neg (by omega), if_pos ⟨rfl, hhi⟩, hrnd]

/-- FRSQ of a power of two of an even exponent is exact. -/
theorem specialResult_rsq_two_pow (h : fp32.dec a = .fin false (2 ^ j) e) (heven : (j + e) % 2 = 0) :
    specialResult .rsq rnd a cand = (127 - (j + e) / 2).toNat * 2 ^ 23 := by
  obtain ⟨-, -, he, hhi⟩ := fp32_dec_fin h
  rw [Nat.log2_two_pow] at hhi
  have hrnd := fp32_rnd_two_pow .rne false (j := 0) (e := -((j + e) / 2)) (by omega) (by omega)
  have hexp : 127 + (((0 : Nat) : Int) + -((j + e) / 2)) = 127 - (j + e) / 2 := by omega
  rw [pow_zero, hexp] at hrnd
  rw [specialResult_rsq h, Nat.log2_two_pow, if_neg Bool.false_ne_true, if_pos ⟨rfl, heven⟩, hrnd]
  rfl

/-- FSQRT of a power of two of an even exponent is exact in every mode. -/
theorem specialResult_sqrt_two_pow (h : fp32.dec a = .fin false (2 ^ j) e) (heven : (j + e) % 2 = 0) :
    specialResult .sqrt rnd a cand = (127 + (j + e) / 2).toNat * 2 ^ 23 := by
  obtain ⟨-, -, he, hhi⟩ := fp32_dec_fin h
  rw [Nat.log2_two_pow] at hhi
  obtain ⟨k, b, hsqrt, hkb⟩ := sqrtSticky_two_pow heven
  rw [specialResult_sqrt h, if_neg Bool.false_ne_true, hsqrt, fp32_rnd_two_pow _ _ (by omega) (by omega), hkb]
  rfl

end

section
variable {rnd : BitVec 3} {a : Nat} {n : Bool} {m : Nat} {e : Int} (h : fp32.dec a = .fin n m e) (cand : Word)
include h

/-- FEXP2 of an integer whose power is a number of FP32 is exact. -/
theorem specialResult_exp2_int (hint : m * 2 ^ e.toNat % 2 ^ (-e).toNat = 0)
    (hlo : n = true → m * 2 ^ e.toNat / 2 ^ (-e).toNat ≤ 149) (hhi : n = false → m * 2 ^ e.toNat / 2 ^ (-e).toNat ≤ 127) :
    specialResult .exp2 rnd a cand = fp32.rnd .rne (.fin false 1
      (if n then -((m * 2 ^ e.toNat / 2 ^ (-e).toNat : Nat) : Int) else (m * 2 ^ e.toNat / 2 ^ (-e).toNat : Nat))) := by
  have hd : 0 < 2 ^ (-e).toNat := Nat.two_pow_pos _
  have hinf : ¬ (n = false ∧ 128 * 2 ^ (-e).toNat ≤ m * 2 ^ e.toNat) := fun ⟨hn, hge⟩ =>
    absurd ((Nat.le_div_iff_mul_le hd).2 hge) (by have := hhi hn; omega)
  have hzero : ¬ (n = true ∧ 150 * 2 ^ (-e).toNat < m * 2 ^ e.toNat) := fun ⟨hn, hlt⟩ =>
    absurd ((Nat.le_div_iff_mul_le hd).2 hlt.le) (by have := hlo hn; omega)
  rw [specialResult_exp2 h, if_neg hinf, if_neg hzero, if_pos ⟨hint, hlo⟩]

end

/-! ## The bounds of every other result (R155) -/

/-- Twice an integer number of turns is an integer. -/
theorem two_mul_mod_eq_zero {M d : Nat} (h : M % d = 0) : 2 * M % d = 0 :=
  Nat.mod_eq_zero_of_dvd ((Nat.dvd_of_mod_eq_zero h).mul_left 2)

/-- An integer number of half turns is one of quarter turns. -/
theorem four_mul_mod_eq_zero {M d : Nat} (h : 2 * M % d = 0) : 4 * M % d = 0 := by
  have h4 : 4 * M = 2 * (2 * M) := by ring
  rw [h4]; exact two_mul_mod_eq_zero h

section
variable {rnd : BitVec 3} {a : Nat} {n : Bool} {m : Nat} {e : Int} (h : fp32.dec a = .fin n m e) (cand : Word)
include h

/-- FRCP is within one unit of the last place, whatever the free bits are. -/
theorem near_specialResult_rcp (hk : -128 ≤ Nat.log2 m + e) (hpow : ¬ (m = 2 ^ Nat.log2 m ∧ Nat.log2 m + e ≤ 126)) :
    ((enclRcp m e).withSign n).near (enclRcp m e).ulp (fp32.dec (specialResult .rcp rnd a cand)) = true := by
  obtain ⟨hm, h24, -, -⟩ := fp32_dec_fin h
  have hnear := near_rnd_mid_enclRcp hm h24 hk hpow n
  have hfin : ¬ (Nat.log2 m + e < -128 ∨ (Nat.log2 m + e = -128 ∧ m = 2 ^ Nat.log2 m)) := by
    rintro (hlt | ⟨heq, hp⟩)
    · omega
    · exact hpow ⟨hp, by omega⟩
  rw [specialResult_rcp h, if_neg hfin, if_neg hpow]
  split_ifs
  · exact hnear
  · exact near_withinBound hnear cand

/-- FRSQ is within one unit of the last place, whatever the free bits are. -/
theorem near_specialResult_rsq (hn : n = false) (hpow : ¬ (m = 2 ^ Nat.log2 m ∧ (Nat.log2 m + e) % 2 = 0)) :
    (enclRsq m e).near (enclRsq m e).ulp (fp32.dec (specialResult .rsq rnd a cand)) = true := by
  obtain ⟨hm, -, he, -⟩ := fp32_dec_fin h
  rw [specialResult_rsq h, if_neg (by simp [hn]), if_neg hpow]
  exact near_withinBound (near_rnd_mid_enclRsq hm he) cand

/-- FEXP2 is within two units of the last place, whatever the free bits are. -/
theorem near_specialResult_exp2 (hfrac : m * 2 ^ e.toNat % 2 ^ (-e).toNat ≠ 0)
    (hhi : n = false → m * 2 ^ e.toNat < 128 * 2 ^ (-e).toNat) (hlo : n = true → m * 2 ^ e.toNat ≤ 150 * 2 ^ (-e).toNat) :
    (enclExp2 n m e).near (2 * (enclExp2 n m e).ulp) (fp32.dec (specialResult .exp2 rnd a cand)) = true := by
  rw [specialResult_exp2 h, if_neg fun hinf => (hhi hinf.1).not_ge hinf.2, if_neg fun hzero => (hlo hzero.1).not_gt hzero.2,
    if_neg fun hint => hfrac hint.1]
  exact near_withinBound (near_rnd_mid_enclExp2 (fp32_dec_fin h).2.1 hhi) cand

/-- FLOG2 is within 2^−22 or two units of the last place, whatever the free bits are. -/
theorem near_specialResult_log2 (hn : n = false) (hpow : m ≠ 2 ^ Nat.log2 m) :
    (enclLog2 m e).near (if Nat.log2 m + e = 0 ∨ Nat.log2 m + e = -1 then 2 ^ 106 else 2 * (enclLog2 m e).ulp)
      (fp32.dec (specialResult .log2 rnd a cand)) = true := by
  subst hn
  obtain ⟨-, -, he, hhi⟩ := fp32_dec_fin h
  rw [specialResult_log2 h, if_neg Bool.false_ne_true, if_neg hpow]
  split_ifs with hk
  · exact near_withinBound (near_rnd_mid_enclLog2_narrow hk) cand
  · exact near_withinBound (near_rnd_mid_enclLog2 hk (by omega) hhi) cand

/-- FSINT is within 2^−22, whatever the free bits are. -/
theorem near_specialResult_sint (hquarter : 4 * (m * 2 ^ e.toNat) % 2 ^ (-e).toNat ≠ 0) :
    (enclTrig false n m e).near (2 ^ 106) (fp32.dec (specialResult .sint rnd a cand)) = true := by
  have hhalf : 2 * (m * 2 ^ e.toNat) % 2 ^ (-e).toNat ≠ 0 := fun h2 => hquarter (four_mul_mod_eq_zero h2)
  rw [specialResult_sint h, if_neg hhalf, if_neg hquarter]
  exact near_withinBound (near_rnd_mid_enclTrig ..) cand

/-- FCOST is within 2^−22, whatever the free bits are. -/
theorem near_specialResult_cost (hquarter : 4 * (m * 2 ^ e.toNat) % 2 ^ (-e).toNat ≠ 0) :
    (enclTrig true n m e).near (2 ^ 106) (fp32.dec (specialResult .cost rnd a cand)) = true := by
  have hhalf : 2 * (m * 2 ^ e.toNat) % 2 ^ (-e).toNat ≠ 0 := fun h2 => hquarter (four_mul_mod_eq_zero h2)
  have hwhole : m * 2 ^ e.toNat % 2 ^ (-e).toNat ≠ 0 := fun h1 => hquarter (four_mul_mod_eq_zero (two_mul_mod_eq_zero h1))
  rw [specialResult_cost h, if_neg hwhole, if_neg hhalf, if_neg hquarter]
  exact near_withinBound (near_rnd_mid_enclTrig ..) cand

end

section
variable {f : SpecialFn} {md : FMod} {x : Word}

/-- A result that does not depend on the free bits is flushed, clamped and written. -/
theorem specialFn_eq {y : Nat} (h : ∀ cand, specialResult f md.rnd (fp32.ftz md.ftz x.toNat) cand = y) :
    specialFn f md x = BitVec.ofNat 32 (fp32.clamp md.sat (fp32.ftz md.ftz y)) :=
  congrArg (fun y => BitVec.ofNat 32 (fp32.clamp md.sat (fp32.ftz md.ftz y))) (h _)

/-- A result that is within a bound whatever the free bits are is flushed, clamped and written. -/
theorem specialFn_near {X : Encl} {tol : Int}
    (h : ∀ cand, X.near tol (fp32.dec (specialResult f md.rnd (fp32.ftz md.ftz x.toNat) cand)) = true) :
    ∃ y, specialFn f md x = BitVec.ofNat 32 (fp32.clamp md.sat (fp32.ftz md.ftz y)) ∧ X.near tol (fp32.dec y) = true :=
  ⟨_, rfl, h _⟩

end

/-- A result is written at once without a window or before the last iteration of a REP, and is left incomplete otherwise. -/
theorem late_window (i : Machine.Issue) (la : BitVec 4) (t : Thread) (d : Nat) (x : Word) :
    t.late (i.window la) [(d, x)] [] =
      if la = 0 ∨ (match i.rep with | some r => decide (r.cnt.toNat ≤ i.iter) | none => true) = false then t.putV d x
      else { t with pend := t.pend ++ [{ left := la.toNat, known := true, regs := [(d, x)], preds := [] }] } := by
  have hla : la.toNat = 0 ↔ la = 0 := by bv_omega
  cases hrep : i.rep with
  | none =>
    have hwindow : i.window la = la.toNat := by simp only [Issue.window, hrep]
    rw [hwindow, Thread.late]
    refine if_congr ?_ rfl rfl
    rw [hla]; simp
  | some r =>
    by_cases hlast : i.iter < r.cnt.toNat
    · have hwindow : i.window la = 0 := by simp only [Issue.window, hrep, if_pos hlast]
      rw [hwindow, Thread.late, if_pos rfl, if_pos (.inr (decide_eq_false hlast.not_ge))]
      rfl
    · have hwindow : i.window la = la.toNat := by simp only [Issue.window, hrep, if_neg hlast]
      rw [hwindow, Thread.late]
      refine if_congr ?_ rfl rfl
      rw [hla]; simp [not_lt.1 hlast]

end Sys2Proof.Machine

open Sys2Proof Sys2Proof.Machine

/-- Settles O8: the special values are read off the results for each kind of operand, the value nearest to the middle of an enclosure is
always within the bound, so that a result is whatever the free bits are, and the ends of an enclosure are quotients and roots rounded
down and up. -/
theorem specialFunctions : Obligations.SpecialFunctions := by
  refine ⟨fun s g la d a => ?forms, fun md x => ?values, fun m e hm => ?enclosures⟩
  case forms =>
    intro late
    have hform {i : Instr} (f : SpecialFn) (hexec : exec i s = .next (s.special g la d a f)) : LaneForm i s (late f) :=
      laneForm_of_laneOp hexec fun l => late_window ..
    exact ⟨hform _ rfl, hform _ rfl, hform _ rfl, hform _ rfl, hform _ rfl, hform _ rfl, hform _ rfl⟩
  case enclosures =>
    have hpos : 0 < evenMantissa m e := by rw [evenMantissa]; split_ifs <;> omega
    obtain ⟨hrcp, hrcp'⟩ := rcpMantissa_mul_le hm
    obtain ⟨hrsq, hrsq'⟩ := rsqMantissa_sq_mul_le hpos
    have hm' : (if e % 2 = 0 then (m : Int) else 2 * m) = evenMantissa m e := by rw [evenMantissa]; split_ifs <;> simp
    simp only [hm', enclRcp_eq, enclRsq_eq, unitEncl, Int.toNat_natCast]
    exact ⟨trivial, by exact_mod_cast hrcp, by exact_mod_cast hrcp', trivial, by exact_mod_cast hrsq, by exact_mod_cast hrsq'⟩
  case values =>
    intro v gives nan inf one minus near
    have hminus : ∀ n y, minus n y = fp32.signed n y := fun n y => by cases n <;> rfl
    refine ⟨fun hv f => specialFn_eq fun cand => specialResult_nan f cand hv, fun n hv => ?inf, fun n hv => ?zero, fun m e hv => ?negative,
      fun m e hv => ?root, fun n j e hv => ?powers, fun n m e hv => ?finite⟩
    case inf =>
      have hgives (f : SpecialFn) : gives f (infResult n f) := specialFn_eq fun cand => specialResult_inf f cand hv
      exact ⟨hminus n 0 ▸ hgives .rcp, hgives .rsq, hgives .sqrt, hgives .exp2, hgives .log2, hgives .sint, hgives .cost⟩
    case zero =>
      have hgives (f : SpecialFn) : gives f (zeroResult n f) := specialFn_eq fun cand => specialResult_zero f cand hv
      exact ⟨hminus n inf ▸ hgives .rcp, hminus n inf ▸ hgives .rsq, hminus n 0 ▸ hgives .sqrt, hgives .exp2, hgives .log2,
        hminus n 0 ▸ hgives .sint, hgives .cost⟩
    case negative =>
      exact ⟨specialFn_eq fun cand => (specialResult_rsq hv cand).trans (if_pos rfl),
        specialFn_eq fun cand => (specialResult_sqrt hv cand).trans (if_pos rfl),
        specialFn_eq fun cand => (specialResult_log2 hv cand).trans (if_pos rfl)⟩
    case root => exact specialFn_eq fun cand => (specialResult_sqrt hv cand).trans (if_neg Bool.false_ne_true)
    case powers =>
      refine ⟨fun hlo hhi => hminus n _ ▸ specialFn_eq fun cand => specialResult_rcp_two_pow cand hv hlo hhi,
        fun hn heven => ?even, fun hn => ?log⟩
      case even =>
        subst hn
        exact ⟨specialFn_eq fun cand => specialResult_rsq_two_pow cand hv heven,
          specialFn_eq fun cand => specialResult_sqrt_two_pow cand hv heven⟩
      case log =>
        subst hn
        exact specialFn_eq fun cand => (specialResult_log2 hv cand).trans <| by
          rw [Nat.log2_two_pow, if_neg Bool.false_ne_true, if_pos rfl]
    case finite =>
      intro d M k pow
      have hone : ∀ n, fp32.signed n fp32.one = minus n one := fun n => by cases n <;> rfl
      refine ⟨fun hint => ⟨fun hn hle => ?expNeg, fun hn hle => ?expPos⟩, fun hn hge => ?expInf, fun hn hlt => ?expZero,
        fun hint => ⟨?sintInt, ?costInt⟩, fun hne hhalf => ⟨?sintHalf, ?costHalf⟩, fun hne hquarter => ⟨?sintQuarter, ?costQuarter⟩,
        fun hk => ?rcpInf, fun hk hpow => ?rcp, fun hn hpow => ?rsq, fun hne hlt hle => ?exp, fun hn hpow => ?log,
        fun hne => ⟨specialFn_near fun cand => near_specialResult_sint hv cand hne,
          specialFn_near fun cand => near_specialResult_cost hv cand hne⟩⟩
      case expNeg =>
        subst hn
        exact specialFn_eq fun cand => specialResult_exp2_int hv cand hint (fun _ => hle) nofun
      case expPos =>
        subst hn
        exact specialFn_eq fun cand => specialResult_exp2_int hv cand hint nofun fun _ => hle
      case expInf => exact specialFn_eq fun cand => (specialResult_exp2 hv cand).trans (if_pos ⟨hn, hge⟩)
      case expZero =>
        exact specialFn_eq fun cand => (specialResult_exp2 hv cand).trans ((if_neg fun hinf => by simp [hn] at hinf).trans (if_pos ⟨hn, hlt⟩))
      case sintInt => exact specialFn_eq fun cand => (specialResult_sint hv cand).trans (if_pos (two_mul_mod_eq_zero hint))
      case costInt => exact specialFn_eq fun cand => (specialResult_cost hv cand).trans (if_pos hint)
      case sintHalf => exact specialFn_eq fun cand => (specialResult_sint hv cand).trans (if_pos hhalf)
      case costHalf =>
        exact hone true ▸ specialFn_eq fun cand => (specialResult_cost hv cand).trans ((if_neg hne).trans (if_pos hhalf))
      case sintQuarter =>
        exact hone _ ▸ specialFn_eq fun cand => (specialResult_sint hv cand).trans ((if_neg hne).trans (if_pos hquarter))
      case costQuarter =>
        exact specialFn_eq fun cand => (specialResult_cost hv cand).trans
          ((if_neg fun hint => hne (two_mul_mod_eq_zero hint)).trans ((if_neg hne).trans (if_pos hquarter)))
      case rcpInf => exact hminus n inf ▸ specialFn_eq fun cand => (specialResult_rcp hv cand).trans (if_pos hk)
      case rcp => exact specialFn_near fun cand => near_specialResult_rcp hv cand hk hpow
      case rsq => exact specialFn_near fun cand => near_specialResult_rsq hv cand hn hpow
      case exp => exact specialFn_near fun cand => near_specialResult_exp2 hv cand hne hlt hle
      case log => exact specialFn_near fun cand => near_specialResult_log2 hv cand hn hpow

end

section
/-! O39. Admission (R200, R211, R212) and placement (R197 to R199). Of the eligible heads the CP takes the one whose priority
is above all others; and a step of placement only adds blocks and groups behind those that stand, which is said once and then of a stage
set, a position and a grid. -/

namespace Sys2Proof.Machine

/-! ## The head that is served first (R212) -/

/-- A list without repetitions holds a value that it contains once. -/
theorem filter_beq_of_nodup {l : List Nat} (hl : l.Nodup) {a : Nat} (ha : a ∈ l) : l.filter (· == a) = [a] := by
  rw [List.filter_beq, List.count_eq_one_of_mem hl ha, List.replicate_one]

/-- Of the numbers below a bound one is equal to a number below it. -/
theorem indices_beq {n a : Nat} (ha : a < n) : indices n (fun i => a == i) = [a] := by
  have hsymm : (fun i => a == i) = (· == a) := funext fun i => Bool.beq_comm
  rw [indices, hsymm]
  exact filter_beq_of_nodup List.nodup_range (List.mem_range.2 ha)

/-- The only entry is the next after any number. -/
theorem nextAfter_singleton (a x : Nat) : nextAfter [a] x = some a := by
  by_cases h : x < a <;> simp [nextAfter, h]

/-- The greatest of some numbers is the value that is reached and not exceeded. -/
theorem foldl_max_eq {l : List Nat} {f : Nat → Nat} {m n : Nat} (hm : m ≤ n) (hle : ∀ i ∈ l, f i ≤ n) (hn : m = n ∨ ∃ i ∈ l, f i = n) :
    l.foldl (fun m i => max m (f i)) m = n := by
  induction l generalizing m with
  | nil => simpa using hn
  | cons i l ih =>
    have hi : f i ≤ n := hle i (by simp)
    refine ih (max_le hm hi) (fun j hj => hle j (by simp [hj])) ?_
    rcases hn with rfl | ⟨j, hj, hfj⟩
    · exact .inl (max_eq_left hi)
    · rcases List.mem_cons.1 hj with rfl | hj
      · exact .inl (hfj ▸ max_eq_right (hfj ▸ hm))
      · exact .inr ⟨j, hj, hfj⟩

/-- A head of a priority above those of the others, all of one partition, is served first (R212). -/
theorem State.serveFirst_of_top {s : State} {hub : Hub} {hs : List Nat} {j : Nat} {k : Kernel} (hnd : hs.Nodup) (hj : j ∈ hs)
    (hk : s.kernels[j]? = some k) (hpart : (s.ctx k.ctx).part < 24) (hctx : k.ctx < 4096) (hq : k.queue < 16)
    (hothers : ∀ i ∈ hs, i ≠ j → ∃ x, s.kernels[i]? = some x ∧ (s.ctx x.ctx).part = (s.ctx k.ctx).part ∧ s.prioOf x < s.prioOf k) :
    ∃ hub', s.serveFirst hub hs = some (j, hub') ∧
      { hub' with rrPart := hub.rrPart, rrCtx := hub.rrCtx, rrQueue := hub.rrQueue } = hub := by
  let prio (i : Nat) : Nat := ((s.kernels[i]?).map s.prioOf).getD 0
  let part (i : Nat) : Nat := (s.ctx (((s.kernels[i]?).map fun k => (k.ctx, k.queue)).getD (0, 0)).1).part
  have hpartj : part j = (s.ctx k.ctx).part := by simp [part, hk]
  have hparts : ∀ i ∈ hs, part i = (s.ctx k.ctx).part := fun i hi => by
    by_cases h : i = j
    · rw [h, hpartj]
    · obtain ⟨x, hx, hp, -⟩ := hothers i hi h
      simp [part, hx, hp]
  have hprio : ∀ i ∈ hs, i ≠ j → prio i < prio j := fun i hi h => by
    obtain ⟨x, hx, -, hp⟩ := hothers i hi h
    simpa [prio, hx, hk] using hp
  have hone : (indices 24 fun p => hs.any fun i => part i == p) = [(s.ctx k.ctx).part] := by
    rw [← indices_beq hpart]
    refine congrArg (indices 24) (funext fun p => Bool.eq_iff_iff.2 ?_)
    simp only [List.any_eq_true, beq_iff_eq]
    exact ⟨fun ⟨i, hi, h⟩ => hparts i hi ▸ h, fun h => ⟨j, hj, hpartj.trans h⟩⟩
  have htop : hs.foldl (fun m i => max m (prio i)) 0 = prio j := by
    refine foldl_max_eq (Nat.zero_le _) (fun i hi => ?_) (.inr ⟨j, hj, rfl⟩)
    by_cases h : i = j
    · rw [h]
    · exact (hprio i hi h).le
  have hall : (hs.filter fun i => part i == (s.ctx k.ctx).part) = hs := List.filter_eq_self.2 fun i hi => by simpa using hparts i hi
  have hjust : (hs.filter fun i => prio i == prio j) = [j] := by
    rw [← filter_beq_of_nodup hnd hj]
    refine List.filter_congr fun i hi => ?_
    by_cases h : i = j
    · simp [h]
    · simp [h, (hprio i hi h).ne]
  have hturn (last : Nat) (b : Bool) : (if ([k.ctx].contains last && b) = true then some last else some k.ctx) = some k.ctx := by
    by_cases h : last = k.ctx <;> simp [h]
  have hctxs : (indices 4096 fun c => [j].any fun i => (((s.kernels[i]?).map fun k => (k.ctx, k.queue)).getD (0, 0)).1 == c) = [k.ctx] := by
    simp [hk, indices_beq hctx]
  simp only [part, prio] at hone htop hall hjust
  unfold State.serveFirst
  simp only [hone, hall, htop, hjust, hctxs, hturn, nextAfter_singleton, Option.bind_some]
  simp [hk, indices_beq hq, nextAfter_singleton]

/-! ## Admission (R200, R201, R211) -/

/-- The heads that may be admitted are distinct. -/
theorem State.eligibleHeads_nodup (s : State) : s.eligibleHeads.Nodup := List.nodup_range.filter _

/-- A head that may be admitted is QUEUED (R211). -/
theorem State.kst_of_mem_eligibleHeads {s : State} {i : Nat} {k : Kernel} (hi : i ∈ s.eligibleHeads) (hk : s.kernels[i]? = some k) :
    k.kst = .queued := by
  have h := (List.mem_filter.1 hi).2
  simp only [hk, Bool.and_eq_true, beq_iff_eq] at h
  exact h.1.1.1.1.1

/-- A head that may be admitted has the priority of its queue (R206). -/
theorem State.prioOf_of_mem_eligibleHeads {s : State} {i : Nat} {k : Kernel} (hi : i ∈ s.eligibleHeads) (hk : s.kernels[i]? = some k) :
    s.prioOf k = (s.queue k.ctx k.queue).prio := if_pos (s.kst_of_mem_eligibleHeads hi hk)

/-- A kernel as the checks of its admission leave it: DISPATCHING with its positions unbound, or REJECTED with a code (R200, R201). -/
def Kernel.checked (k : Kernel) (prio code : Nat) : Kernel :=
  if code = 0 then
    { k with prio := prio, kst := .dispatching, positions := List.replicate (k.ndie * k.nclu) { bound := none, next := 0, since := none, freed := false } }
  else { k with prio := prio, kst := .rejected, code := code }

/-- A kernel that is checked is DISPATCHING or REJECTED. -/
theorem Kernel.checked_kst (k : Kernel) (prio code : Nat) : (k.checked prio code).kst = .dispatching ∨ (k.checked prio code).kst = .rejected := by
  unfold checked
  split
  · exact .inl rfl
  · exact .inr rfl

/-- Without a head that may be admitted KERNEL_ADMIT does nothing. -/
theorem exec_kernelAdmit_of_no_head {s : State} (h : s.eligibleHeads = []) : exec .kernelAdmit s = .next s := by
  have hnone : s.chooseHead = none := by simp [State.chooseHead, h, State.serveFirst, indices, nextAfter]
  change execKernelAdmit s = _
  simp [execKernelAdmit, hnone]

/-- KERNEL_ADMIT checks the head that is served first, where it has no completion record (R200, R212). -/
theorem exec_kernelAdmit_of_choice {s : State} {hub : Hub} {kid : Nat} {k : Kernel} (hc : s.chooseHead = some (kid, hub))
    (hk : s.kernels[kid]? = some k) (hcva : k.cva = 0) :
    exec .kernelAdmit s =
      .next { s with hub := hub, kernels := s.kernels.set kid (k.checked (s.prioOf k) (s.admissionCode k true)) } := by
  have hok (s : State) : s.cvaOk k = (s, true) := if_pos hcva
  change execKernelAdmit s = _
  simp only [execKernelAdmit, hc, hk, hok, ite_self]
  refine congrArg (fun l => Host.Outcome.next { s with hub := hub, kernels := l }) ?_
  rw [List.modify_eq_set_getElem?, hk]
  rfl

/-- The only head is the one that is served. -/
theorem State.chooseHead_of_one {s : State} {kid : Nat} {k : Kernel} (hheads : s.eligibleHeads = [kid]) (hk : s.kernels[kid]? = some k)
    (hpart : (s.ctx k.ctx).part < 24) (hctx : k.ctx < 4096) (hq : k.queue < 16) : ∃ hub, s.chooseHead = some (kid, hub) ∧
      { hub with rrPart := s.hub.rrPart, rrCtx := s.hub.rrCtx, rrQueue := s.hub.rrQueue } = s.hub :=
  serveFirst_of_top s.eligibleHeads_nodup (by simp [hheads]) hk hpart hctx hq fun i hi hne => by simp [hheads, hne] at hi

/-- Of two heads of a partition the one of the higher priority is served (R212). -/
theorem State.chooseHead_of_two {s : State} {i j : Nat} {k k' : Kernel} (hheads : s.eligibleHeads = [i, j] ∨ s.eligibleHeads = [j, i])
    (hk : s.kernels[i]? = some k) (hk' : s.kernels[j]? = some k') (hsame : (s.ctx k.ctx).part = (s.ctx k'.ctx).part)
    (hpart : (s.ctx k.ctx).part < 24) (hctx : k'.ctx < 4096) (hq : k'.queue < 16)
    (hprio : (s.queue k.ctx k.queue).prio < (s.queue k'.ctx k'.queue).prio) : ∃ hub, s.chooseHead = some (j, hub) := by
  have hmem (a : Nat) : a ∈ s.eligibleHeads ↔ a = i ∨ a = j := by
    rcases hheads with h | h <;> simp [h, or_comm]
  rw [← prioOf_of_mem_eligibleHeads ((hmem i).2 (.inl rfl)) hk, ← prioOf_of_mem_eligibleHeads ((hmem j).2 (.inr rfl)) hk'] at hprio
  obtain ⟨hub, hchoice, -⟩ := serveFirst_of_top (hub := s.hub) s.eligibleHeads_nodup ((hmem j).2 (.inr rfl)) hk' (hsame ▸ hpart) hctx hq
    fun a ha hne => ⟨k, (((hmem a).1 ha).resolve_right hne) ▸ hk, hsame, hprio⟩
  exact ⟨hub, hchoice⟩

/-! ## What a step of placement adds -/

/-- An access leaves every block. -/
theorem Touches.blocks {s t : State} (h : Touches s t) : t.blocks = s.blocks := (congrArg State.blocks h.rest :)

/-- An access leaves every kernel. -/
theorem Touches.kernels {s t : State} (h : Touches s t) : t.kernels = s.kernels := (congrArg State.kernels h.rest :)

/-- An access changes the state of no context. -/
theorem Touches.ctx_st {s t : State} (h : Touches s t) (c : Nat) : (t.ctx c).st = (s.ctx c).st := (congrArg Ctx.st (h.ctx c) :)

/-- From s to t some blocks and groups are added behind those that stand; of a kernel only the positions change, and no context
changes its state. -/
structure State.Grows (kid blocks groups : Nat) (s t : State) : Prop where
  ctx : ∀ c, (t.ctx c).st = (s.ctx c).st
  kernel : ∀ k, s.kernels[kid]? = some k → ∃ ps, t.kernels[kid]? = some { k with positions := ps }
  stands : s.blocks <+: t.blocks
  blocks : t.blocks.length = s.blocks.length + blocks
  groups : t.groups.length = s.groups.length + groups

namespace State.Grows

variable {kid a b a' b' : Nat} {s t u : State}

theorem refl (s : State) : Grows kid 0 0 s s := ⟨fun _ => rfl, fun k hk => ⟨k.positions, hk⟩, List.prefix_rfl, rfl, rfl⟩

theorem trans (h : Grows kid a b s t) (h' : Grows kid a' b' t u) : Grows kid (a + a') (b + b') s u where
  ctx c := (h'.ctx c).trans (h.ctx c)
  kernel k hk := by
    obtain ⟨ps, hps⟩ := h.kernel k hk
    obtain ⟨ps', hps'⟩ := h'.kernel _ hps
    exact ⟨ps', hps'⟩
  stands := h.stands.trans h'.stands
  blocks := by rw [h'.blocks, h.blocks, Nat.add_assoc]
  groups := by rw [h'.groups, h.groups, Nat.add_assoc]

/-- A block that stood stands. -/
theorem getElem? (h : Grows kid a b s t) {i : Nat} (hi : i < s.blocks.length) : t.blocks[i]? = s.blocks[i]? := by
  obtain ⟨l, hl⟩ := h.stands
  rw [← hl, List.getElem?_append_left hi]

/-- What an access touches adds nothing. -/
theorem of_touches (h : Touches s t) : Grows kid 0 0 s t where
  ctx := h.ctx_st
  kernel k hk := ⟨k.positions, by rw [h.kernels, hk]⟩
  stands := by rw [h.blocks]
  blocks := by rw [h.blocks, Nat.add_zero]
  groups := by simpa using congrArg List.length h.groups

/-- A change of positions adds nothing. -/
theorem modPos (s : State) (i pos : Nat) (f : Pos → Pos) : Grows kid 0 0 s (s.modPos i pos f) where
  ctx _ := rfl
  kernel k hk := by
    by_cases h : i = kid
    · exact ⟨k.positions.modify pos f, by simp [State.modPos, h, hk]⟩
    · exact ⟨k.positions, by simp [State.modPos, h, hk]⟩
  stands := List.prefix_rfl
  blocks := rfl
  groups := rfl

/-- Streams that are added or changed add nothing. -/
theorem streams (s : State) (l : List Stream) : Grows kid 0 0 s { s with streams := l } :=
  ⟨fun _ => rfl, fun k hk => ⟨k.positions, hk⟩, List.prefix_rfl, rfl, rfl⟩

/-- Steps that add nothing, one after another. -/
theorem foldl {α : Type} (l : List α) (f : State → α → State) (hf : ∀ s x, Grows kid 0 0 s (f s x)) (s : State) :
    Grows kid 0 0 s (l.foldl f s) := by
  induction l generalizing s with
  | nil => exact refl s
  | cons x l ih => exact (hf s x).trans (ih _)

/-- Steps that each add the same for a kernel, all of which can be made. -/
theorem foldl_bind {α : Type} {l : List α} {f : State → α → Option State} {k : Kernel} (hk : s.kernels[kid]? = some k)
    (hf : ∀ s t x ps, s.kernels[kid]? = some { k with positions := ps } → f s x = some t → Grows kid a b s t)
    (h : l.foldl (fun o x => o.bind fun s => f s x) (some s) = some t) : Grows kid (l.length * a) (l.length * b) s t := by
  induction l using List.reverseRecOn generalizing t with
  | nil =>
    obtain rfl := Option.some.inj h
    simpa using refl s
  | append_singleton l x ih =>
    rw [List.foldl_append] at h
    obtain ⟨u, hu, ht⟩ := Option.bind_eq_some_iff.1 h
    have hs := ih hu
    obtain ⟨ps, hps⟩ := hs.kernel k hk
    simpa [Nat.succ_mul] using hs.trans (hf _ _ _ _ hps ht)

end State.Grows

/-! ## A block, a stage set and a position placed (R197, R198) -/

/-- A die that joins an address space loses its translations alone (R361). -/
theorem Touches.joinDie (s : State) (ctx die : Nat) : Touches s (s.joinDie ctx die) :=
  ite (refl s) (caches s s.mem s.l1 s.l2 _ s.poison s.owns s.free id)

/-- A position that is bound brings no block (R197). -/
theorem State.Grows.bindPos {kid : Nat} (s : State) (i pos die clu : Nat) : Grows kid 0 0 s (s.bindPos i pos die clu) := by
  have hpos : Grows kid 0 0 s (s.modPos i pos fun p => { p with bound := some (die, clu) }) := modPos ..
  unfold State.bindPos
  extract_lets t
  split
  · split_ifs
    · exact hpos
    · exact (hpos.trans (of_touches (Touches.joinDie ..))).trans
        (foldl _ _ (fun u _ => (streams u _).trans (of_touches (Touches.acquire ..))) _)
    · exact ((hpos.trans (of_touches (Touches.joinDie ..))).trans (streams _ _)).trans (of_touches (Touches.acquire ..))
  · exact hpos

/-- A block as it is placed, with the image of a ROLLBACK launch that is being written (R281, R300, R321, R467). -/
def Kernel.placed (k : Kernel) (kid coord stage pos die clu core : Nat) (im : Option Snapshot) : Block :=
  { k.entryBlock kid coord stage pos die clu core with snapWriting := im }

/-- A block with its groups behind those that stand. -/
def State.addBlock (s : State) (b : Block) (gs : List Group) : State := { s with blocks := s.blocks ++ [b], groups := s.groups ++ gs }

/-- A snapshot that begins for an added block changes it alone. -/
theorem State.takeSnapshot_addBlock (s : State) (k : Kernel) (kid coord stage pos die clu core : Nat) (gs : List Group) :
    ∃ im, (s.addBlock (k.entryBlock kid coord stage pos die clu core) gs).takeSnapshot s.blocks.length =
      s.addBlock (k.placed kid coord stage pos die clu core im) gs := by
  unfold State.takeSnapshot
  split
  · refine ⟨(s.addBlock (k.entryBlock kid coord stage pos die clu core) gs).image s.blocks.length,
      congrArg (fun l => { s with blocks := l, groups := s.groups ++ gs }) ?_⟩
    simp [addBlock, List.modify_eq_set_getElem?, Kernel.placed, Kernel.entryBlock]
  · exact ⟨none, rfl⟩

/-- An added block is one more, with its groups. -/
theorem State.Grows.addBlock {kid : Nat} (s : State) (b : Block) (gs : List Group) : Grows kid 1 gs.length s (s.addBlock b gs) :=
  ⟨fun _ => rfl, fun k hk => ⟨k.positions, hk⟩, List.prefix_append .., List.length_append, List.length_append⟩

/-- A block that finds room is added with its groups, before an acquire (R198, R249). -/
theorem State.placeBlock_eq {s t : State} {kid pos coord stage die clu : Nat} {k : Kernel} (hk : s.kernels[kid]? = some k)
    (h : s.placeBlock kid pos coord stage die clu = some t) : ∃ core gs a, gs.length = k.ngrp ∧
      t = (((s.joinDie k.ctx die).addBlock (k.entryBlock kid coord stage pos die clu core) gs).takeSnapshot s.blocks.length).acquire a 3 := by
  rw [State.placeBlock, hk, Option.bind_some] at h
  obtain ⟨core, -, hcore⟩ := List.exists_of_findSome?_eq_some h
  obtain ⟨slots, -, rfl⟩ := Option.map_eq_some_iff.1 hcore
  exact ⟨core, _, _, by simp, rfl⟩

/-- A block that finds room is the next of all blocks (R198). -/
theorem State.placeBlock_spec {s t : State} {kid pos coord stage die clu : Nat} {k : Kernel} (hk : s.kernels[kid]? = some k)
    (h : s.placeBlock kid pos coord stage die clu = some t) : s.Grows kid 1 k.ngrp t ∧
      ∃ core im, t.blocks[s.blocks.length]? = some (k.placed kid coord stage pos die clu core im) := by
  obtain ⟨core, gs, a, hgs, rfl⟩ := placeBlock_eq hk h
  have hjoin : Touches s (s.joinDie k.ctx die) := .joinDie ..
  obtain ⟨im, him⟩ := (s.joinDie k.ctx die).takeSnapshot_addBlock k kid coord stage pos die clu core gs
  rw [← hjoin.blocks, him]
  refine ⟨?_, core, im, ?_⟩
  · have hadd := Grows.addBlock (kid := kid) (s.joinDie k.ctx die) (k.placed kid coord stage pos die clu core im) gs
    simpa [hgs] using ((Grows.of_touches hjoin).trans hadd).trans (.of_touches (.acquire ..))
  · rw [(Touches.acquire ..).blocks]
    simp [addBlock]

/-- The stages of a set placed one after another: block st of the set is that of stage st (R198). -/
theorem State.placeStages_spec {s t : State} {kid pos coord die clu : Nat} {k : Kernel} (hk : s.kernels[kid]? = some k) {n : Nat}
    (h : (List.range n).foldl (fun o st => o.bind fun s => s.placeBlock kid pos coord st die clu) (some s) = some t) :
    s.Grows kid n (n * k.ngrp) t ∧
      ∀ st < n, ∃ core im, t.blocks[s.blocks.length + st]? = some (k.placed kid coord st pos die clu core im) := by
  induction n generalizing t with
  | zero =>
    obtain rfl := Option.some.inj h
    exact ⟨by simpa using Grows.refl s, fun st hst => absurd hst st.not_lt_zero⟩
  | succ n ih =>
    rw [List.range_succ, List.foldl_append] at h
    obtain ⟨u, hu, ht⟩ := Option.bind_eq_some_iff.1 h
    obtain ⟨hsu, hblocks⟩ := ih hu
    obtain ⟨ps, hps⟩ := hsu.kernel k hk
    obtain ⟨hut, core, im, hlast⟩ := placeBlock_spec hps ht
    have hut : u.Grows kid 1 k.ngrp t := hut
    refine ⟨by simpa [Nat.succ_mul] using hsu.trans hut, fun st hst => ?_⟩
    rcases Nat.lt_succ_iff_lt_or_eq.1 hst with hlt | rfl
    · rw [hut.getElem? (by rw [hsu.blocks]; omega)]
      exact hblocks st hlt
    · exact ⟨core, im, hsu.blocks ▸ hlast⟩

/-- A stage set that finds room (R198). -/
theorem State.placeSet_spec {s t : State} {kid pos coord die clu : Nat} {k : Kernel} (hk : s.kernels[kid]? = some k)
    (h : s.placeSet kid pos coord die clu = some t) : s.Grows kid k.nstage (k.nstage * k.ngrp) t ∧
      ∀ st < k.nstage, ∃ core im, t.blocks[s.blocks.length + st]? = some (k.placed kid coord st pos die clu core im) := by
  rw [State.placeSet, hk, Option.bind_some] at h
  split at h
  · cases h
  · exact placeStages_spec hk h

/-- A position whose next set finds room (R197, R198): its set is that of its next coordinate, in one cluster. -/
theorem State.tryPlace_spec {s t : State} {kid pos : Nat} {k : Kernel} (hk : s.kernels[kid]? = some k) (h : s.tryPlace kid pos = some t) :
    s.Grows kid k.nstage (k.nstage * k.ngrp) t ∧ ∀ p, k.positions[pos]? = some p → ∃ die clu, ∀ st < k.nstage, ∃ core im,
      t.blocks[s.blocks.length + st]? = some (k.placed kid p.next st pos die clu core im) := by
  rw [State.tryPlace, hk, Option.bind_some] at h
  obtain ⟨p, hp, h⟩ := Option.bind_eq_some_iff.1 h
  split at h
  · cases h
  obtain ⟨⟨u, die, clu⟩, hu, h⟩ := Option.bind_eq_some_iff.1 h
  obtain ⟨v, hv, rfl⟩ := Option.map_eq_some_iff.1 h
  have hsu : s.Grows kid 0 0 u := by
    split at hu
    · cases hu
      exact .refl s
    · split at hu
      · obtain ⟨dc, -, hdc⟩ := Option.map_eq_some_iff.1 hu
        cases hdc
        exact .bindPos ..
      · cases hu
  obtain ⟨ps, hps⟩ := hsu.kernel k hk
  obtain ⟨huv, hset⟩ := placeSet_spec hps hv
  have huv : u.Grows kid k.nstage (k.nstage * k.ngrp) v := huv
  refine ⟨by simpa using (hsu.trans huv).trans (.modPos ..), fun q hq => ⟨die, clu, ?_⟩⟩
  obtain rfl := Option.some.inj (hp.symm.trans hq)
  rw [← Nat.add_zero s.blocks.length, ← hsu.blocks]
  exact hset

/-- Every set of every position placed (R199). -/
theorem State.placeGrid_spec {s t : State} {kid n m : Nat} {k : Kernel} (hk : s.kernels[kid]? = some k)
    (h : (List.range m).foldl (fun o p => o.bind fun u => u.placeAll kid p n) (some s) = some t) :
    s.Grows kid (m * (n * k.nstage)) (m * (n * (k.nstage * k.ngrp))) t := by
  have hall : ∀ (s t : State) (p : Nat) (ps : List Pos), s.kernels[kid]? = some { k with positions := ps } → s.placeAll kid p n = some t →
      s.Grows kid (n * k.nstage) (n * (k.nstage * k.ngrp)) t := fun s t p ps hps hp => by
    have hset : ∀ (s t : State) (_ : Nat) (qs : List Pos), s.kernels[kid]? = some { k with positions := qs } → s.tryPlace kid p = some t →
        s.Grows kid k.nstage (k.nstage * k.ngrp) t := fun s t _ qs hqs ht => (tryPlace_spec hqs ht).1
    simpa using Grows.foldl_bind hps hset hp
  simpa using Grows.foldl_bind hk hall h

/-! ## The two events of placement (R198, R199, R205) -/

/-- A kernel has finished when it is REJECTED, or all its blocks have retired or FAULTED (R191, R203). -/
theorem Kernel.finished_iff {k : Kernel} : k.finished = true ↔ k.kst = .rejected ∨
    (k.kst = .draining ∧ k.positions.length * k.ncoord * k.nstage ≤ k.retired + k.faulted) := by
  rw [finished, Bool.or_eq_true, Bool.and_eq_true, beq_iff_eq, beq_iff_eq, decide_eq_true_iff]
  rfl

/-- A context at work runs from its first group on (R373). -/
theorem State.startCtx_st {s : State} {ctx : Nat} (h : (s.ctx ctx).active = true) : ((s.startCtx ctx).ctx ctx).st = .running := by
  rw [State.startCtx, ctx_modCtx, if_pos rfl]
  split
  · rfl
  · rename_i hready
    simpa [Ctx.active, hready] using h

/-- A kernel that drains leaves every context. -/
@[simp] theorem State.drainIfPlaced_ctx (s : State) (kid c : Nat) : (s.drainIfPlaced kid).ctx c = s.ctx c := rfl

/-- A context at work runs once a kernel of it is dispatched. -/
theorem State.Grows.runs {s u : State} {kid a b ctx : Nat} (h : s.Grows kid a b u) (hactive : (s.ctx ctx).active = true) :
    (((u.startCtx ctx).drainIfPlaced kid).ctx ctx).st = .running := by
  have hu : (u.ctx ctx).active = true := by simpa [Ctx.active, h.ctx] using hactive
  rw [drainIfPlaced_ctx, startCtx_st hu]

section
variable {s : State} {kid pos : Nat} {k : Kernel} (hk : s.kernels[kid]? = some k)
include hk

/-- While a kernel of its context completes, nothing is dispatched of a kernel (R205). -/
theorem exec_placement_of_completing (h : s.completing k.ctx = true) :
    exec (.stageSetPlace kid pos) s = .next s ∧ exec (.residentDispatch kid) s = .next s := by
  change execStageSetPlace kid pos s = _ ∧ execResidentDispatch kid s = _
  simp [execStageSetPlace, State.placeNext, execResidentDispatch, hk, h]

variable (hkst : k.kst = .dispatching) (hactive : (s.ctx k.ctx).active = true) (hcompleting : s.completing k.ctx = false)
include hkst hactive hcompleting

/-- STAGE_SET_PLACE with nothing in its way and room for the set (R198). -/
theorem exec_stageSetPlace_of_room (hres : k.resident = false) (hgives : s.givesWay kid pos = false) {u : State}
    (hu : s.tryPlace kid pos = some u) : exec (.stageSetPlace kid pos) s = .next ((u.startCtx k.ctx).drainIfPlaced kid) := by
  change execStageSetPlace kid pos s = _
  simp [execStageSetPlace, State.placeNext, hk, hkst, hactive, hcompleting, hres, hgives, hu]

/-- STAGE_SET_PLACE with nothing in its way and no room: the set waits (R198). -/
theorem exec_stageSetPlace_of_no_room (hres : k.resident = false) (hgives : s.givesWay kid pos = false)
    (hu : s.tryPlace kid pos = none) : exec (.stageSetPlace kid pos) s = .next (s.noteWait kid pos k.ncoord) := by
  change execStageSetPlace kid pos s = _
  simp [execStageSetPlace, State.placeNext, hk, hkst, hactive, hcompleting, hres, hgives, hu]

variable (hres : k.resident = true) (hgives : ∀ p < k.positions.length, s.givesWay kid p = false)
include hres hgives

/-- RESIDENT_DISPATCH with nothing in its way and room for the grid (R199). -/
theorem exec_residentDispatch_of_room {u : State}
    (hu : (List.range k.positions.length).foldl (fun o p => o.bind fun u => u.placeAll kid p k.ncoord) (some s) = some u) :
    exec (.residentDispatch kid) s = .next ((u.startCtx k.ctx).drainIfPlaced kid) := by
  have hnone : ((List.range k.positions.length).any fun p => s.givesWay kid p) = false := by simpa using hgives
  change execResidentDispatch kid s = _
  simp only [execResidentDispatch, hk, hnone, hu]
  simp [hkst, hactive, hcompleting, hres]

/-- RESIDENT_DISPATCH with nothing in its way and no room: the kernel waits (R199). -/
theorem exec_residentDispatch_of_no_room
    (hu : (List.range k.positions.length).foldl (fun o p => o.bind fun u => u.placeAll kid p k.ncoord) (some s) = none) :
    exec (.residentDispatch kid) s = .next (s.noteWait kid 0 k.ncoord) := by
  have hnone : ((List.range k.positions.length).any fun p => s.givesWay kid p) = false := by simpa using hgives
  change execResidentDispatch kid s = _
  simp only [execResidentDispatch, hk, hnone, hu]
  simp [hkst, hactive, hcompleting, hres]

end

end Sys2Proof.Machine

open Sys2Proof Sys2Proof.Machine

/-- Settles O39: the head of the highest priority is served first, and every placement adds its blocks behind those that stand. -/
theorem admissionAndPlacement : Obligations.AdmissionAndPlacement := by
  refine ⟨fun s h => exec_kernelAdmit_of_no_head h, fun s kid k hheads hk hcva hpart hctx hq => ?_,
    fun s i j k k' hheads hk hk' hsame hpart hctx hq hprio hcva => ?_, fun s kid pos k p hk hp hkst hactive hres hcompleting hgives => ⟨?_, ?_⟩,
    fun s kid k hk hkst hactive hres hcompleting hgives => ⟨?_, ?_⟩, fun s kid pos k x hk hx hctx hfinished => ?_⟩
  · obtain ⟨hub, hchoice, hhub⟩ := State.chooseHead_of_one hheads hk hpart hctx hq
    refine ⟨_, exec_kernelAdmit_of_choice hchoice hk hcva, ?_, rfl, hhub⟩
    rw [State.prioOf_of_mem_eligibleHeads (by simp [hheads]) hk]
    rfl
  · obtain ⟨hub, hchoice⟩ := State.chooseHead_of_two hheads hk hk' hsame hpart hctx hq hprio
    have hne : j ≠ i := fun h => by
      subst h
      obtain rfl := Option.some.inj (hk.symm.trans hk')
      exact lt_irrefl _ hprio
    refine ⟨_, k'.checked (s.prioOf k') (s.admissionCode k' true), exec_kernelAdmit_of_choice hchoice hk' hcva, ?_, ?_, k'.checked_kst _ _⟩
    · exact (List.getElem?_set_ne hne).trans hk
    · exact List.getElem?_set_self (List.getElem?_eq_some_iff.1 hk').1
  · intro u hu
    obtain ⟨hgrows, hset⟩ := State.tryPlace_spec hk hu
    obtain ⟨die, clu, hset⟩ := hset p hp
    refine ⟨_, exec_stageSetPlace_of_room hk hkst hactive hcompleting hres hgives hu, hgrows.runs hactive, hgrows.blocks, hgrows.groups,
      fun i hi => hgrows.getElem? hi, fun st hst => ?_⟩
    obtain ⟨core, im, hb⟩ := hset st hst
    exact ⟨_, hb, rfl, rfl, rfl, rfl, rfl, rfl, rfl, rfl, rfl⟩
  · exact fun hu => ⟨_, exec_stageSetPlace_of_no_room hk hkst hactive hcompleting hres hgives hu, rfl⟩
  · intro u hu
    have hgrows := State.placeGrid_spec hk hu
    refine ⟨_, exec_residentDispatch_of_room hk hkst hactive hcompleting hres hgives hu, hgrows.runs hactive, ?_⟩
    calc u.blocks.length = s.blocks.length + k.positions.length * (k.ncoord * k.nstage) := hgrows.blocks
      _ = s.blocks.length + k.positions.length * k.ncoord * k.nstage := by rw [Nat.mul_assoc]
  · exact fun hu => ⟨_, exec_residentDispatch_of_no_room hk hkst hactive hcompleting hres hgives hu, rfl⟩
  · refine exec_placement_of_completing hk (List.any_eq_true.2 ⟨x, hx, ?_⟩)
    rw [Bool.and_eq_true, beq_iff_eq, Kernel.finished_iff]
    exact ⟨hctx, hfinished⟩

end

section
/-! O40. The ends of kernels (R191, R203 to R205, R214, R221, R223). What withdraws the waits of agents, and what an access touches, leaves
blocks and kernels alone, so each event is its one change. -/

namespace Sys2Proof.Machine

/-! ## The hang watchdog (R223) -/

/-- HANG_WATCHDOG does nothing below the interval, once it has rung, or where the context does not run. -/
theorem exec_hangWatchdog_of_quiet {s : State} {ctx : Nat}
    (h : (s.ctx ctx).st ≠ .running ∨ (s.ctx ctx).dog < (s.ctx ctx).interval ∨ (s.ctx ctx).rung = true) :
    exec (.hangWatchdog ctx) s = .next s := by
  have hquiet : ¬ ((s.ctx ctx).st = .running ∧ (s.ctx ctx).interval ≤ (s.ctx ctx).dog ∧ (s.ctx ctx).rung = false) := by
    rintro ⟨hst, hdog, hrung⟩
    rcases h with h | h | h
    · exact h hst
    · omega
    · simp [hrung] at h
  change execHangWatchdog ctx s = _
  rw [execHangWatchdog, if_neg hquiet]

/-- Where a halt line is raised nothing but its context changes. -/
theorem State.halt_frame (s : State) (c : Nat) (k : HaltKind) : { s.halt c k with ctxs := s.ctxs } = s := rfl

/-- HANG_WATCHDOG at the interval: the context halts with kind WATCHDOG, and has rung. -/
theorem exec_hangWatchdog_of_due {s : State} {ctx : Nat} {c : Ctx} (hc : s.ctx ctx = c) (hst : c.st = .running) (hdog : c.interval ≤ c.dog)
    (hrung : c.rung = false) : ∃ t, exec (.hangWatchdog ctx) s = .next t ∧ { t with ctxs := s.ctxs } = s ∧
      t.ctx ctx = { c with rung := true, st := .halting, line := some { kind := .watchdog, at_ := s.clock, rto := c.timeout, drained := false } } := by
  subst hc
  refine ⟨(s.modCtx ctx fun c => { c with rung := true }).halt ctx .watchdog, ?_,
    congrArg (fun x : State => { x with ctxs := s.ctxs }) (State.halt_frame _ ctx .watchdog), ?_⟩
  · change execHangWatchdog ctx s = _
    rw [execHangWatchdog, if_pos ⟨hst, hdog, hrung⟩]
  · rw [State.halt_ctx, if_pos rfl, State.ctx_modCtx, if_pos rfl]
    simp only [hst]
    rfl

/-! ## Pre-emption by priority (R214) -/

/-- The victim of a pre-emption is a placed block of a running context of the same partition and of a lower priority. -/
theorem State.preemptVictim_spec {s : State} {k : Kernel} {bid : Nat} (h : s.preemptVictim k = some bid) :
    ∃ b x, s.blocks[bid]? = some b ∧ s.kernels[b.kid]? = some x ∧ (s.ctx x.ctx).part = (s.ctx k.ctx).part ∧ (s.ctx x.ctx).st = .running ∧
      s.prioOf x < s.prioOf k := by
  unfold State.preemptVictim at h
  extract_lets part key at h
  have hkey : (key bid).isSome = true := by
    refine List.foldlRecOn (motive := fun m => ∀ i, m = some i → (key i).isSome = true) (List.range s.blocks.length) _ (by simp)
      (fun m hm i _ j hj => ?_) bid h
    split at hj
    · exact hm j hj
    · next hi _ =>
      cases hj
      simp [hi]
    · next hi _ =>
      split at hj
      · cases hj
        simp [hi]
      · exact hm j hj
  obtain ⟨y, hy⟩ := Option.isSome_iff_exists.1 hkey
  obtain ⟨b, hb, hy⟩ := Option.bind_eq_some_iff.1 hy
  obtain ⟨x, hx, hy⟩ := Option.bind_eq_some_iff.1 hy
  obtain ⟨-, -, hpart, hst, hprio⟩ := (Option.ite_none_right_eq_some.1 hy).1
  exact ⟨b, x, hb, hx, hpart, hst, hprio⟩

/-- A tile operation that does not run, or whose last step is not made, does not complete. -/
theorem State.completeTile_of_unfinished {s : State} {oid : Nat} {o : TileOp} (ho : s.tileOps[oid]? = some o)
    (h : o.ost = .running → o.prog < tileSteps o.ins) : s.completeTile oid = s := by
  have hstop : o.ost ≠ .running ∨ o.prog < tileSteps o.ins := by
    by_cases hr : o.ost = .running
    · exact .inr (h hr)
    · exact .inl hr
  simp only [completeTile, ho, if_pos hstop]

/-- Where none of the operations named is complete, they only stop (R342). -/
theorem State.stopTiles_of_unfinished {s : State} {p : TileOp → Bool}
    (h : ∀ o ∈ s.tileOps, p o = true → o.ost = .running → o.prog < tileSteps o.ins) : ∃ l, s.stopTiles p = { s with tileOps := l } := by
  have hkeep : (List.range s.tileOps.length).foldl (fun s i => if (s.tileOps[i]?).any p then s.completeTile i else s) s = s := by
    refine List.foldlRecOn (motive := fun t => t = s) _ _ rfl fun t ht i _ => ?_
    subst ht
    cases ho : t.tileOps[i]? with
    | none => rfl
    | some o =>
      by_cases hp : p o = true
      · simp [hp, completeTile_of_unfinished ho (h o (List.mem_of_getElem? ho) hp)]
      · simp [hp]
  exact ⟨_, by rw [stopTiles, hkeep]⟩

/-- A block with a group at work does not pass to the reserve. -/
theorem State.toReserve_of_running {s : State} {bid : Nat} (h : ∃ g ∈ s.groups, g.bid = bid ∧ g.gst = .running) : s.toReserve bid = s := by
  obtain ⟨g, hg, hbid, hgst⟩ := h
  have hnot : (s.groups.all fun g => g.bid != bid || g.gst == .stopped || g.gst == .ended) = false :=
    List.all_eq_false.2 ⟨g, hg, by simp [hbid, hgst]⟩
  unfold State.toReserve
  split
  · rfl
  · simp [hnot]

/-- PRIORITY_PREEMPTION does nothing for a kernel whose sets have not waited, or whose context is not at work. -/
theorem exec_priorityPreemption_of_quiet {s : State} {kid : Nat} {k : Kernel} (hk : s.kernels[kid]? = some k)
    (h : s.waited k = false ∨ (s.ctx k.ctx).active = false) : exec (.priorityPreemption kid) s = .next s := by
  change execPriorityPreemption kid s = _
  rcases h with h | h <;> simp [execPriorityPreemption, hk, h]

/-- PRIORITY_PREEMPTION stops its victim, where no other block is stopping (R214). -/
theorem exec_priorityPreemption_of_victim {s : State} {kid bid : Nat} {k : Kernel} {b : Block} (hk : s.kernels[kid]? = some k)
    (hwaited : s.waited k = true) (hactive : (s.ctx k.ctx).active = true) (hhalt : ∀ b ∈ s.blocks, b.halt = none)
    (hvictim : s.preemptVictim k = some bid) (hb : s.blocks[bid]? = some b) :
    exec (.priorityPreemption kid) s = .next (s.stopBlock bid (s.rto (s.ctxOfKernel b.kid))) := by
  have hbusy : (s.blocks.any fun b => b.halt.isSome && (s.ctx (s.ctxOfKernel b.kid)).part == (s.ctx k.ctx).part) = false :=
    List.any_eq_false.2 fun b hb => by simp [hhalt b hb]
  change execPriorityPreemption kid s = _
  simp only [execPriorityPreemption, hk, hbusy, hvictim, hb]
  simp [hwaited, hactive]

/-- A change of a block sets it to what the change makes of it. -/
theorem State.modBlock_eq_set {s : State} {bid : Nat} {b : Block} (hb : s.blocks[bid]? = some b) (f : Block → Block) :
    s.modBlock bid f = { s with blocks := s.blocks.set bid (f b) } := by
  rw [modBlock, List.modify_eq_set_getElem?, hb]
  rfl

/-- A block with a group at work and no complete tile operation begins to stop, within a time (R407). -/
theorem State.stopBlock_of_running {s : State} {bid : Nat} {b : Block} (hb : s.blocks[bid]? = some b) (hhalt : b.halt = none) (limit : Nat)
    (hgroup : ∃ g ∈ s.groups, g.bid = bid ∧ g.gst = .running)
    (htiles : ∀ o ∈ s.tileOps, o.bid = bid → o.ost = .running → o.prog < tileSteps o.ins) :
    ∃ l, s.stopBlock bid limit = { s with blocks := s.blocks.set bid { b with halt := some (s.clock, s.clock + limit) }, tileOps := l } := by
  obtain ⟨l, hl⟩ := stopTiles_of_unfinished (s := { s with blocks := s.blocks.set bid { b with halt := some (s.clock, s.clock + limit) } })
    (p := fun o => o.bid == bid) fun o ho hbid => htiles o ho (by simpa using hbid)
  refine ⟨l, ?_⟩
  simp only [State.stopBlock, modBlock_eq_set hb, hhalt, hl]
  exact toReserve_of_running hgroup

/-! ## Waits withdrawn (R183, R381) -/

/-- From s to t only the waits of agents may have changed: those in gates, LAUNCHes and EVWAITs, and the tokens of gates. -/
structure Withdraws (s t : State) : Prop where
  rest : { t with gates := s.gates, ctxs := s.ctxs } = s
  ctx : ∀ c, { t.ctx c with queues := (s.ctx c).queues, evwaits := (s.ctx c).evwaits } = s.ctx c

namespace Withdraws

variable {s t u : State}

theorem refl (s : State) : Withdraws s s := ⟨rfl, fun _ => rfl⟩

theorem trans (h : Withdraws s t) (h' : Withdraws t u) : Withdraws s u where
  rest := (congrArg (fun x : State => { x with gates := s.gates, ctxs := s.ctxs }) h'.rest).trans h.rest
  ctx c := (congrArg (fun x : Ctx => { x with queues := (s.ctx c).queues, evwaits := (s.ctx c).evwaits }) (h'.ctx c)).trans (h.ctx c)

/-- Steps that withdraw waits, one after another. -/
theorem foldl {α : Type} (l : List α) (f : State → α → State) (hf : ∀ s x, Withdraws s (f s x)) (s : State) :
    Withdraws s (l.foldl f s) :=
  List.foldlRecOn (motive := Withdraws s) l f (refl s) fun _ h x _ => h.trans (hf _ x)

/-- A change of a gate. -/
theorem modGate (s : State) (g : Nat) (f : Gate → Gate) : Withdraws s (s.modGate g f) := ⟨rfl, fun _ => rfl⟩

/-- The waits of an agent. -/
theorem withdraw (s : State) (who : Agent) : Withdraws s (s.withdraw who) := by
  have hgates : Withdraws s (s.withdrawGates (· == who)) := by
    unfold State.withdrawGates
    exact foldl _ _ (fun s _ => modGate s _ _) s
  refine hgates.trans ⟨rfl, fun c => ?_⟩
  rw [State.withdraw, State.ctx_modCtx]
  split
  · subst c; rfl
  · rfl

theorem mem (h : Withdraws s t) : t.mem = s.mem := (congrArg State.mem h.rest :)
theorem blocks (h : Withdraws s t) : t.blocks = s.blocks := (congrArg State.blocks h.rest :)
theorem groups (h : Withdraws s t) : t.groups = s.groups := (congrArg State.groups h.rest :)
theorem kernels (h : Withdraws s t) : t.kernels = s.kernels := (congrArg State.kernels h.rest :)
theorem streams (h : Withdraws s t) : t.streams = s.streams := (congrArg State.streams h.rest :)
theorem ctx_st (h : Withdraws s t) (c : Nat) : (t.ctx c).st = (s.ctx c).st := (congrArg Ctx.st (h.ctx c) :)
theorem ctx_dog (h : Withdraws s t) (c : Nat) : (t.ctx c).dog = (s.ctx c).dog := (congrArg Ctx.dog (h.ctx c) :)

end Withdraws

/-! ## Retirement (R197, R203, R373) -/

/-- The end of a position withdraws the waits of its stream, ends the stream and unbinds the position, and changes nothing else (R197, R317). -/
structure EndsPosition (s t : State) : Prop where
  mem : t.mem = s.mem
  blocks : t.blocks = s.blocks
  groups : t.groups = s.groups
  kernel : ∀ i : Nat, (t.kernels[i]?).map (fun k : Kernel => { k with positions := [] }) = (s.kernels[i]?).map fun k : Kernel => { k with positions := [] }
  streams : ∀ x ∈ t.streams, x.sst = .ended ∨ x ∈ s.streams
  ctx_st : ∀ c, (t.ctx c).st = (s.ctx c).st
  ctx_dog : ∀ c, (t.ctx c).dog = (s.ctx c).dog

/-- The context of a kernel is not changed with its position. -/
theorem EndsPosition.ctxOfKernel {s t : State} (h : EndsPosition s t) (i : Nat) : t.ctxOfKernel i = s.ctxOfKernel i := by
  have hctx := congrArg (fun o : Option Kernel => (o.map (·.ctx)).getD 0) (h.kernel i)
  simpa [State.ctxOfKernel, Function.comp_def] using hctx

/-- A position with blocks to come or blocks left stays, and any other ends (R197, R317). -/
theorem State.endPosition_spec (s : State) (kid pos : Nat) : EndsPosition s (s.endPosition kid pos) := by
  have hsame : EndsPosition s s := ⟨rfl, rfl, rfl, fun _ => rfl, fun _ => .inr, fun _ => rfl, fun _ => rfl⟩
  unfold State.endPosition
  split
  · exact hsame
  · split
    · exact hsame
    · extract_lets u v
      have hv : Withdraws u v := Withdraws.foldl _ _ (fun s i => Withdraws.withdraw s (.stream i)) u
      refine ⟨hv.mem, hv.blocks, hv.groups, fun i => ?_, fun x hx => ?_, hv.ctx_st, hv.ctx_dog⟩
      · have hmod : v.kernels = s.kernels.modify kid fun k => { k with positions := k.positions.modify pos fun p => { p with bound := none } } :=
          hv.kernels
        change (v.kernels[i]?).map _ = _
        rw [hmod, List.getElem?_modify]
        by_cases h : kid = i <;> simp [h, Function.comp_def]
      · obtain ⟨y, hy, rfl⟩ := List.mem_map.1 hx
        rw [hv.streams] at hy
        split
        · exact .inl rfl
        · exact .inr hy

/-- With its last block and stream gone a context that runs is READY again (R373). -/
theorem State.settleCtx_of_last {s : State} {ctx : Nat} (hst : (s.ctx ctx).st = .running)
    (hblocks : ∀ b ∈ s.blocks, s.ctxOfKernel b.kid = ctx → b.gone = true)
    (hstreams : ∀ x ∈ s.streams, x.sst = .ended ∨ s.ctxOfKernel x.kid ≠ ctx) : ((s.settleCtx ctx).ctx ctx).st = .ready := by
  have hall : (s.blocks.all fun b => b.gone || !(s.ctxOfKernel b.kid == ctx)) = true ∧
      (s.streams.all fun x => x.sst == .ended || !(s.ctxOfKernel x.kid == ctx)) = true := by
    simp only [List.all_eq_true, Bool.or_eq_true, beq_iff_eq, Bool.not_eq_true', beq_eq_false_iff_ne]
    exact ⟨fun b hb => or_iff_not_imp_right.2 fun h => hblocks b hb (not_not.1 h), hstreams⟩
  rw [State.settleCtx, if_pos ⟨hst, hall⟩, ctx_modCtx, if_pos rfl]

/-- A context that is settled is READY or as before. -/
theorem State.settleCtx_eq (s : State) (ctx : Nat) :
    s.settleCtx ctx = s ∨ s.settleCtx ctx = s.modCtx ctx fun c => { c with st := .ready } := by
  unfold State.settleCtx
  extract_lets mine
  split
  · exact .inr rfl
  · exact .inl rfl

/-- A context that is settled keeps its watchdog's count. -/
theorem State.settleCtx_dog (s : State) (ctx c : Nat) : ((s.settleCtx ctx).ctx c).dog = (s.ctx c).dog := by
  rcases s.settleCtx_eq ctx with h | h
  · rw [h]
  · rw [h, ctx_modCtx]
    split
    · subst c; rfl
    · rfl

/-- Nothing but contexts changes where one is settled. -/
theorem State.settleCtx_frame (s : State) (ctx : Nat) : { s.settleCtx ctx with ctxs := s.ctxs } = s := by
  rcases s.settleCtx_eq ctx with h | h
  · rw [h]
  · rw [h]; rfl

/-- The state in which a block has retired and is counted, and the watchdog's count of its context is 0 (R203, R223). -/
def State.withRetired (s : State) (bid : Nat) (b : Block) : State :=
  { s with blocks := s.blocks.set bid { b with bst := .retired, halt := none },
           kernels := s.kernels.modify b.kid fun k => { k with retired := k.retired + 1 } }.restartDog (s.ctxOfKernel b.kid)

/-- The state in which a block has retired, its position has ended with its last block and its context with its last work (R197, R203, R373). -/
def State.retire (s : State) (bid : Nat) (b : Block) : State :=
  ((s.withRetired bid b).endPosition b.kid b.pos).settleCtx (s.ctxOfKernel b.kid)

section
variable {s : State} {bid : Nat} {b : Block} (hb : s.blocks[bid]? = some b)
include hb

/-- BLOCK_RETIRE leaves a block that is not placed, awaits a rollback, or has work left, and one whose context does not run. -/
theorem exec_blockRetire_of_held
    (h : b.bst ≠ .placed ∨ b.trigger.isSome = true ∨ s.workDone bid = false ∨ (s.ctx (s.ctxOfKernel b.kid)).st ≠ .running) :
    exec (.blockRetire bid) s = .next s := by
  change execBlockRetire bid s = _
  simp only [execBlockRetire, hb, if_pos h]

/-- BLOCK_RETIRE of a placed block without work: it retires, and its space goes to the next set of its position (R198, R203). -/
theorem exec_blockRetire_of_done (hbst : b.bst = .placed) (htrigger : b.trigger = none) (hdone : s.workDone bid = true)
    (hst : (s.ctx (s.ctxOfKernel b.kid)).st = .running) : exec (.blockRetire bid) s =
      .next (((s.retire bid b).placeNext b.kid b.pos).modPos b.kid b.pos fun p => { p with freed := p.since.isSome }) := by
  have hgo : ¬ (b.bst ≠ .placed ∨ b.trigger.isSome = true ∨ s.workDone bid = false ∨ (s.ctx (s.ctxOfKernel b.kid)).st ≠ .running) := by
    simp [hbst, htrigger, hdone, hst]
  change execBlockRetire bid s = _
  simp only [execBlockRetire, hb, if_neg hgo, State.modBlock_eq_set hb]
  rfl

end

/-- The context of a kernel is not changed by a retirement. -/
@[simp] theorem State.withRetired_ctxOfKernel (s : State) (bid : Nat) (b : Block) (i : Nat) :
    (s.withRetired bid b).ctxOfKernel i = s.ctxOfKernel i := by
  have hk : (s.withRetired bid b).kernels = s.kernels.modify b.kid fun k => { k with retired := k.retired + 1 } := rfl
  rw [ctxOfKernel, hk, List.getElem?_modify]
  by_cases h : b.kid = i <;> simp [h, ctxOfKernel, Function.comp_def]

/-- A retirement sets the watchdog's count of the context to 0. -/
theorem State.withRetired_dog (s : State) (bid : Nat) (b : Block) :
    ((s.withRetired bid b).ctx (s.ctxOfKernel b.kid)).dog = 0 := by
  rw [withRetired, restartDog, ctx_modCtx, if_pos rfl]

/-- A retirement leaves the state of every context. -/
theorem State.withRetired_st (s : State) (bid : Nat) (b : Block) (c : Nat) :
    ((s.withRetired bid b).ctx c).st = (s.ctx c).st := by
  rw [withRetired, restartDog, ctx_modCtx]
  split
  · subst c; rfl
  · rfl

/-- With the last work of a context a retirement makes it READY (R203, R373). -/
theorem State.retire_st {s : State} {bid : Nat} {b : Block} (hb : s.blocks[bid]? = some b) (hst : (s.ctx (s.ctxOfKernel b.kid)).st = .running)
    (hothers : ∀ (i : Nat) (c : Block), i ≠ bid → s.blocks[i]? = some c → s.ctxOfKernel c.kid = s.ctxOfKernel b.kid → c.gone = true)
    (hstreams : ∀ x ∈ s.streams, x.sst = .ended ∨ s.ctxOfKernel x.kid ≠ s.ctxOfKernel b.kid) :
    ((s.retire bid b).ctx (s.ctxOfKernel b.kid)).st = .ready := by
  have hend := (s.withRetired bid b).endPosition_spec b.kid b.pos
  have hblocks : ((s.withRetired bid b).endPosition b.kid b.pos).blocks = s.blocks.set bid { b with bst := .retired, halt := none } := hend.blocks
  refine settleCtx_of_last ?_ (fun c hc hctx => ?_) fun x hx => ?_
  · rw [hend.ctx_st, withRetired_st, hst]
  · rw [hend.ctxOfKernel, withRetired_ctxOfKernel] at hctx
    rw [hblocks] at hc
    obtain ⟨i, hi⟩ := List.mem_iff_getElem?.1 hc
    by_cases h : bid = i
    · subst h
      rw [List.getElem?_set_self (List.getElem?_eq_some_iff.1 hb).1] at hi
      cases hi
      rfl
    · rw [List.getElem?_set_ne h] at hi
      exact hothers i c (Ne.symm h) hi hctx
  · rw [hend.ctxOfKernel, withRetired_ctxOfKernel]
    exact (hend.streams x hx).elim .inl (hstreams x)

/-- A retirement counts a block of its kernel, of which besides only positions change (R203). -/
theorem State.retire_kernel {s : State} (bid : Nat) {b : Block} {k : Kernel} (hk : s.kernels[b.kid]? = some k) :
    ∃ k', (s.retire bid b).kernels[b.kid]? = some k' ∧
      { k' with positions := k.positions } = { k with retired := k.retired + 1 } := by
  have hkernels : (s.retire bid b).kernels = ((s.withRetired bid b).endPosition b.kid b.pos).kernels :=
    (congrArg State.kernels (State.settleCtx_frame _ _) :)
  have hcount : (s.withRetired bid b).kernels[b.kid]? = some { k with retired := k.retired + 1 } := by
    simp [withRetired, restartDog, hk]
  have hmap := ((s.withRetired bid b).endPosition_spec b.kid b.pos).kernel b.kid
  rw [hcount, ← hkernels] at hmap
  obtain ⟨k', hk', heq⟩ := Option.map_eq_some_iff.1 hmap
  exact ⟨k', hk', congrArg (fun x : Kernel => { x with positions := k.positions }) heq⟩

/-- A retirement changes one block, and neither memory nor groups. -/
theorem State.retire_frame (s : State) (bid : Nat) (b : Block) :
    (s.retire bid b).blocks = s.blocks.set bid { b with bst := .retired, halt := none } ∧ (s.retire bid b).mem = s.mem ∧
      (s.retire bid b).groups = s.groups := by
  have hend := (s.withRetired bid b).endPosition_spec b.kid b.pos
  have hframe := ((s.withRetired bid b).endPosition b.kid b.pos).settleCtx_frame (s.ctxOfKernel b.kid)
  exact ⟨(congrArg State.blocks hframe :).trans hend.blocks, (congrArg State.mem hframe :).trans hend.mem,
    (congrArg State.groups hframe :).trans hend.groups⟩

/-- A retirement restarts the watchdog's count (R223). -/
theorem State.retire_dog (s : State) (bid : Nat) (b : Block) : ((s.retire bid b).ctx (s.ctxOfKernel b.kid)).dog = 0 := by
  rw [retire, settleCtx_dog, ((s.withRetired bid b).endPosition_spec b.kid b.pos).ctx_dog, withRetired_dog]

/-! ## Completion (R191, R204, R205) -/

/-- A release of a context at home only touches what an access may. -/
theorem Touches.releaseAll (s : State) (ctx : Nat) : Touches s (s.releaseAll ctx) := foldl _ _ (fun s _ => release s _ _) s

/-- A write by the hub only touches what an access may. -/
theorem Touches.hubWrite (s : State) (a : Acc) (e : BitVec 64) (pa : Nat) (data : List Byte) : Touches s (s.hubWrite a e pa data) :=
  ite (report s _) (ite (report s _) (cohWrite s _ _ _))

/-- Agents whose EVWAITs end leave kernels, and contexts but for performance counters (R222). -/
theorem State.leaveWaits_spec (s : State) (l : List EvWait) :
    let t := l.foldl (fun s w => (s.acquire (s.accOf w.who) 3).leaveWait w.who w.stamp) s
    t.kernels = s.kernels ∧ ∀ c, { t.ctx c with perf := (s.ctx c).perf } = s.ctx c := by
  induction l generalizing s with
  | nil => exact ⟨rfl, fun _ => rfl⟩
  | cons w l ih =>
    have hacquire : Touches s (s.acquire (s.accOf w.who) 3) := .acquire ..
    have hkernels : ((s.acquire (s.accOf w.who) 3).leaveWait w.who w.stamp).kernels = s.kernels := by
      rw [← hacquire.kernels]
      cases w.who <;> rfl
    have hctx (c : Nat) : ((s.acquire (s.accOf w.who) 3).leaveWait w.who w.stamp).ctx c = (s.acquire (s.accOf w.who) 3).ctx c := by
      cases w.who <;> rfl
    obtain ⟨hk, hc⟩ := ih ((s.acquire (s.accOf w.who) 3).leaveWait w.who w.stamp)
    refine ⟨hk.trans hkernels, fun c => ?_⟩
    have hperf := congrArg (fun x : Ctx => { x with perf := (s.ctx c).perf }) (hc c)
    rw [hctx] at hperf
    exact hperf.trans (hacquire.ctx c)

/-- An event counter that is set has the value, and the EVWAITs that it meets end; without one nothing but contexts changes (R217, R221). -/
theorem State.setEvent_spec (s : State) (ctx n : Nat) (v : BitVec 48) :
    (s.setEvent ctx n v).kernels = s.kernels ∧ ((s.setEvent ctx n v).ctx ctx).event n = v ∧
      ((s.setEvent ctx n v).ctx ctx).evwaits = (s.ctx ctx).evwaits.filter (fun w => !w.meets n v) ∧
      ((∀ w ∈ (s.ctx ctx).evwaits, w.meets n v = false) → { s.setEvent ctx n v with ctxs := s.ctxs } = s) := by
  unfold State.setEvent
  generalize hu : s.modCtx ctx _ = u
  have hctx : u.ctx ctx = { s.ctx ctx with
      events := if v = 0 then tdel (s.ctx ctx).events n else tset (s.ctx ctx).events n v,
      evwaits := (s.ctx ctx).evwaits.filter fun w => !w.meets n v } := by
    rw [← hu, ctx_modCtx, if_pos rfl]
  have hvalue : (u.ctx ctx).event n = v := by
    rw [hctx, Ctx.event]
    dsimp only
    split
    · next hv => simp [hv]
    · simp
  obtain ⟨hkernels, hperf⟩ := u.leaveWaits_spec ((s.ctx ctx).evwaits.filter (·.meets n v))
  refine ⟨hkernels.trans (hu ▸ rfl), ?_, ?_, fun hnone => ?_⟩
  · exact (congrArg (fun x : Ctx => x.event n) (hperf ctx) :).trans hvalue
  · exact (congrArg Ctx.evwaits (hperf ctx) :).trans (congrArg Ctx.evwaits hctx)
  · rw [List.filter_eq_nil_iff.2 fun w hw => by simp [hnone w hw], ← hu]
    rfl

/-- A kernel made COMPLETE out of its queue, and its counter raised where it signals one (R205). -/
def State.completeKernel (s : State) (kid : Nat) (k : Kernel) : State :=
  let t := s.modKernel kid fun k => { k with kst := .complete, inQueue := false }
  if bitAt k.signal 8 then t.addEvent k.ctx (k.signal % 256) 1 else t

/-- With the accesses that lead from s to u made, t is u with the kernel COMPLETE and out of its queue, and its counter, if it signals
one, has gained 1, at which the EVWAITs that it meets have ended; without one nothing else has changed (R205, R221). -/
def State.Completes (s u : State) (kid : Nat) (k : Kernel) (t : State) : Prop :=
  t.kernels = s.kernels.set kid { k with kst := .complete, inQueue := false } ∧
    let n := k.signal % 256
    let v : BitVec 48 := BitVec.ofNat 48 (min (2 ^ 48 - 1) (((u.ctx k.ctx).event n).toNat + 1))
    if bitAt k.signal 8 then (t.ctx k.ctx).event n = v ∧ (t.ctx k.ctx).evwaits = (u.ctx k.ctx).evwaits.filter (fun w => !w.meets n v) ∧
      ((∀ w ∈ (u.ctx k.ctx).evwaits, w.meets n v = false) → { t with kernels := u.kernels, ctxs := u.ctxs } = u)
    else { t with kernels := u.kernels } = u

/-- After accesses of its completion a kernel is completed. -/
theorem State.completeKernel_spec {s u : State} {kid : Nat} {k : Kernel} (hk : s.kernels[kid]? = some k) (hu : Touches s u) :
    s.Completes u kid k (u.completeKernel kid k) := by
  let done (k : Kernel) : Kernel := { k with kst := .complete, inQueue := false }
  have hset : (u.modKernel kid done).kernels = s.kernels.set kid (done k) := by
    rw [modKernel_kernels, hu.kernels, List.modify_eq_set_getElem?, hk]
    rfl
  unfold State.Completes State.completeKernel
  split
  · obtain ⟨hkernels, hevent, hwaits, hrest⟩ := (u.modKernel kid done).setEvent_spec k.ctx (k.signal % 256)
      (BitVec.ofNat 48 (min (2 ^ 48 - 1) (((u.ctx k.ctx).event (k.signal % 256)).toNat + 1)))
    exact ⟨hkernels.trans hset, hevent, hwaits, fun hnone => congrArg (fun x : State => { x with kernels := u.kernels }) (hrest hnone)⟩
  · exact ⟨hset, rfl⟩

/-- An aligned record of 32 bytes lies in one page (R355). -/
theorem pagePieces_aligned {va : Nat} (h : va % 32 = 0) : pagePieces va 32 = [(va, 32)] := by
  have hm : min 32 (2 ^ 16 - va % 2 ^ 16) = 32 := by omega
  rw [pagePieces, hm]
  rfl

/-- A completion record has 32 bytes (R204). -/
theorem Kernel.completion_length (k : Kernel) (c : Nat) : (k.completion c).length = 32 := by simp [completion]

/-- The page of a kernel's completion record looked up, once the stores of the kernel are at home (R204). -/
def State.lookRecord (s : State) (k : Kernel) : State × Look := (s.releaseAll k.ctx).look (s.accAt k.ctx 12 0 none) .write k.cva

/-- The look-up of a completion record only touches what an access may. -/
theorem Touches.lookRecord (s : State) (k : Kernel) : Touches s (s.lookRecord k).1 := (releaseAll s k.ctx).trans (look _ _ _ _)

section
variable {s : State} {kid : Nat} {k : Kernel} (hk : s.kernels[kid]? = some k)
include hk

/-- KERNEL_COMPLETION leaves a kernel that has not finished, and one whose context is not at work. -/
theorem exec_kernelCompletion_of_unfinished (h : k.finished = false ∨ (s.ctx k.ctx).active = false) :
    exec (.kernelCompletion kid) s = .next s := by
  change execKernelCompletion kid s = _
  rcases h with h | h <;> simp [execKernelCompletion, hk, h]

variable (hfinished : k.finished = true) (hactive : (s.ctx k.ctx).active = true)
include hfinished hactive

/-- KERNEL_COMPLETION without a completion record (R204, R205). -/
theorem exec_kernelCompletion_of_no_record (hcva : k.cva = 0) :
    exec (.kernelCompletion kid) s = .next ((s.releaseAll k.ctx).completeKernel kid k) := by
  change execKernelCompletion kid s = _
  simp only [execKernelCompletion, hk, hfinished, hactive, hcva]
  rfl

variable (hcva : k.cva ≠ 0) (halign : k.cva % 32 = 0)
include hcva halign

/-- KERNEL_COMPLETION with a record in a page that may be written (R204, R205). -/
theorem exec_kernelCompletion_of_ok {pa : Nat} {e : BitVec 64} (hlook : (s.lookRecord k).2 = .ok pa e) :
    exec (.kernelCompletion kid) s = .next
      (((s.lookRecord k).1.hubWrite (s.accAt k.ctx 12 0 none) e pa (k.completion (s.lookRecord k).1.clock)).completeKernel kid k) := by
  obtain ⟨u, hu⟩ : ∃ u, s.lookRecord k = (u, .ok pa e) := ⟨(s.lookRecord k).1, by rw [← hlook]⟩
  have hall : (k.completion u.clock).take 32 = k.completion u.clock := List.take_of_length_le (k.completion_length _).le
  rw [hu]
  rw [State.lookRecord] at hu
  change execKernelCompletion kid s = _
  simp only [execKernelCompletion, hk, hfinished, hactive, if_neg hcva, pagePieces_aligned halign, State.lookPieces, hu, List.foldl_cons,
    List.foldl_nil, List.drop_zero, hall]
  rfl

/-- KERNEL_COMPLETION with a record in a page that faults: it is dropped and logged (R204). -/
theorem exec_kernelCompletion_of_fault {c : Cause} (hlook : (s.lookRecord k).2 = .fault c) :
    exec (.kernelCompletion kid) s = .next (((s.lookRecord k).1.report (mkError 9 10 12 0 (some k.ctx) 0)).completeKernel kid k) := by
  obtain ⟨u, hu⟩ : ∃ u, s.lookRecord k = (u, .fault c) := ⟨(s.lookRecord k).1, by rw [← hlook]⟩
  rw [hu]
  rw [State.lookRecord] at hu
  change execKernelCompletion kid s = _
  simp only [execKernelCompletion, hk, hfinished, hactive, if_neg hcva, pagePieces_aligned halign, State.lookPieces, hu]
  rfl

/-- KERNEL_COMPLETION with a record in a page that is waited for. -/
theorem exec_kernelCompletion_of_wait (hlook : (s.lookRecord k).2 = .wait) : exec (.kernelCompletion kid) s = .next (s.lookRecord k).1 := by
  obtain ⟨u, hu⟩ : ∃ u, s.lookRecord k = (u, .wait) := ⟨(s.lookRecord k).1, by rw [← hlook]⟩
  rw [hu]
  rw [State.lookRecord] at hu
  change execKernelCompletion kid s = _
  simp only [execKernelCompletion, hk, hfinished, hactive, if_neg hcva, pagePieces_aligned halign, State.lookPieces, hu]
  rfl

end

/-- A completion record begins with the clock (R204). -/
theorem Kernel.completion_clock (k : Kernel) {c : Nat} (hc : c < 2 ^ 64) : leNat ((k.completion c).take 8) = c := by
  have htake : (k.completion c).take 8 = leBytes 8 c := by simp [completion, List.append_assoc]
  rw [htake, leNat_leBytes]
  omega

/-- Zero bytes add nothing to the number above them. -/
theorem leNat_append_zeros (l : List Byte) (n : Nat) : leNat (l ++ leBytes n 0) = leNat l := by
  induction l with
  | nil => simp [leNat]
  | cons b l ih => simp [leNat, ih]

/-- A completion record ends with the number of FAULTED blocks (R204). -/
theorem Kernel.completion_faulted (k : Kernel) (c : Nat) (hf : k.faulted < 2 ^ 32) : leNat ((k.completion c).drop 16) = k.faulted := by
  have hdrop : (k.completion c).drop 16 = leBytes 4 k.faulted ++ leBytes 12 0 := by
    rw [completion, List.append_assoc]
    exact List.drop_left' (by simp)
  rw [hdrop, leNat_append_zeros, leNat_leBytes]
  omega

/-- The bytes of the status and of the code in a completion record (R204). -/
theorem Kernel.completion_status (k : Kernel) (c : Nat) :
    (k.completion c)[8]? = some (if k.kst = .rejected then 1 else if 0 < k.faulted then 2 else 0) ∧
      (k.completion c)[9]? = some (BitVec.ofNat 8 k.code) := by
  have hstatus : (k.completion c)[8]? = some (BitVec.ofNat 8 (if k.kst = .rejected then 1 else if 0 < k.faulted then 2 else 0)) := by
    simp [completion, leBytes]
  refine ⟨?_, by simp [completion, leBytes]⟩
  rw [hstatus]
  split_ifs <;> rfl

end Sys2Proof.Machine

open Sys2Proof Sys2Proof.Machine

/-- Settles O40: an event of a kernel's end is one change of its own between accesses, which leave kernels, and withdrawals of waits,
which leave all but waits. -/
theorem endsOfKernels : Obligations.EndsOfKernels := by
  refine ⟨fun s bid b hb => ⟨fun hbst htrigger hdone hst => ?_, exec_blockRetire_of_held hb⟩,
    fun s kid k hk => ⟨exec_kernelCompletion_of_unfinished hk, fun hfinished hactive hcva => ?_, fun hfinished hactive hcva halign => ?_, fun c hc => ?_⟩,
    fun s kid k hk => ⟨exec_priorityPreemption_of_quiet hk, fun hwaited hactive hhalt bid b hvictim hb hgroup htiles => ?_⟩, fun s ctx c hc => ⟨?_, ?_⟩⟩
  · obtain ⟨hblocks, hmem, hgroups⟩ := s.retire_frame bid b
    exact ⟨_, exec_blockRetire_of_done hb hbst htrigger hdone hst, hblocks, hmem, hgroups, s.retire_dog bid b,
      fun k hk => State.retire_kernel bid hk, State.retire_st hb hst⟩
  · have hdone := State.completeKernel_spec hk (Touches.releaseAll s k.ctx)
    exact ⟨_, exec_kernelCompletion_of_no_record hk hfinished hactive hcva, hdone⟩
  · refine ⟨fun pa e hlook => ?_, fun c hlook => ?_, exec_kernelCompletion_of_wait hk hfinished hactive hcva halign⟩
    · exact ⟨_, exec_kernelCompletion_of_ok hk hfinished hactive hcva halign hlook,
        State.completeKernel_spec hk ((Touches.lookRecord s k).trans (.hubWrite ..))⟩
    · exact ⟨_, exec_kernelCompletion_of_fault hk hfinished hactive hcva halign hlook,
        State.completeKernel_spec hk ((Touches.lookRecord s k).trans (.report ..))⟩
  · obtain ⟨hstatus, hcode⟩ := k.completion_status c
    exact ⟨k.completion_length c, k.completion_clock hc, hstatus, hcode, k.completion_faulted c⟩
  · obtain ⟨b', x, hb', hx, hpart, hst, hprio⟩ := State.preemptVictim_spec hvictim
    obtain rfl := Option.some.inj (hb'.symm.trans hb)
    obtain ⟨l, hl⟩ := State.stopBlock_of_running hb (hhalt b' (List.mem_of_getElem? hb)) (s.rto (s.ctxOfKernel b'.kid)) hgroup htiles
    have hexec := exec_priorityPreemption_of_victim hk hwaited hactive hhalt hvictim hb
    rw [hl] at hexec
    exact ⟨_, x, hexec, rfl, rfl, hx, hprio, hpart, hst⟩
  · subst hc
    exact exec_hangWatchdog_of_quiet
  · exact exec_hangWatchdog_of_due hc

end

section
/-! O35. The queue port (R208), QOPEN and QCLOSE (R206). -/

namespace Sys2Proof.Machine

/-! ## Queues -/

/-- A queue of a context after it is changed. -/
theorem State.queue_modQueue {s : State} {ctx q : Nat} (f : Queue → Queue) (hq : q < (s.ctx ctx).queues.length) :
    (s.modQueue ctx q f).queue ctx q = f (s.queue ctx q) := by
  simp [queue, modQueue, hq]

/-- An open queue is without a free entry beyond n reserved ones when the kernels in it and those fill its 64 (R206, R219). -/
theorem State.queueFree_le_iff {s : State} {ctx q : Nat} (hopen : (s.queue ctx q).opened = true) (n : Nat) :
    s.queueFree ctx q ≤ n ↔ 64 ≤ (s.entries ctx q).length + n := by
  rw [queueFree, if_pos hopen]
  omega

/-! ## The queue port (R208) -/

section
variable {s : State} {ctx q off : Nat} {data : List Byte}

/-- A CLOSED queue takes no beat (R208). -/
theorem exec_queuePortBeat_of_closed (hclosed : (s.queue ctx q).opened = false) : exec (.queuePortBeat ctx q off data) s = .next s := by
  simp [exec, execQueuePortBeat, hclosed]

variable (hopen : (s.queue ctx q).opened = true)
include hopen

/-- A write to the port that is no beat sets TORN (R208). -/
theorem exec_queuePortBeat_of_misfit (hmisfit : data.length ≠ 64 ∨ off % 64 ≠ 0 ∨ 512 ≤ off) :
    exec (.queuePortBeat ctx q off data) s = .next (s.modQueue ctx q fun x => { x with torn := true }) := by
  simp [exec, execQueuePortBeat, hopen, hmisfit]

variable (hsize : data.length = 64)
include hsize

/-- A beat before the last is gathered at its place (R208). -/
theorem exec_queuePortBeat_of_early (halign : off % 64 = 0) (hoff : off < 448) :
    exec (.queuePortBeat ctx q off data) s = .next (s.modQueue ctx q fun x => { x with beats := tset (s.queue ctx q).beats (off / 64) data }) := by
  have hfits : ¬ (data.length ≠ 64 ∨ off % 64 ≠ 0 ∨ 512 ≤ off) := by omega
  have hearly : off ≠ 0x1C0 := by omega
  simp [exec, execQueuePortBeat, hopen, hfits, hearly]

variable {beats : List (Nat × List Byte)} (hbeats : tset (s.queue ctx q).beats 7 data = beats)
include hbeats

/-- The last beat with one of the others missing discards the record and sets TORN (R208). -/
theorem exec_queuePortBeat_of_torn (hlen : beats.length ≠ 8) :
    exec (.queuePortBeat ctx q 448 data) s = .next (s.modQueue ctx q fun x => { x with beats := [], torn := true }) := by
  simp [exec, execQueuePortBeat, hopen, hsize, hbeats, hlen]

/-- The last beat of a whole record with no entry left for it discards the record and sets QOVF (R208, R219). -/
theorem exec_queuePortBeat_of_full (hlen : beats.length = 8) (hfull : 64 ≤ (s.entries ctx q).length + (s.queue ctx q).waiting.length) :
    exec (.queuePortBeat ctx q 448 data) s = .next (s.modQueue ctx q fun x => { x with beats := [], qovf := true }) := by
  have hfree := (State.queueFree_le_iff hopen _).2 hfull
  simp [exec, execQueuePortBeat, hopen, hsize, hbeats, hlen, hfree]

/-- The last beat of a whole record with an entry left for it commits the record (R208, R209). -/
theorem exec_queuePortBeat_of_room (hlen : beats.length = 8) (hroom : (s.entries ctx q).length + (s.queue ctx q).waiting.length < 64) :
    exec (.queuePortBeat ctx q 448 data) s =
      .next ((s.commitRecord ctx q (beats.flatMap (·.2)) none none).modQueue ctx q fun x => { x with beats := [] }) := by
  have hfree : ¬ s.queueFree ctx q ≤ (s.queue ctx q).waiting.length := fun h => Nat.not_le.2 hroom ((State.queueFree_le_iff hopen _).1 h)
  simp [exec, execQueuePortBeat, hopen, hsize, hbeats, hlen, hfree]

end

/-! ## QOPEN and QCLOSE (R206) -/

/-- A queue command that a check refuses leaves only its status (R206, R402). -/
theorem exec_queueCommand_of_refused {s : State} {part ctx q prio st : Nat} (hst : s.queueCommand part ctx = st) (hrefused : st ≠ 0) :
    ∀ i ∈ [Instr.qopen part ctx q prio, .qclose part ctx q], exec i s = .next (s.drStatus st) := by
  obtain ⟨n, rfl⟩ := Nat.exists_eq_succ_of_ne_zero hrefused
  simp [exec, execQopen, execQclose, hst]

section
variable {s : State} {part ctx q : Nat}

/-- A partition that does not run contexts refuses queue commands with BADSTATE, before their arguments are tested (R402). -/
theorem State.queueCommand_of_not_live (hlive : s.partLive part = false) : s.queueCommand part ctx = 3 := by
  simp [queueCommand, hlive]

variable (hlive : s.partLive part = true)
include hlive

/-- A FREE context or one of another partition is a bad argument of a queue command (R206). -/
theorem State.queueCommand_of_foreign (h : (s.ctx ctx).st = .free ∨ (s.ctx ctx).part ≠ part) : s.queueCommand part ctx = 9 := by
  simp [queueCommand, hlive, h]

variable (hst : (s.ctx ctx).st ≠ .free) (hpart : (s.ctx ctx).part = part)
include hst hpart

/-- A context that is BOUND or DEAD is in no state for a queue command (R206). -/
theorem State.queueCommand_of_bound_or_dead (h : (s.ctx ctx).st = .bound ∨ (s.ctx ctx).st = .dead) : s.queueCommand part ctx = 3 := by
  simp [queueCommand, hlive, hst, hpart, h]

/-- A queue command may act on a context of the partition that is past BOUND and not DEAD (R206). -/
theorem State.queueCommand_of_past_bound (hbound : (s.ctx ctx).st ≠ .bound) (hdead : (s.ctx ctx).st ≠ .dead) :
    s.queueCommand part ctx = 0 := by
  simp [queueCommand, hlive, hst, hpart, hbound, hdead]

end

section
variable {s : State} {part ctx q : Nat} (haccepted : s.queueCommand part ctx = 0)
include haccepted

/-- QOPEN opens a queue with its priority; one that is open keeps what it holds (R206). -/
theorem exec_qopen_of_accepted (prio : Nat) : exec (.qopen part ctx q prio) s = .next ((s.modQueue ctx q fun x =>
    { (if x.opened then x else Queue.closed) with opened := true, prio := prio % 8 }).drStatus 2) := by
  simp [exec, execQopen, haccepted]

/-- QCLOSE closes an open queue and leaves one that is CLOSED (R206). -/
theorem exec_qclose_of_accepted : exec (.qclose part ctx q) s =
    .next ((if (s.queue ctx q).opened then s.closeQueue ctx q else s).drStatus 2) := by
  simp [exec, execQclose, haccepted]

end

/-- What closing a queue does to a kernel: one that holds an entry leaves the queue, and a QUEUED one is DISCARDED (R206). -/
def Kernel.leaveQueue (ctx q : Nat) (k : Kernel) : Kernel :=
  if k.ctx = ctx ∧ k.queue = q ∧ k.inQueue = true then
    { k with inQueue := false, kst := if k.kst = .queued then .discarded else k.kst }
  else k

/-- The kernels after a queue is closed (R206). -/
theorem State.closeQueue_kernels (s : State) (ctx q : Nat) : (s.closeQueue ctx q).kernels = s.kernels.map (Kernel.leaveQueue ctx q) := rfl

/-- A queue that is closed is CLOSED. -/
theorem State.closeQueue_queue {s : State} {ctx q : Nat} (hq : q < (s.ctx ctx).queues.length) : (s.closeQueue ctx q).queue ctx q = Queue.closed :=
  State.queue_modQueue (s := { s with kernels := s.kernels.map (Kernel.leaveQueue ctx q) }) _ hq

end Sys2Proof.Machine

open Sys2Proof Sys2Proof.Machine

/-- Settles O35: a write to the port and a queue command each change one queue, by the case of their checks. -/
theorem queuePortsAndCommands : Obligations.QueuePortsAndCommands := by
  refine ⟨fun s ctx q off data c hc hlen hq => ?_, fun s part ctx q prio c hc hlen hq => ?_⟩
  · subst hc
    have hqueue (f : Queue → Queue) : (s.modQueue ctx q f).queue ctx q = f (s.queue ctx q) := State.queue_modQueue f (hlen ▸ hq)
    refine ⟨exec_queuePortBeat_of_closed, fun hopen hmisfit => ?_, fun hopen hsize halign hoff => ?_, fun hopen hsize hoff => ?_⟩
    · exact ⟨_, exec_queuePortBeat_of_misfit hopen hmisfit, hqueue _, rfl⟩
    · exact ⟨_, exec_queuePortBeat_of_early hopen hsize halign hoff, hqueue _, rfl⟩
    · subst hoff
      refine ⟨fun hbeats => ?_, fun hbeats hfull => ?_, fun hbeats hroom => ?_⟩
      · exact ⟨_, exec_queuePortBeat_of_torn hopen hsize rfl hbeats, hqueue _, rfl⟩
      · exact ⟨_, exec_queuePortBeat_of_full hopen hsize rfl hbeats hfull, hqueue _, rfl⟩
      · refine ⟨_, exec_queuePortBeat_of_room hopen hsize rfl hbeats hroom, ?_, rfl, rfl⟩
        exact State.queue_modQueue (s := s.commitRecord ..) _ (hlen ▸ hq)
  · subst hc
    have hqueue : q < (s.ctx ctx).queues.length := hlen ▸ hq
    refine ⟨fun hlive => ?_, fun hlive hforeign => ?_, fun hlive hst hpart hstate => ?_, fun hlive hst hpart hbound hdead => ?_⟩
    · exact exec_queueCommand_of_refused (State.queueCommand_of_not_live hlive) (by decide)
    · exact exec_queueCommand_of_refused (State.queueCommand_of_foreign hlive hforeign) (by decide)
    · exact exec_queueCommand_of_refused (State.queueCommand_of_bound_or_dead hlive hst hpart hstate) (by decide)
    · have haccepted := State.queueCommand_of_past_bound hlive hst hpart hbound hdead
      refine ⟨⟨_, exec_qopen_of_accepted haccepted prio, rfl, rfl, State.queue_modQueue _ hqueue⟩, _, exec_qclose_of_accepted haccepted, ?_⟩
      by_cases hopen : (s.queue ctx q).opened = true
      · rw [if_pos hopen]
        refine ⟨rfl, rfl, congrArg Queue.opened (State.closeQueue_queue hqueue), fun k y hk => ?_⟩
        show (s.closeQueue ctx q).kernels[k]? = _
        simp [State.closeQueue_kernels, Kernel.leaveQueue, hk, hopen]
      · rw [if_neg hopen]
        exact ⟨rfl, rfl, Bool.eq_false_of_not_eq_true hopen, fun k y hk => hk.trans (by simp [hopen])⟩

end

section
/-! O34. A LAUNCH whose record waits for a page keeps its turn (R219): the stamp of its wait is the one that the package has reached
after the release and the reads of the record, which may draw stamps of their own. -/

namespace Sys2Proof.Machine

/-! ## What accesses leave of an agent -/

/-- An access leaves the issue. -/
theorem Touches.issue {s t : State} (h : Touches s t) : t.issue = s.issue := (congrArg State.issue h.rest :)

/-- An access leaves streams. -/
theorem Touches.streams {s t : State} (h : Touches s t) : t.streams = s.streams := (congrArg State.streams h.rest :)

/-- An access leaves the queues of a context. -/
theorem Touches.ctx_queues {s t : State} (h : Touches s t) (c : Nat) : (t.ctx c).queues = (s.ctx c).queues :=
  (congrArg Ctx.queues (h.ctx c) :)

/-- An access leaves the block of a group. -/
theorem Touches.bidOf {s t : State} (h : Touches s t) (who : Agent) : t.bidOf who = s.bidOf who := by
  cases who with
  | stream sid => rfl
  | group gid =>
    have hbid := congrArg (fun l : List Group => (l[gid]?).map Group.bid) h.groups
    simpa [State.bidOf, Group.noMon, Function.comp_def] using hbid

/-- An access leaves the wait of a thread. -/
theorem Touches.thread_wait {s t : State} (h : Touches s t) (gid ti : Nat) :
    (t.thread? gid ti).map Thread.wait = (s.thread? gid ti).map Thread.wait := by
  have hwait := congrArg (fun l : List Group => (l[gid]?).bind fun g => (g.threads[ti]?).map Thread.wait) h.groups
  simpa [State.thread?, Group.noMon, Option.map_bind, Option.bind_map, Function.comp_def] using hwait

/-- An access leaves the stamp under which the agent of the issue waits. -/
theorem Touches.waitStamp {s t : State} (h : Touches s t) : t.waitStamp = s.waitStamp := by
  have hlane : ((t.issue.lanes.head?).bind fun l => t.thread? l.1 l.2).map Thread.wait =
      ((s.issue.lanes.head?).bind fun l => s.thread? l.1 l.2).map Thread.wait := by
    rw [h.issue]
    cases s.issue.lanes.head? with
    | none => rfl
    | some l => exact h.thread_wait l.1 l.2
  unfold State.waitStamp
  rw [hlane, h.issue, h.streams]

/-- The reads of a launch record are accesses (R219). -/
theorem Touches.readRecord (s : State) (a : Acc) (bid : Option Nat) (l : List (Nat × Nat)) : Touches s (s.readRecord a bid l).1 := by
  induction l generalizing s with
  | nil => exact refl s
  | cons p l ih =>
    have hlook := lookRead s a .read p.1 p.2 false bid
    rcases hl : s.lookRead a .read p.1 p.2 false bid with ⟨t, o⟩
    rw [hl] at hlook
    rw [State.readRecord]
    cases o with
    | fault c => simpa [hl] using hlook
    | wait => simpa [hl] using hlook
    | poison => simpa [hl] using hlook
    | ok pa e => simpa [hl] using (hlook.trans (readPa t a e pa p.2 0 false bid)).trans (ih _)

/-! ## Queues and waits -/

/-- An agent that waits leaves the queues as they are. -/
@[simp] theorem State.waitU_queue (s : State) (ctx q : Nat) : s.waitU.queue ctx q = s.queue ctx q := by
  unfold State.waitU
  cases s.issue.who <;> rfl

/-- A stamp joins those of the LAUNCHes that wait at a queue (R219). -/
def Queue.join (k : Nat) (x : Queue) : Queue := { x with waiting := x.waiting ++ [k] }

/-- Two stamps that join a queue alike are one. -/
theorem State.stamp_eq_of_join_eq {s : State} {ctx q k l : Nat} (hq : q < (s.ctx ctx).queues.length)
    (h : (s.modQueue ctx q (Queue.join k)).waitU = (s.modQueue ctx q (Queue.join l)).waitU) : k = l := by
  have hwaiting := congrArg (fun t : State => (t.queue ctx q).waiting) h
  simpa [queue_modQueue _ hq, Queue.join] using hwaiting

/-! ## LAUNCH (R219) -/

/-- The record at an offset of a grant as a LAUNCH of the agent reads it, behind its release at PART (R219). -/
def State.launchRead (s : State) (gt : Grant) (off : Nat) : State × LaneEnd × List Byte :=
  (s.release (s.accOf s.issue.who) 3).readRecord (s.accOf s.issue.who) (s.bidOf s.issue.who) (alignedPieces (gt.base + off) 512)

/-- A LAUNCH's release and reads are accesses. -/
theorem Touches.launchRead (s : State) (gt : Grant) (off : Nat) : Touches s (s.launchRead gt off).1 :=
  (release s _ _).trans (readRecord _ _ _ _)

/-- A first LAUNCH whose record waits for a page joins its queue under the stamp that the package has reached after the reads. -/
theorem exec_launch_of_read_waits {s : State} {g q gr : BitVec 4} {a : BitVec 8} {u : UFile} {ctx off : Nat} {gt : Grant}
    (hu : s.ufile s.issue.who = some u) (hctx : s.ctxOf s.issue.who = ctx) (hoff : (u.getS a.toNat).toNat = off) (hgt : u.getG gr.toNat = gt)
    (hguard : u.guard g = true) (hreplay : s.replayOf s.issue.who = []) (hfresh : s.waitStamp = none)
    (hopen : (s.queue ctx q.toNat).opened = true) (hgrant : grantCheck (s.accOf s.issue.who) gt gt.rd off 512 = none) (halign : off % 64 = 0)
    (hroom : (s.entries ctx q.toNat).length + (s.queue ctx q.toNat).waiting.length < 64) (hwait : (s.launchRead gt off).2.1 = .wait) :
    exec (.launch g a q gr) s =
      .next ((s.launchRead gt off).1.modQueue ctx q.toNat (Queue.join (s.launchRead gt off).1.hub.stamp)).waitU := by
  subst hctx hoff hgt
  have hperform (addr : Nat) : s.replayOp s.issue.who none 4 addr = (s, .perform) := by simp [State.replayOp, hreplay]
  have hrelease : Touches s (s.release (s.accOf s.issue.who) 3) := .release ..
  have hahead (x : Queue) : x.ahead none = x.waiting.length := rfl
  have hfree : ¬ s.queueFree (s.ctxOf s.issue.who) q.toNat ≤ (s.queue (s.ctxOf s.issue.who) q.toNat).waiting.length :=
    fun h => Nat.not_le.2 hroom ((State.queueFree_le_iff hopen _).1 h)
  have hstamp := (Touches.launchRead s (u.getG gr.toNat) (u.getS a.toNat).toNat).waitStamp.trans hfresh
  rcases hread : s.launchRead (u.getG gr.toNat) (u.getS a.toNat).toNat with ⟨t, r, bytes⟩
  rw [hread] at hwait hstamp
  subst hwait
  unfold State.launchRead at hread
  simp [exec, execLaunch, hu, hguard, hperform, hopen, hgrant, halign, hfresh, hahead, hfree, hrelease.issue, hrelease.bidOf, hread, hstamp]
  rfl

/-! ## A record on a host page that is not there -/

/-- A kernel of context 0 that holds an entry of queue 1. -/
def launchingKernel : Kernel :=
  { ctx := 0, queue := 1, inQueue := true, record := List.replicate 512 0, kst := .draining, parent := none, parentGrants := none,
    positions := [], code := 0, retired := 0, faulted := 0, prio := 0 }

/-- Uniform registers that hold 0, beside grants over 64 KiB from 0x10000 with RD, W and A. -/
def launchingFile : UFile :=
  { s := List.replicate 192 0, q := 0, g := List.replicate 16 (Grant.make 0x10000 65536 7 0 0 0 0), gdflag := 0, pend := [] }

/-- A stream of that kernel on die 0. -/
def launchingStream : Stream :=
  { kid := 0, pos := 0, die := 0, clu := 0, sst := .running, pc := 0, u := launchingFile, rstack := [], hcsp := none, tps := [], tileSeq := 0,
    rgWait := none, wait := .none, trap := TrapRec.zero, standing := none, snapLatest := none, snapWriting := none, log := [], replay := [] }

/-- Context 0 runs with its queue 0 OPEN. -/
def launchingCtx : Ctx := { Ctx.free with st := .running, queues := Ctx.free.queues.set 0 { Queue.closed with opened := true } }

/-- A line of class SYN with one byte that is dirty. -/
def dirtyLine : L2Line :=
  { cls := 1, part := 0, tag := 0, slice := 0, way := 0, age := 0, keep := false, owned := false, poison := false, counted := false,
    cells := [(0, { val := 1, dirty := true })] }

/-- The translation of the grants' page: a leaf with RD over the first frame of host memory. -/
def hostPage : TlbEntry := { die := 0, core := none, asid := 0, base := 0x10000, lvl := 0, leaf := 0xD208000000000000 }

/-- The stream issues, die 0 holds line 0 dirty, and the host has unmapped the page that the grants name. -/
def launchingState : State :=
  { State.reset with
    ctxs := [(0, launchingCtx)], kernels := [launchingKernel], streams := [launchingStream], l2 := [(0, dirtyLine)], tlb := [hostPage],
    hub := { Hub.reset with absent := [2 ^ 39] }, issue := { Issue.idle with who := .stream 0, next := 8 } }

/-- The package after the release and the reads of a record at offset 0. -/
def launchingRead : State := (launchingState.launchRead (launchingFile.getG 0) 0).1

/-- The record waits for the host's page, and the line that the release wrote back has drawn a stamp for its age in the rim cache. -/
theorem launchingState_read :
    (launchingState.launchRead (launchingFile.getG 0) 0).2.1 = .wait ∧ launchingState.hub.stamp = 0 ∧
      launchingRead.hub.stamp = 1 := by decide +kernel

/-- What the checks of LAUNCH and the queue's room ask of the state. -/
theorem launchingState_passes :
    launchingState.waitStamp = none ∧ (launchingState.queue 0 0).opened = true ∧ launchingState.entries 0 0 = [] ∧
      grantCheck (launchingState.accOf (.stream 0)) (launchingFile.getG 0) (launchingFile.getG 0).rd 0 512 = none := by decide +kernel

end Sys2Proof.Machine

open Sys2Proof Sys2Proof.Machine

/-- Refutes O34: of a first LAUNCH whose record waits for a page, the statement puts into the queue the stamp that stood before the
release and the reads, which may draw stamps. In `launchingState` the release writes one dirty line back to a new line of the rim cache,
whose age takes a stamp; the record then waits for a page that the host has unmapped, under stamp 1, where the statement says 0. -/
theorem not_eventCountersAndLaunches : ¬ Obligations.EventCountersAndLaunches := by
  intro h
  obtain ⟨-, hlaunch⟩ := h
  obtain ⟨hwait, hbefore, hafter⟩ := launchingState_read
  obtain ⟨hfresh, hopen, hempty, hgrant⟩ := launchingState_passes
  have hguard : launchingFile.guard 14 = true := rfl
  have hroom : (launchingState.entries 0 0).length + 0 < 64 := by rw [hempty]; decide
  obtain ⟨-, -, hissues, -⟩ := hlaunch launchingState 14 0 0 0 0 0 launchingFile launchingKernel rfl rfl rfl
  obtain ⟨-, -, -, -, hroomy⟩ := hissues hguard
  obtain ⟨-, hstays, -⟩ := hroomy ⟨hopen, hgrant, rfl⟩ hroom
  have hmodel : exec (.launch 14 0 0 0) launchingState = .next (launchingRead.modQueue 0 0 (Queue.join launchingRead.hub.stamp)).waitU :=
    exec_launch_of_read_waits rfl rfl rfl rfl hguard rfl hfresh hopen hgrant rfl hroom hwait
  have hstatement : exec (.launch 14 0 0 0) launchingState = .next (launchingRead.modQueue 0 0 (Queue.join launchingState.hub.stamp)).waitU :=
    (hstays hwait).trans (congrArg Host.Outcome.next (if_neg (by simp [hfresh])))
  have hqueues : 0 < (launchingRead.ctx 0).queues.length := by
    rw [launchingRead, (Touches.launchRead ..).ctx_queues]
    decide
  have hstamp := State.stamp_eq_of_join_eq hqueues (Host.Outcome.next.inj (hmodel.symm.trans hstatement))
  exact absurd (hafter.symm.trans (hstamp.trans hbefore)) (by decide)

end

section
/-! O25. Fences (R238, R276), maintenance of a line (R277) and its prefetch (R278), each for the one lane or the agent that issues it. -/

namespace Sys2Proof
open Machine

/-! ## The issue of one lane -/

/-- A lane that was performed goes on, its wait over (R265). -/
theorem Machine.Issue.done_eq (i : Issue) : i.done = doneThread i := by
  funext t
  unfold Issue.done doneThread Issue.advance
  split
  · split <;> rfl
  · rfl

namespace OneLane

variable {s : State} {g : BitVec 4} {gid ti : Nat} {x : Group} {th : Thread}

/-- The lane of the issue as it stands. -/
theorem lane? (h : OneLane s g gid ti x th) : s.lane? gid ti = some { g := x, ti := ti, t := th } := by
  simp [State.lane?, State.thread?, h.group, h.thread]

/-- The one lane passes its guard. -/
theorem guardedLanes (h : OneLane s g gid ti x th) : s.guardedLanes g = (s, [(gid, ti)]) := by
  simp [State.guardedLanes, h.lanes, h.lane?, h.guard]

/-- An issue of one lane is not cut before it. -/
theorem leaves (h : OneLane s g gid ti x th) (l t : Nat) : s.issue.leaves l t = false := by
  unfold Issue.leaves
  cases s.issue.cut <;> simp [h.lanes]

/-- The lane is performed and goes on. -/
theorem performLanes_of_done (h : OneLane s g gid ti x th) {perform : State → Nat → Nat → Lane → State × LaneEnd} {t : State}
    (hdone : perform s gid ti { g := x, ti := ti, t := th } = (t, .done)) :
    performLanes perform [(gid, ti)] s = t.modThread gid ti (doneThread t.issue) := by
  simp [performLanes, h.lane?, h.leaves, hdone, Issue.done_eq]

end OneLane
end Sys2Proof

namespace Sys2Proof.Machine

/-! ## Scopes (R226, R227) -/

/-- A scope that is not SYS outside a privileged context stands. -/
theorem State.scopeCheck_of_free {s : State} {who : Agent} {scope : BitVec 3} (h : scopeFree s who scope) :
    s.scopeCheck who scope.toNat = some (scope.toNat, false) := by
  have hne : scope.toNat ≠ 4 ∨ (s.ctx (s.ctxOf who)).priv = true := h.imp_left fun hs e => hs (BitVec.eq_of_toNat_eq e)
  exact if_pos hne

/-- SYS outside a privileged context is refused under a strict context, launch or partition, else it acts at PART (R227). -/
theorem State.scopeCheck_sys {s : State} {who : Agent} {k : Kernel} (hk : s.kernels[s.kidOf who]? = some k)
    (hpriv : (s.ctx (s.ctxOf who)).priv = false) :
    s.scopeCheck who 4 = if (s.ctx (s.ctxOf who)).strict = true ∨ k.strict = true ∨
      (s.part (s.ctx (s.ctxOf who)).part).mode.getLsbD 2 = true then none else some (3, true) := by
  simp [State.scopeCheck, hk, hpriv]

/-- What an agent's accesses carry comes from its block or stream, its kernel, and its context's partition and way class. -/
theorem State.accOf_congr {s t : State} (hbid : ∀ who, t.bidOf who = s.bidOf who) (hblocks : t.blocks = s.blocks)
    (hstreams : t.streams = s.streams) (hkernels : t.kernels = s.kernels) (hpart : ∀ c, (t.ctx c).part = (s.ctx c).part)
    (hwaycl : ∀ c, (t.ctx c).waycl = (s.ctx c).waycl) (who : Agent) : t.accOf who = s.accOf who := by
  have haccAt (c d k : Nat) (core : Option Nat) : t.accAt c d k core = s.accAt c d k core := by
    simp [State.accAt, hpart, hwaycl]
  cases who with
  | stream sid => simp only [State.accOf, State.ctxOfKernel, hstreams, hkernels, haccAt]
  | group gid =>
    have hblock : (t.groups[gid]?).bind (fun g => t.blocks[g.bid]?) = (s.groups[gid]?).bind fun g => s.blocks[g.bid]? := by
      have hb := congrArg (Option.bind · fun b => s.blocks[b]?) (hbid (.group gid))
      simpa [State.bidOf, Option.bind_map, Function.comp_def, hblocks] using hb
    simp only [State.accOf, State.ctxOfKernel, hblock, hkernels, haccAt]

/-- An access leaves what an agent's accesses carry. -/
theorem Touches.accOf {s t : State} (h : Touches s t) (who : Agent) : t.accOf who = s.accOf who :=
  State.accOf_congr h.bidOf h.blocks h.streams h.kernels (fun c => (congrArg Ctx.part (h.ctx c) :))
    (fun c => (congrArg Ctx.waycl (h.ctx c) :)) who

/-- A clamped issue is counted once, with its PC (R227). -/
theorem State.clamped_true (s : State) (who : Agent) : s.clamped who true = if s.issue.again then s else
    s.modCtx (s.ctxOf who) fun c => { c with clampN := c.clampN + 1, clampPc := some s.issue.pc } := by
  cases h : s.issue.again <;> simp [State.clamped, h]

@[simp] theorem State.clamped_false (s : State) (who : Agent) : s.clamped who false = s := rfl

@[simp] theorem State.clamped_issue (s : State) (who : Agent) (c : Bool) : (s.clamped who c).issue = s.issue := by
  unfold State.clamped; split <;> rfl

@[simp] theorem State.clamped_groups (s : State) (who : Agent) (c : Bool) : (s.clamped who c).groups = s.groups := by
  unfold State.clamped; split <;> rfl

/-- The count of a clamped issue leaves what an agent's accesses carry. -/
@[simp] theorem State.accOf_clamped (s : State) (who : Agent) (c : Bool) (w : Agent) : (s.clamped who c).accOf w = s.accOf w := by
  have hctx (c' : Nat) : ((s.clamped who c).ctx c').part = (s.ctx c').part ∧ ((s.clamped who c).ctx c').waycl = (s.ctx c').waycl := by
    unfold State.clamped
    split
    · rw [State.ctx_modCtx]; split <;> simp [*]
    · exact ⟨rfl, rfl⟩
  refine State.accOf_congr (fun v => ?_) ?_ ?_ ?_ (fun d => (hctx d).1) (fun d => (hctx d).2) w
  · cases v <;> simp [State.bidOf]
  all_goals unfold State.clamped; split <;> rfl

/-! ## Fences (R238, R276) -/

/-- BLOCK named by a cadence stream acts as CLUSTER (R226). -/
theorem scopeOf_eq (who : Agent) (m : Nat) : scopeOf who m = if isStream who then max m 1 else m := by
  cases who <;> rfl

/-- A UFENCE whose guard is false only goes on (R45). -/
theorem exec_ufence_of_skipped {s : State} {g : BitVec 4} {u : UFile} (hu : s.ufile s.issue.who = some u) (hguard : u.guard g = false)
    (kind : BitVec 2) (scope : BitVec 3) : exec (.ufence g kind scope) s = .next s.advanceU := by
  simp [exec, execUfence, State.uguard, hu, hguard]

section
variable {s : State} {g : BitVec 4} {u : UFile} {scope : BitVec 3}

/-- A UFENCE whose scope is refused traps (R227). -/
theorem exec_ufence_of_refused (hu : s.ufile s.issue.who = some u) (hguard : u.guard g = true)
    (hscope : s.scopeCheck s.issue.who scope.toNat = none) (kind : BitVec 2) :
    exec (.ufence g kind scope) s = .next (s.trapU .scope 0) := by
  simp [exec, execUfence, State.uguard, hu, hguard, hscope]

/-- A UFENCE fences at its scope, and the agent goes on (R276). -/
theorem exec_ufence_of_scope {sc : Nat} {cl : Bool} (hu : s.ufile s.issue.who = some u) (hguard : u.guard g = true)
    (hscope : s.scopeCheck s.issue.who scope.toNat = some (sc, cl)) (kind : BitVec 2) :
    exec (.ufence g kind scope) s = .next ((s.clamped s.issue.who cl).fence s.issue.who kind sc).advanceU := by
  simp [exec, execUfence, State.uguard, hu, hguard, hscope]

end

end Sys2Proof.Machine

namespace Sys2Proof
open Machine

variable {s : State} {g : BitVec 4} {gid ti : Nat} {x : Group} {th : Thread}

/-- A FENCE of one lane whose scope is refused traps it (R227). -/
theorem OneLane.exec_fence_of_refused (h : OneLane s g gid ti x th) {scope : BitVec 3}
    (hscope : s.scopeCheck (.group gid) scope.toNat = none) (kind : BitVec 2) :
    exec (.fence g kind scope) s = .next (s.standAt gid ti .scope false 0) := by
  simp [exec, execFence, h.guardedLanes, hscope, State.trapLane, Cause.isUser]

/-- A FENCE of one lane fences at its scope, and the lane goes on (R276). -/
theorem OneLane.exec_fence_of_scope (h : OneLane s g gid ti x th) {scope : BitVec 3} {sc : Nat} {cl : Bool}
    (hscope : s.scopeCheck (.group gid) scope.toNat = some (sc, cl)) (kind : BitVec 2) :
    exec (.fence g kind scope) s =
      .next (((s.clamped (.group gid) cl).fence (.group gid) kind sc).modThread gid ti (doneThread s.issue)) := by
  simp [exec, execFence, h.guardedLanes, hscope, Issue.done_eq]

end Sys2Proof

namespace Sys2Proof.Machine

/-! ## Cache maintenance (R277) -/

/-- The lines of host memory (R354). -/
theorem paKind_eq_host_iff (pa : Nat) : paKind pa = .host ↔ 2 ^ 44 ≤ lineOf pa ∧ lineOf pa < 2 ^ 45 := by
  unfold paKind lineOf deviceTop
  split
  · simp; omega
  · split
    · simp; omega
    · split <;> simp <;> omega

/-- A host line is in the rim cache that its number names (R13). -/
theorem rimDie_of_host {pa : Nat} (h : paKind pa = .host) : rimDie pa = some (8 + lineOf pa % 4) := by
  simp [rimDie, h]

/-- CFLUSH and CINV at BLOCK do nothing (R277). -/
theorem State.maintain_block (s : State) (a : Acc) (cls : BitVec 2) (home pa : Nat) {scope : Nat} (hscope : scope = 0) (inv : Bool) :
    s.maintain a cls home pa scope inv = s := if_pos hscope

/-- CFLUSH beyond BLOCK (R277): from PART on the line is written back, and its words are owned by no L1 of the die. -/
theorem State.maintain_flush (s : State) (a : Acc) (cls : BitVec 2) (home pa : Nat) {scope : Nat} (hscope : scope ≠ 0) :
    s.maintain a cls home pa scope false =
      (if scope < 3 then s else s.writeBack (l2Die a cls home) (lineOf pa)).unown (l2Die a cls home) (lineOf pa) none 0 128 := by
  by_cases h : scope < 3
  · simp [State.maintain, hscope, h, show ¬ 3 ≤ scope by omega]
  · simp [State.maintain, hscope, h, show 3 ≤ scope by omega, State.cleanLine]

/-- CINV beyond BLOCK (R277): behind the flush the words that L1s of the die owned and those of the core's L1 are dropped, from
PART on the line of the L2, and at SYS a host line of the rim. -/
theorem State.maintain_invalidate (s : State) (a : Acc) (cls : BitVec 2) (home pa : Nat) {scope : Nat} (hscope : scope ≠ 0) :
    s.maintain a cls home pa scope true =
      let lost := (s.maintain a cls home pa scope false).filterL1 fun c l off _ => !(l == lineOf pa && (some c == a.core ||
        (coreDie c == l2Die a cls home && ((s.l1Line? c (lineOf pa)).map fun y => ownsWord y.cells off).getD false)))
      if scope < 3 then lost
      else if 4 ≤ scope ∧ 2 ^ 44 ≤ lineOf pa ∧ lineOf pa < 2 ^ 45 then
        (lost.dropLine (l2Die a cls home) (lineOf pa)).dropLine (8 + lineOf pa % 4) (lineOf pa)
      else lost.dropLine (l2Die a cls home) (lineOf pa) := by
  simp only [← paKind_eq_host_iff]
  by_cases h : scope < 3
  · simp [State.maintain, hscope, h, show ¬ 3 ≤ scope by omega]
  · by_cases hhost : 4 ≤ scope ∧ paKind pa = .host
    · simp [State.maintain, hscope, h, show 3 ≤ scope by omega, hhost, rimDie_of_host hhost.2]
    · simp [State.maintain, hscope, h, show 3 ≤ scope by omega, hhost]

end Sys2Proof.Machine

namespace Sys2Proof
open Machine

namespace OneLane

variable {s : State} {g : BitVec 4} {gid ti : Nat} {x : Group} {th : Thread}

/-- A lane whose checks pass and whose address is found acts there and goes on (R264, R265). -/
theorem laneMem_of_look_ok (h : OneLane s g gid ti x th) {scope : BitVec 3} (hscope : scopeFree s (.group gid) scope) {kind : AccKind}
    {perm : Grant → Bool} {acc : Lane → LaneAcc} {act : Nat → State → Nat → Nat → Lane → Nat → BitVec 64 → State} {u : State} {pa : Nat}
    {e : BitVec 64} (hcheck : (acc { g := x, ti := ti, t := th }).check (s.accOf (.group gid)) perm = none)
    (hlook : s.look (s.accOf (.group gid)) kind (acc { g := x, ti := ti, t := th }).va = (u, .ok pa e)) :
    let t := act scope.toNat u gid ti { g := x, ti := ti, t := th } pa e
    s.laneMem g scope.toNat kind none perm acc act = t.modThread gid ti (doneThread t.issue) := by
  intro t
  simp only [State.laneMem, h.guardedLanes, State.scopeCheck_of_free hscope, State.clamped_false, List.filterMap_cons, h.lane?,
    Option.bind_some, hcheck, Option.map_none, List.filterMap_nil, ne_eq, not_true_eq_false, if_false]
  exact h.performLanes_of_done (by simp [State.lookFor, hlook, t])

/-- The maintenance of a lane whose byte is found acts on its line with what the agent's accesses carry (R277). -/
theorem laneMaint_of_look_ok (h : OneLane s g gid ti x th) {scope : BitVec 3} (hscope : scopeFree s (.group gid) scope) {gr : BitVec 4}
    {a : BitVec 7} {o64 : BitVec 1} {imm : BitVec 12} {u : State} {pa : Nat} {e : BitVec 64} {y : LaneAcc}
    (hy : Lane.access { g := x, ti := ti, t := th } gr a o64 (disp12 imm 1) 1 = y)
    (hcheck : y.check (s.accOf (.group gid)) (·.rd) = none)
    (hlook : s.look (s.accOf (.group gid)) .flush y.va = (u, .ok pa e)) (inv : Bool) :
    s.laneMaint g a o64 gr scope imm inv = (u.maintain (s.accOf (.group gid)) (leafCls e) (u.rucHome (s.accOf (.group gid)) e)
      (u.replicaPa e pa) scope.toNat inv).modThread gid ti (doneThread s.issue) := by
  subst hy
  have hu : Touches s u := by
    have ht := Touches.look s (s.accOf (.group gid)) .flush (Lane.access { g := x, ti := ti, t := th } gr a o64 (disp12 imm 1) 1).va
    rwa [hlook] at ht
  unfold State.laneMaint
  rw [h.laneMem_of_look_ok (acc := fun l => l.access gr a o64 (disp12 imm 1) 1) hscope hcheck hlook]
  simp only [hu.accOf, (Touches.maintain ..).issue, hu.issue]

end OneLane
end Sys2Proof

namespace Sys2Proof.Machine

/-! ## What a fetch leaves

An access that has its translation asks for none, so that beside what every access leaves it leaves these. -/

/-- The translation caches, the pages bound to gates, the ownership of shared pages, and the number of free values drawn. -/
def State.known (s : State) : List TlbEntry × List Binding × List (Nat × PageOwn) × Nat := (s.tlb, s.binds, s.owns, s.free)

namespace State

/-- Steps that each leave the translations known leave them together. -/
theorem known_foldl {α : Type} (l : List α) (f : State → α → State) (hf : ∀ s x, (f s x).known = s.known) (s : State) :
    (l.foldl f s).known = s.known := by
  induction l generalizing s with
  | nil => rfl
  | cons x r ih => rw [List.foldl_cons, ih, hf]

@[simp] theorem known_nextStamp (s : State) : s.nextStamp.known = s.known := rfl
@[simp] theorem known_putLine (s : State) (d l : Nat) (x : L2Line) : (s.putLine d l x).known = s.known := rfl
@[simp] theorem known_dropLine (s : State) (d l : Nat) : (s.dropLine d l).known = s.known := rfl
@[simp] theorem known_unown (s : State) (d l : Nat) (k : Option Nat) (lo hi : Nat) : (s.unown d l k lo hi).known = s.known := rfl

@[simp] theorem known_bump (s : State) (c i n : Nat) : (s.bump c i n).known = s.known := by
  unfold bump; split <;> rfl

@[simp] theorem known_countLink (s : State) (c pa n : Nat) : (s.countLink c pa n).known = s.known := by
  unfold countLink; dsimp only; split <;> simp

/-! ### The L1s -/

@[simp] theorem known_setL1 (s : State) (c l : Nat) (f : List (Nat × L1Byte) → List (Nat × L1Byte)) : (s.setL1 c l f).known = s.known := by
  unfold setL1; split <;> rfl

@[simp] theorem known_touchL1 (s : State) (c l h : Nat) : (s.touchL1 c l h).known = s.known := by
  unfold touchL1
  split
  · rfl
  · split <;> rfl

@[simp] theorem known_l1Alloc (s : State) (a : Acc) (c l : Nat) (k : Bool) : (s.l1Alloc a c l k).known = s.known := by
  unfold l1Alloc
  split
  · rfl
  · extract_lets ls t
    have ht : t.known = s.known := by
      simp only [t]
      split
      · rfl
      · split <;> rfl
    exact ht

@[simp] theorem known_l1Fill (s : State) (a : Acc) (c pa h : Nat) (all : Bool) : (s.l1Fill a c pa h all).known = s.known := by
  unfold l1Fill; dsimp only; rw [known_setL1]; split <;> simp

/-! ### The rim cache and memory -/

@[simp] theorem known_toMemory (s : State) (l : Nat) (x : L2Line) : (s.toMemory l x).known = s.known := by
  unfold toMemory
  dsimp only
  split
  · rfl
  · split
    · exact known_bump ..
    · rfl

@[simp] theorem known_rimAlloc (s : State) (r l : Nat) (a : Acc) : (s.rimAlloc r l a).known = s.known := by
  unfold rimAlloc
  split
  · rfl
  · extract_lets m
    split
    · rfl
    · extract_lets t
      have ht : t.known = s.known := by simp only [t]; split <;> simp
      exact ht

@[simp] theorem known_touch (s : State) (d l h : Nat) : (s.touch d l h).known = s.known := by
  unfold touch
  split
  · rfl
  · split <;> simp

@[simp] theorem known_rimFill (s : State) (a : Acc) (pa h : Nat) : (s.rimFill a pa h).known = s.known := by
  unfold rimFill
  split
  · rfl
  · extract_lets t sec miss u v w
    have ht : t.known = s.known := by simp [t]
    have hv : v.known = s.known := by simp only [v, u]; split <;> simp [ht]
    have hw : w.known = s.known := by simp [w, hv]
    split
    · exact ht
    · split
      · exact hv
      · split
        · exact hw
        · exact hw

@[simp] theorem known_rimTouch (s : State) (a : Acc) (pa h : Nat) : (s.rimTouch a pa h).known = s.known := by
  unfold rimTouch; rw [known_rimFill]; split <;> simp

@[simp] theorem known_homePut (s : State) (a : Acc) (l : Nat) (cs : List (Nat × Byte)) (h : Nat) : (s.homePut a l cs h).known = s.known := by
  unfold homePut
  extract_lets pa inMem
  have hmem (u : State) : (inMem u).known = u.known := rfl
  split
  · rfl
  split
  · rfl
  split
  · exact hmem s
  · extract_lets t u
    have hu : u.known = s.known := by simp only [u, t]; split <;> simp
    split
    · split <;> simp [hmem, hu]
    · dsimp only; split <;> simp [hmem, hu]

@[simp] theorem known_homeWrite (s : State) (a : Acc) (l : Nat) (cs : List (Nat × Byte)) (h : Nat) :
    (s.homeWrite a l cs h).known = s.known := by
  unfold homeWrite; dsimp only; rw [known_homePut]; split <;> simp

/-! ### The L2s -/

@[simp] theorem known_writeBack (s : State) (d l : Nat) : (s.writeBack d l).known = s.known := by
  unfold writeBack
  split
  · rfl
  · extract_lets a c t u
    have ht : t.known = s.known := by simp only [t]; split <;> simp
    have hu : u.known = t.known := by simp only [u]; split <;> rfl
    exact hu.trans ht

@[simp] theorem known_cleanLine (s : State) (d l : Nat) : (s.cleanLine d l).known = s.known := by simp [cleanLine]

@[simp] theorem known_flushLine (s : State) (d l : Nat) : (s.flushLine d l).known = s.known := by
  unfold flushLine; split <;> simp

/-- The line that an allocation replaces is written back first. -/
theorem known_evict (s : State) (d : Nat) (v : Option (Nat × L2Line)) :
    (match v with | some (k, _) => s.flushLine d (k % 2 ^ 45) | none => s).known = s.known := by
  cases v <;> simp

@[simp] theorem known_l2Alloc (s : State) (a : Acc) (d l : Nat) (c : BitVec 2) (k : Bool) : (s.l2Alloc a d l c k).known = s.known := by
  unfold l2Alloc
  split
  · rfl
  · extract_lets sl
    split
    · rfl
    · exact known_evict s d _

@[simp] theorem known_cohShare (s : State) (d l : Nat) : (s.cohShare d l).known = s.known := by
  refine known_foldl _ _ (fun s x => ?_) s
  split
  · split
    · dsimp only; split <;> simp
    · rfl
  · rfl

@[simp] theorem known_rehome (s : State) (a : Acc) (d l : Nat) : (s.rehome a d l).known = s.known := by
  unfold rehome
  split
  · rfl
  · extract_lets sl
    split
    · rfl
    · split
      · exact known_flushLine ..
      · exact known_evict s d _

@[simp] theorem known_retag (s : State) (a : Acc) (d l : Nat) : (s.retag a d l).known = s.known := by
  unfold retag
  dsimp only
  split
  · split
    · split <;> simp
    · simp
  · simp

@[simp] theorem known_countRemote (s : State) (d pa : Nat) : (s.countRemote d pa).known = s.known := by
  unfold countRemote
  dsimp only
  split
  · rfl
  · split <;> rfl

@[simp] theorem known_l2Read (s : State) (a : Acc) (c : BitVec 2) (hm pa n h : Nat) : (s.l2Read a c hm pa n h).1.known = s.known := by
  unfold l2Read
  extract_lets d line s1 s2 s3 s4 s5 sec hv need t1 t2 t3 s6
  have h2 : s2.known = s.known := by simp only [s2, s1]; split <;> simp
  have h5 : s5.known = s.known := by simp only [s5, s4, s3]; split <;> simp [h2]
  have h8 : t3.known = s.known := by simp only [t3, t2, t1]; split <;> simp [h5]
  show State.known (if _ then _ else _) = _
  split
  · split
    · exact (known_putLine ..).trans h8
    · exact h8
  · exact h5

@[simp] theorem known_prefetch (s : State) (a : Acc) (c : BitVec 2) (hm pa h : Nat) : (s.prefetch a c hm pa h).known = s.known := by
  unfold prefetch
  dsimp only
  split <;> simp

end State

/-! ## Prefetch (R278) -/

/-- What a fetch of a line with a held translation changes: of what an access may change only the caches and what they write back,
counters, reports and lost monitors. -/
structure Fetches (s t : State) : Prop extends Touches s t where
  known : t.known = s.known

namespace Fetches

variable {s t u : State}

theorem refl (s : State) : Fetches s s := ⟨.refl s, rfl⟩

/-- A line fetched in parts is fetched. -/
theorem foldl {α : Type} (l : List α) (f : State → α → State) (hf : ∀ s x, Fetches s (f s x)) (s : State) : Fetches s (l.foldl f s) :=
  ⟨.foldl l f (fun s x => (hf s x).toTouches) s, State.known_foldl l f (fun s x => (hf s x).known) s⟩

theorem rimTouch (s : State) (a : Acc) (pa h : Nat) : Fetches s (s.rimTouch a pa h) := ⟨.rimTouch .., State.known_rimTouch ..⟩

theorem prefetch (s : State) (a : Acc) (c : BitVec 2) (hm pa h : Nat) : Fetches s (s.prefetch a c hm pa h) := by
  refine ⟨?_, State.known_prefetch ..⟩
  unfold State.prefetch
  extract_lets v
  have hv : Touches s v := .l2Read ..
  split
  · exact hv
  · exact hv.trans (.l1Fill ..)

/-- Beside the caches, memory, poison, the hub, dies, contexts and groups a fetch leaves the package. -/
theorem frame (h : Fetches s t) :
    { t with ctxs := s.ctxs, l1 := s.l1, l2 := s.l2, mem := s.mem, poison := s.poison, hub := s.hub, dies := s.dies, groups := s.groups } = s := by
  obtain ⟨htlb, hbinds, howns, hfree⟩ : t.tlb = s.tlb ∧ t.binds = s.binds ∧ t.owns = s.owns ∧ t.free = s.free := by
    simpa [State.known] using h.known
  have hrest : { t.withAccess s with tlb := t.tlb, binds := t.binds, owns := t.owns, free := t.free } = s := by
    rw [h.rest, htlb, hbinds, howns, hfree]
  exact hrest

end Fetches

/-! ## Monitors (R188, R189) -/

/-- Two groups that differ in monitors only differ so after a change of a thread that does not depend on its monitor. -/
theorem Group.noMon_modThread (y : Group) (ti : Nat) {f : Thread → Thread}
    (hf : ∀ t : Thread, { f t with monitor := none } = { f { t with monitor := none } with monitor := none }) :
    (y.modThread ti f).noMon = (y.noMon.modThread ti f).noMon := by
  have hthreads : (y.threads.modify ti f).map (fun t => { t with monitor := none }) =
      ((y.threads.map fun t => { t with monitor := none }).modify ti f).map fun t => { t with monitor := none } := by
    apply List.ext_getElem?
    intro i
    simp only [List.getElem?_map, List.getElem?_modify]
    cases y.threads[i]? with
    | none => rfl
    | some t => by_cases hi : ti = i <;> simp [hi, ← hf]
  simp only [Group.modThread, Group.noMon, hthreads]

namespace Touches

variable {s t : State}

/-- A change of a thread that does not depend on its monitor keeps what an access may change. -/
theorem modThread (h : Touches s t) (gid ti : Nat) {f : Thread → Thread}
    (hf : ∀ t : Thread, { f t with monitor := none } = { f { t with monitor := none } with monitor := none }) :
    Touches (s.modThread gid ti f) (t.modThread gid ti f) where
  rest := congrArg (fun u : State => { u with groups := (s.modThread gid ti f).groups }) h.rest
  mem := h.mem
  ctx := h.ctx
  groups := by
    have hgroups (u : State) : (u.modThread gid ti f).groups.map Group.noMon =
        (u.groups.map Group.noMon).modify gid fun y => (y.modThread ti f).noMon := by
      apply List.ext_getElem?
      intro i
      simp only [State.modThread_groups, List.getElem?_map, List.getElem?_modify]
      cases u.groups[i]? with
      | none => rfl
      | some y => by_cases hi : gid = i <;> simp [hi, y.noMon_modThread ti hf]
    rw [hgroups, hgroups, h.groups]
  dies := h.dies
  hub := h.hub

/-- An access leaves of a group all but what its threads' monitors hold. -/
theorem noMon_getElem? (h : Touches s t) (k : Nat) : (t.groups[k]?).map Group.noMon = (s.groups[k]?).map Group.noMon := by
  simpa using congrArg (fun l : List Group => l[k]?) h.groups

/-- A group that stood before an access stands after it, all but its threads unchanged. -/
theorem group (h : Touches s t) {k : Nat} {y : Group} (hy : s.groups[k]? = some y) :
    ∃ y' : Group, t.groups[k]? = some y' ∧ { y' with threads := y.threads } = y := by
  have hk := h.noMon_getElem? k
  rw [hy] at hk
  obtain ⟨y', hy', hmon⟩ := Option.map_eq_some_iff.1 hk
  exact ⟨y', hy', (congrArg (fun z : Group => { z with threads := y.threads }) hmon :)⟩

/-- A thread that stood before an access stands after it, all but its monitor unchanged. -/
theorem thread (h : Touches s t) {k j : Nat} {u : Thread} (hu : s.thread? k j = some u) :
    ∃ u' : Thread, t.thread? k j = some u' ∧ sameButMonitor u u' := by
  have hthreads := congrArg (fun l : List Group => (l[k]?).bind fun y => y.threads[j]?) h.groups
  have hmons : (t.thread? k j).map (fun v => { v with monitor := none }) = (s.thread? k j).map fun v => { v with monitor := none } := by
    simpa [State.thread?, Group.noMon, Option.map_bind, Option.bind_map, Function.comp_def] using hthreads
  rw [hu] at hmons
  obtain ⟨u', hu', hmon⟩ := Option.map_eq_some_iff.1 hmons
  exact ⟨u', hu', (congrArg (fun v : Thread => { v with monitor := u.monitor }) hmon :)⟩

end Touches

/-! ## Accesses of a byte -/

/-- The access of a byte lies at the lane's index and the displacement (R264). -/
theorem Lane.access_byte (l : Lane) (gr : BitVec 4) (a : BitVec 7) (o64 : BitVec 1) (imm : BitVec 12) :
    l.access gr a o64 (disp12 imm 1) 1 = { grant := l.g.u.getG gr.toNat, off := ((if o64 = 1 then (l.t.getV2 a.toNat).toNat
      else (l.t.getV a.toNat).toNat : Nat) : Int) + imm.toInt, n := 1 } := by
  simp [Lane.access, Lane.ea, disp12]

/-- A byte is aligned: the checks of its access are those of its grant (R264). -/
theorem LaneAcc.check_byte (gt : Grant) (off : Int) (a : Acc) (perm : Grant → Bool) :
    LaneAcc.check { grant := gt, off := off, n := 1 } a perm = grantCheck a gt (perm gt) off 1 := by
  unfold LaneAcc.check
  dsimp only
  cases grantCheck a gt (perm gt) off 1 <;> simp [Nat.mod_one]

/-- A lane goes on whatever its monitor holds. -/
theorem doneThread_monitor (i : Issue) (t : Thread) :
    { doneThread i t with monitor := none } = { doneThread i { t with monitor := none } with monitor := none } := by
  unfold doneThread Issue.advance
  split
  · split <;> rfl
  · rfl

end Sys2Proof.Machine

namespace Sys2Proof
open Machine

namespace OneLane

variable {s : State} {g : BitVec 4} {gid ti : Nat} {x : Group} {th : Thread}

/-- A lane whose instruction never traps goes on, behind what it fetches if its grant passes (R278). -/
theorem dropLanes_fetches (h : OneLane s g gid ti x th) {acc : Lane → LaneAcc} {act : State → Nat → Nat → Lane → State} {idle : Prop}
    (hact : Fetches s (act s gid ti { g := x, ti := ti, t := th })) (hidle : idle → act s gid ti { g := x, ti := ti, t := th } = s) :
    ∃ t, s.dropLanes g acc act = t.modThread gid ti (doneThread s.issue) ∧ Fetches s t ∧
      ((acc { g := x, ti := ti, t := th }).check (s.accOf (.group gid)) (fun q => q.rd || q.wr || q.at') ≠ none ∨ idle → t = s) := by
  cases hcheck : (acc { g := x, ti := ti, t := th }).check (s.accOf (.group gid)) (fun q => q.rd || q.wr || q.at') with
  | some c => exact ⟨s, by simp [State.dropLanes, h.guardedLanes, h.lane?, hcheck, Issue.done_eq], .refl s, fun _ => rfl⟩
  | none => exact ⟨_, by simp [State.dropLanes, h.guardedLanes, h.lane?, hcheck, Issue.done_eq, hact.issue], hact, by simpa using hidle⟩

/-- PREF of one lane fetches, or does nothing where its grant fails or no held leaf lets it read (R278). -/
theorem exec_pref (h : OneLane s g gid ti x th) (a : BitVec 7) (size : BitVec 3) (sext o64 : BitVec 1) (ord hint : BitVec 2)
    (gr : BitVec 4) (scope : BitVec 3) (imm : BitVec 12) {y : LaneAcc}
    (hy : Lane.access { g := x, ti := ti, t := th } gr a o64 (disp12 imm 1) 1 = y) :
    let ac := s.accOf (.group gid)
    ∃ t, exec (.pref g a size sext ord o64 gr hint scope imm) s = .next (t.modThread gid ti (doneThread s.issue)) ∧ Fetches s t ∧
      (y.check ac (fun q => q.rd || q.wr || q.at') ≠ none ∨ s.heldLeaf ac y.va = none ∨
        (∃ lvl e, s.heldLeaf ac y.va = some (lvl, e) ∧ (leafRd e = false ∨ s.gatedCheck ac.part .read e ≠ none)) → t = s) := by
  subst hy
  intro ac
  simp only [exec, execPref]
  refine (h.dropLanes_fetches ?fetches ?idle).imp fun t ht => ⟨congrArg Host.Outcome.next ht.1, ht.2⟩
  case fetches =>
    split
    · exact .refl s
    · split
      · exact .refl s
      · split <;> refine .foldl _ _ (fun u i => ?_) s
        · exact .prefetch ..
        · exact .rimTouch ..
        · exact .prefetch ..
  case idle =>
    rintro (hheld | ⟨lvl, e, hheld, hbarred⟩)
    · simp only [show s.heldLeaf (s.accOf (.group gid)) _ = none from hheld]
    · have hstop : leafRd e = false ∨ (s.gatedCheck (s.accOf (.group gid)).part .read e).isSome = true :=
        hbarred.imp_right Option.isSome_iff_ne_none.2
      simp only [show s.heldLeaf (s.accOf (.group gid)) _ = some (lvl, e) from hheld]
      exact if_pos (by tauto)

end OneLane
end Sys2Proof

open Sys2Proof Sys2Proof.Machine

/-- Settles O25: a fence, a maintained line and a fetch are each what the lane or the agent does once its scope and its checks are
known; what a fetch leaves is said of each of its parts. -/
theorem fencesAndMaintenance : Obligations.FencesAndMaintenance := by
  unfold Obligations.FencesAndMaintenance
  refine ⟨fun s g kind scope k hk => ?_, fun s g a size sext o64 ord hint gr scope imm gid ti x th hone hscope => ?_⟩
  · intro who ctx ac c strict fence count
    have hfence (cl : Bool) (m : Nat) : (s.clamped who cl).fence who kind m = fence (s.clamped who cl) (scopeOf who m) := by
      simp [State.fence, fence, ac]
    have hcount : s.clamped who true = count s := s.clamped_true who
    have hrefused (hsys : scope = 4) (hpriv : c.priv = false) (hstrict : strict) : s.scopeCheck who scope.toNat = none :=
      hsys ▸ (State.scopeCheck_sys hk hpriv).trans (if_pos hstrict)
    have hclamped (hsys : scope = 4) (hpriv : c.priv = false) (hstrict : ¬ strict) : s.scopeCheck who scope.toNat = some (3, true) :=
      hsys ▸ (State.scopeCheck_sys hk hpriv).trans (if_neg hstrict)
    refine ⟨fun gid ti x th hone => ?_, fun u hu hguard => ?_, fun u hu hguard => exec_ufence_of_skipped hu hguard kind scope⟩
    · have hwho : who = .group gid := hone.who
      have hlane {sc : Nat} {cl : Bool} (hsc : s.scopeCheck who scope.toNat = some (sc, cl)) :
          exec (.fence g kind scope) s = .next ((fence (s.clamped who cl) sc).modThread gid ti (doneThread s.issue)) := by
        rw [hone.exec_fence_of_scope (hwho ▸ hsc) kind, ← hwho, hfence, hwho]
        rfl
      refine ⟨fun hfree => ?_, fun hsys hpriv hstrict => ?_, fun hsys hpriv hstrict => ?_⟩
      · rw [hlane (State.scopeCheck_of_free hfree), State.clamped_false]
      · exact hone.exec_fence_of_refused (hwho ▸ hrefused hsys hpriv hstrict) kind
      · rw [hlane (hclamped hsys hpriv hstrict), hcount]
    · intro sc
      have hagent {m : Nat} {cl : Bool} (hm : s.scopeCheck who scope.toNat = some (m, cl)) :
          exec (.ufence g kind scope) s = .next (fence (s.clamped who cl) (sc m)).advanceU := by
        rw [exec_ufence_of_scope hu hguard hm kind, hfence, scopeOf_eq]
      refine ⟨fun hfree => ?_, fun hsys hpriv hstrict => ?_, fun hsys hpriv hstrict => ?_⟩
      · rw [hagent (State.scopeCheck_of_free hfree), State.clamped_false]
      · exact exec_ufence_of_refused hu hguard (hrefused hsys hpriv hstrict) kind
      · have hpart : sc 3 = 3 := by simp [sc]
        rw [hagent (hclamped hsys hpriv hstrict), hcount, hpart]
  · intro gt idx ac off va on
    have hy : Lane.access { g := x, ti := ti, t := th } gr a o64 (disp12 imm 1) 1 = { grant := gt, off := off, n := 1 } :=
      Lane.access_byte ..
    constructor
    · intro hgrant u pa e hlook line d owned back lose host
      have hcheck := (LaneAcc.check_byte gt off ac (·.rd)).trans hgrant
      have hdone (inv : Bool) : s.laneMaint g a o64 gr scope imm inv =
          on (u.maintain ac (leafCls e) (u.rucHome ac e) (u.replicaPa e pa) scope.toNat inv) :=
        hone.laneMaint_of_look_ok hscope hy hcheck hlook inv
      have hflush : exec (.cflush g a size sext ord o64 gr hint scope imm) s = .next (on _) := congrArg Host.Outcome.next (hdone false)
      have hinv : exec (.cinv g a size sext ord o64 gr hint scope imm) s = .next (on _) := congrArg Host.Outcome.next (hdone true)
      refine ⟨fun hblock => ?_, fun hwide => ?_⟩
      · have h0 : scope.toNat = 0 := congrArg BitVec.toNat hblock
        rw [hflush, hinv, State.maintain_block _ _ _ _ _ h0, State.maintain_block _ _ _ _ _ h0]
        exact ⟨rfl, rfl⟩
      · have hne : scope.toNat ≠ 0 := fun h0 => hwide (BitVec.eq_of_toNat_eq h0)
        rw [hflush, hinv, State.maintain_invalidate _ _ _ _ _ hne, State.maintain_flush _ _ _ _ _ hne]
        exact ⟨rfl, rfl⟩
    · obtain ⟨t, ht, hfetch, hidle⟩ := hone.exec_pref a size sext o64 ord hint gr scope imm hy
      have hon : Touches (on s) (on t) := hfetch.modThread gid ti (doneThread_monitor s.issue)
      refine ⟨on t, ht, hfetch.frame, fun k y hy => hon.group hy, fun k j u hu => hon.thread hu, fun hdrop => ?_⟩
      rw [LaneAcc.check_byte] at hidle
      exact congrArg on (hidle hdrop)

end

section
/-! O57. What a step runs: the turns of the agenda (R165 to R172, R266, R472), and what is decoded at a PC (R29 to R33, R45, R347). -/

namespace Sys2Proof.Machine

/-! ## Turns -/

/-- A step without a waiting error takes the first turn of the agenda (R461). -/
theorem step_eq_turn {s : State} {t : Turn} {rest : List Turn} (herrors : s.hub.errors = []) (hagenda : s.agenda = t :: rest) :
    step s = { s with agenda := rest }.turn t := by
  simp only [step, herrors, hagenda]

/-! ## The picker of a quadrant (R166) -/

section
variable {s u : State} {core q : Nat} {cut : Option Nat} {e : Entry} {rest : List Entry}

/-- An entry that cannot issue is passed over. -/
theorem State.serve_of_not_issuable (h : s.issuable e = false) : s.serve core q cut (e :: rest) = s.serve core q cut rest := by
  simp [State.serve, h]

/-- An entry before which a cause stands takes it (R171). -/
theorem State.serve_of_trap {c : Cause} {pc : Word} {val : Nat} (h : s.before e = (u, .trap c pc val)) :
    s.serve core q cut (e :: rest) = .next ((u.countIssue core q e).trapEntry e c pc val) := by
  simp [State.serve, State.issuable, h]

/-- An entry whose fetch waits, but has changed something, leaves the slot to the next one. -/
theorem State.serve_of_wait (h : s.before e = (u, .wait)) (hu : u ≠ s) : s.serve core q cut (e :: rest) = u.serve core q cut rest := by
  simp [State.serve, State.issuable, h, hu]

/-- An entry before which an instruction stands that its threads can issue is issued; if it still waits it takes no slot (R166, R190). -/
theorem State.serve_of_run_next {r : Run} {t : State} (h : s.before e = (u, .run r)) (hlanes : s.entryLanes e r.ins ≠ [])
    (ht : u.issueRun core q cut e r = .next t) : s.serve core q cut (e :: rest) =
      if s.stillWaits t e then State.serve { t with pickers := s.pickers } core q cut rest
      else .next (if cut.isSome && t.leftCut then { t with pickers := s.pickers } else t) := by
  simp only [State.serve, State.issuable, h, bne_iff_ne.2 hlanes, ht, Bool.not_true, Bool.false_eq_true, if_false]

/-- An issue that does not go on ends the turn. -/
theorem State.serve_of_run_stop {r : Run} {o : Out} (h : s.before e = (u, .run r)) (hlanes : s.entryLanes e r.ins ≠ [])
    (ho : u.issueRun core q cut e r = o) (hstop : ∀ t, o ≠ .next t) : s.serve core q cut (e :: rest) = o := by
  simp only [State.serve, State.issuable, h, bne_iff_ne.2 hlanes, ho, Bool.not_true, Bool.false_eq_true, if_false]

/-- Where every thread of an issue has the registers that it names, none is trapped: all perform it and are ready again later (R44, R168). -/
theorem State.issueRun_of_fits {r : Run} {joined lanes : List (Nat × Nat)} (hjoined : u.packed core q e r.ins (u.leadLanes e r.ins) = joined)
    (hlanes : u.byLane (u.leadLanes e r.ins ++ joined) = lanes)
    (hfits : ∀ l, l ∈ lanes ∨ l ∈ joined → ∃ g : Group, u.groups[l.1]? = some g ∧ r.belowCeiling g.vregs = true) (hne : lanes ≠ []) :
    u.issueRun core q cut e r = andThen (exec (r.stepped e.prog) ((u.countIssue core q e).startIssue e.gid e.pc e.prog r cut lanes))
      fun t => t.endIssue u.tick r lanes joined := by
  have hfit (l : Nat × Nat) (hl : l ∈ lanes ∨ l ∈ joined) : ((u.groups[l.1]?).map fun g => r.belowCeiling g.vregs).getD false = true := by
    obtain ⟨g, hg, hbelow⟩ := hfits l hl
    simp [hg, hbelow]
  have hall : (lanes.filter fun l => ((u.groups[l.1]?).map fun g => r.belowCeiling g.vregs).getD false) = lanes :=
    List.filter_eq_self.2 fun l hl => hfit l (.inl hl)
  have hjoin : (joined.filter fun l => ((u.groups[l.1]?).map fun g => r.belowCeiling g.vregs).getD false) = joined :=
    List.filter_eq_self.2 fun l hl => hfit l (.inr hl)
  have hnone : (lanes.filter fun l => !((u.groups[l.1]?).map fun g => r.belowCeiling g.vregs).getD false) = [] :=
    List.filter_eq_nil_iff.2 fun l hl => by simp [hfit l (.inl hl)]
  simp only [State.issueRun, hjoined, hlanes, hall, hjoin, hnone, hne, if_false, List.foldl_nil]

end

/-! ## Streams (R54, R184) -/

/-- A stream that is ready performs the instruction decoded at its PC, once if it is not repeated. -/
theorem State.streamTurn_of_run {w u : State} {sid : Nat} {x : Stream} {r : Run} (hx : w.streams[sid]? = some x)
    (hready : w.streamReady x = true) (hguard : x.rgWait = none)
    (hdecode : (if x.wait = .none then w.modU (.stream sid) (·.settle) else w).decodeAt (.stream sid) x.pc = (u, .run r)) (hrep : r.rep = none) :
    w.streamTurn sid = exec r.ins ((if x.wait = .none then u.modU (.stream sid) (·.begin') else u).startStream sid x.pc r 0) := by
  have hstep : r.stepped 0 = r.ins := by simp [Run.stepped, hrep]
  simp only [State.streamTurn, hx, hready, hguard, hdecode, hrep, Bool.not_true, Bool.false_eq_true, if_false, State.streamIters, hstep]
  cases exec r.ins ((if x.wait = .none then u.modU (.stream sid) (·.begin') else u).startStream sid x.pc r 0) <;> rfl

/-! ## Fetching (R29 to R33, R347) -/

section
variable {s u v : State} {who : Agent} {g : Grant} {at_ x y : Nat}

/-- A fetch starts with fuel left. -/
theorem runFuel_eq_succ : runFuel = (2 ^ 30 - 1) + 1 := by norm_num [runFuel]

/-- A word of a short form is the whole of what is fetched (R30). -/
theorem State.fetchRun_of_short (hx : s.fetchWord who g at_ = (u, .word x)) (hshort : wordClass x = .lr ∨ wordClass x = .ur) (fuel : Nat) :
    s.fetchRun who g (fuel + 1) at_ [] = (u, .inl { pres := [], ipc := at_, words := [x] }) := by
  rcases hshort with h | h <;> simp [State.fetchRun, hx, h]

/-- The first word of an extended form is fetched with the next (R31). -/
theorem State.fetchRun_of_long (hx : s.fetchWord who g at_ = (u, .word x)) (hlong : wordClass x = .lx ∨ wordClass x = .ux)
    (hy : u.fetchWord who g (at_ + 4) = (v, .word y)) (fuel : Nat) :
    s.fetchRun who g (fuel + 1) at_ [] = (v, .inl { pres := [], ipc := at_, words := [x, y] }) := by
  rcases hlong with h | h <;> simp [State.fetchRun, hx, h, hy]

/-- The decode checks of words without prefixes that are an instruction of the launch (R62): PRIV is the only one left. -/
theorem decodeRun_of_decode {k : Kernel} {cadence : Bool} {f : UFile} {pc : Word} {w : Nat} {ws : List Nat} {i : Instr}
    (hdecode : decode (w :: ws) = .ok i) (hok : launchOk k cadence i = true) (hclass : wordClass w ≠ .cont ∧ wordClass w ≠ .reserved) :
    decodeRun k cadence f pc.toNat { pres := [], ipc := pc.toNat, words := w :: ws } =
      if cadence = true ∧ (∃ g, privOnCadence i = some g ∧ f.guard g = true) then .trap .priv pc 0
      else .run { ins := i, pre := none, rep := none, ipc := pc, next := BitVec.ofNat 32 (pc.toNat + 4 * (ws.length + 1)) } := by
  have hpriv : (cadence && (privOnCadence i).any f.guard) = true ↔ cadence = true ∧ ∃ g, privOnCadence i = some g ∧ f.guard g = true := by
    simp [Option.any_eq_true]
  simp [decodeRun, hclass, hdecode, hok, iterations, lowestOrphan, ← hpriv]

end

/-- A fetched word at a PC is what the checks of the launch make of it (R62). -/
theorem State.decodeAt_of_fetchRun {s t : State} {who : Agent} {k : Kernel} {f : UFile} {pc : Word} {r : Fetched}
    (hk : s.kernels[s.kidOf who]? = some k) (hf : s.ufile who = some f)
    (hrun : s.fetchRun who k.codeGrant runFuel pc.toNat [] = (t, .inl r)) :
    s.decodeAt who pc = (t, decodeRun k (isStream who) f pc.toNat r) := by
  simp only [State.decodeAt, hk, hf, hrun]

section
variable {s u : State} {who : Agent} {g : Grant} {off pa : Nat} {e : BitVec 64} (hoff : off % 4 = 0) (hbase : g.base % 4 = 0)
include hoff hbase

/-- A fetch that a check of the code grant stops (R33, R347). -/
theorem State.fetchWord_of_check {c : Cause} (hcheck : fetchCheck (s.accOf who) g off = some c) :
    s.fetchWord who g off = (s, .trap c (g.base + off)) := by
  have haligned : ¬ (off % 4 ≠ 0 ∨ (g.base + off) % 4 ≠ 0) := by omega
  simp only [State.fetchWord, haligned, if_false, hcheck]

/-- A fetch whose page is found takes the four bytes there as its word (R29). -/
theorem State.fetchWord_of_look {v : State} {b : List Byte} (hcheck : fetchCheck (s.accOf who) g off = none)
    (hlook : s.lookRead (s.accOf who) .fetch (g.base + off) 4 true (s.bidOf who) = (u, .ok pa e))
    (hbytes : u.fetchPa { s.accOf who with core := none } e pa (s.bidOf who) = (v, b)) :
    s.fetchWord who g off = (v, .word (leNat b)) := by
  have haligned : ¬ (off % 4 ≠ 0 ∨ (g.base + off) % 4 ≠ 0) := by omega
  have hbid : u.bidOf who = s.bidOf who := by
    have h := Touches.lookRead s (s.accOf who) .fetch (g.base + off) 4 true (s.bidOf who)
    rw [hlook] at h
    exact h.bidOf who
  simp only [State.fetchWord, haligned, if_false, hcheck, hlook, hbid, hbytes]

end

section
variable {u : State} {b : Acc} {e : BitVec 64} {pa : Nat} {bid : Option Nat} (hlost : u.lost b e (u.replicaPa e pa) 4 false true = false)
  (hforeign : (u.consume b e (u.replicaPa e pa) 4 true bid).foreign b e (u.replicaPa e pa) = false)
include hlost hforeign

/-- The bytes of a page that is not another partition's are those of the die L2 or of the home (R34). -/
theorem State.fetchPa_of_near (hgate : (u.consume b e (u.replicaPa e pa) 4 true bid).atGateHome b e = false) :
    u.fetchPa b e pa bid = (u.consume b e (u.replicaPa e pa) 4 true bid,
      (List.range 4).map fun i => (u.consume b e (u.replicaPa e pa) 4 true bid).fetchByte b.die (u.replicaPa e pa + i)) := by
  simp only [State.fetchPa, hlost, hforeign, hgate, Bool.false_eq_true, if_false]

/-- The bytes of a bound page of another partition's gate are those of its home (R430). -/
theorem State.fetchPa_of_gate (hgate : (u.consume b e (u.replicaPa e pa) 4 true bid).atGateHome b e = true) :
    let t := u.consume b e (u.replicaPa e pa) 4 true bid
    let v := if leafCls e = 0 then t.cohShareAll (lineOf (u.replicaPa e pa)) else t
    u.fetchPa b e pa bid = (v, (List.range 4).map fun i => v.homeByte (u.replicaPa e pa + i)) := by
  simp only [State.fetchPa, hlost, hforeign, hgate, Bool.false_eq_true, if_false, if_true]

end

/-- A list of the values of a function has them in their places. -/
theorem getElem?_map_range {α : Type} (f : Nat → α) {n j : Nat} (hj : j < n) : ((List.range n).map f)[j]? = some (f j) := by
  simp [hj]

end Sys2Proof.Machine

open Sys2Proof Sys2Proof.Machine

/-- Settles O57: a step is the turn that stands first, a quadrant's turn is what its picker makes of its first entry, and what is
decoded at a PC is what the fetched words are. -/
theorem stepRunsTheDecodedInstruction : Obligations.StepRunsTheDecodedInstruction := by
  unfold Obligations.StepRunsTheDecodedInstruction
  refine ⟨fun s e rest herrors => ?error, fun s t rest herrors hagenda => ?turn, fun s herrors hagenda => ?round,
    fun s u v who k uf pc x y i hk huf hx hok => ?decode, fun s u who g off pa e hoff hbase => ?fetch, fun a g off => ?check⟩
  case error => simp only [step, herrors]
  case round => simp only [step, herrors, hagenda]
  case turn =>
    intro w
    have hturn : step s = w.turn t := step_eq_turn herrors hagenda
    rw [hturn]
    refine ⟨?event, ?reset, ?derailleur, ?quadrant, ?stream⟩
    case event =>
      rintro e rfl hevent htakes
      exact if_pos ⟨hevent, htakes⟩
    case reset =>
      rintro e rfl hstage hin
      have hleft : w.hub.stage = 7 := hstage
      exact if_neg (by simp [hleft, hin])
    case derailleur =>
      intro p q f arg gs
      refine ⟨?_, ?_, ?_, ?_, ?_⟩ <;> (rintro rfl; rfl)
    case quadrant =>
      rintro core q cut rfl
      have hquadrant : w.turn (.quadrant core q cut) = w.serve core q cut (w.candidates core q) := rfl
      rw [hquadrant]
      refine ⟨fun hnone => by rw [hnone]; rfl, fun en more hen => ?_⟩
      intro lead
      rw [hen]
      refine ⟨fun th hth => ?_, State.serve_of_not_issuable, fun u r hrun hlanes => ?_, fun u c pc val => State.serve_of_trap,
        fun u => State.serve_of_wait⟩
      · have hthread : w.thread? en.gid ((en.lanes.head?).getD 0) = some th := hth
        cases hgoing : th.going <;> simp only [State.before, State.standsAt, hthread, Option.bind_some, hgoing]
      · intro lead joined lanes o hfits hne
        have hissue : u.issueRun core q cut en r = andThen o fun t => t.endIssue u.tick r lanes joined :=
          State.issueRun_of_fits rfl rfl hfits hne
        refine ⟨fun v hv => ?_, fun f hf => ?_, fun f hf => ?_⟩
        · intro y
          have hy : u.issueRun core q cut en r = .next y := by rw [hissue, hv]; rfl
          rw [State.serve_of_run_next hrun hlanes hy]
          exact ⟨fun hwait => by simp [hwait], fun hwait => by simp [hwait]⟩
        · exact State.serve_of_run_stop hrun hlanes (by rw [hissue, hf]; rfl) (by simp)
        · exact State.serve_of_run_stop hrun hlanes (by rw [hissue, hf]; rfl) (by simp)
    case stream =>
      rintro sid x u r rfl hx hready hguard hdecode hrep
      exact State.streamTurn_of_run hx hready hguard hdecode hrep
  case decode =>
    intro run
    refine ⟨fun hshort hdecode => ?_, fun hlong hy hdecode => ?_⟩
    · rw [State.decodeAt_of_fetchRun hk huf (runFuel_eq_succ ▸ State.fetchRun_of_short hx hshort _),
        decodeRun_of_decode hdecode hok (by rcases hshort with h | h <;> simp [h])]
      rfl
    · rw [State.decodeAt_of_fetchRun hk huf (runFuel_eq_succ ▸ State.fetchRun_of_long hx hlong hy _),
        decodeRun_of_decode hdecode hok (by rcases hlong with h | h <;> simp [h])]
      rfl
  case fetch =>
    intro a b at_ t
    refine ⟨fun c => State.fetchWord_of_check hoff hbase, fun hcheck hlook hlost hforeign => ⟨fun hgate => ?_, fun hgate => ?_⟩⟩
    · exact ⟨_, State.fetchWord_of_look hoff hbase hcheck hlook (State.fetchPa_of_near hlost hforeign hgate), by simp,
        fun j hj => getElem?_map_range _ hj⟩
    · exact ⟨_, State.fetchWord_of_look hoff hbase hcheck hlook (State.fetchPa_of_gate hlost hforeign hgate), by simp,
        fun j hj => getElem?_map_range _ hj⟩
  case check =>
    intro stale beyond
    refine ⟨fun h => if_pos h, fun hs h => (if_neg hs).trans (if_pos h), fun hs hb => ?_⟩
    have hperm : fetchCheck a g off = if g.ex = false then some .grantPerm else none := (if_neg hs).trans (if_neg hb)
    rw [hperm]
    cases g.ex <;> rfl

end

section
/-! O20. The checks of a lane (R264, R347) and the ends of a lane that passes them (R265, R357, R376). -/

namespace Sys2Proof.Machine

/-! ## The checks of a lane (R264, R347) -/

/-- The access of a lane lies at its index and the displacement (R264). -/
theorem Lane.access_eq (l : Lane) (gr : BitVec 4) (a : BitVec 7) (o64 : BitVec 1) (disp : Int) (n : Nat) :
    l.access gr a o64 disp n = { grant := l.g.u.getG gr.toNat, off := ((if o64 = 1 then (l.t.getV2 a.toNat).toNat
      else (l.t.getV a.toNat).toNat : Nat) : Int) + disp, n := n } := by
  simp [Lane.access, Lane.ea]

/-- The checks of a grant, then that of the alignment (R264). -/
theorem LaneAcc.check_eq_none_iff {y : LaneAcc} {a : Acc} {perm : Grant → Bool} :
    y.check a perm = none ↔ grantCheck a y.grant (perm y.grant) y.off y.n = none ∧ y.va % y.n = 0 := by
  unfold LaneAcc.check
  cases grantCheck a y.grant (perm y.grant) y.off y.n <;> simp

/-- A lane passes its checks where its grant does and its address is aligned (R264). -/
theorem LaneAcc.check_of_grant {gt : Grant} {off : Int} {n : Nat} {a : Acc} {p : Bool} (hgrant : grantCheck a gt p off n = none)
    (halign : ((gt.base : Int) + off).toNat % n = 0) {perm : Grant → Bool} (hperm : perm gt = p) :
    LaneAcc.check { grant := gt, off := off, n := n } a perm = none :=
  LaneAcc.check_eq_none_iff.2 ⟨hperm ▸ hgrant, halign⟩

/-- The checks of a grant raise causes of class H (R375). -/
theorem grantCheck_not_user {a : Acc} {gt : Grant} {perm : Bool} {off : Int} {n : Nat} {c : Cause}
    (h : grantCheck a gt perm off n = some c) : c.isUser = false := by
  unfold grantCheck at h
  split_ifs at h <;> cases h <;> rfl

/-- The checks of a lane raise causes of class H (R375). -/
theorem LaneAcc.check_not_user {y : LaneAcc} {a : Acc} {perm : Grant → Bool} {c : Cause} (h : y.check a perm = some c) :
    c.isUser = false := by
  unfold LaneAcc.check at h
  split at h
  · rename_i c' hgrant
    cases h
    exact grantCheck_not_user hgrant
  · split at h <;> cases h
    rfl

/-- The checks of a lane in their order: each is met where those before it are not (R264, R347). -/
theorem LaneAcc.check_cases (y : LaneAcc) (a : Acc) (perm : Grant → Bool) :
    let gt := y.grant
    let stale : Prop := gt.tag = true ∧ (gt.part ≠ a.part ∨ gt.ctxNo ≠ a.ctx)
    let barred : Prop := gt.tag = true ∧ perm gt = false
    let beyond : Prop := gt.tag = false ∨ y.off < 0 ∨ (gt.len : Int) < y.off + y.n
    (stale → y.check a perm = some .grantStale) ∧ (¬ stale → barred → y.check a perm = some .grantPerm) ∧
      (¬ stale → ¬ barred → beyond → y.check a perm = some .grantBounds) ∧
      (¬ stale → ¬ barred → ¬ beyond → y.va % y.n ≠ 0 → y.check a perm = some .misalign) := by
  intro gt stale barred beyond
  have hgrant : grantCheck a y.grant (perm y.grant) y.off y.n =
      if stale then some .grantStale else if barred then some .grantPerm else if beyond then some .grantBounds else none := rfl
  unfold LaneAcc.check
  rw [hgrant]
  refine ⟨fun hs => ?_, fun hs hp => ?_, fun hs hp hb => ?_, fun hs hp hb hva => ?_⟩
  · simp only [hs, if_true]
  · simp only [hs, hp, if_false, if_true]
  · simp only [hs, hp, hb, if_false, if_true]
  · simp only [hs, hp, hb, hva, if_false, if_true, ne_eq, not_false_eq_true]

/-! ## The faults of translation (R357, R365) -/

/-- The checks of a leaf raise causes of class H (R375). -/
theorem protCheck_not_user {kind : AccKind} {e : BitVec 64} {c : Cause} (h : protCheck kind e = some c) : c.isUser = false := by
  unfold protCheck at h
  dsimp only at h
  split_ifs at h <;> cases h <;> rfl

/-- The checks of a gate raise causes of class H (R375). -/
theorem State.gatedCheck_not_user {s : State} {part : Nat} {kind : AccKind} {e : BitVec 64} {c : Cause}
    (h : s.gatedCheck part kind e = some c) : c.isUser = false := by
  unfold State.gatedCheck at h
  dsimp only at h
  split_ifs at h <;> cases h <;> rfl

/-- The faults of a leaf are of class H (R375). -/
theorem State.lookLeaf_not_user {s t : State} {a : Acc} {kind : AccKind} {va lvl : Nat} {e : BitVec 64} {c : Cause}
    (h : s.lookLeaf a kind va lvl e = (t, .fault c)) : c.isUser = false := by
  unfold State.lookLeaf at h
  cases hprot : protCheck kind e with
  | some c' => simp only [hprot, Prod.mk.injEq, Look.fault.injEq] at h; exact h.2 ▸ protCheck_not_user hprot
  | none =>
    cases hgate : s.gatedCheck a.part kind e with
    | some c' => simp only [hprot, hgate, Prod.mk.injEq, Look.fault.injEq] at h; exact h.2 ▸ State.gatedCheck_not_user hgate
    | none =>
      simp only [hprot, hgate] at h
      split at h
      · simp at h
      · split at h
        · simp at h
        · split at h <;> simp at h

/-- The faults of a translated access are of class H (R375). -/
theorem State.look_not_user {s t : State} {a : Acc} {kind : AccKind} {va : Nat} {c : Cause} (h : s.look a kind va = (t, .fault c)) :
    c.isUser = false := by
  unfold State.look at h
  split at h
  · exact State.lookLeaf_not_user h
  · cases h; rfl

/-- The faults of an access of either kind are of class H (R375). -/
theorem State.lookFor_not_user {s t : State} {a : Acc} {kind : AccKind} {va n : Nat} {data : Option Bool} {bid : Option Nat} {c : Cause}
    (h : s.lookFor a kind va n data bid = (t, .fault c)) : c.isUser = false := by
  cases data with
  | none => exact State.look_not_user h
  | some fresh =>
    have hread : s.lookRead a kind va n fresh bid = (t, .fault c) := h
    unfold State.lookRead at hread
    cases hlook : s.look a kind va with
    | mk u o =>
      rw [hlook] at hread
      cases o with
      | ok pa e =>
        dsimp only at hread
        split at hread <;> cases hread
      | fault c' => cases hread; exact State.look_not_user hlook
      | wait => cases hread
      | poison => cases hread

/-- A cause of class H stands where it is raised (R376). -/
theorem State.trapLane_of_not_user {c : Cause} (h : c.isUser = false) (s : State) (gid ti val : Nat) :
    s.trapLane gid ti c val = s.standAt gid ti c false val := by
  simp [State.trapLane, h]

/-- An access of either kind touches what an access may. -/
theorem Touches.lookFor (s : State) (a : Acc) (kind : AccKind) (va n : Nat) (data : Option Bool) (bid : Option Nat) :
    Touches s (s.lookFor a kind va n data bid).1 := by
  cases data with
  | none => exact Touches.look ..
  | some fresh => exact Touches.lookRead ..

/-! ## The lanes of an issue (R264, R265) -/

/-- What a lane whose checks pass does: the access that is found is performed, another ends the lane. -/
def performAccess (kind : AccKind) (data : Option Bool) (acc : Lane → LaneAcc) (act : State → Nat → Nat → Lane → Nat → BitVec 64 → State)
    (s : State) (gid ti : Nat) (l : Lane) : State × LaneEnd :=
  match s.lookFor (s.accOf (.group gid)) kind (acc l).va (acc l).n data (some l.g.bid) with
  | (s, .fault c) => (s, .trap c (acc l).va)
  | (s, .wait) => (s, .wait)
  | (s, .poison) => (s, .poison)
  | (s, .ok pa e) => (act s gid ti l pa e, .done)

/-- The lanes of an issue that fail a check, with the cause and the address. -/
def State.laneFails (s : State) (perm : Grant → Bool) (acc : Lane → LaneAcc) (lanes : List (Nat × Nat)) : List ((Nat × Nat) × Cause × Nat) :=
  lanes.filterMap fun l => (s.lane? l.1 l.2).bind fun x => ((acc x).check (s.accOf (.group l.1)) perm).map fun c => (l, c, (acc x).va)

/-- A memory issue of lanes of one group whose scope stands: its failing lanes are trapped, else its lanes are performed (R264, R265). -/
theorem State.laneMem_eq {s s' : State} {g : BitVec 4} {scope sc gid : Nat} {kind : AccKind} {data : Option Bool} {perm : Grant → Bool}
    {acc : Lane → LaneAcc} {act : Nat → State → Nat → Nat → Lane → Nat → BitVec 64 → State} {lanes : List (Nat × Nat)}
    (hguard : s.guardedLanes g = (s', lanes)) (hgid : ∀ l ∈ lanes, l.1 = gid) (hscope : s'.scopeCheck (.group gid) scope = some (sc, false)) :
    s.laneMem g scope kind data perm acc act =
      if s'.laneFails perm acc lanes ≠ [] then (s'.laneFails perm acc lanes).foldl (fun s f => s.trapLane f.1.1 f.1.2 f.2.1 f.2.2) s'
      else performLanes (performAccess kind data acc (act sc)) lanes s' := by
  cases lanes with
  | nil => simp [State.laneMem, hguard, State.laneFails, performLanes]
  | cons l rest =>
    obtain rfl : l.1 = gid := hgid l List.mem_cons_self
    simp only [State.laneMem, hguard, hscope, State.clamped_false]
    rfl

/-- A cause that stands already is not raised over (R378). -/
theorem State.raiseGuards_of_standing {s : State} {ls : List (Nat × Nat × Nat)}
    (h : ∀ r ∈ ls, ∀ t, s.thread? r.1 r.2.1 = some t → t.standing ≠ none) : s.raiseGuards ls = s := by
  induction ls with
  | nil => rfl
  | cons r ls ih =>
    have hr : s.raiseGuards (r :: ls) = s.raiseGuards ls := by
      cases ht : s.thread? r.1 r.2.1 with
      | none => simp [State.raiseGuards, ht]
      | some t =>
        have hst : t.standing ≠ none := h r List.mem_cons_self t ht
        simp [State.raiseGuards, ht, hst]
    rw [hr, ih fun q hq => h q (List.mem_cons_of_mem _ hq)]

/-- Without a range guard no lane of a store fails one (R464). -/
theorem guardFails_of_not_ge (k : Kernel) {gt : Grant} (hge : gt.ge = false) (b : List Byte) : guardFails k gt b = none := by
  simp [guardFails, hge]

/-- A store through grants without range guards is that of its lanes alone (R268). -/
theorem State.exec_st_of_not_ge {s : State} {g : BitVec 4} (d a : BitVec 7) (size : BitVec 3) (sext o64 : BitVec 1) (ord hint : BitVec 2)
    {gr : BitVec 4} (scope : BitVec 3) (imm : BitVec 12)
    (hge : ∀ r ∈ s.issue.lanes, ∀ l, s.lane? r.1 r.2 = some l → (l.g.u.getG gr.toNat).ge = false) :
    exec (.st g d a size sext ord o64 gr hint scope imm) s = .next (s.laneMem g scope.toNat .write none (·.wr)
      (fun l => l.access gr a o64 (disp12 imm (accBytes size)) (accBytes size)) fun sc s gid _ l pa e =>
        s.storeLane gid l ord sc hint.toNat (l.g.u.getG gr.toNat) pa e (storeData l.t.getV d.toNat (accBytes size))) := by
  have hmiss {r : Nat × Nat} (hr : r ∈ s.issue.lanes) {l : Lane} (hl : s.lane? r.1 r.2 = some l) (k : Kernel) (b : List Byte) :
      guardFails k (l.g.u.getG gr.toNat) b = none := guardFails_of_not_ge k (hge r hr l hl) b
  have hroll (data : Lane → List Byte) : s.rollbackLanes g gr data = [] :=
    List.filterMap_eq_nil_iff.2 fun r hr => by
      cases hl : s.lane? r.1 r.2 <;> simp [hmiss hr, *]
  have htrap (data : Lane → List Byte) : s.trapGuardLanes g gr data = [] :=
    List.filterMap_eq_nil_iff.2 fun r hr => by
      cases hl : s.lane? r.1 r.2 <;> simp [hmiss hr, *]
  simp only [exec, execSt, hroll, htrap, ite_self]
  rfl

end Sys2Proof.Machine

namespace Sys2Proof
open Machine

namespace OneLane

variable {s : State} {g : BitVec 4} {gid ti : Nat} {x : Group} {th : Thread}

/-- The one lane fails the check that it fails. -/
theorem laneFails (h : OneLane s g gid ti x th) (perm : Grant → Bool) (acc : Lane → LaneAcc) :
    s.laneFails perm acc [(gid, ti)] = (((acc { g := x, ti := ti, t := th }).check (s.accOf (.group gid)) perm).map fun c =>
      ((gid, ti), c, (acc { g := x, ti := ti, t := th }).va)).toList := by
  simp only [State.laneFails, List.filterMap_cons, h.lane?, Option.bind_some, List.filterMap_nil]
  cases (acc { g := x, ti := ti, t := th }).check (s.accOf (.group gid)) perm <;> rfl

section
variable (h : OneLane s g gid ti x th) {scope : BitVec 3} (hscope : scopeFree s (.group gid) scope) {kind : AccKind} {data : Option Bool}
  {perm : Grant → Bool} {acc : Lane → LaneAcc} {act : Nat → State → Nat → Nat → Lane → Nat → BitVec 64 → State}
include h hscope

/-- A memory issue of one lane. -/
theorem laneMem_eq : s.laneMem g scope.toNat kind data perm acc act =
    if s.laneFails perm acc [(gid, ti)] ≠ [] then
      (s.laneFails perm acc [(gid, ti)]).foldl (fun s f => s.trapLane f.1.1 f.1.2 f.2.1 f.2.2) s
    else performLanes (performAccess kind data acc (act scope.toNat)) [(gid, ti)] s :=
  State.laneMem_eq h.guardedLanes (by simp) (State.scopeCheck_of_free hscope)

/-- A lane that fails a check is trapped before any access (R264). -/
theorem laneMem_of_check {y : LaneAcc} (hy : acc { g := x, ti := ti, t := th } = y) {c : Cause} (hc : y.check (s.accOf (.group gid)) perm = some c) :
    s.laneMem g scope.toNat kind data perm acc act = s.standAt gid ti c false y.va := by
  subst hy
  simp [h.laneMem_eq hscope, h.laneFails, hc, State.trapLane_of_not_user (LaneAcc.check_not_user hc)]

variable {y : LaneAcc} (hy : acc { g := x, ti := ti, t := th } = y) (hcheck : y.check (s.accOf (.group gid)) perm = none) {t : State}
include hy hcheck

/-- A lane that passes its checks is performed. -/
theorem laneMem_of_passes : s.laneMem g scope.toNat kind data perm acc act =
    performLanes (performAccess kind data acc (act scope.toNat)) [(gid, ti)] s := by
  subst hy
  simp [h.laneMem_eq hscope, h.laneFails, hcheck]

/-- A lane whose access faults is trapped, PROG holding it (R265). -/
theorem laneMem_of_fault {c : Cause} (hlook : s.lookFor (s.accOf (.group gid)) kind y.va y.n data (some x.bid) = (t, .fault c)) :
    s.laneMem g scope.toNat kind data perm acc act =
      (t.modThread gid ti fun u => { u with prog := x.homeLane ti, wait := .none }).standAt gid ti c false y.va := by
  rw [h.laneMem_of_passes hscope hy hcheck]
  subst hy
  simp [performLanes, h.lane?, h.leaves, performAccess, hlook, LaneEnd.wait', State.trapLane_of_not_user (State.lookFor_not_user hlook)]

/-- A lane whose access waits, waits in it, PROG holding it (R365). -/
theorem laneMem_of_wait (hlook : s.lookFor (s.accOf (.group gid)) kind y.va y.n data (some x.bid) = (t, .wait)) :
    s.laneMem g scope.toNat kind data perm acc act = t.modThread gid ti fun u => { u with prog := x.homeLane ti, wait := .lane false } := by
  rw [h.laneMem_of_passes hscope hy hcheck]
  subst hy
  simp [performLanes, h.lane?, h.leaves, performAccess, hlook, LaneEnd.wait']

/-- A lane that poison stops is left undone, PROG holding it (R376). -/
theorem laneMem_of_poison (hlook : s.lookFor (s.accOf (.group gid)) kind y.va y.n data (some x.bid) = (t, .poison)) :
    s.laneMem g scope.toNat kind data perm acc act = t.modThread gid ti fun u => { u with prog := x.homeLane ti, wait := .none } := by
  rw [h.laneMem_of_passes hscope hy hcheck]
  subst hy
  simp [performLanes, h.lane?, h.leaves, performAccess, hlook, LaneEnd.wait']

/-- A lane whose access is found is performed there and goes on (R265). -/
theorem laneMem_of_ok {pa : Nat} {e : BitVec 64}
    (hlook : s.lookFor (s.accOf (.group gid)) kind y.va y.n data (some x.bid) = (t, .ok pa e)) :
    let v := act scope.toNat t gid ti { g := x, ti := ti, t := th } pa e
    s.laneMem g scope.toNat kind data perm acc act = v.modThread gid ti (doneThread v.issue) := by
  intro v
  rw [h.laneMem_of_passes hscope hy hcheck]
  subst hy
  exact h.performLanes_of_done (by simp [performAccess, hlook, v])

end

/-- A store whose checks fail is that of its lane alone: its range guard is not applied (R264, R465). -/
theorem exec_st_of_check (h : OneLane s g gid ti x th) {scope : BitVec 3} (hscope : scopeFree s (.group gid) scope) {d a : BitVec 7}
    {size : BitVec 3} {sext o64 : BitVec 1} {ord hint : BitVec 2} {gr : BitVec 4} {imm : BitVec 12} {y : LaneAcc}
    (hy : Lane.access { g := x, ti := ti, t := th } gr a o64 (disp12 imm (accBytes size)) (accBytes size) = y) {c : Cause}
    (hc : y.check (s.accOf (.group gid)) (·.wr) = some c) :
    exec (.st g d a size sext ord o64 gr hint scope imm) s = .next (s.standAt gid ti c false y.va) := by
  have hpass : s.allPass g (·.wr) (fun l => l.access gr a o64 (disp12 imm (accBytes size)) (accBytes size)) = false := by
    simp [State.allPass, h.lanes, h.lane?, h.guard, hy, hc]
  simp only [exec, execSt, hpass, Bool.and_false, Bool.false_eq_true, if_false]
  rw [h.laneMem_of_check hscope hy hc]
  refine congrArg Host.Outcome.next (State.raiseGuards_of_standing fun r hr t ht => ?_)
  obtain ⟨l, hl, hr⟩ := List.mem_filterMap.1 hr
  rw [h.lanes, List.mem_singleton] at hl
  subst hl
  have hlane : r.1 = gid ∧ r.2.1 = ti := by
    simp only [h.lane?, Option.bind_some, h.guard, if_true, Option.bind_eq_some_iff] at hr
    obtain ⟨k, -, hk⟩ := hr
    split at hk <;> cases hk
    exact ⟨rfl, rfl⟩
  rw [hlane.1, hlane.2, State.standAt_thread s gid ti c false y.va th (by simp [State.thread?, h.group, h.thread])] at ht
  cases ht
  simp

/-- A store of one lane through a grant without a range guard. -/
theorem exec_st_of_not_ge (h : OneLane s g gid ti x th) (d a : BitVec 7) (size : BitVec 3) (sext o64 : BitVec 1) (ord hint : BitVec 2)
    {gr : BitVec 4} (scope : BitVec 3) (imm : BitVec 12) (hge : (x.u.getG gr.toNat).ge = false) :
    exec (.st g d a size sext ord o64 gr hint scope imm) s = .next (s.laneMem g scope.toNat .write none (·.wr)
      (fun l => l.access gr a o64 (disp12 imm (accBytes size)) (accBytes size)) fun sc s gid _ l pa e =>
        s.storeLane gid l ord sc hint.toNat (l.g.u.getG gr.toNat) pa e (storeData l.t.getV d.toNat (accBytes size))) := by
  refine State.exec_st_of_not_ge d a size sext o64 ord hint scope imm fun r hr l hl => ?_
  rw [h.lanes, List.mem_singleton] at hr
  subst hr
  rw [h.lane?] at hl
  cases hl
  exact hge

end OneLane
end Sys2Proof

namespace Sys2Proof
open Machine

section
variable {s : State} {g : BitVec 4} {gid ti : Nat} {x : Group} {th : Thread}

/-- What the checks of a lane make of an instruction that each of them traps (R264, R347). -/
theorem OneLane.exec_check_cases {i : Instr} {gt : Grant} {off : Int} {n : Nat} {p : Bool} {perm : Grant → Bool} (hperm : perm gt = p)
    (hexec : ∀ c, LaneAcc.check { grant := gt, off := off, n := n } (s.accOf (.group gid)) perm = some c →
      exec i s = .next (s.standAt gid ti c false ((gt.base : Int) + off).toNat)) :
    let stale : Prop := gt.tag = true ∧ (gt.part ≠ (s.accOf (.group gid)).part ∨ gt.ctxNo ≠ (s.accOf (.group gid)).ctx)
    let barred : Prop := gt.tag = true ∧ p = false
    let beyond : Prop := gt.tag = false ∨ off < 0 ∨ (gt.len : Int) < off + n
    let va : Nat := ((gt.base : Int) + off).toNat
    (stale → exec i s = .next (s.standAt gid ti .grantStale false va)) ∧
      (¬ stale → barred → exec i s = .next (s.standAt gid ti .grantPerm false va)) ∧
      (¬ stale → ¬ barred → beyond → exec i s = .next (s.standAt gid ti .grantBounds false va)) ∧
      (¬ stale → ¬ barred → ¬ beyond → va % n ≠ 0 → exec i s = .next (s.standAt gid ti .misalign false va)) := by
  subst hperm
  intro stale barred beyond va
  obtain ⟨hstale, hbarred, hbeyond, hmisalign⟩ :=
    LaneAcc.check_cases { grant := gt, off := off, n := n } (s.accOf (.group gid)) perm
  exact ⟨fun hs => hexec _ (hstale hs), fun hs hp => hexec _ (hbarred hs hp), fun hs hp hb => hexec _ (hbeyond hs hp hb),
    fun hs hp hb hva => hexec _ (hmisalign hs hp hb hva)⟩

/-- A failing check traps the lane of a memory instruction (R264). -/
theorem OneLane.exec_of_check (h : OneLane s g gid ti x th) {scope : BitVec 3} (hscope : scopeFree s (.group gid) scope) {i : Instr}
    {kind : AccKind} {data : Option Bool} {perm : Grant → Bool} {acc : Lane → LaneAcc}
    {act : Nat → State → Nat → Nat → Lane → Nat → BitVec 64 → State} {gt : Grant} {off : Int} {n : Nat}
    (hexec : exec i s = .next (s.laneMem g scope.toNat kind data perm acc act))
    (hacc : acc { g := x, ti := ti, t := th } = { grant := gt, off := off, n := n }) (c : Cause)
    (hc : LaneAcc.check { grant := gt, off := off, n := n } (s.accOf (.group gid)) perm = some c) :
    exec i s = .next (s.standAt gid ti c false ((gt.base : Int) + off).toNat) :=
  hexec.trans (congrArg Host.Outcome.next (h.laneMem_of_check hscope hacc hc))

/-- The ends of the lane of a memory instruction whose checks pass and whose access does not (R265, R357, R365, R376). -/
theorem OneLane.exec_of_not_found (h : OneLane s g gid ti x th) {scope : BitVec 3} (hscope : scopeFree s (.group gid) scope) {i : Instr}
    {kind : AccKind} {data : Option Bool} {perm : Grant → Bool} {acc : Lane → LaneAcc}
    {act : Nat → State → Nat → Nat → Lane → Nat → BitVec 64 → State} {gt : Grant} {off : Int} {n : Nat}
    (hexec : exec i s = .next (s.laneMem g scope.toNat kind data perm acc act))
    (hacc : acc { g := x, ti := ti, t := th } = { grant := gt, off := off, n := n }) :
    let va : Nat := ((gt.base : Int) + off).toNat
    grantCheck (s.accOf (.group gid)) gt (perm gt) off n = none → va % n = 0 →
      let found := s.lookFor (s.accOf (.group gid)) kind va n data (some x.bid)
      let held (w : Wait) : State := found.1.modThread gid ti fun t => { t with prog := x.homeLane ti, wait := w }
      (∀ c, found.2 = .fault c → exec i s = .next ((held .none).standAt gid ti c false va)) ∧
      (found.2 = .wait → exec i s = .next (held (.lane false))) ∧
      (found.2 = .poison → exec i s = .next (held .none)) := by
  intro va hgrant halign found held
  have hcheck : LaneAcc.check { grant := gt, off := off, n := n } (s.accOf (.group gid)) perm = none :=
    LaneAcc.check_of_grant hgrant halign rfl
  have hfound {o : Look} (ho : found.2 = o) : s.lookFor (s.accOf (.group gid)) kind va n data (some x.bid) = (found.1, o) := by
    rw [← ho]
  rw [hexec]
  exact ⟨fun c hc => congrArg Host.Outcome.next (h.laneMem_of_fault hscope hacc hcheck (hfound hc)),
    fun hw => congrArg Host.Outcome.next (h.laneMem_of_wait hscope hacc hcheck (hfound hw)),
    fun hp => congrArg Host.Outcome.next (h.laneMem_of_poison hscope hacc hcheck (hfound hp))⟩

end

namespace OneLane

variable {s : State} {g : BitVec 4} {gid ti : Nat} {x : Group} {th : Thread}

/-- A probe of one lane that fails a check is trapped (R366). -/
theorem probeLanes_of_check (h : OneLane s g gid ti x th) {acc : Lane → LaneAcc} {act : State → Nat → Nat → Lane → State} {y : LaneAcc}
    (hy : acc { g := x, ti := ti, t := th } = y) {c : Cause}
    (hc : y.check (s.accOf (.group gid)) (fun q => q.rd || q.wr || q.at') = some c) :
    s.probeLanes g acc act = s.standAt gid ti c false y.va := by
  subst hy
  simp [State.probeLanes, h.guardedLanes, h.lane?, hc, State.trapLane_of_not_user (LaneAcc.check_not_user hc)]

/-- A PHINT of one lane that fails a check is trapped, and acts on no region (R366, R368). -/
theorem exec_phint_of_check (h : OneLane s g gid ti x th) {kind : BitVec 2} {a : BitVec 7} {size : BitVec 3} {sext o64 : BitVec 1}
    {ord hint : BitVec 2} {gr : BitVec 4} {scope : BitVec 3} {imm : BitVec 12} {y : LaneAcc}
    (hy : Lane.access { g := x, ti := ti, t := th } gr a o64 (disp12 imm 1) 1 = y) {c : Cause}
    (hc : y.check (s.accOf (.group gid)) (fun q => q.rd || q.wr || q.at') = some c) :
    exec (.phint g kind a size sext ord o64 gr hint scope imm) s = .next (s.standAt gid ti c false y.va) := by
  have hprobe := h.probeLanes_of_check (acc := fun l => l.access gr a o64 (disp12 imm 1) 1) (act := fun s _ _ _ => s) hy hc
  simp [exec, execPhint, h.lanes, h.lane?, h.guard, hy, hc, hprobe]

end OneLane
end Sys2Proof

open Sys2Proof Sys2Proof.Machine

/-- Settles O20: each instruction is one access of its lane, whose first failing check traps it; past the checks the access itself
decides how the lane ends. -/
theorem accessChecks : Obligations.AccessChecks := by
  unfold Obligations.AccessChecks
  refine ⟨?checks, ?found⟩
  case checks =>
    intro s g la d a size sext o64 ord hint gr scope imm gid ti x th h hscope n gt idx ac full short
    have hy (disp : Int) (n : Nat) : Lane.access { g := x, ti := ti, t := th } gr a o64 disp n = { grant := gt, off := idx + disp, n := n } :=
      Lane.access_eq ..
    have hbyte : Lane.access { g := x, ti := ti, t := th } gr a o64 (disp12 imm 1) 1 = { grant := gt, off := idx + full, n := 1 } :=
      Lane.access_byte ..
    simp only [List.forall_mem_cons, List.not_mem_nil, false_imp_iff, implies_true, and_true]
    refine ⟨?_, ?_, ?_, ?_, ?_, ?_, ?_, ?_, ?_, ?_, ?_⟩
    · exact OneLane.exec_check_cases rfl (h.exec_of_check hscope rfl (hy _ _))
    · exact OneLane.exec_check_cases rfl (h.exec_of_check hscope rfl (hy _ _))
    · exact OneLane.exec_check_cases rfl fun c hc => h.exec_st_of_check hscope (hy _ _) hc
    · exact OneLane.exec_check_cases rfl (h.exec_of_check hscope rfl (hy _ _))
    · exact OneLane.exec_check_cases rfl (h.exec_of_check hscope rfl (hy _ _))
    · exact OneLane.exec_check_cases rfl (h.exec_of_check hscope rfl (hy _ _))
    · exact OneLane.exec_check_cases rfl (h.exec_of_check hscope rfl (hy _ _))
    · exact OneLane.exec_check_cases rfl (h.exec_of_check hscope rfl hbyte)
    · exact OneLane.exec_check_cases rfl (h.exec_of_check hscope rfl hbyte)
    · exact OneLane.exec_check_cases (perm := fun q => q.rd || q.wr || q.at') rfl fun c hc =>
        congrArg Host.Outcome.next (h.probeLanes_of_check (acc := fun l => l.access gr a o64 (disp12 imm 1) 1) hbyte hc)
    · exact OneLane.exec_check_cases (perm := fun q => q.rd || q.wr || q.at') rfl fun c hc => h.exec_phint_of_check hbyte hc
  case found =>
    intro s g la d a size sext o64 ord hint gr scope imm gid ti x th h hscope n gt idx ac full short hge
    have hy (disp : Int) (n : Nat) : Lane.access { g := x, ti := ti, t := th } gr a o64 disp n = { grant := gt, off := idx + disp, n := n } :=
      Lane.access_eq ..
    have hbyte : Lane.access { g := x, ti := ti, t := th } gr a o64 (disp12 imm 1) 1 = { grant := gt, off := idx + full, n := 1 } :=
      Lane.access_byte ..
    simp only [List.forall_mem_cons, List.not_mem_nil, false_imp_iff, implies_true, and_true]
    refine ⟨?_, ?_, ?_, ?_, ?_, ?_, ?_, ?_, ?_⟩
    · exact h.exec_of_not_found hscope (i := .ld g la d a size sext ord o64 gr hint scope imm) rfl (hy _ _)
    · exact h.exec_of_not_found hscope (i := .ldx g la d a size sext ord o64 gr hint scope imm) rfl (hy _ _)
    · exact h.exec_of_not_found hscope (h.exec_st_of_not_ge d a size sext o64 ord hint scope imm hge) (hy _ _)
    · exact h.exec_of_not_found hscope (i := .atom g la d a size sext ord o64 gr hint scope imm) rfl (hy _ _)
    · exact h.exec_of_not_found hscope (i := .atomc g la d a size sext ord o64 gr hint scope imm) rfl (hy _ _)
    · exact h.exec_of_not_found hscope (i := .red g d a size sext ord o64 gr hint scope imm) rfl (hy _ _)
    · exact h.exec_of_not_found hscope (i := .monw g a size sext ord o64 gr hint scope imm) rfl (hy _ _)
    · exact h.exec_of_not_found hscope (i := .cflush g a size sext ord o64 gr hint scope imm) rfl hbyte
    · exact h.exec_of_not_found hscope (i := .cinv g a size sext ord o64 gr hint scope imm) rfl hbyte

end

section
/-! O22. What an atomic writes and returns (R271 to R273, R275, R468), with the bytes that registers give and take (R267, R268). -/

namespace Sys2Proof.Machine

/-! ## Bytes of numbers (R4) -/

/-- A number without its low bytes. -/
theorem leNat_drop (b : List Byte) (k : Nat) : leNat (b.drop k) = leNat b / 256 ^ k := by
  induction k generalizing b with
  | zero => simp
  | succ k ih =>
    cases b with
    | nil => simp [leNat]
    | cons v r =>
      have hv : (v.toNat + 256 * leNat r) / 256 = leNat r := by have := v.isLt; omega
      rw [List.drop_succ_cons, ih, leNat, Nat.pow_succ', ← Nat.div_div_eq_div_mul, hv]

/-- The low bytes of a number. -/
theorem leNat_take (b : List Byte) (k : Nat) : leNat (b.take k) = leNat b % 256 ^ k := by
  induction k generalizing b with
  | zero => simp [leNat, Nat.mod_one]
  | succ k ih =>
    cases b with
    | nil => simp [leNat]
    | cons v r =>
      have hv : (v.toNat + 256 * leNat r) % 256 = v.toNat ∧ (v.toNat + 256 * leNat r) / 256 = leNat r := by
        have := v.isLt; omega
      rw [List.take_succ_cons, leNat, ih, leNat, Nat.pow_succ', Nat.mod_mul, hv.1, hv.2]

/-- The bytes of a number are its digits. -/
theorem leBytes_eq_map (n x : Nat) : leBytes n x = (List.range n).map fun i => BitVec.ofNat 8 (x / 256 ^ i) := by
  refine List.ext_getElem? fun i => ?_
  by_cases hi : i < n
  · rw [getElem?_leBytes x hi]; simp [hi]
  · simp [hi]

/-- The bytes of the number of bytes are those bytes. -/
theorem leBytes_leNat (b : List Byte) : leBytes b.length (leNat b) = b := by
  induction b with
  | nil => rfl
  | cons v r ih =>
    have hv : (v.toNat + 256 * leNat r) / 256 = leNat r := by have := v.isLt; omega
    have hbyte : BitVec.ofNat 8 (v.toNat + 256 * leNat r) = v :=
      BitVec.eq_of_toNat_eq (by simp [Nat.add_mul_mod_self_left, Nat.mod_eq_of_lt v.isLt])
    rw [List.length_cons, leNat, leBytes, hv, ih, hbyte]

/-! ## Registers and bytes (R267, R268) -/

/-- The bytes that registers give are those of the registers one after another (R268). -/
theorem storeData_eq_stored (get : Nat → Word) (d k : Nat) : storeData get d (2 ^ k) = stored get d (2 ^ k) := by
  have hwords : 2 ^ k ≤ 4 * max 1 (2 ^ k / 4) := by
    rcases k with _ | _ | k
    · simp
    · simp
    · have : 2 ^ (k + 2) = 4 * 2 ^ k := by ring
      omega
  have hflat : storeData get d (2 ^ k) =
      (((List.range (max 1 (2 ^ k / 4))).map fun i => (get (d + i)).toNat).flatMap (leBytes 4)).take (2 ^ k) := by
    rw [storeData, List.flatMap_map]
  rw [hflat]
  refine List.ext_getElem? fun j => ?_
  by_cases hj : j < 2 ^ k
  · have hword : j / 4 < max 1 (2 ^ k / 4) := by omega
    have hbyte : j % 4 < 4 := Nat.mod_lt _ (by norm_num)
    have hsplit := getElem?_flatMap_leBytes 4 ((List.range (max 1 (2 ^ k / 4))).map fun i => (get (d + i)).toNat) (j := j / 4) hbyte
    rw [Nat.div_add_mod] at hsplit
    rw [List.getElem?_take_of_lt hj, hsplit, getElem?_map_range _ hword, Option.bind_some, getElem?_leBytes _ hbyte, stored,
      getElem?_map_range _ hj]
    refine congrArg some (BitVec.eq_of_toNat_eq ?_)
    simp [BitVec.extractLsb'_toNat, Nat.shiftRight_eq_div_pow, Nat.pow_mul]
  · have hle : 2 ^ k ≤ j := Nat.le_of_not_lt hj
    simp [stored, hle]

/-- What bytes loaded make of registers (R267): up to four are extended into one register, more fill one after another. -/
theorem loadRegs_eq_loaded (d : Nat) (size : BitVec 3) (sext : BitVec 1) (b : List Byte) :
    loadRegs d (2 ^ size.toNat) (sext == 1) b = loaded d size sext b := by
  have hsize : 2 ^ size.toNat ≤ 4 ↔ size.toNat < 3 := by
    rw [show (4 : Nat) = 2 ^ 2 from rfl, Nat.pow_le_pow_iff_right (by norm_num)]; omega
  by_cases hs : size.toNat < 3
  · have hsext : BitVec.ofInt 32 (sextNat (8 * 2 ^ size.toNat) (leNat b)) =
        (BitVec.ofNat (8 * 2 ^ size.toNat) (leNat b)).signExtend 32 := by
      rw [BitVec.signExtend, ← sextNat_toNat]
      simp [sextNat]
    simp [loadRegs, loaded, hs, hsize.2 hs, hsext]
  · have hn : ¬ 2 ^ size.toNat ≤ 4 := fun h => hs (hsize.1 h)
    simp only [loadRegs, loaded, hn, hs, if_false]
    refine List.map_congr_left fun i _ => ?_
    have hword : leNat ((b.drop (4 * i)).take 4) = leNat b / 2 ^ (32 * i) % 2 ^ 32 := by
      rw [leNat_take, leNat_drop, show (256 : Nat) = 2 ^ 8 from rfl, ← Nat.pow_mul, ← Nat.pow_mul]
      congr 3
      ring
    rw [hword]
    exact congrArg (Prod.mk (d + i)) (BitVec.eq_of_toNat_eq (by simp))

/-- A value that is not extended by its sign (R269, R272). -/
theorem loadRegs_eq_loaded_zero (d : Nat) (size : BitVec 3) (b : List Byte) :
    loadRegs d (2 ^ size.toNat) false b = loaded d size 0 b := loadRegs_eq_loaded d size 0 b

/-! ## The value that an atomic writes (R271) -/

/-- The operations at a width of whole bytes. -/
theorem aopNew_toNat {w : Nat} (hw : 8 * (w / 8) = w) (old v v2 : BitVec w) :
    let r (op : Nat) : Option Nat := aopNew op (w / 8) old.toNat v.toNat v2.toNat
    r 0 = some (old + v).toNat ∧ r 1 = some (if old.toInt ≤ v.toInt then old else v).toNat ∧
    r 2 = some (if old.toInt ≤ v.toInt then v else old).toNat ∧ r 3 = some (if old.toNat ≤ v.toNat then old else v).toNat ∧
    r 4 = some (if old.toNat ≤ v.toNat then v else old).toNat ∧ r 5 = some (old &&& v).toNat ∧ r 6 = some (old ||| v).toNat ∧
    r 7 = some (old ^^^ v).toNat ∧ r 8 = some v.toNat ∧ r 10 = if old = v then some v2.toNat else none := by
  have hlt : ∀ x : BitVec w, sextNat (8 * (w / 8)) x.toNat = x.toInt := fun x => by rw [hw, sextNat_toNat]
  have hite (p : Prop) [Decidable p] (x y : BitVec w) : (if p then x else y).toNat = if p then x.toNat else y.toNat := apply_ite ..
  refine ⟨?_, ?_, ?_, ?_, ?_, ?_, ?_, ?_, ?_, ?_⟩
  · simp [aopNew, hw]
  · simp only [aopNew, hlt, hite]
  · simp only [aopNew, hlt, hite]
  · simp only [aopNew, Nat.min_def, hite]
  · simp only [aopNew, Nat.max_def, hite]
  · simp [aopNew]
  · simp [aopNew]
  · simp [aopNew]
  · simp [aopNew]
  · simp [aopNew, BitVec.toNat_inj]

/-! ## The bytes of a read -/

@[simp] theorem State.length_freeBytes (s : State) (n : Nat) : (s.freeBytes n).2.length = n := by
  simp [State.freeBytes]

@[simp] theorem State.length_l2Read (s : State) (a : Acc) (cls : BitVec 2) (home pa n hint : Nat) :
    (s.l2Read a cls home pa n hint).2.length = n := by
  simp [State.l2Read]

@[simp] theorem State.length_siteRead (s : State) (a : Acc) (cls : BitVec 2) (home pa n : Nat) (site : Site) :
    (s.siteRead a cls home pa n site).2.length = n := by
  cases site with
  | unit =>
    simp only [State.siteRead]
    split <;> simp
  | slice => simp [State.siteRead]
  | rim => simp [State.siteRead]
  | fabric => simp [State.siteRead]

/-- An atomic returns as many bytes as it accesses. -/
theorem State.length_atomicPa (s : State) (a : Acc) (e : BitVec 64) (pa n sc : Nat) (bid : Option Nat) (wr : Bool)
    (f : List Byte → Option (List Byte)) : (s.atomicPa a e pa n sc bid wr f).2.length = n := by
  unfold State.atomicPa
  extract_lets pa' bound who cls home site gone s1
  split
  · exact s1.length_freeBytes n
  · split
    · exact (s1.dropForeign a pa').length_freeBytes n
    · exact s1.length_siteRead who cls home pa' n site

/-! ## Accesses with their results -/

section
variable {s t : State} {a : Acc} {e : BitVec 64} {pa n : Nat} {bid : Option Nat} {b : List Byte}

/-- A translated access has touched what an access may. -/
theorem Touches.of_look {kind : AccKind} {va : Nat} {o : Look} (h : s.look a kind va = (t, o)) : Touches s t := by
  have htouch := look s a kind va
  rwa [h] at htouch

/-- A translated access that reads has touched what an access may. -/
theorem Touches.of_lookRead {kind : AccKind} {va : Nat} {fresh : Bool} {o : Look} (h : s.lookRead a kind va n fresh bid = (t, o)) :
    Touches s t := by
  have htouch := lookRead s a kind va n fresh bid
  rwa [h] at htouch

/-- A load has touched what an access may. -/
theorem Touches.of_readPa {hint : Nat} {fresh : Bool} (h : s.readPa a e pa n hint fresh bid = (t, b)) : Touches s t := by
  have htouch := readPa s a e pa n hint fresh bid
  rwa [h] at htouch

/-- An atomic has touched what an access may. -/
theorem Touches.of_atomicPa {sc : Nat} {wr : Bool} {f : List Byte → Option (List Byte)} (h : s.atomicPa a e pa n sc bid wr f = (t, b)) :
    Touches s t := by
  have htouch := atomicPa s a e pa n sc bid wr f
  rwa [h] at htouch

end

/-! ## Operations logged and replayed (R468, R469) -/

/-- An access leaves the records that an agent still replays. -/
theorem Touches.replayOf {s t : State} (h : Touches s t) (who : Agent) : t.replayOf who = s.replayOf who := by
  cases who with
  | stream sid => simp only [State.replayOf, h.streams]
  | group gid =>
    have hblock : (t.groups[gid]?).bind (fun g => t.blocks[g.bid]?) = (s.groups[gid]?).bind fun g => s.blocks[g.bid]? := by
      have hb := congrArg (Option.bind · fun b => s.blocks[b]?) (h.bidOf (.group gid))
      simpa [State.bidOf, Option.bind_map, Function.comp_def, h.blocks] using hb
    simp only [State.replayOf, hblock]

/-- Without a record to replay an operation is performed (R469). -/
theorem State.replayOp_of_not_replaying {s : State} {who : Agent} (h : notReplaying s who) (t : Option Nat) (kind addr : Nat) :
    s.replayOp who t kind addr = (s, .perform) := by
  simp [State.replayOp, show s.replayOf who = [] from h]

@[simp] theorem State.putLog_issue (s : State) (who : Agent) (r : LogRec) (full : Bool) : (s.putLog who r full).issue = s.issue := by
  cases who with
  | group gid => simp only [State.putLog]; split <;> rfl
  | stream sid => rfl

@[simp] theorem State.logOp_issue (s : State) (who : Agent) (t : Option Nat) (kind addr : Nat) (vals : List Word) :
    (s.logOp who t kind addr vals).issue = s.issue := by
  unfold State.logOp
  split
  · rfl
  · dsimp only
    split
    · rfl
    · split
      · exact State.putLog_issue ..
      · exact State.putLog_issue ..

/-- What an order field does before its access: an acquire or a release (R234, R235). -/
def State.ordered (s : State) (a : Acc) (ord : BitVec 2) (sc : Nat) : State :=
  if ord = 1 then s.acquire a sc else if ord = 2 then s.release a sc else s

/-- An order field names an acquire or a release, not both. -/
theorem State.ordered_eq (s : State) (a : Acc) (ord : BitVec 2) (sc : Nat) : (s.acqIf a ord sc).relIf a ord sc = s.ordered a ord sc := by
  by_cases h : ord = 1
  · subst h; rfl
  · simp only [State.acqIf, State.relIf, State.ordered, h, if_false]

theorem Touches.ordered (s : State) (a : Acc) (ord : BitVec 2) (sc : Nat) : Touches s (s.ordered a ord sc) :=
  ite (acquire s a sc) (ite (release s a sc) (refl s))

/-- The new bytes of an atomic from its old ones, none where nothing is written (R271). -/
def newBytes (aop n v v2 : Nat) (old : List Byte) : Option (List Byte) :=
  (aopNew aop n (leNat old) v v2).map fun r => (List.range n).map fun i => BitVec.ofNat 8 (r / 256 ^ i)

/-- An atomic that no record replays is performed behind its order and logged (R272, R468). -/
theorem State.atomicOp_of_perform {s w y : State} {who : Agent} {t : Option Nat} {kind : LogKind} {ord : BitVec 2} {sc aop n pa : Nat}
    {e : BitVec 64} {v v2 : Nat} {b : List Byte} (hreplay : s.replayOp who t kind.code pa = (w, .perform))
    (hbytes : (w.ordered (w.accOf who) ord sc).atomicPa (w.accOf who) e pa n sc (w.bidOf who) true (newBytes aop n v v2) = (y, b)) :
    s.atomicOp who t kind ord sc aop n pa e v v2 = (y.logOp who t kind.code pa (logged n b), leNat b) := by
  have hnew : (fun o => (aopNew aop n (leNat o) v v2).map (leBytes n)) = newBytes aop n v v2 := by
    funext o
    simp only [newBytes, ← leBytes_eq_map]
  have hbid : (w.ordered (w.accOf who) ord sc).bidOf who = w.bidOf who := (Touches.ordered ..).bidOf who
  simp only [State.atomicOp, hreplay, State.ordered_eq, hnew, hbid, hbytes, logged]

/-- The registers that an atomic's old value gives (R272). -/
theorem loadRegs_of_atomic {s y : State} {a : Acc} {e : BitVec 64} {pa sc : Nat} {bid : Option Nat} {wr : Bool} {size : BitVec 3}
    {f : List Byte → Option (List Byte)} {b : List Byte} (h : s.atomicPa a e pa (2 ^ size.toNat) sc bid wr f = (y, b)) (d : Nat) :
    loadRegs d (2 ^ size.toNat) false (leBytes (2 ^ size.toNat) (leNat b)) = loaded d size 0 b := by
  have hlen : b.length = 2 ^ size.toNat := by
    have := s.length_atomicPa a e pa (2 ^ size.toNat) sc bid wr f
    rwa [h] at this
  rw [← hlen, leBytes_leNat, hlen, loadRegs_eq_loaded_zero]

/-! ## A thread changed twice -/

/-- Two changes of one thread are one. -/
theorem State.modThread_modThread (s : State) (gid ti : Nat) (f f' : Thread → Thread) :
    (s.modThread gid ti f).modThread gid ti f' = s.modThread gid ti fun t => f' (f t) := by
  have hgroup (x : Group) : (x.modThread ti f).modThread ti f' = x.modThread ti fun t => f' (f t) :=
    congrArg (fun l => { x with threads := l }) (List.modify_modify_eq ..)
  have hgroups : (s.groups.modify gid (·.modThread ti f)).modify gid (·.modThread ti f') =
      s.groups.modify gid (·.modThread ti fun t => f' (f t)) := by
    rw [List.modify_modify_eq]
    exact congrArg (fun h => s.groups.modify gid h) (funext hgroup)
  exact congrArg (fun l => { s with groups := l }) hgroups

end Sys2Proof.Machine

namespace Sys2Proof
open Machine

namespace OneLane

variable {s : State} {g : BitVec 4} {gid ti : Nat} {x : Group} {th : Thread}

/-- The block of the lane's group. -/
theorem bidOf (h : OneLane s g gid ti x th) : s.bidOf (.group gid) = some x.bid := by
  simp [State.bidOf, h.group]

section
variable (h : OneLane s g gid ti x th) {scope : BitVec 3} (hscope : scopeFree s (.group gid) scope) {ac : Acc} (hac : s.accOf (.group gid) = ac)
  {d a : BitVec 7} {size : BitVec 3} {o64 : BitVec 1} {gr : BitVec 4} {disp : Int} {gt : Grant} {off : Int}
  (hy : Lane.access { g := x, ti := ti, t := th } gr a o64 disp (2 ^ size.toNat) = { grant := gt, off := off, n := 2 ^ size.toNat })
  (hgrant : grantCheck ac gt gt.at' off (2 ^ size.toNat : Nat) = none) (halign : ((gt.base : Int) + off).toNat % 2 ^ size.toNat = 0)
include h hscope hac hy hgrant halign

/-- An atomic of a lane whose access is found is performed behind its order and logged, and gives back the old value (R272, R468). -/
theorem laneAtomic_of_ok (hreplay : notReplaying s (.group gid)) {aop : Nat} {u w : State} {pa : Nat} {lf : BitVec 64} {ord : BitVec 2} {b : List Byte}
    (hlook : s.lookRead ac (atomKind aop) ((gt.base : Int) + off).toNat (2 ^ size.toNat) true (some x.bid) = (u, .ok pa lf))
    (hbytes : (u.ordered ac ord scope.toNat).atomicPa ac lf pa (2 ^ size.toNat) scope.toNat (some x.bid) true
      (newBytes aop (2 ^ size.toNat) (leNat (stored th.getV d.toNat (2 ^ size.toNat)))
        (leNat (stored th.getV (d.toNat + 2 ^ size.toNat / 4) (2 ^ size.toNat)))) = (w, b))
    (la : Nat) (kind : LogKind) (ret : Bool) :
    s.laneAtomic g la kind ret d a (2 ^ size.toNat) ord o64 gr scope disp aop =
      (w.logOp (.group gid) (some ti) kind.code pa (logged (2 ^ size.toNat) b)).modThread gid ti fun t =>
        doneThread s.issue (if ret then t.late la (loaded d.toNat size 0 b) [] else t) := by
  subst hac
  have htouch : Touches s u := Touches.of_lookRead hlook
  have hissue : w.issue = s.issue := ((htouch.trans (Touches.ordered ..)).trans (Touches.of_atomicPa hbytes)).issue
  have hperform : u.replayOp (.group gid) (some ti) kind.code pa = (u, .perform) :=
    State.replayOp_of_not_replaying ((htouch.replayOf _).trans hreplay) ..
  have hbid : u.bidOf (.group gid) = some x.bid := (htouch.bidOf _).trans h.bidOf
  rw [← htouch.accOf, ← hbid] at hbytes
  have hop := State.atomicOp_of_perform hperform hbytes
  have hfound : s.lookFor (s.accOf (.group gid)) (atomKind aop) ((gt.base : Int) + off).toNat (2 ^ size.toNat) (some true) (some x.bid) =
      (u, .ok pa lf) := hlook
  rw [State.laneAtomic, h.laneMem_of_ok hscope hy (LaneAcc.check_of_grant hgrant halign rfl) hfound]
  simp only [regValue, storeData_eq_stored, hop, loadRegs_of_atomic hbytes]
  cases ret with
  | false => simp [hissue]
  | true => simp [hissue, State.modThread_modThread]

/-- A host page takes no atomic but add, exchange and compare-and-swap (R275, R357). -/
theorem laneAtomic_of_host {aop lvl : Nat} {u : State} {lf : BitVec 64}
    (htranslate : s.translate ac ((gt.base : Int) + off).toNat = (u, .leaf lvl lf)) (hrd : leafRd lf = true) (hw : leafW lf = true)
    (hhost : paKind (leafPa lf) = .host) (haop : aop ∉ [0, 8, 10]) (la : Nat) (kind : LogKind) (ret : Bool) (ord : BitVec 2) :
    s.laneAtomic g la kind ret d a (2 ^ size.toNat) ord o64 gr scope disp aop =
      (u.modThread gid ti fun t => { t with prog := x.homeLane ti, wait := .none }).standAt gid ti .pageClass false
        ((gt.base : Int) + off).toNat := by
  subst hac
  have hkind : atomKind aop = .oddAtomic := by
    have hodd : aopOnHost aop = false := by simpa [aopOnHost, and_assoc] using haop
    simp [atomKind, hodd]
  have hprot : protCheck .oddAtomic lf = some .pageClass := by
    simp [protCheck, hrd, hw, hhost, AccKind.writes]
  have hlook : s.lookFor (s.accOf (.group gid)) (atomKind aop) ((gt.base : Int) + off).toNat (2 ^ size.toNat) (some true) (some x.bid) =
      (u, .fault .pageClass) := by
    simp [State.lookFor, State.lookRead, State.look, State.lookLeaf, htranslate, hkind, hprot]
  exact h.laneMem_of_fault hscope hy (LaneAcc.check_of_grant hgrant halign rfl) hlook

end

end OneLane
end Sys2Proof

open Sys2Proof Sys2Proof.Machine

/-- Settles O22: the operations are those of words; ATOM, ATOMC and RED are one lane atomic with its operation, and differ in what
they return. -/
theorem atomics : Obligations.Atomics := by
  unfold Obligations.Atomics
  refine ⟨fun w hw old v v2 => ?value, ?lane⟩
  case value =>
    intro r
    have hwidth : 8 * (w / 8) = w := by rcases hw with rfl | rfl <;> rfl
    obtain ⟨h0, h1, h2, h3, h4, h5, h6, h7, h8, h10⟩ := aopNew_toNat hwidth old v v2
    exact ⟨h0, h1, h2, h3, h4, h5, h6, h7, h8, h10, fun _ => rfl⟩
  case lane =>
    intro s g la d a size sext o64 ord hint gr scope imm gid ti x th h hscope hreplay hsize n gt idx ac v v2 on old
    have hy (disp : Int) : Lane.access { g := x, ti := ti, t := th } gr a o64 disp n = { grant := gt, off := idx + disp, n := n } :=
      Lane.access_eq ..
    simp only [List.forall_mem_cons, List.not_mem_nil, false_imp_iff, implies_true, and_true]
    refine ⟨fun hgrant halign => ⟨fun u pa lf hlook w b hbytes => ?_, fun u lvl lf htranslate hrd hw hhost hop => ?_⟩,
      fun hgrant halign => ⟨fun u pa lf hlook w b hbytes => ?_, fun u lvl lf htranslate hrd hw hhost hop => ?_⟩,
      fun hgrant halign => ⟨fun u pa lf hlook w b hbytes => ?_, fun u lvl lf htranslate hrd hw hhost hop => ?_⟩⟩
    · exact congrArg Host.Outcome.next (h.laneAtomic_of_ok hscope rfl (hy _) hgrant halign hreplay hlook hbytes la.toNat .atom true)
    · exact congrArg Host.Outcome.next (h.laneAtomic_of_host hscope rfl (hy _) hgrant halign htranslate hrd hw hhost hop la.toNat .atom true ord)
    · exact congrArg Host.Outcome.next (h.laneAtomic_of_ok hscope rfl (hy _) hgrant halign hreplay hlook hbytes la.toNat .atomc true)
    · exact congrArg Host.Outcome.next (h.laneAtomic_of_host hscope rfl (hy _) hgrant halign htranslate hrd hw hhost hop la.toNat .atomc true ord)
    · exact congrArg Host.Outcome.next (h.laneAtomic_of_ok hscope rfl (hy _) hgrant halign hreplay hlook hbytes 0 .red false)
    · exact congrArg Host.Outcome.next (h.laneAtomic_of_host hscope rfl (hy _) hgrant halign htranslate hrd hw hhost hop 0 .red false ord)

end

section
/-! O23. ULD, UST and UATOM of a group or a stream (R226, R279). -/

namespace Sys2Proof.Machine

/-! ## The access of an agent (R279) -/

section
variable {s t : State} {g : BitVec 4} {u : UFile} {scope : BitVec 3} {kind : AccKind} {data : Option Bool} {perm : Grant → Bool} {gr : BitVec 4}
  {a : BitVec 8} {disp : Int} {n : Nat} {act : Nat → State → UFile → Acc → Nat → BitVec 64 → State} (hu : s.ufile s.issue.who = some u)
include hu

/-- An agent whose guard is false goes on (R45). -/
theorem State.uniMem_of_skipped (hguard : u.guard g = false) (sc : Nat) : s.uniMem g sc kind data perm gr a disp n act = s.advanceU := by
  simp [State.uniMem, hu, hguard]

/-- An agent whose checks pass and whose access is found accesses once and goes on (R279). -/
theorem State.uniMem_of_ok {pa : Nat} {e : BitVec 64} {off : Int} (hguard : u.guard g = true) (hscope : scopeFree s s.issue.who scope)
    (hoff : u.ea a disp = off) (hgrant : grantCheck (s.accOf s.issue.who) (u.getG gr.toNat) (perm (u.getG gr.toNat)) off n = none)
    (halign : (((u.getG gr.toNat).base : Int) + off).toNat % n = 0)
    (hlook : s.lookFor (s.accOf s.issue.who) kind (((u.getG gr.toNat).base : Int) + off).toNat n data (s.bidOf s.issue.who) = (t, .ok pa e)) :
    s.uniMem g scope.toNat kind data perm gr a disp n act =
      (act (scopeOf s.issue.who scope.toNat) t u (s.accOf s.issue.who) pa e).unwaitU.advanceU := by
  subst hoff
  have hcheck := LaneAcc.check_of_grant hgrant halign (perm := perm) rfl
  have htouch : Touches s t := by
    have ht := Touches.lookFor s (s.accOf s.issue.who) kind (((u.getG gr.toNat).base : Int) + u.ea a disp).toNat n data (s.bidOf s.issue.who)
    rwa [hlook] at ht
  simp only [State.uniMem, hu, hguard, Bool.not_true, Bool.false_eq_true, if_false, State.scopeCheck_of_free hscope, State.clamped_false, hcheck,
    LaneAcc.va, hlook, htouch.issue]

/-- A UST that meets no range guard is its access alone (R279, R464). -/
theorem exec_ust_of_no_guard {k : Kernel} (hk : s.kernels[s.kidOf s.issue.who]? = some k)
    (hmiss : u.guard g = false ∨ (u.getG gr.toNat).ge = false) (d a : BitVec 8) (size : BitVec 3) (sext : BitVec 1) (ord hint : BitVec 2)
    (scope : BitVec 3) (imm : BitVec 12) :
    exec (.ust g d a size sext ord gr hint scope imm) s = .next (s.uniMem g scope.toNat .write none (·.wr) gr a (disp12 imm (accBytes size))
      (accBytes size) fun sc s _ ac pa e =>
        (s.relIf ac ord sc).writePa ac e pa hint.toNat (storeData u.getS d.toNat (accBytes size))) := by
  by_cases hguard : u.guard g = true
  · have hge : (u.getG gr.toNat).ge = false := by simpa [hguard] using hmiss
    simp only [exec, execUst, hu, hk, ite_self, guardData, guardFails, hge, Bool.false_eq_true, false_and, if_false]
  · have hskip : u.guard g = false := by simpa using hguard
    simp only [exec, execUst, hu, hk, hskip, Bool.false_eq_true, if_false, ite_self, State.uniMem_of_skipped hu hskip]

end

end Sys2Proof.Machine

open Sys2Proof Sys2Proof.Machine

/-- Settles O23: each is one access of its agent, found as a lane's is, with the data of the agent's own registers. -/
theorem uniformAccesses : Obligations.UniformAccesses := by
  unfold Obligations.UniformAccesses
  intro s g la d a size sext ord hint gr scope imm u k hu hk hscope hsize n gt ac sc off va short on
  have hsc : scopeOf s.issue.who scope.toNat = sc := scopeOf_eq ..
  refine ⟨fun hguard hge => ⟨?load, ?store, ?atomic⟩, fun hguard => ?skip⟩
  case load =>
    intro hgrant halign w pa e hlook y b hbytes
    have hw : Touches s w := Touches.of_lookRead hlook
    have hy : y.issue = s.issue := by
      refine Eq.trans ?_ hw.issue
      exact ((Touches.ite (Touches.acquire ..) (Touches.refl w)).trans (Touches.of_readPa hbytes)).issue
    have hfound : s.lookFor ac .read (va imm.toInt) n (some false) (s.bidOf s.issue.who) = (w, .ok pa e) := hlook
    have hread : (w.acqIf (s.accOf s.issue.who) ord sc).readPa (s.accOf s.issue.who) e pa (2 ^ size.toNat) hint.toNat false (w.bidOf s.issue.who) = (y, b) := by
      rw [hw.bidOf]; exact hbytes
    refine congrArg Host.Outcome.next ((State.uniMem_of_ok hu hguard hscope rfl hgrant halign hfound).trans ?_)
    simp only [hsc, accBytes, hw.issue, hread, hy, loadRegs_eq_loaded]
    rfl
  case store =>
    intro hgrant halign w pa e hlook
    have hfound : s.lookFor ac .write (va imm.toInt) n none (s.bidOf s.issue.who) = (w, .ok pa e) := hlook
    rw [exec_ust_of_no_guard hu hk (.inr hge)]
    refine congrArg Host.Outcome.next ((State.uniMem_of_ok hu hguard hscope rfl hgrant halign hfound).trans ?_)
    simp only [hsc, accBytes, storeData_eq_stored]
    rfl
  case atomic =>
    intro hgrant halign hreplay hwidth w pa e hlook y b hbytes
    have hw : Touches s w := Touches.of_lookRead hlook
    have hy : y.issue = s.issue := ((hw.trans (Touches.ordered w ac ord sc)).trans (Touches.of_atomicPa hbytes)).issue
    have hperform : w.replayOp s.issue.who none LogKind.uatom.code pa = (w, .perform) :=
      State.replayOp_of_not_replaying ((hw.replayOf _).trans hreplay) ..
    have hatomic := hbytes
    rw [show ac = w.accOf s.issue.who from (hw.accOf _).symm, ← hw.bidOf] at hatomic
    have hop : w.atomicOp s.issue.who none .uatom ord sc (imm.toNat / 256) (2 ^ size.toNat) pa e (regValue u.getS d.toNat (2 ^ size.toNat))
        (regValue u.getS (d.toNat + 2 ^ size.toNat / 4) (2 ^ size.toNat)) =
        (y.logOp s.issue.who none LogKind.uatom.code pa (logged n b), leNat b) := by
      simp only [regValue, storeData_eq_stored]
      exact State.atomicOp_of_perform hperform hatomic
    have hfound : s.lookFor ac (atomKind (imm.toNat / 256)) (va short) n (some true) (s.bidOf s.issue.who) = (w, .ok pa e) := hlook
    refine congrArg Host.Outcome.next ((State.uniMem_of_ok hu hguard hscope rfl hgrant halign hfound).trans ?_)
    simp only [hsc, accBytes, hw.issue, hop, State.logOp_issue, hy, loadRegs_of_atomic hbytes]
    rfl
  case skip =>
    have hnext (kind : AccKind) (data : Option Bool) (perm : Grant → Bool) (disp : Int) (m : Nat)
        (act : Nat → State → UFile → Acc → Nat → BitVec 64 → State) :
        (Host.Outcome.next (s.uniMem g scope.toNat kind data perm gr a disp m act) : Out) = .next s.advanceU :=
      congrArg Host.Outcome.next (State.uniMem_of_skipped hu hguard _)
    simp only [List.forall_mem_cons, List.not_mem_nil, false_imp_iff, implies_true, and_true]
    exact ⟨hnext .., (exec_ust_of_no_guard hu hk (.inl hguard) d a size sext ord hint scope imm).trans (hnext ..), hnext ..⟩

end

section
/-! O21. Loads and stores (R267 to R269), the lanes of one issue in order (R264 to R266), and what a load or a store on a line that a
cache holds leaves (R188, R240, R253). -/

namespace Sys2Proof.Machine

/-! ## Replayed operations leave the issue (R469) -/

/-- Steps that each leave the issue leave it together. -/
theorem foldl_issue {α : Type} (l : List α) (f : State → α → State) (hf : ∀ s x, (f s x).issue = s.issue) (s : State) :
    (l.foldl f s).issue = s.issue :=
  List.foldlRecOn (motive := fun t => t.issue = s.issue) l f rfl fun t ht x _ => (hf t x).trans ht

@[simp] theorem State.endRollback_issue (s : State) (bid : Nat) : (s.endRollback bid).issue = s.issue := by
  unfold State.endRollback
  split
  · rfl
  · rename_i b tr _
    extract_lets t u
    have ht : t.issue = s.issue := foldl_issue _ _ (fun _ _ => by rfl) s
    have hu : u.issue = s.issue := (foldl_issue _ _ (fun _ _ => by rfl) t).trans ht
    split <;> exact hu

@[simp] theorem State.replayOp_issue (s : State) (who : Agent) (t : Option Nat) (kind addr : Nat) :
    (s.replayOp who t kind addr).1.issue = s.issue := by
  unfold State.replayOp
  split
  · rfl
  · split
    · dsimp only
      split
      · split <;> rfl
      · rfl
    · dsimp only
      split
      · exact State.endRollback_issue ..
      · rfl

/-! ## The lanes of one issue (R264 to R266) -/

/-- The lane of a thread is that thread's. -/
theorem State.lane?_eq_some {s : State} {gid ti : Nat} {l : Lane} (h : s.lane? gid ti = some l) : l.ti = ti := by
  unfold State.lane? at h
  split at h <;> cases h
  rfl

theorem State.lane?_eq (s : State) (gid ti : Nat) :
    s.lane? gid ti = (s.groups[gid]?).bind fun x => (x.threads[ti]?).map fun th => { g := x, ti := ti, t := th } := by
  cases hx : s.groups[gid]? with
  | none => simp [State.lane?, State.thread?, hx]
  | some x => cases ht : x.threads[ti]? <;> simp [State.lane?, State.thread?, hx, ht]

/-- The lanes of the issue of a group whose guard is true (R45). -/
def State.onLanesOf (s : State) (g : BitVec 4) (gid : Nat) : List (Nat × Nat) :=
  s.issue.lanes.filter fun l => (s.lane? gid l.2).any fun y => y.guard g

/-- The state after the lanes of the issue of a group whose guard is false have gone on (R45). -/
def State.offLanesDone (s : State) (g : BitVec 4) (gid : Nat) : State :=
  (s.issue.lanes.filter fun l => !(s.lane? gid l.2).any fun y => y.guard g).foldl
    (fun u l => u.modThread gid l.2 (doneThread s.issue)) s

/-- The lanes that fail a check, with the cause and the address. -/
def State.badLanes (s : State) (gid : Nat) (perm : Grant → Bool) (acc : Lane → LaneAcc) (ts : List (Nat × Nat)) : List (Nat × Cause × Nat) :=
  ts.filterMap fun r => (s.lane? gid r.2).bind fun l =>
    ((acc l).check (s.accOf (.group gid)) perm).map fun c => (r.2, c, (acc l).va)

/-- What a lane meets: its place after the cut, or the end of its access, performed by an action that may stop elsewhere. -/
def tryLane (i : Issue) (gid : Nat) (kind : AccKind) (data : Option Bool) (acc : Lane → LaneAcc)
    (act : State → Lane → Nat → BitVec 64 → Option State) (u : State) (r : Nat × Nat) (l : Lane) : Option (State × LaneEnd) :=
  if i.leaves gid r.2 then some (u, .later)
  else match u.lookFor (u.accOf (.group gid)) kind (acc l).va (acc l).n data (some l.g.bid) with
    | (w, .fault c) => some (w, .trap c (acc l).va)
    | (w, .wait) => some (w, .wait)
    | (w, .poison) => some (w, .poison)
    | (w, .ok pa lf) => (act w l pa lf).map fun v => (v, .done)

/-- A lane that is performed goes on (R265). -/
def goLane (i : Issue) (gid : Nat) (kind : AccKind) (data : Option Bool) (acc : Lane → LaneAcc)
    (act : State → Lane → Nat → BitVec 64 → Option State) (u : State) (r : Nat × Nat) : Option State :=
  match u.lane? gid r.2 with
  | none => some u
  | some l => (tryLane i gid kind data acc act u r l).bind fun x =>
      if x.2 = .done then some (x.1.modThread gid r.2 (doneThread x.1.issue)) else none

/-- The end of a lane that is not performed: a trap stands, the others wait or are left. -/
def LaneEnd.settle (stop : LaneEnd) (gid ti : Nat) (s : State) : State :=
  match stop with
  | .trap c v => s.standAt gid ti c false v
  | _ => s

/-- An issue of lanes that stops at one: PROG of it and of the higher ones holds it, and the higher ones are held (R265). -/
theorem performLanes_of_stop {perform : State → Nat → Nat → Lane → State × LaneEnd} {gid ti : Nat} {post : List (Nat × Nat)} {u w : State}
    {l : Lane} {stop : LaneEnd} (hlane : u.lane? gid ti = some l)
    (htry : (if u.issue.leaves gid ti then (u, .later) else perform u gid ti l) = (w, stop)) (hstop : stop ≠ .done)
    (huser : ∀ c v, stop = .trap c v → c.isUser = false) :
    performLanes perform ((gid, ti) :: post) u = stop.settle gid ti
      (post.foldl (fun v q => v.modThread q.1 q.2 fun t => { t with prog := l.g.homeLane ti, wait := .held gid ti })
        (w.modThread gid ti fun t => { t with prog := l.g.homeLane ti, wait := stop.wait' })) := by
  cases stop with
  | done => exact absurd rfl hstop
  | trap c v => simp only [performLanes, hlane, htry, LaneEnd.settle, State.trapLane_of_not_user (huser c v rfl)]
  | wait => simp only [performLanes, hlane, htry, LaneEnd.settle]
  | later => simp only [performLanes, hlane, htry, LaneEnd.settle]
  | poison => simp only [performLanes, hlane, htry, LaneEnd.settle]

section
variable {i : Issue} {gid sc : Nat} {kind : AccKind} {data : Option Bool} {acc : Lane → LaneAcc}
  {actOn : Nat → State → Nat → Nat → Lane → Nat → BitVec 64 → State} {act : State → Lane → Nat → BitVec 64 → Option State}
  (hact : ∀ w l pa lf v, act w l pa lf = some v → actOn sc w gid l.ti l pa lf = v ∧ v.issue = w.issue)
include hact

/-- What a lane meets is what its access does. -/
theorem tryLane_eq_some {u w : State} {r : Nat × Nat} {l : Lane} {stop : LaneEnd} (hissue : u.issue = i) (hti : l.ti = r.2)
    (htry : tryLane i gid kind data acc act u r l = some (w, stop)) :
    (if u.issue.leaves gid r.2 then (u, .later) else performAccess kind data acc (actOn sc) u gid r.2 l) = (w, stop) ∧ w.issue = i ∧
      (∀ c v, stop = .trap c v → c.isUser = false) := by
  subst hissue
  unfold tryLane at htry
  by_cases hleaves : u.issue.leaves gid r.2 = true
  · simp only [hleaves, if_true, Option.some.injEq, Prod.mk.injEq] at htry ⊢
    obtain ⟨rfl, rfl⟩ := htry
    exact ⟨⟨rfl, rfl⟩, rfl, fun _ _ h => by cases h⟩
  · have htouch := Touches.lookFor u (u.accOf (.group gid)) kind (acc l).va (acc l).n data (some l.g.bid)
    simp only [hleaves, Bool.false_eq_true, if_false] at htry ⊢
    unfold performAccess
    rcases hlook : u.lookFor (u.accOf (.group gid)) kind (acc l).va (acc l).n data (some l.g.bid) with ⟨y, o⟩
    rw [hlook] at htouch htry
    cases o with
    | fault c =>
      cases htry
      exact ⟨rfl, htouch.issue, fun c' v h => by cases h; exact State.lookFor_not_user hlook⟩
    | wait => cases htry; exact ⟨rfl, htouch.issue, fun _ _ h => by cases h⟩
    | poison => cases htry; exact ⟨rfl, htouch.issue, fun _ _ h => by cases h⟩
    | ok pa lf =>
      obtain ⟨v, hv, hdone⟩ := Option.map_eq_some_iff.1 htry
      cases hdone
      obtain ⟨hperform, hkeep⟩ := hact y l pa lf w hv
      rw [hti] at hperform
      exact ⟨congrArg (·, LaneEnd.done) hperform, hkeep.trans htouch.issue, fun _ _ h => by cases h⟩

/-- A lane that is performed, or is not there, leaves the rest of the issue to go on from it. -/
theorem performLanes_of_goLane {u v : State} {r : Nat × Nat} (hr : r.1 = gid) (hissue : u.issue = i)
    (hgo : goLane i gid kind data acc act u r = some v) :
    v.issue = i ∧ ∀ rest, performLanes (performAccess kind data acc (actOn sc)) (r :: rest) u =
      performLanes (performAccess kind data acc (actOn sc)) rest v := by
  obtain ⟨g, ti⟩ := r
  obtain rfl : g = gid := hr
  unfold goLane at hgo
  cases hlane : u.lane? g ti with
  | none =>
    simp only [hlane, Option.some.injEq] at hgo
    subst hgo
    exact ⟨hissue, fun rest => by simp only [performLanes, hlane]⟩
  | some l =>
    simp only [hlane] at hgo
    obtain ⟨⟨w, stop⟩, htry, hnext⟩ := Option.bind_eq_some_iff.1 hgo
    obtain ⟨hperform, hkeep, -⟩ := tryLane_eq_some hact hissue (State.lane?_eq_some hlane) htry
    by_cases hdone : stop = .done
    · subst hdone
      simp only [if_true, Option.some.injEq] at hnext
      subst hnext
      exact ⟨hkeep, fun rest => by simp only [performLanes, hlane, hperform, Issue.done_eq]⟩
    · simp [hdone] at hnext

/-- Lanes that are all performed leave the rest of the issue to go on from them. -/
theorem performLanes_of_foldlM {pre : List (Nat × Nat)} {u v : State} (hgid : ∀ r ∈ pre, r.1 = gid) (hissue : u.issue = i)
    (hgo : pre.foldlM (goLane i gid kind data acc act) u = some v) :
    v.issue = i ∧ ∀ rest, performLanes (performAccess kind data acc (actOn sc)) (pre ++ rest) u =
      performLanes (performAccess kind data acc (actOn sc)) rest v := by
  induction pre generalizing u with
  | nil =>
    simp only [List.foldlM_nil, Option.pure_def, Option.some.injEq] at hgo
    subst hgo
    exact ⟨hissue, fun _ => rfl⟩
  | cons r pre ih =>
    rw [List.foldlM_cons] at hgo
    obtain ⟨w, hw, hrest⟩ := Option.bind_eq_some_iff.1 hgo
    obtain ⟨hkeep, hstep⟩ := performLanes_of_goLane hact (hgid r List.mem_cons_self) hissue hw
    obtain ⟨hv, hpre⟩ := ih (fun q hq => hgid q (List.mem_cons_of_mem _ hq)) hkeep hrest
    exact ⟨hv, fun rest => (hstep (pre ++ rest)).trans (hpre rest)⟩

end

section
variable {s : State} {g : BitVec 4} {gid : Nat} (hgid : ∀ l ∈ s.issue.lanes, l.1 = gid)
include hgid

/-- The guarded lanes of an issue of one group, and the state after the others have gone on. -/
theorem State.guardedLanes_eq : s.guardedLanes g = (s.offLanesDone g gid, s.onLanesOf g gid) := by
  have hon {l : Nat × Nat} (hl : l ∈ s.issue.lanes) : ((s.lane? l.1 l.2).map fun x => x.guard g).getD false =
      (s.lane? gid l.2).any fun y => y.guard g := by
    rw [hgid l hl]
    cases s.lane? gid l.2 <;> rfl
  have hoff (ls : List (Nat × Nat)) (hls : ∀ l ∈ ls, l.1 = gid) (u : State) :
      ls.foldl (fun s l => s.modThread l.1 l.2 s.issue.done) u = ls.foldl (fun v l => v.modThread gid l.2 (doneThread u.issue)) u := by
    induction ls generalizing u with
    | nil => rfl
    | cons l ls ih =>
      rw [List.foldl_cons, List.foldl_cons, ih (fun q hq => hls q (List.mem_cons_of_mem _ hq)), hls l List.mem_cons_self, Issue.done_eq]
      rfl
  unfold State.guardedLanes State.offLanesDone State.onLanesOf
  dsimp only
  rw [List.filter_congr fun l hl => hon hl, List.filter_congr fun l hl => congrArg (! ·) (hon hl),
    hoff _ (fun l hl => hgid l (List.mem_of_mem_filter hl))]

theorem State.onLanesOf_gid : ∀ l ∈ s.onLanesOf g gid, l.1 = gid := fun l hl => hgid l (List.mem_of_mem_filter hl)

omit hgid in
@[simp] theorem State.offLanesDone_issue : (s.offLanesDone g gid).issue = s.issue :=
  foldl_issue _ _ (fun _ _ => by rfl) s

omit hgid in
/-- Lanes that go on leave the scopes of the group. -/
theorem State.scopeFree_offLanesDone {scope : BitVec 3} (h : scopeFree s (.group gid) scope) :
    scopeFree (s.offLanesDone g gid) (.group gid) scope := by
  refine List.foldlRecOn (motive := fun u => scopeFree u (.group gid) scope) _ _ h fun u hu l _ => hu.imp_right fun hpriv => ?_
  have hctx : (u.modThread gid l.2 (doneThread s.issue)).ctxOf (.group gid) = u.ctxOf (.group gid) := by
    cases hx : u.groups[gid]? <;> simp [State.ctxOf, State.ctxOfKernel, hx, Group.modThread]
  rw [hctx]
  exact hpriv

/-- The failing lanes of an issue of one group. -/
theorem State.laneFails_eq (u : State) (perm : Grant → Bool) (acc : Lane → LaneAcc) : u.laneFails perm acc (s.onLanesOf g gid) =
    (u.badLanes gid perm acc (s.onLanesOf g gid)).map fun f => ((gid, f.1), f.2.1, f.2.2) := by
  unfold State.laneFails State.badLanes
  rw [List.map_filterMap]
  refine List.filterMap_congr fun l hl => ?_
  obtain rfl : l.1 = gid := State.onLanesOf_gid hgid l hl
  cases u.lane? l.1 l.2 with
  | none => rfl
  | some x => simp [Function.comp_def]

variable {scope : BitVec 3} (hscope : scopeFree s (.group gid) scope) {i : Instr} {kind : AccKind} {data : Option Bool} {perm : Grant → Bool}
  {acc : Lane → LaneAcc} {actOn : Nat → State → Nat → Nat → Lane → Nat → BitVec 64 → State}
  (hexec : exec i s = .next (s.laneMem g scope.toNat kind data perm acc actOn))
include hscope hexec

/-- A memory instruction of the lanes of one group. -/
theorem exec_lanes_eq : exec i s = .next
    (if (s.offLanesDone g gid).laneFails perm acc (s.onLanesOf g gid) ≠ [] then
      ((s.offLanesDone g gid).laneFails perm acc (s.onLanesOf g gid)).foldl (fun s f => s.trapLane f.1.1 f.1.2 f.2.1 f.2.2) (s.offLanesDone g gid)
    else performLanes (performAccess kind data acc (actOn scope.toNat)) (s.onLanesOf g gid) (s.offLanesDone g gid)) := by
  rw [hexec, State.laneMem_eq (State.guardedLanes_eq hgid) (State.onLanesOf_gid hgid)
    (State.scopeCheck_of_free (State.scopeFree_offLanesDone hscope))]

/-- If a lane of an issue fails a check, each that fails is trapped, and none is performed (R264). -/
theorem exec_lanes_of_bad (hbad : (s.offLanesDone g gid).badLanes gid perm acc (s.onLanesOf g gid) ≠ []) :
    exec i s = .next (((s.offLanesDone g gid).badLanes gid perm acc (s.onLanesOf g gid)).foldl
      (fun u f => u.standAt gid f.1 f.2.1 false f.2.2) (s.offLanesDone g gid)) := by
  rw [exec_lanes_eq hgid hscope hexec, State.laneFails_eq hgid, if_pos (by simpa using hbad), List.foldl_map]
  refine congrArg Host.Outcome.next (List.foldl_ext _ _ _ fun u f hf => State.trapLane_of_not_user ?_ u gid f.1 f.2.2)
  obtain ⟨r, -, hr⟩ := List.mem_filterMap.1 hf
  obtain ⟨l, -, hl⟩ := Option.bind_eq_some_iff.1 hr
  obtain ⟨c, hc, rfl⟩ := Option.map_eq_some_iff.1 hl
  exact LaneAcc.check_not_user hc

variable (hpass : (s.offLanesDone g gid).badLanes gid perm acc (s.onLanesOf g gid) = [])
include hpass

/-- If no lane of an issue fails a check, its lanes are performed in order (R265). -/
theorem exec_lanes_of_pass : exec i s =
    .next (performLanes (performAccess kind data acc (actOn scope.toNat)) (s.onLanesOf g gid) (s.offLanesDone g gid)) := by
  rw [exec_lanes_eq hgid hscope hexec, State.laneFails_eq hgid, hpass]
  rfl

variable {act : State → Lane → Nat → BitVec 64 → Option State}
  (hact : ∀ w l pa lf v, act w l pa lf = some v → actOn scope.toNat w gid l.ti l pa lf = v ∧ v.issue = w.issue)
include hact

/-- Lanes that are all performed are what the issue does. -/
theorem exec_lanes_of_all {u : State}
    (hall : (s.onLanesOf g gid).foldlM (goLane s.issue gid kind data acc act) (s.offLanesDone g gid) = some u) : exec i s = .next u := by
  obtain ⟨-, hperform⟩ := performLanes_of_foldlM hact (State.onLanesOf_gid hgid) State.offLanesDone_issue hall
  have hlanes := hperform []
  rw [List.append_nil] at hlanes
  rw [exec_lanes_of_pass hgid hscope hexec hpass, hlanes]
  rfl

/-- An issue stops at the first lane that is not performed; those before it stay performed (R265). -/
theorem exec_lanes_of_stop {pre post : List (Nat × Nat)} {r : Nat × Nat} {u w : State} {l : Lane} {stop : LaneEnd}
    (hsplit : s.onLanesOf g gid = pre ++ r :: post)
    (hpre : pre.foldlM (goLane s.issue gid kind data acc act) (s.offLanesDone g gid) = some u) (hlane : u.lane? gid r.2 = some l)
    (htry : tryLane s.issue gid kind data acc act u r l = some (w, stop)) (hstop : stop ≠ .done) :
    exec i s = .next (stop.settle gid r.2
      (post.foldl (fun v q => v.modThread gid q.2 fun t => { t with prog := l.g.homeLane r.2, wait := .held gid r.2 })
        (w.modThread gid r.2 fun t => { t with prog := l.g.homeLane r.2, wait := stop.wait' }))) := by
  have hgroup : ∀ q ∈ pre ++ r :: post, q.1 = gid := hsplit ▸ State.onLanesOf_gid hgid
  obtain ⟨hissue, hperform⟩ := performLanes_of_foldlM hact (fun q hq => hgroup q (List.mem_append_left _ hq)) State.offLanesDone_issue hpre
  obtain ⟨hend, -, huser⟩ := tryLane_eq_some hact hissue (State.lane?_eq_some hlane) htry
  have hr : r = (gid, r.2) := Prod.ext (hgroup r (List.mem_append_right _ List.mem_cons_self)) rfl
  have hpost (v : State) (f : Thread → Thread) : post.foldl (fun v q => v.modThread q.1 q.2 f) v = post.foldl (fun v q => v.modThread gid q.2 f) v :=
    List.foldl_ext _ _ _ fun v q hq => by rw [hgroup q (List.mem_append_right _ (List.mem_cons_of_mem _ hq))]
  rw [exec_lanes_of_pass hgid hscope hexec hpass, hsplit, hperform (r :: post), hr, performLanes_of_stop hlane hend hstop huser, hpost]

end

end Sys2Proof.Machine

namespace Sys2Proof.Machine

/-! ## The lane memory instructions as lanes of one issue (R264 to R269, R272) -/

/-- The access of a lane at its index and a displacement (R264). -/
def laneAt (gr : BitVec 4) (a : BitVec 7) (o64 : BitVec 1) (disp : Int) (n : Nat) (l : Lane) : LaneAcc :=
  { grant := l.g.u.getG gr.toNat
    off := (if o64 = 1 then ((l.t.getV2 a.toNat).toNat : Int) else (l.t.getV a.toNat).toNat) + disp
    n := n }

theorem Lane.access_eq_laneAt (gr : BitVec 4) (a : BitVec 7) (o64 : BitVec 1) (disp : Int) (n : Nat) :
    (fun l : Lane => l.access gr a o64 disp n) = laneAt gr a o64 disp n := by
  funext l
  rw [Lane.access_eq, laneAt]
  split <;> rfl

/-- What a lane fails: a check of its grant, else that of the alignment (R264). -/
def failOf (ofGrant : Option Cause) (va n : Nat) : Option Cause :=
  match ofGrant with
  | some c => some c
  | none => if va % n = 0 then none else some .misalign

theorem LaneAcc.check_eq_failOf (y : LaneAcc) (a : Acc) (perm : Grant → Bool) :
    y.check a perm = failOf (grantCheck a y.grant (perm y.grant) y.off y.n) y.va y.n := by
  unfold LaneAcc.check failOf
  cases grantCheck a y.grant (perm y.grant) y.off y.n with
  | some c => rfl
  | none => exact ite_not ..

section
variable {s : State} {g : BitVec 4} {gid : Nat} (hgid : ∀ l ∈ s.issue.lanes, l.1 = gid) {scope : BitVec 3}
  (hscope : scopeFree s (.group gid) scope) {i : Instr} {kind : AccKind} {data : Option Bool} {perm : Grant → Bool} {gr : BitVec 4}
  {a : BitVec 7} {o64 : BitVec 1} {disp : Int} {n : Nat} {actOn : Nat → State → Nat → Nat → Lane → Nat → BitVec 64 → State}
  {act : State → Lane → Nat → BitVec 64 → Option State}
include hgid hscope

/-- The lanes of an issue: each failing one is trapped, or each is performed, or they stop at one (R264, R265). -/
theorem exec_lanes (hexec : exec i s = .next (s.laneMem g scope.toNat kind data perm (fun l => l.access gr a o64 disp n) actOn))
    (hact : ∀ w l pa lf v, act w l pa lf = some v → actOn scope.toNat w gid l.ti l pa lf = v ∧ v.issue = w.issue)
    {check : Lane → Option Cause}
    (hcheck : ∀ l, (laneAt gr a o64 disp n l).check ((s.offLanesDone g gid).accOf (.group gid)) perm = check l) :
    let acc := laneAt gr a o64 disp n
    let s' := s.offLanesDone g gid
    let ts := s.onLanesOf g gid
    let bad := ts.filterMap fun r => (s'.lane? gid r.2).bind fun l => (check l).map fun c => (r.2, c, (acc l).va)
    (bad ≠ [] → exec i s = .next (bad.foldl (fun u f => u.standAt gid f.1 f.2.1 false f.2.2) s')) ∧
    (bad = [] → (∀ u, ts.foldlM (goLane s.issue gid kind data acc act) s' = some u → exec i s = .next u) ∧
      ∀ pre r post u l w stop, ts = pre ++ r :: post → pre.foldlM (goLane s.issue gid kind data acc act) s' = some u →
        u.lane? gid r.2 = some l → tryLane s.issue gid kind data acc act u r l = some (w, stop) → stop ≠ .done →
        exec i s = .next (stop.settle gid r.2
          (post.foldl (fun v q => v.modThread gid q.2 fun t => { t with prog := l.g.homeLane r.2, wait := .held gid r.2 })
            (w.modThread gid r.2 fun t => { t with prog := l.g.homeLane r.2, wait := stop.wait' })))) := by
  rw [Lane.access_eq_laneAt] at hexec
  intro acc s' ts bad
  have hbad : s'.badLanes gid perm acc ts = bad := by
    simp only [State.badLanes, acc, s', hcheck, bad]
  rw [← hbad]
  refine ⟨fun h => exec_lanes_of_bad hgid hscope hexec h, fun h => ⟨fun u hall => exec_lanes_of_all hgid hscope hexec h hact hall,
    fun pre r post u l w stop hsplit hpre hlane htry hstop => ?_⟩⟩
  exact exec_lanes_of_stop hgid hscope hexec h hact hsplit hpre hlane htry hstop

end

/-! ## What the lanes of a store and of an atomic do (R268, R272, R468) -/

/-- A lane without a range guard stores its bytes after the release of its order (R268). -/
theorem State.storeLane_of_not_ge {s : State} {l : Lane} {gt : Grant} (hge : gt.ge = false) (hkernel : (s.kernelOf l.g.bid).isSome = true)
    (gid : Nat) (ord : BitVec 2) (sc hint pa : Nat) (e : BitVec 64) (data : List Byte) : s.storeLane gid l ord sc hint gt pa e data =
      (s.relIf (s.accOf (.group gid)) ord sc).writePa (s.accOf (.group gid)) e pa hint data := by
  obtain ⟨k, hk⟩ := Option.isSome_iff_exists.1 hkernel
  simp only [State.storeLane, hk, guardData, guardFails_of_not_ge k hge]

/-- What a lane of an atomic does where its access is found (R272). -/
def atomicLane (la : Nat) (kind : LogKind) (ret : Bool) (d : BitVec 7) (n : Nat) (ord : BitVec 2) (aop sc : Nat) (s : State) (gid ti : Nat)
    (l : Lane) (pa : Nat) (e : BitVec 64) : State :=
  let (s, old) := s.atomicOp (.group gid) (some ti) kind ord sc aop n pa e (regValue l.t.getV d.toNat n)
    (regValue l.t.getV (d.toNat + n / 4) n)
  if ret then s.modThread gid ti fun t => t.late la (loadRegs d.toNat n false (leBytes n old)) [] else s

/-- A lane of an atomic that no record replays is performed behind its order and logged, and its old value returned (R272, R468). -/
theorem atomicLane_of_perform {s w y : State} {gid ti pa aop sc : Nat} {kind : LogKind} {l : Lane} {e : BitVec 64} {ord : BitVec 2}
    {d : BitVec 7} {size : BitVec 3} {b : List Byte} (hreplay : s.replayOp (.group gid) (some ti) kind.code pa = (w, .perform))
    (hbytes : (w.ordered (w.accOf (.group gid)) ord sc).atomicPa (w.accOf (.group gid)) e pa (2 ^ size.toNat) sc (w.bidOf (.group gid)) true
      (newBytes aop (2 ^ size.toNat) (leNat (stored l.t.getV d.toNat (2 ^ size.toNat)))
        (leNat (stored l.t.getV (d.toNat + 2 ^ size.toNat / 4) (2 ^ size.toNat)))) = (y, b)) (la : Nat) (ret : Bool) :
    let v := y.logOp (.group gid) (some ti) kind.code pa (logged (2 ^ size.toNat) b)
    atomicLane la kind ret d (2 ^ size.toNat) ord aop sc s gid ti l pa e =
      (if ret then v.modThread gid ti fun t => t.late la (loaded d.toNat size 0 b) [] else v) ∧ v.issue = s.issue := by
  refine ⟨?_, ?_⟩
  · simp only [atomicLane, regValue, storeData_eq_stored, State.atomicOp_of_perform hreplay hbytes, loadRegs_of_atomic hbytes]
  · have hw : w.issue = s.issue := by
      have h := State.replayOp_issue s (.group gid) (some ti) kind.code pa
      rwa [hreplay] at h
    rw [State.logOp_issue, ← hw]
    exact ((Touches.ordered ..).trans (Touches.of_atomicPa hbytes)).issue

end Sys2Proof.Machine

namespace Sys2Proof.Machine

/-! ## Bytes that the die caches hold (R252, R254)

An access changes the caches. What a reader of memory sees of them are the valid bytes of their lines. -/

/-- The valid byte of a line in a die's cache. -/
def State.cell? (s : State) (d line o : Nat) : Option Byte := (s.line? d line).bind fun l => l.byte? o

/-- The key of a line in a cache names the die and the line. -/
theorem lineKey_inj {d d' l l' : Nat} (hl : l < 2 ^ 45) (hl' : l' < 2 ^ 45) (h : lineKey d l = lineKey d' l') : d = d' ∧ l = l' := by
  unfold lineKey at h
  omega

theorem State.cell?_putLine (s : State) (d line : Nat) (x : L2Line) (d' line' o : Nat) : (s.putLine d line x).cell? d' line' o =
    if lineKey d' line' = lineKey d line then x.byte? o else s.cell? d' line' o := by
  by_cases hkey : lineKey d' line' = lineKey d line
  · by_cases hdrop : x.cells = [] ∧ x.poison = false
    · simp [State.cell?, State.line?, State.putLine, hkey, hdrop, L2Line.byte?, tfind]
    · simp [State.cell?, State.line?, State.putLine, hkey, hdrop]
  · by_cases hdrop : x.cells = [] ∧ x.poison = false
    · simp [State.cell?, State.line?, State.putLine, hkey, hdrop]
    · simp [State.cell?, State.line?, State.putLine, hkey, hdrop]

theorem State.line?_putLine (s : State) (d line : Nat) {x : L2Line} (hx : x.cells ≠ []) : (s.putLine d line x).line? d line = some x := by
  simp [State.line?, State.putLine, hx]

/-- The byte at its home is the rim's, else that of memory (R255). -/
theorem State.homeByte_eq (s : State) (pa : Nat) :
    s.homeByte pa = ((rimDie pa).bind fun r => s.cell? r (lineOf pa) (pa % 128)).getD (s.mem.read pa) := by
  unfold State.homeByte State.cell?
  cases (rimDie pa).bind fun r => (s.line? r (lineOf pa)).bind fun l => l.byte? (pa % 128) <;> rfl

/-- The caches of the dies and memory show the same bytes. -/
structure SameBytes (s t : State) : Prop where
  mem : t.mem = s.mem
  cell : ∀ d line o, t.cell? d line o = s.cell? d line o

namespace SameBytes

variable {s t u : State}

theorem refl (s : State) : SameBytes s s := ⟨rfl, fun _ _ _ => rfl⟩

theorem trans (h : SameBytes s t) (k : SameBytes t u) : SameBytes s u :=
  ⟨k.mem.trans h.mem, fun d line o => (k.cell d line o).trans (h.cell d line o)⟩

theorem of_eq (hmem : t.mem = s.mem) (hl2 : t.l2 = s.l2) : SameBytes s t :=
  ⟨hmem, fun _ _ _ => by simp only [State.cell?, State.line?, hl2]⟩

/-- A line replaced by one with the same cells shows the same bytes. -/
theorem putLine {d line : Nat} {l x : L2Line} (hline : s.line? d line = some l) (hcells : x.cells = l.cells) : SameBytes s (s.putLine d line x) := by
  refine ⟨rfl, fun d' line' o => ?_⟩
  rw [State.cell?_putLine]
  split
  · rename_i hkey
    have hline' : s.line? d' line' = some l := by rw [← hline, State.line?, State.line?, hkey]
    simp [State.cell?, hline', L2Line.byte?, hcells]
  · rfl

theorem touch (s : State) (d line hint : Nat) : SameBytes s (s.touch d line hint) := by
  unfold State.touch
  split
  · exact refl s
  · rename_i l hline
    split
    · exact (putLine (x := { l with age := s.hub.stamp + 1, keep := false }) hline rfl).trans (of_eq rfl rfl)
    · exact (putLine (x := { l with age := s.hub.stamp + 1, keep := decide (d < 8) }) hline rfl).trans (of_eq rfl rfl)
    · exact refl s

theorem byteAt_eq (h : SameBytes s t) (d pa : Nat) : byteAt t d pa = byteAt s d pa := by
  have hhome : t.homeByte pa = s.homeByte pa := by simp only [State.homeByte_eq, h.cell, h.mem]
  have hcell := h.cell d (lineOf pa) (pa % 128)
  unfold State.cell? at hcell
  unfold byteAt
  rw [hhome, hcell]

end SameBytes

/-! ## What a line of a die's cache is when it is touched (R257, R261) -/

/-- The line that a hit touches keeps its cells. -/
theorem State.line?_touch {s : State} {d line : Nat} {l : L2Line} (hline : s.line? d line = some l) (hcells : l.cells ≠ []) (hint : Nat) :
    ∃ l', (s.touch d line hint).line? d line = some l' ∧ l'.cells = l.cells := by
  unfold State.touch
  rw [hline]
  dsimp only
  split
  · exact ⟨_, s.line?_putLine d line hcells, rfl⟩
  · exact ⟨_, s.line?_putLine d line hcells, rfl⟩
  · exact ⟨l, hline, rfl⟩

@[simp] theorem State.touch_groups (s : State) (d line hint : Nat) : (s.touch d line hint).groups = s.groups := by
  unfold State.touch
  split
  · rfl
  · split <;> rfl

/-- A line of the accessing context in its slice is not moved or tagged anew (R261). -/
theorem State.retag_of_current {s : State} {a : Acc} {d line : Nat} {l : L2Line} (hline : s.line? d line = some l) (htag : l.tag = a.ctx)
    (hslice : l.slice = s.sliceOf a.part d line) : s.retag a d line = s := by
  have hrehome : s.rehome a d line = s := by simp [State.rehome, hline, hslice]
  simp [State.retag, hrehome, hline, htag]

theorem State.bump_parts (s : State) (c i n : Nat) : (s.bump c i n).parts = s.parts := by unfold State.bump; split <;> rfl
theorem State.bump_mem (s : State) (c i n : Nat) : (s.bump c i n).mem = s.mem := by unfold State.bump; split <;> rfl
theorem State.bump_l2 (s : State) (c i n : Nat) : (s.bump c i n).l2 = s.l2 := by unfold State.bump; split <;> rfl
theorem State.bump_groups (s : State) (c i n : Nat) : (s.bump c i n).groups = s.groups := by unfold State.bump; split <;> rfl

theorem State.line?_bump (s : State) (c i n d line : Nat) : (s.bump c i n).line? d line = s.line? d line := by
  rw [State.line?, State.bump_l2, State.line?]

theorem State.sliceOf_bump (s : State) (c i n p d line : Nat) : (s.bump c i n).sliceOf p d line = s.sliceOf p d line := by
  simp only [State.sliceOf, State.part, State.bump_parts]

theorem SameBytes.bump (s : State) (c i n : Nat) : SameBytes s (s.bump c i n) := .of_eq (s.bump_mem c i n) (s.bump_l2 c i n)

/-! ## Bytes written into a line -/

/-- The cells of a line after bytes are written into it from an offset (R252). -/
def writtenCells (off : Nat) (data : List Byte) (cells : List (Nat × Cell)) : List (Nat × Cell) :=
  (data.zipIdx.map fun x => ((off + x.2) % 128, x.1)).foldl (fun cs (c : Nat × Byte) => tset cs c.1 (Cell.mk c.2 true)) cells

/-- Bytes written into a line stand there, and the others as before. -/
theorem tfind_writtenCells {pa : Nat} {data : List Byte} (hfit : pa % 128 + data.length ≤ 128) (cells : List (Nat × Cell)) (o : Nat) :
    tfind (writtenCells pa data cells) o =
      if pa % 128 ≤ o ∧ o < pa % 128 + data.length then (data[o - pa % 128]?).map fun b => Cell.mk b true else tfind cells o := by
  induction data using List.reverseRecOn with
  | nil => simp [writtenCells]
  | append_singleton data b ih =>
    rw [List.length_append, List.length_singleton] at hfit ⊢
    have hstep : writtenCells pa (data ++ [b]) cells = tset (writtenCells pa data cells) ((pa + data.length) % 128) (Cell.mk b true) := by
      simp [writtenCells, List.zipIdx_append]
    have hoff : (pa + data.length) % 128 = pa % 128 + data.length := by omega
    rw [hstep, tfind_tset, hoff, ih (by omega)]
    by_cases hlast : o = pa % 128 + data.length
    · subst hlast
      simp
    · by_cases hin : pa % 128 ≤ o ∧ o < pa % 128 + data.length
      · have hin' : pa % 128 ≤ o ∧ o < pa % 128 + (data.length + 1) := by omega
        rw [if_neg hlast, if_pos hin, if_pos hin', List.getElem?_append_left (by omega)]
      · have hout : ¬ (pa % 128 ≤ o ∧ o < pa % 128 + (data.length + 1)) := by omega
        rw [if_neg hlast, if_neg hin, if_neg hout]

/-! ## What a change of the L1s leaves (R188, R189, R253) -/

/-- The same lines are monitored, and those that are marked stay so. -/
def KeepsMonitors (s t : State) : Prop :=
  ∀ k j u m, s.thread? k j = some u → u.monitor = some m →
    ∃ u' m', t.thread? k j = some u' ∧ u'.monitor = some m' ∧ m'.line = m.line ∧ (m.written = true → m'.written = true)

namespace KeepsMonitors

variable {s t u : State}

theorem of_groups (h : t.groups = s.groups) : KeepsMonitors s t := by
  intro k j v m hv hm
  exact ⟨v, m, by rwa [State.thread?, h], hm, rfl, id⟩

theorem trans (h : KeepsMonitors s t) (k : KeepsMonitors t u) : KeepsMonitors s u := by
  intro g j v m hv hm
  obtain ⟨v', m', hv', hm', hline, hwritten⟩ := h g j v m hv hm
  obtain ⟨v'', m'', hv'', hm'', hline', hwritten'⟩ := k g j v' m' hv' hm'
  exact ⟨v'', m'', hv'', hm'', hline'.trans hline, hwritten' ∘ hwritten⟩

/-- Groups whose threads each keep their monitors. -/
theorem map {f : Group → Group} {mark : Group → Thread → Thread} (hf : ∀ y, (f y).threads = y.threads.map (mark y))
    (hmark : ∀ y v m, v.monitor = some m → ∃ m', (mark y v).monitor = some m' ∧ m'.line = m.line ∧ (m.written = true → m'.written = true))
    (ht : t.groups = s.groups.map f) : KeepsMonitors s t := by
  intro k j v m hv hm
  obtain ⟨y, hy, hv⟩ := Option.bind_eq_some_iff.1 hv
  obtain ⟨m', hm', hkeep⟩ := hmark y v m hm
  exact ⟨mark y v, m', by simp [State.thread?, ht, hy, hf, hv], hm', hkeep⟩

end KeepsMonitors

/-- From s to t only the L1s, stamps and the losses of monitors may have changed. -/
structure L1Only (s t : State) : Prop where
  mem : t.mem = s.mem
  l2 : t.l2 = s.l2
  monitors : KeepsMonitors s t

namespace L1Only

variable {s t u : State}

theorem of_eq (hmem : t.mem = s.mem) (hl2 : t.l2 = s.l2) (hgroups : t.groups = s.groups) : L1Only s t := ⟨hmem, hl2, .of_groups hgroups⟩

theorem refl (s : State) : L1Only s s := of_eq rfl rfl rfl

theorem trans (h : L1Only s t) (k : L1Only t u) : L1Only s u := ⟨k.mem.trans h.mem, k.l2.trans h.l2, h.monitors.trans k.monitors⟩

theorem ite {p : Prop} [Decidable p] (h : L1Only s t) (k : L1Only s u) : L1Only s (if p then t else u) := by
  split
  · exact h
  · exact k

theorem sameBytes (h : L1Only s t) : SameBytes s t := .of_eq h.mem h.l2

theorem loseMonitors (s : State) (gone : Nat → Nat → Bool) : L1Only s (s.loseMonitors gone) := by
  refine ⟨rfl, rfl, .map (fun _ => rfl) (fun y v m hm => ?_) rfl⟩
  simp only [hm]
  split
  · exact ⟨_, rfl, rfl, id⟩
  · exact ⟨m, hm, rfl, id⟩

theorem filterL1 (s : State) (keep : Nat → Nat → Nat → L1Byte → Bool) : L1Only s (s.filterL1 keep) := by
  unfold State.filterL1
  extract_lets rest l1
  exact (of_eq rfl rfl rfl : L1Only s { s with l1 := l1 }).trans (loseMonitors _ _)

theorem l1Alloc (s : State) (a : Acc) (c l : Nat) (k : Bool) : L1Only s (s.l1Alloc a c l k) := by
  unfold State.l1Alloc
  split
  · exact refl s
  · extract_lets ls t
    have h : L1Only s t := by
      refine ite (refl s) ?_
      split
      · exact filterL1 s _
      · exact refl s
    exact h.trans (of_eq rfl rfl rfl)

theorem touchL1 (s : State) (c l h : Nat) : L1Only s (s.touchL1 c l h) := by
  unfold State.touchL1
  split
  · exact refl s
  · exact ite (of_eq rfl rfl rfl) (refl s)

theorem setL1 (s : State) (c l : Nat) (f : List (Nat × L1Byte) → List (Nat × L1Byte)) : L1Only s (s.setL1 c l f) := by
  unfold State.setL1
  split
  · exact refl s
  · exact of_eq rfl rfl rfl

theorem tagL1 (s : State) (c l x : Nat) : L1Only s (s.tagL1 c l x) := by
  unfold State.tagL1
  split
  · exact refl s
  · exact of_eq rfl rfl rfl

theorem ownWords (s : State) (a : Acc) (c : BitVec 2) (hm pa h : Nat) (k : Option Nat) (data : List Byte) :
    L1Only s (s.ownWords a c hm pa h k data) := by
  unfold State.ownWords
  extract_lets d line t
  have ht : L1Only s t := of_eq rfl rfl rfl
  split
  · exact ht
  · extract_lets u
    have hu : L1Only t u := ite ((l1Alloc t _ _ _ _).trans (touchL1 _ _ _ _)) (refl t)
    exact ((ht.trans hu).trans (setL1 u _ _ _)).trans (tagL1 _ _ _ _)

theorem l1Fill (s : State) (a : Acc) (c pa h : Nat) (all : Bool) : L1Only s (s.l1Fill a c pa h all) := by
  unfold State.l1Fill
  extract_lets t sec served
  have ht : L1Only s t := ite ((l1Alloc s _ _ _ _).trans (touchL1 _ _ _ _)) (refl s)
  exact ht.trans (setL1 t _ _ _)

end L1Only

/-- A write marks the monitors on its line (R188). -/
theorem State.markWritten_thread {s : State} {k j line : Nat} {u : Thread} {m : Monitor} (hu : s.thread? k j = some u) (hm : u.monitor = some m)
    (hline : m.line = line) : (s.markWritten line).thread? k j = some { u with monitor := some { m with written := true } } := by
  obtain ⟨y, hy, hu⟩ := Option.bind_eq_some_iff.1 hu
  simp [State.thread?, State.markWritten, hy, hu, hm, hline]

/-! ## A store on a line that the die L2 holds (R240, R253) -/

/-- Each monitor on a line is marked as written (R188). -/
def MarksMonitors (line : Nat) (s t : State) : Prop :=
  ∀ k j u m, s.thread? k j = some u → u.monitor = some m → m.line = line →
    ∃ u' m', t.thread? k j = some u' ∧ u'.monitor = some m' ∧ m'.line = m.line ∧ m'.written = true

/-- What a store of bytes into a line that the die L2 holds makes of memory and the caches of the dies, and of monitors. -/
structure StoresInLine (die pa : Nat) (data : List Byte) (s t : State) : Prop where
  mem : t.mem = s.mem
  cell : ∀ d line o, t.cell? d line o = if lineKey d line = lineKey die (lineOf pa) ∧ pa % 128 ≤ o ∧ o < pa % 128 + data.length then
    data[o - pa % 128]? else s.cell? d line o
  marks : MarksMonitors (lineOf pa) s t

section
variable {s : State} {a : Acc} {cls : BitVec 2} {pa : Nat} {data : List Byte} {l : L2Line}

/-- A store into a held line writes its bytes there and marks it written (R188, R254). -/
theorem State.l2Put_of_held (hcls : cls ≠ 0) (hline : s.line? a.die (lineOf pa) = some l) (hcells : l.cells ≠ []) (htag : l.tag = a.ctx)
    (hslice : l.slice = s.sliceOf a.part a.die (lineOf pa)) : ∃ l', l'.cells = writtenCells pa data l.cells ∧
      s.l2Put a cls a.die pa 0 data = ((s.touch a.die (lineOf pa) 0).putLine a.die (lineOf pa) l').markWritten (lineOf pa) := by
  obtain ⟨l', hl', hkeep⟩ := State.line?_touch hline hcells 0
  have hdie : l2Die a cls a.die = a.die := ite_self _
  refine ⟨{ l' with
      cls := cls, tag := a.ctx, part := a.part, owned := (cls == 0), counted := l'.counted || l'.tag != a.ctx
      cells := writtenCells pa data l'.cells }, congrArg (writtenCells pa data) hkeep, ?_⟩
  simp only [State.l2Put, hdie, hcls, if_false, State.retag_of_current hline htag hslice, hl', Option.isSome_some, if_true,
    show ¬ (0 : Nat) = 3 by decide]
  rfl

/-- The bytes that a line with bytes written into it shows. -/
theorem State.cell?_putLine_of_written {s u : State} (hkeep : SameBytes s u) {d line : Nat} {x : L2Line} (hline : s.line? d line = some l)
    (hx : x.cells = writtenCells pa data l.cells) (hfit : pa % 128 + data.length ≤ 128) (d' line' o : Nat) :
    (u.putLine d line x).cell? d' line' o =
      if lineKey d' line' = lineKey d line ∧ pa % 128 ≤ o ∧ o < pa % 128 + data.length then data[o - pa % 128]? else s.cell? d' line' o := by
  rw [State.cell?_putLine]
  by_cases hkey : lineKey d' line' = lineKey d line
  · have hold : s.cell? d' line' o = l.byte? o := by
      rw [State.cell?, State.line?, hkey, ← State.line?, hline]
      rfl
    rw [if_pos hkey, hold, L2Line.byte?, hx, tfind_writtenCells hfit]
    by_cases hin : pa % 128 ≤ o ∧ o < pa % 128 + data.length
    · simp [hkey, hin, Function.comp_def]
    · simp [hin, L2Line.byte?]
  · simp [hkey, hkeep.cell]

/-- A store to a line that the die L2 holds puts its bytes there (R253). -/
theorem StoresInLine.storeBytes (hcls : cls ≠ 0) (hline : s.line? a.die (lineOf pa) = some l) (hcells : l.cells ≠ [])
    (htag : l.tag = a.ctx) (hslice : l.slice = s.sliceOf a.part a.die (lineOf pa))
    (hfit : pa % 128 + data.length ≤ 128) : StoresInLine a.die pa data s (s.storeBytes a cls a.die pa 0 data) := by
  obtain ⟨x, hx, hput⟩ := State.l2Put_of_held (s := s.bump a.ctx 0 1) (data := data) hcls (by rw [State.line?_bump, hline]) hcells htag
    (by rw [State.sliceOf_bump, hslice])
  have hstore : s.storeBytes a cls a.die pa 0 data = _ := congrArg (fun u : State => u.ownWords a cls a.die pa 0 _ data) hput
  have hkeep := (SameBytes.bump s a.ctx 0 1).trans (SameBytes.touch (s.bump a.ctx 0 1) a.die (lineOf pa) 0)
  have hgroups : ((s.bump a.ctx 0 1).touch a.die (lineOf pa) 0).groups = s.groups := by rw [State.touch_groups, State.bump_groups]
  rw [hstore]
  generalize (s.bump a.ctx 0 1).touch a.die (lineOf pa) 0 = u at hkeep hgroups ⊢
  have hown := L1Only.ownWords ((u.putLine a.die (lineOf pa) x).markWritten (lineOf pa)) a cls a.die pa 0
    (if cls = 2 ∧ a.die ≠ a.die then none else a.core) data
  refine ⟨hown.mem.trans hkeep.mem, fun d line o => (hown.sameBytes.cell d line o).trans ?_, fun k j v m hv hm hon => ?_⟩
  · exact State.cell?_putLine_of_written hkeep hline hx hfit d line o
  · have hv' : (u.putLine a.die (lineOf pa) x).thread? k j = some v := by
      rw [State.thread?, State.putLine, hgroups]
      exact hv
    obtain ⟨v', m', hthread, hmonitor, hsame, hwritten⟩ := hown.monitors k j _ _ (State.markWritten_thread hv' hm hon) rfl
    exact ⟨v', m', hthread, hmonitor, hsame, hwritten rfl⟩

end

end Sys2Proof.Machine

namespace Sys2Proof.Machine

/-! ## What is read behind a store (R240, R253) -/

/-- The rim caches stand behind the dies of the clusters (R13). -/
theorem rimDie_ge {pa r : Nat} (h : rimDie pa = some r) : 8 ≤ r := by
  unfold rimDie at h
  split at h <;> cases h <;> omega

theorem lineOf_lt {p : Nat} (h : p < 2 ^ 52) : lineOf p < 2 ^ 45 := by
  unfold lineOf
  omega

namespace StoresInLine

variable {s t : State} {die pa : Nat} {data : List Byte} (h : StoresInLine die pa data s t)
include h

/-- The bytes stored are those read through the die (R240). -/
theorem byteAt_stored (hfit : pa % 128 + data.length ≤ 128) {i : Nat} {b : Byte} (hb : data[i]? = some b) : byteAt t die (pa + i) = b := by
  obtain ⟨hi, -⟩ := List.getElem?_eq_some_iff.1 hb
  have hline : lineOf (pa + i) = lineOf pa := by unfold lineOf; omega
  have hoff : (pa + i) % 128 = pa % 128 + i := by omega
  have hcell : t.cell? die (lineOf (pa + i)) ((pa + i) % 128) = some b := by
    rw [h.cell, hline, hoff, if_pos (by omega), Nat.add_sub_cancel_left, hb]
  unfold State.cell? at hcell
  rw [byteAt, hcell]
  rfl

/-- The bytes at the homes are left (R253). -/
theorem homeByte (hdie : die < 8) (hpa : pa < 2 ^ 52) {p : Nat} (hp : p < 2 ^ 52) : t.homeByte p = s.homeByte p := by
  rw [State.homeByte_eq, State.homeByte_eq, h.mem]
  cases hrim : rimDie p with
  | none => rfl
  | some r =>
    have hge := rimDie_ge hrim
    have hkey : ¬ lineKey r (lineOf p) = lineKey die (lineOf pa) := fun hkey =>
      absurd ((lineKey_inj (lineOf_lt hp) (lineOf_lt hpa) hkey).1 ▸ hge) (Nat.not_le.2 hdie)
    rw [Option.bind_some, Option.bind_some, h.cell, if_neg fun hin => hkey hin.1]

/-- The other bytes are left (R253). -/
theorem byteAt_other (hdie : die < 8) (hpa : pa < 2 ^ 52) {d p : Nat} (hp : p < 2 ^ 52)
    (hother : ¬ (d = die ∧ pa ≤ p ∧ p < pa + data.length)) : byteAt t d p = byteAt s d p := by
  have hcell : t.cell? d (lineOf p) (p % 128) = s.cell? d (lineOf p) (p % 128) := by
    rw [h.cell]
    refine if_neg fun hin => hother ?_
    obtain ⟨hkey, hlo, hhi⟩ := hin
    obtain ⟨hd, hl⟩ := lineKey_inj (lineOf_lt hp) (lineOf_lt hpa) hkey
    unfold lineOf at hl
    omega
  unfold State.cell? at hcell
  rw [byteAt, byteAt, hcell, h.homeByte hdie hpa hp]

end StoresInLine

/-- Bytes aligned to their number lie in one line (R264). -/
theorem mod_add_le_of_aligned {pa k : Nat} (hk : k < 7) (hpa : pa % 2 ^ k = 0) : pa % 128 + 2 ^ k ≤ 128 := by
  interval_cases k <;> omega

/-! ## Accesses of bytes that the die serves (R253) -/

section
variable {s : State} {a : Acc} {e : BitVec 64} {pa n : Nat} {bid : Option Nat}

/-- A store to a page of the partition whose home answers goes through the caches (R253). -/
theorem State.writePa_of_own {data : List Byte} (hlost : s.lost a e pa data.length true true = false) (hforeign : s.foreign a e pa = false)
    (hgate : s.atGateHome a e = false) (hint : Nat) :
    s.writePa a e pa hint data = s.storeBytes a (leafCls e) (s.rucHome a e) pa hint data := by
  simp [State.writePa, hlost, hforeign, hgate]

/-- Only a page of replicas is read elsewhere than at its frame (R366). -/
theorem State.replicaPa_of_ne (s : State) (pa : Nat) (h : leafCls e ≠ 3) : s.replicaPa e pa = pa := if_neg h

/-- A translated read that meets no poison is found. -/
theorem State.lookRead_of_clean {t : State} {kind : AccKind} {va : Nat} {fresh : Bool} (hlook : s.look a kind va = (t, .ok pa e)) (hcls : leafCls e ≠ 3)
    (hclean : t.poisoned a e pa n fresh = false) : s.lookRead a kind va n fresh bid = (t, .ok pa e) := by
  simp [State.lookRead, hlook, State.replicaPa_of_ne _ _ hcls, hclean]

/-- A read of a page of the partition that meets no poison goes through the caches (R253). -/
theorem State.readPa_of_clean {fresh : Bool} (hcls : leafCls e ≠ 3) (hclean : s.poisoned a e pa n fresh = false) (hforeign : s.foreign a e pa = false)
    (hgate : s.atGateHome a e = false) (hint : Nat) :
    s.readPa a e pa n hint fresh bid = s.loadBytes a (leafCls e) (s.rucHome a e) pa n hint fresh := by
  have hlost : s.lost a e pa n false true = false := (Bool.or_eq_false_iff.1 hclean).2
  simp [State.readPa, State.replicaPa_of_ne _ _ hcls, State.consume, hclean, hlost, hforeign, hgate]

end

/-- What a load of bytes that a cache holds gives and leaves (R253). -/
structure Loads (s : State) (b : List Byte) (r : State × List Byte) : Prop where
  bytes : r.2 = b
  same : SameBytes s r.1

section
variable {s : State} {a : Acc} {cls : BitVec 2} {pa n : Nat} {l : L2Line} {b : List Byte} (hcls : cls ≠ 0)
  (hline : s.line? a.die (lineOf pa) = some l) (htag : l.tag = a.ctx) (hslice : l.slice = s.sliceOf a.part a.die (lineOf pa)) (hlen : b.length = n)
include hline htag hslice hlen

/-- Bytes that the L1 has all of are loaded from it (R253). -/
theorem Loads.of_l1 {core : Nat} (hcore : a.core = some core) (hbytes : ∀ i < n, ∃ c, s.l1Byte? core (pa + i) = some c ∧ b[i]? = some c.val)
    (hint : Nat) : Loads s b (s.loadBytes a cls a.die pa n hint false) := by
  have hhit : ((List.range n).map fun i => s.l1Byte? core (pa + i)).all Option.isSome = true := by
    simp only [List.all_map, List.all_eq_true, List.mem_range]
    intro i hi
    obtain ⟨c, hc, -⟩ := hbytes i hi
    simp [hc]
  have hretag : (if cls = 1 then s.retag a a.die (lineOf pa) else s) = s := by rw [State.retag_of_current hline htag hslice, ite_self]
  have hload : s.loadBytes a cls a.die pa n hint false = (s.touchL1 core (lineOf pa) hint,
      ((List.range n).map fun i => s.l1Byte? core (pa + i)).map fun x => (x.map (·.val)).getD 0) := by
    unfold State.loadBytes
    rw [show (if cls = 2 ∧ a.die ≠ a.die then none else a.core) = some core by simpa using hcore]
    dsimp only
    rw [hhit, hretag]
    rfl
  rw [hload]
  refine ⟨List.ext_getElem? fun i => ?_, (L1Only.touchL1 ..).sameBytes⟩
  by_cases hi : i < n
  · obtain ⟨c, hc, hb⟩ := hbytes i hi
    simp [hi, hc, hb]
  · simp [hi, hlen]

include hcls

/-- Bytes that the line in the die L2 has all of are loaded from it (R253). -/
theorem Loads.of_l2 (hfit : pa % 128 + n ≤ 128) (hbytes : ∀ i < n, ∃ c, l.byte? (pa % 128 + i) = some c ∧ b[i]? = some c) (hint : Nat) :
    Loads s b (s.l2Read a cls a.die pa n hint) := by
  have hdie : l2Die a cls a.die = a.die := ite_self _
  have hretag : (s.bump a.ctx 0 1).retag a a.die (lineOf pa) = s.bump a.ctx 0 1 :=
    State.retag_of_current (by rw [State.line?_bump, hline]) htag (by rw [State.sliceOf_bump, hslice])
  have hkeep := (SameBytes.bump s a.ctx 0 1).trans (SameBytes.touch (s.bump a.ctx 0 1) a.die (lineOf pa) hint)
  generalize hu : (s.bump a.ctx 0 1).touch a.die (lineOf pa) hint = u at hkeep
  have hserved (i : Nat) (hi : i < n) : ∃ c, (u.line? a.die (lineOf pa)).bind
      (fun l => l.byte? ((pa / 32 * 32 + (pa - pa / 32 * 32 + i)) % 128)) = some c ∧ b[i]? = some c := by
    obtain ⟨c, hc, hb⟩ := hbytes i hi
    have hoff : (pa / 32 * 32 + (pa - pa / 32 * 32 + i)) % 128 = pa % 128 + i := by omega
    have hcell := hkeep.cell a.die (lineOf pa) (pa % 128 + i)
    unfold State.cell? at hcell
    rw [hoff, hcell, hline]
    exact ⟨c, hc, hb⟩
  have hneed : ((List.range n).any fun i => ((u.line? a.die (lineOf pa)).bind
      fun l => l.byte? ((pa / 32 * 32 + (pa - pa / 32 * 32 + i)) % 128)).isNone) = false := by
    simp only [List.any_eq_false, List.mem_range]
    intro i hi
    obtain ⟨c, hc, -⟩ := hserved i hi
    simp [hc]
  have hread : s.l2Read a cls a.die pa n hint = (u, (List.range n).map fun i => ((u.line? a.die (lineOf pa)).bind
      fun l => l.byte? ((pa / 32 * 32 + (pa - pa / 32 * 32 + i)) % 128)).getD (u.homeByte (pa + i))) := by
    simp only [State.l2Read, hdie, hcls, if_false, if_true, hretag, hu, hneed, Bool.false_eq_true]
  rw [hread]
  refine ⟨List.ext_getElem? fun i => ?_, hkeep⟩
  by_cases hi : i < n
  · obtain ⟨c, hc, hb⟩ := hserved i hi
    simp [hi, hc, hb]
  · simp [hi, hlen]

/-- A load of bytes that the L1 or else the line in the die L2 has all of (R253). -/
theorem Loads.loadBytes {core : Nat} (hcore : a.core = some core) (hfit : pa % 128 + n ≤ 128)
    (hbytes : (∀ i < n, ∃ c, s.l1Byte? core (pa + i) = some c ∧ b[i]? = some c.val) ∨
      ((∃ i < n, s.l1Byte? core (pa + i) = none) ∧ ∀ i < n, ∃ c, l.byte? (pa % 128 + i) = some c ∧ b[i]? = some c)) (hint : Nat) :
    Loads s b (s.loadBytes a cls a.die pa n hint false) := by
  rcases hbytes with hl1 | ⟨⟨i, hi, hmiss⟩, hl2⟩
  · exact .of_l1 hline htag hslice hlen hcore hl1 hint
  · have hall : (((List.range n).map fun i => s.l1Byte? core (pa + i)).all Option.isSome) = false := by
      simp only [List.all_map, List.all_eq_false, List.mem_range]
      exact ⟨i, hi, by simp [hmiss]⟩
    have hserved : Loads s b (s.l2Read a cls a.die pa n hint) := .of_l2 hcls hline htag hslice hlen hfit hl2 hint
    have hload : s.loadBytes a cls a.die pa n hint false = ((s.l2Read a cls a.die pa n hint).1.l1Fill a core pa hint !(false || hint == 1 || hint == 3),
        (s.l2Read a cls a.die pa n hint).2) := by
      unfold State.loadBytes
      rw [show (if cls = 2 ∧ a.die ≠ a.die then none else a.core) = some core by simpa using hcore]
      dsimp only
      rw [hall]
      rfl
    rw [hload]
    exact ⟨hserved.bytes, hserved.same.trans (L1Only.l1Fill ..).sameBytes⟩

end

/-! ## Threads and groups behind an access of one of their lanes -/

/-- A change of a thread that neither reads nor writes its monitor. -/
def MonitorFree (f : Thread → Thread) : Prop := ∀ t m, f { t with monitor := m } = { f t with monitor := m }

theorem MonitorFree.doneThread (i : Issue) : MonitorFree (doneThread i) := by
  intro t m
  unfold Sys2Proof.doneThread Issue.advance
  split
  · split <;> rfl
  · rfl

/-- Registers written leave the monitor. -/
theorem MonitorFree.late (la : Nat) (regs : List (Nat × Word)) : MonitorFree fun t => t.late la regs [] := by
  intro t m
  have hregs : regs.foldl (fun t r => t.putV r.1 r.2) { t with monitor := m } =
      { regs.foldl (fun t r => t.putV r.1 r.2) t with monitor := m } := by
    induction regs generalizing t with
    | nil => rfl
    | cons r regs ih => exact ih (t.putV r.1 r.2)
  by_cases hla : la = 0
  · simp [Thread.late, hla, hregs]
  · simp [Thread.late, hla]

theorem MonitorFree.comp {f f' : Thread → Thread} (h' : MonitorFree f') (h : MonitorFree f) : MonitorFree fun t => f' (f t) := fun t m => by
  show f' (f { t with monitor := m }) = _
  rw [h t m, h' (f t) m]

/-- Such a change leaves the monitor. -/
theorem MonitorFree.monitor {f : Thread → Thread} (hf : MonitorFree f) (t : Thread) : (f t).monitor = t.monitor :=
  (congrArg Thread.monitor (hf t t.monitor) :)

/-- Such a change keeps threads the same but for their monitors. -/
theorem MonitorFree.sameButMonitor {f : Thread → Thread} (hf : MonitorFree f) {u u' : Thread} (h : sameButMonitor u u') :
    sameButMonitor (f u) (f u') := by
  have hu : f u = { f u' with monitor := u.monitor } := by rw [← hf, h]
  unfold Sys2Proof.sameButMonitor
  rw [hu]

theorem State.thread?_modThread (s : State) (gid ti : Nat) (f : Thread → Thread) (k j : Nat) :
    (s.modThread gid ti f).thread? k j = (s.thread? k j).map fun t => if (k, j) = (gid, ti) then f t else t := by
  simp only [State.thread?, State.modThread_groups, List.getElem?_modify]
  cases s.groups[k]? with
  | none => rfl
  | some y =>
    by_cases hk : gid = k
    · cases hj : y.threads[j]? with
      | none => by_cases hti : ti = j <;> simp [hk, Group.modThread, List.getElem?_modify, hj]
      | some t =>
        by_cases hti : ti = j
        · simp [hk, hti, Group.modThread, hj]
        · have hti' : ¬ j = ti := fun h => hti h.symm
          simp [hk, hti, hti', Group.modThread, hj]
    · have hk' : ¬ k = gid := fun h => hk h.symm
      simp [hk, hk']

namespace Touches

variable {s w : State} (h : Touches s w) (gid ti : Nat)
include h

/-- A thread behind an access of a lane that then changes (R265). -/
theorem thread_modThread {f : Thread → Thread} (hf : MonitorFree f) {k j : Nat} {u : Thread} (hu : s.thread? k j = some u) :
    ∃ v, w.thread? k j = some v ∧ (w.modThread gid ti f).thread? k j = some (if (k, j) = (gid, ti) then f v else v) ∧
      sameButMonitor (if (k, j) = (gid, ti) then f u else u) (if (k, j) = (gid, ti) then f v else v) := by
  obtain ⟨v, hv, hsame⟩ := h.thread hu
  refine ⟨v, hv, by rw [State.thread?_modThread, hv, Option.map_some], ?_⟩
  split
  · exact hf.sameButMonitor hsame
  · exact hsame

/-- A group behind an access of a lane that then changes. -/
theorem group_modThread (f : Thread → Thread) {k : Nat} {y : Group} (hy : s.groups[k]? = some y) :
    ∃ y' : Group, (w.modThread gid ti f).groups[k]? = some y' ∧ { y' with threads := y.threads } = y ∧ y'.threads.length = y.threads.length := by
  have hk := h.noMon_getElem? k
  rw [hy] at hk
  obtain ⟨z, hz, hmon⟩ := Option.map_eq_some_iff.1 hk
  have hlen : z.threads.length = y.threads.length := by simpa [Group.noMon] using congrArg (fun v : Group => v.threads.length) hmon
  have hrest : { z with threads := y.threads } = y := (congrArg (fun v : Group => { v with threads := y.threads }) hmon :)
  refine ⟨if gid = k then z.modThread ti f else z, ?_, ?_, ?_⟩
  · simp [List.getElem?_modify, hz]
  · split
    · exact hrest
    · exact hrest
  · split
    · simpa [Group.modThread] using hlen
    · exact hlen

end Touches

end Sys2Proof.Machine

namespace Sys2Proof
open Machine

namespace OneLane

variable {s : State} {g : BitVec 4} {gid ti : Nat} {x : Group} {th : Thread}

/-! ## Loads and stores of one lane (R267 to R269) -/

section
variable (h : OneLane s g gid ti x th) {scope : BitVec 3} (hscope : scopeFree s (.group gid) scope) {a : BitVec 7} {size : BitVec 3}
  {o64 : BitVec 1} {gr : BitVec 4} {imm : BitVec 12} {gt : Grant} {off : Int} {n : Nat}
  (hy : Lane.access { g := x, ti := ti, t := th } gr a o64 (disp12 imm n) n = { grant := gt, off := off, n := n })
  (halign : ((gt.base : Int) + off).toNat % n = 0) {u w : State} {pa : Nat} {e : BitVec 64} {b : List Byte}
include h hscope hy halign

/-- LD gives the registers the bytes read, after the acquire of its order (R267). -/
theorem exec_ld_of_ok (hn : n = 2 ^ size.toNat) (hgrant : grantCheck (s.accOf (.group gid)) gt gt.rd off n = none) {ord hint : BitVec 2}
    (hlook : s.lookRead (s.accOf (.group gid)) .read ((gt.base : Int) + off).toNat n false (some x.bid) = (u, .ok pa e))
    (hread : (u.acqIf (s.accOf (.group gid)) ord scope.toNat).readPa (s.accOf (.group gid)) e pa n hint.toNat false (some x.bid) = (w, b))
    (la : BitVec 4) (d : BitVec 7) (sext : BitVec 1) :
    exec (.ld g la d a size sext ord o64 gr hint scope imm) s =
      .next (w.modThread gid ti fun t => doneThread s.issue (t.late la.toNat (loaded d.toNat size sext b) [])) := by
  subst hn
  have htouch : Touches s u := Touches.of_lookRead hlook
  have hissue : w.issue = s.issue :=
    ((htouch.trans (Touches.ite (Touches.acquire ..) (Touches.refl u))).trans (Touches.of_readPa hread)).issue
  have hfound : s.lookFor (s.accOf (.group gid)) .read ((gt.base : Int) + off).toNat (2 ^ size.toNat) (some false) (some x.bid) =
      (u, .ok pa e) := hlook
  refine congrArg Host.Outcome.next ((h.laneMem_of_ok hscope hy (LaneAcc.check_of_grant hgrant halign rfl) hfound).trans ?_)
  simp only [htouch.accOf, accBytes, hread, loadRegs_eq_loaded, State.modThread_issue, hissue, State.modThread_modThread]

/-- LDX gives the registers the bytes at the site of its scope (R269). -/
theorem exec_ldx_of_ok (hn : n = 2 ^ size.toNat) (hgrant : grantCheck (s.accOf (.group gid)) gt gt.rd off n = none) {ord : BitVec 2}
    (hlook : s.lookRead (s.accOf (.group gid)) .read ((gt.base : Int) + off).toNat n true (some x.bid) = (u, .ok pa e))
    (hread : (u.acqIf (s.accOf (.group gid)) ord scope.toNat).atomicPa (s.accOf (.group gid)) e pa n scope.toNat (some x.bid) false
      (fun _ => none) = (w, b))
    (la : BitVec 4) (d : BitVec 7) (sext : BitVec 1) (hint : BitVec 2) :
    exec (.ldx g la d a size sext ord o64 gr hint scope imm) s =
      .next (w.modThread gid ti fun t => doneThread s.issue (t.late la.toNat (loaded d.toNat size 0 b) [])) := by
  subst hn
  have htouch : Touches s u := Touches.of_lookRead hlook
  have hissue : w.issue = s.issue :=
    ((htouch.trans (Touches.ite (Touches.acquire ..) (Touches.refl u))).trans (Touches.of_atomicPa hread)).issue
  have hfound : s.lookFor (s.accOf (.group gid)) .read ((gt.base : Int) + off).toNat (2 ^ size.toNat) (some true) (some x.bid) =
      (u, .ok pa e) := hlook
  refine congrArg Host.Outcome.next ((h.laneMem_of_ok hscope hy (LaneAcc.check_of_grant hgrant halign rfl) hfound).trans ?_)
  simp only [htouch.accOf, accBytes, hread, loadRegs_eq_loaded_zero, State.modThread_issue, hissue, State.modThread_modThread]

/-- ST through a grant without a range guard writes the bytes of the registers, after the release of its order (R268). -/
theorem exec_st_of_ok (hn : n = 2 ^ size.toNat) (hgrant : grantCheck (s.accOf (.group gid)) gt gt.wr off n = none) (hgt : x.u.getG gr.toNat = gt)
    (hge : gt.ge = false) (hkernel : (s.kernelOf x.bid).isSome = true)
    (hlook : s.look (s.accOf (.group gid)) .write ((gt.base : Int) + off).toNat = (u, .ok pa e)) (d : BitVec 7) (sext : BitVec 1)
    (ord hint : BitVec 2) :
    exec (.st g d a size sext ord o64 gr hint scope imm) s =
      .next (((u.relIf (s.accOf (.group gid)) ord scope.toNat).writePa (s.accOf (.group gid)) e pa hint.toNat
        (stored th.getV d.toNat n)).modThread gid ti (doneThread s.issue)) := by
  subst hn hgt
  have htouch : Touches s u := Touches.of_look hlook
  have hkernelOf : u.kernelOf x.bid = s.kernelOf x.bid := by simp only [State.kernelOf, htouch.blocks, htouch.kernels]
  have hfound : s.lookFor (s.accOf (.group gid)) .write (((x.u.getG gr.toNat).base : Int) + off).toNat (2 ^ size.toNat) none (some x.bid) =
      (u, .ok pa e) := hlook
  have hissue (data : List Byte) : ((u.relIf (s.accOf (.group gid)) ord scope.toNat).writePa (s.accOf (.group gid)) e pa hint.toNat data).issue =
      s.issue := ((htouch.trans (Touches.ite (Touches.release ..) (Touches.refl u))).trans (Touches.writePa ..)).issue
  rw [h.exec_st_of_not_ge d a size sext o64 ord hint scope imm hge]
  refine congrArg Host.Outcome.next ((h.laneMem_of_ok hscope hy (LaneAcc.check_of_grant hgrant halign rfl) hfound).trans ?_)
  rw [State.storeLane_of_not_ge hge (by rw [hkernelOf]; exact hkernel)]
  simp only [htouch.accOf, accBytes, storeData_eq_stored, hissue]

end

/-- MONW arms the monitor on the line that it finds (R188). -/
theorem exec_monw_of_ok (h : OneLane s g gid ti x th) {scope : BitVec 3} (hscope : scopeFree s (.group gid) scope) {a : BitVec 7} {o64 : BitVec 1}
    {gr : BitVec 4} {imm : BitVec 12} {gt : Grant} {off : Int} (hy : Lane.access { g := x, ti := ti, t := th } gr a o64 (disp12 imm 4) 4 =
      { grant := gt, off := off, n := 4 }) (halign : ((gt.base : Int) + off).toNat % 4 = 0)
    (hgrant : grantCheck (s.accOf (.group gid)) gt gt.rd off (4 : Nat) = none) {u : State} {pa : Nat} {e : BitVec 64}
    (hlook : s.look (s.accOf (.group gid)) .read ((gt.base : Int) + off).toNat = (u, .ok pa e)) (size : BitVec 3) (sext : BitVec 1)
    (ord hint : BitVec 2) :
    exec (.monw g a size sext ord o64 gr hint scope imm) s = .next (u.modThread gid ti fun t =>
      doneThread s.issue { t with monitor := some { line := pa / 128, written := false, lost := false } }) := by
  have hfound : s.lookFor (s.accOf (.group gid)) .read ((gt.base : Int) + off).toNat 4 none (some x.bid) = (u, .ok pa e) := hlook
  refine congrArg Host.Outcome.next ((h.laneMem_of_ok hscope hy (LaneAcc.check_of_grant hgrant halign rfl) hfound).trans ?_)
  simp only [State.modThread_issue, (Touches.of_look hlook).issue, State.modThread_modThread]
  rfl

end OneLane
end Sys2Proof

open Sys2Proof Sys2Proof.Machine

/-- Settles O21: one lane acts where its access is found; the lanes of an issue are those of one recursion over them; a store into a held
line changes the cells of its bytes alone, and a load of held bytes none. -/
theorem loadsAndStores : Obligations.LoadsAndStores := by
  unfold Obligations.LoadsAndStores
  refine ⟨?lane, ?lanes, ?store, ?load⟩
  case lane =>
    intro s g la d a size sext o64 ord hint gr scope imm gid ti x th h hscope hsize n gt idx ac off va on acq
    have hy (m : Nat) : Lane.access { g := x, ti := ti, t := th } gr a o64 (disp12 imm m) m = { grant := gt, off := off m, n := m } :=
      Lane.access_eq ..
    refine ⟨fun hgrant halign u pa e => ⟨fun hlook w b hread => ?_, fun hlook w b hread => ?_⟩, fun hgrant halign hge hkernel u pa e hlook => ?_,
      fun hgrant halign u pa e hlook => ?_⟩
    · exact h.exec_ld_of_ok hscope (hy n) halign rfl hgrant hlook hread la d sext
    · exact h.exec_ldx_of_ok hscope (hy n) halign rfl hgrant hlook hread la d sext hint
    · exact h.exec_st_of_ok hscope (hy n) halign rfl hgrant rfl hge hkernel hlook d sext ord hint
    · exact h.exec_monw_of_ok hscope (hy 4) halign hgrant hlook size sext ord hint
  case lanes =>
    intro s g la d a size sext o64 ord hint gr scope imm gid hwho hgid hscope hsize hgroup n lane
    have hlane : lane = fun u ti => u.lane? gid ti := funext₂ fun u ti => (State.lane?_eq u gid ti).symm
    clear_value lane
    subst hlane
    intro on guard ts s' acq rel read readx write swap op short
    have hswap (aop la' : Nat) (kind : LogKind) (ret : Bool) (hla : ret = true → la' = la.toNat) (w : State) (l : Lane) (pa : Nat)
        (lf : BitVec 64) (v : State) (h : swap aop kind.code ret w l pa lf = some v) :
        atomicLane la' kind ret d n ord aop scope.toNat w gid l.ti l pa lf = v ∧ v.issue = w.issue := by
      dsimp only [swap] at h
      split at h
      · rename_i y hreplay
        have hord : (if ord = 1 then acq y else rel y) = y.ordered (y.accOf (.group gid)) ord scope.toNat := by
          by_cases hord : ord = 1
          · simp only [acq, State.ordered, hord, if_true]
          · simp only [rel, State.ordered, hord, if_false]
        rw [hord] at h
        obtain ⟨hdo, hissue⟩ := atomicLane_of_perform (size := size) hreplay rfl la' ret
        cases h
        cases ret with
        | false => exact ⟨hdo, hissue⟩
        | true =>
          obtain rfl : la' = la.toNat := hla rfl
          exact ⟨hdo, hissue⟩
      · cases h
    refine List.forall_mem_cons.2 ⟨?ld, List.forall_mem_cons.2 ⟨?ldx, List.forall_mem_cons.2 ⟨?st, List.forall_mem_cons.2 ⟨?atom,
      List.forall_mem_cons.2 ⟨?atomc, List.forall_mem_cons.2 ⟨?red, fun e he => by cases he⟩⟩⟩⟩⟩⟩
    case ld =>
      refine exec_lanes hgid hscope (gr := gr) (a := a) (o64 := o64) rfl (fun w l pa lf v h => ?_) fun l => LaneAcc.check_eq_failOf ..
      cases h
      refine ⟨congrArg (fun f => State.modThread _ gid l.ti f) (funext fun t => ?_), ?_⟩
      · rw [← loadRegs_eq_loaded]
        rfl
      · exact ((Touches.ite (Touches.acquire ..) (Touches.refl w)).trans (Touches.readPa ..)).issue
    case ldx =>
      refine exec_lanes hgid hscope (gr := gr) (a := a) (o64 := o64) rfl (fun w l pa lf v h => ?_) fun l => LaneAcc.check_eq_failOf ..
      cases h
      refine ⟨congrArg (fun f => State.modThread _ gid l.ti f) (funext fun t => ?_), ?_⟩
      · rw [← loadRegs_eq_loaded_zero]
        rfl
      · exact ((Touches.ite (Touches.acquire ..) (Touches.refl w)).trans (Touches.atomicPa ..)).issue
    case st =>
      have hst := State.exec_st_of_not_ge (g := g) d a size sext o64 ord hint scope imm fun r hr l hl => by
        rw [hgid r hr, State.lane?_eq] at hl
        obtain ⟨x, hx, hl⟩ := Option.bind_eq_some_iff.1 hl
        obtain ⟨th, -, rfl⟩ := Option.map_eq_some_iff.1 hl
        exact (hgroup x hx).1
      refine exec_lanes hgid hscope hst (fun w l pa lf v h => ?_) fun l => LaneAcc.check_eq_failOf ..
      dsimp only [write] at h
      split at h
      · rename_i hguard
        cases h
        rw [State.storeLane_of_not_ge hguard.1 hguard.2, accBytes, storeData_eq_stored]
        exact ⟨rfl, ((Touches.ite (Touches.release ..) (Touches.refl w)).trans (Touches.writePa ..)).issue⟩
      · cases h
    case atom =>
      exact exec_lanes hgid hscope (gr := gr) (a := a) (o64 := o64) rfl (hswap op la.toNat .atom true fun _ => rfl)
        fun l => LaneAcc.check_eq_failOf ..
    case atomc =>
      exact exec_lanes hgid hscope (gr := gr) (a := a) (o64 := o64) rfl (hswap 10 la.toNat .atomc true fun _ => rfl)
        fun l => LaneAcc.check_eq_failOf ..
    case red =>
      exact exec_lanes hgid hscope (gr := gr) (a := a) (o64 := o64) rfl (hswap op 0 .red false fun h => by cases h)
        fun l => LaneAcc.check_eq_failOf ..
  case store =>
    intro s g d a size sext o64 gr scope imm gid ti core x th pa e l h hscope hsize hkernel n gt idx ac off va hgrant halign hge hlook hdie hcore
      hpa haligned hcls hhome hgate hlost hforeign hline hcells hpart htag hslice
    have hlen : (stored th.getV d.toNat n).length = n := by simp [stored]
    have hfit : pa % 128 + (stored th.getV d.toNat n).length ≤ 128 := hlen.symm ▸ mod_add_le_of_aligned (by omega) haligned
    have hexec := h.exec_st_of_ok hscope (Lane.access_eq ..) halign rfl hgrant rfl hge hkernel hlook d sext 0 0
    have hwrite : s.writePa ac e pa 0 (stored th.getV d.toNat n) = s.storeBytes ac (leafCls e) ac.die pa 0 (stored th.getV d.toNat n) := by
      rw [State.writePa_of_own (by rwa [hlen]) hforeign hgate, hhome]
    have htouch := Touches.storeBytes s ac (leafCls e) ac.die pa 0 (stored th.getV d.toNat n)
    have hstores := StoresInLine.storeBytes (data := stored th.getV d.toNat n) hcls hline hcells htag (hpart ▸ hslice) hfit
    rw [← hwrite] at htouch hstores
    refine ⟨_, hexec, hstores.mem, fun i hi => ?bytes, fun die p hd hp hother => ?others, fun k y hy => ?groups, fun k j u hu => ?threads⟩
    case bytes => exact hstores.byteAt_stored hfit (by simp [stored, hi])
    case others => exact hstores.byteAt_other hdie hpa hp (by rwa [hlen])
    case groups =>
      obtain ⟨y', hy', hrest, hthreads⟩ := htouch.group_modThread gid ti (doneThread s.issue) hy
      exact ⟨y', hy', (congrArg Group.u hrest :), (congrArg Group.gst hrest :), (congrArg Group.vregs hrest :), hthreads⟩
    case threads =>
      obtain ⟨v, hv, hdone, hbut⟩ := htouch.thread_modThread gid ti (.doneThread s.issue) hu
      refine ⟨_, hdone, hbut, fun m hm hon => ?_⟩
      obtain ⟨v', m', hv', hm', hsame, hwritten⟩ := hstores.marks k j u m hu hm hon
      obtain rfl : v = v' := Option.some.inj (hv.symm.trans hv')
      refine ⟨m', ?_, hsame, hwritten⟩
      split
      · rw [(MonitorFree.doneThread s.issue).monitor, hm']
      · exact hm'
  case load =>
    intro s g la d a size sext o64 hint gr scope imm gid ti core x th pa e l b h hscope hsize n gt idx ac off va hgrant halign hlook hlen hdie hcore
      hpa haligned hcls hreplica hhome hgate hforeign hclean hline hpart htag hslice hbytes
    have hread : s.readPa ac e pa n hint.toNat false (some x.bid) = s.loadBytes ac (leafCls e) ac.die pa n hint.toNat false := by
      rw [State.readPa_of_clean hreplica hclean hforeign hgate, hhome]
    have hloads : Loads s b (s.readPa ac e pa n hint.toNat false (some x.bid)) :=
      hread ▸ .loadBytes hcls hline htag (hpart ▸ hslice) hlen hcore (mod_add_le_of_aligned (by omega) haligned) hbytes hint.toNat
    have htouch := Touches.readPa s ac e pa n hint.toNat false (some x.bid)
    generalize hr : s.readPa ac e pa n hint.toNat false (some x.bid) = r at hloads htouch
    obtain ⟨w, b'⟩ := r
    obtain ⟨hb, hsame⟩ := hloads
    obtain rfl : b' = b := hb
    have hexec := h.exec_ld_of_ok hscope (Lane.access_eq ..) halign rfl hgrant (ord := 0) (State.lookRead_of_clean hlook hreplica hclean) hr la d sext
    have hfree := (MonitorFree.doneThread s.issue).comp (.late la.toNat (loaded d.toNat size sext b'))
    refine ⟨_, hexec, hsame.mem, fun die p _ _ => hsame.byteAt_eq die p, fun k j u hu => ?threads, fun k y hy => ?groups⟩
    case threads =>
      obtain ⟨v, -, hdone⟩ := htouch.thread_modThread gid ti hfree hu
      exact ⟨_, hdone⟩
    case groups =>
      obtain ⟨y', hy', hrest, -⟩ := htouch.group_modThread gid ti
        (fun t => doneThread s.issue (t.late la.toNat (loaded d.toNat size sext b') [])) hy
      exact ⟨y', hy', hrest⟩
end

section
/-! O29. The life of a copy (R292 to R297): what one of its elements changes, what a sector of them makes of memory or of a pad, its
landing, and the deadline of a halt (R294). -/

namespace Sys2Proof.Machine

/-! ## What an access and an element leave of copies and tile operations -/

/-- An access leaves every copy. -/
theorem Touches.copies {s t : State} (h : Touches s t) : t.copies = s.copies := (congrArg State.copies h.rest :)

/-- An access leaves every tile operation. -/
theorem Touches.tileOps {s t : State} (h : Touches s t) : t.tileOps = s.tileOps := (congrArg State.tileOps h.rest :)

/-- The far elements of a sector are looked up by accesses (R293). -/
theorem Touches.copyLook (s : State) (a : Acc) (kind : AccKind) (z : Nat) (data : Option Bool) (bid : Nat) (vas : List Nat) :
    Touches s (s.copyLook a kind z data bid vas).1 := by
  induction vas generalizing s with
  | nil => exact refl s
  | cons va vas ih =>
    have hfor := lookFor s a kind va z data (some bid)
    rcases hl : s.lookFor a kind va z data (some bid) with ⟨t, o⟩
    rw [hl] at hfor
    rw [State.copyLook, hl]
    cases o with
    | ok pa e => exact hfor.trans (ih t)
    | fault x => exact hfor
    | wait => exact hfor
    | poison => exact hfor

/-- A read of a pad touches what a report may. -/
theorem Touches.consumePad (s : State) (bid off n who : Nat) : Touches s (s.consumePad bid off n who) := by
  unfold State.consumePad
  split
  · exact report s _
  · exact refl s

/-- Counting leaves copies. -/
@[simp] theorem State.bump_copies (s : State) (c i n : Nat) : (s.bump c i n).copies = s.copies := by
  unfold State.bump; split <;> rfl

/-- Free values in the result of a tile operation leave copies (R246). -/
@[simp] theorem State.spoilResult_copies (s : State) (k : Kernel) (o : TileOp) : (s.spoilResult k o).copies = s.copies := by
  unfold State.spoilResult; split <;> rfl

/-- An access to the storage of tile operations leaves copies (R246). -/
@[simp] theorem State.race_copies (s : State) (k : Kernel) (bid off n : Nat) : (s.race k bid off n).copies = s.copies := by
  unfold State.race
  extract_lets s1
  exact List.foldlRecOn (motive := fun t : State => t.copies = s.copies) _ _ rfl fun t ht o _ => (t.spoilResult_copies k o).trans ht

/-- A store to a pad leaves copies. -/
@[simp] theorem State.padStore_copies (s : State) (bid off : Nat) (d : List Byte) : (s.padStore bid off d).copies = s.copies := by
  unfold State.padStore
  split
  · rfl
  · split
    · exact s.race_copies ..
    · rfl

/-- A read of a pad leaves copies. -/
@[simp] theorem State.padLook_copies (s : State) (bid off n : Nat) : (s.padLook bid off n).copies = s.copies := by
  unfold State.padLook
  split
  · rfl
  · split
    · exact s.race_copies ..
    · rfl

/-- An element that is loaded: its bytes are read at the far address, then stored to the pad of every recipient (R293). -/
theorem State.moveMem_of_toPad {s t : State} {a : Acc} {c : Copy} {va pa : Nat} {e : BitVec 64} (hpad : c.toPad = true)
    (hlook : s.look a .read va = (t, .ok pa e)) (po z : Nat) : s.moveMem a c va po z =
      c.recips.foldl (fun u i => u.padStore i po (t.readPa a e pa z c.hint true (some c.bid)).2)
        (t.readPa a e pa z c.hint true (some c.bid)).1 := by
  simp only [State.moveMem, hpad, if_true, hlook]

/-- An element that is stored: the pad of the block is read, then its bytes are written at the far address (R293). -/
theorem State.moveMem_of_fromPad {s t : State} {a : Acc} {c : Copy} {va pa : Nat} {e : BitVec 64} (hpad : c.toPad = false)
    (hlook : s.look a .write va = (t, .ok pa e)) (po z : Nat) : s.moveMem a c va po z =
      let v := (t.padLook c.bid po z).consumePad c.bid po z c.bid
      v.writePa a e pa c.hint (((v.blocks[c.bid]?).map fun b => b.padRead po z).getD []) := by
  simp only [State.moveMem, hpad, Bool.false_eq_true, if_false, hlook]

/-- An element whose far address is not found is not moved. -/
theorem State.moveMem_of_not_found {s t : State} {a : Acc} {c : Copy} {va : Nat} {o : Look}
    (hlook : s.look a (if c.toPad then .read else .write) va = (t, o)) (hfound : ∀ pa e, o ≠ .ok pa e) (po z : Nat) :
    s.moveMem a c va po z = t := by
  cases o with
  | ok pa e => exact absurd rfl (hfound pa e)
  | fault x => simp only [State.moveMem, hlook]
  | wait => simp only [State.moveMem, hlook]
  | poison => simp only [State.moveMem, hlook]

/-- The moves of elements between memory and pads leave copies. -/
@[simp] theorem State.moveMem_copies (s : State) (a : Acc) (c : Copy) (va po z : Nat) : (s.moveMem a c va po z).copies = s.copies := by
  have hlook := Touches.look s a (if c.toPad then .read else .write) va
  rcases hl : s.look a (if c.toPad then .read else .write) va with ⟨t, o⟩
  rw [hl] at hlook
  by_cases hfound : ∀ pa e, o ≠ .ok pa e
  · rw [moveMem_of_not_found hl hfound]
    exact hlook.copies
  · push Not at hfound
    obtain ⟨pa, e, rfl⟩ := hfound
    cases hpad : c.toPad with
    | true =>
      rw [moveMem_of_toPad hpad (by simpa [hpad] using hl)]
      refine List.foldlRecOn (motive := fun u : State => u.copies = s.copies) _ _ ?_ fun u hu i _ => (u.padStore_copies ..).trans hu
      exact (hlook.trans (Touches.readPa ..)).copies
    | false =>
      rw [moveMem_of_fromPad hpad (by simpa [hpad] using hl)]
      calc _ = ((t.padLook c.bid po z).consumePad c.bid po z c.bid).copies := (Touches.writePa ..).copies
        _ = (t.padLook c.bid po z).copies := (Touches.consumePad ..).copies
        _ = t.copies := t.padLook_copies ..
        _ = s.copies := hlook.copies

/-! ## Pads that no tile operation holds (R246, R340) -/

/-- A tile operation that is not exposed touches nothing. -/
theorem State.not_touched {s : State} (hidle : ∀ o ∈ s.tileOps, o.exposed = false) (k : Kernel) (bid off n : Nat) :
    (s.tileOps.any fun o => o.touches k bid off n) = false :=
  List.any_eq_false.2 fun o ho => by simp [TileOp.touches, hidle o ho]

/-- A read of a pad leaves the state where no tile operation is exposed. -/
theorem State.padLook_of_idle {s : State} (hidle : ∀ o ∈ s.tileOps, o.exposed = false) (bid off n : Nat) : s.padLook bid off n = s := by
  unfold State.padLook
  split
  · rfl
  · rw [if_neg (by simp only [State.not_touched hidle]; decide)]

/-- A store to the pad of a block of a kernel writes its bytes there where no tile operation is exposed. -/
theorem State.padStore_of_idle {s : State} (hidle : ∀ o ∈ s.tileOps, o.exposed = false) {bid : Nat} {k : Kernel} (hk : s.kernelOf bid = some k)
    (off : Nat) (d : List Byte) : s.padStore bid off d = s.modBlock bid (·.padWrite off d) := by
  simp only [State.padStore, hk, State.not_touched hidle]
  exact if_neg (by decide)

/-- A byte of a pad outside the bytes that are written. -/
theorem Block.padByte_padWrite_of_outside {b : Block} {off p : Nat} {d : List Byte} (hout : p < off ∨ off + d.length ≤ p) :
    (b.padWrite off d).padByte p = b.padByte p := by
  have hread : (b.padWrite off d).pad.read p = b.pad.read p := by
    refine (Memory.read_writeN b.pad off p d).trans ?_
    split
    · rw [List.getElem?_eq_none (by omega), Option.getD_none]
    · rfl
  simp only [Block.padByte, hread]
  rfl

/-- From s to t nothing of tile operations and of threads has changed but the marks of monitors, and of blocks only the pads of
those that B names, outside whose bytes that W names nothing. -/
structure PadsOnly (B W : Nat → Prop) (s t : State) : Prop where
  tileOps : t.tileOps = s.tileOps
  thread : ∀ (k j : Nat) (u : Thread), s.thread? k j = some u → ∃ u' : Thread, t.thread? k j = some u' ∧ sameButMonitor u u'
  block : ∀ (i : Nat) (y : Block), s.blocks[i]? = some y → ∃ y' : Block, t.blocks[i]? = some y' ∧
    { y' with pad := y.pad, padPoison := y.padPoison } = y ∧ (¬ B i → y' = y) ∧ ∀ p, ¬ W p → y'.padByte p = y.padByte p

namespace PadsOnly

variable {B W : Nat → Prop} {s t u : State}

theorem of_touches (h : Touches s t) : PadsOnly B W s t where
  tileOps := h.tileOps
  thread _ _ _ hu := h.thread hu
  block i y hy := ⟨y, by rw [h.blocks, hy], rfl, fun _ => rfl, fun _ _ => rfl⟩

theorem trans (h : PadsOnly B W s t) (h' : PadsOnly B W t u) : PadsOnly B W s u where
  tileOps := h'.tileOps.trans h.tileOps
  thread k j v hv := by
    obtain ⟨v', hv', hbut⟩ := h.thread k j v hv
    obtain ⟨v'', hv'', hbut'⟩ := h'.thread k j v' hv'
    exact ⟨v'', hv'', Eq.trans (congrArg (fun x : Thread => { x with monitor := v.monitor })
      (show { v'' with monitor := v'.monitor } = v' from hbut')) hbut⟩
  block i y hy := by
    obtain ⟨y', hy', hrest, hsame, hbyte⟩ := h.block i y hy
    obtain ⟨y'', hy'', hrest', hsame', hbyte'⟩ := h'.block i y' hy'
    exact ⟨y'', hy'', (congrArg (fun x : Block => { x with pad := y.pad, padPoison := y.padPoison }) hrest').trans hrest,
      fun hB => (hsame' hB).trans (hsame hB), fun p hp => (hbyte' p hp).trans (hbyte p hp)⟩

/-- Steps over a list, each of which starts where no tile operation is exposed. -/
theorem foldl {α : Type} {l : List α} {f : State → α → State}
    (hf : ∀ s, (∀ o ∈ s.tileOps, o.exposed = false) → ∀ x ∈ l, PadsOnly B W s (f s x)) (hidle : ∀ o ∈ s.tileOps, o.exposed = false) :
    PadsOnly B W s (l.foldl f s) :=
  List.foldlRecOn (motive := PadsOnly B W s) l f (of_touches (.refl s)) fun t ht x hx => ht.trans (hf t (ht.tileOps ▸ hidle) x hx)

/-- A store of bytes that W names to the pad of a block that B names. -/
theorem padStore (hidle : ∀ o ∈ s.tileOps, o.exposed = false) {bid off : Nat} {d : List Byte} (hB : B bid)
    (hW : ∀ p, off ≤ p → p < off + d.length → W p) : PadsOnly B W s (s.padStore bid off d) := by
  cases hk : s.kernelOf bid with
  | none =>
    have hstay : s.padStore bid off d = s := by simp only [State.padStore, hk]
    rw [hstay]
    exact of_touches (.refl s)
  | some k =>
    rw [State.padStore_of_idle hidle hk]
    refine ⟨rfl, fun k j v hv => ⟨v, hv, rfl⟩, fun i y hy => ?_⟩
    by_cases hi : bid = i
    · subst hi
      refine ⟨y.padWrite off d, by simp [hy], rfl, fun hn => absurd hB hn, fun p hp => Block.padByte_padWrite_of_outside ?_⟩
      by_contra hin
      exact hp (hW p (by omega) (by omega))
    · exact ⟨y, by simp [hy, hi], rfl, fun _ => rfl, fun _ _ => rfl⟩

end PadsOnly

/-! ## What moves between memory and pads change (R293) -/

/-- A load returns as many bytes as it reads. -/
theorem State.length_readPa (s : State) (a : Acc) (e : BitVec 64) (pa n hint : Nat) (fresh : Bool) (bid : Option Nat) :
    (s.readPa a e pa n hint fresh bid).2.length = n := by
  unfold State.readPa
  extract_lets pa' gone s1 s2 s3
  split
  · exact s1.length_freeBytes n
  · split
    · exact (s1.dropForeign a pa').length_freeBytes n
    · split
      · simp
      · unfold State.loadBytes
        split
        · exact s1.length_l2Read ..
        · extract_lets hit
          split
          · simp [hit]
          · exact s1.length_l2Read ..

/-- An element changes the pads of the recipients where the copy writes pads, in its own bytes there, and no pad elsewhere. -/
theorem PadsOnly.moveMem {W : Nat → Prop} {s : State} (hidle : ∀ o ∈ s.tileOps, o.exposed = false) (a : Acc) (c : Copy) (va : Nat)
    {po z : Nat} (hW : ∀ p, po ≤ p → p < po + z → W p) :
    PadsOnly (fun i => c.toPad = true ∧ i ∈ c.recips) W s (s.moveMem a c va po z) := by
  have hlook := Touches.look s a (if c.toPad then .read else .write) va
  rcases hl : s.look a (if c.toPad then .read else .write) va with ⟨t, o⟩
  rw [hl] at hlook
  have hidle' : ∀ o ∈ t.tileOps, o.exposed = false := hlook.tileOps ▸ hidle
  by_cases hfound : ∀ pa e, o ≠ .ok pa e
  · rw [State.moveMem_of_not_found hl hfound]
    exact of_touches hlook
  · push Not at hfound
    obtain ⟨pa, e, rfl⟩ := hfound
    cases hpad : c.toPad with
    | true =>
      rw [State.moveMem_of_toPad hpad (by simpa [hpad] using hl)]
      have hread := Touches.readPa t a e pa z c.hint true (some c.bid)
      refine (of_touches (hlook.trans hread)).trans (foldl (fun v hv i hi => padStore hv ⟨rfl, hi⟩ ?_) (hread.tileOps ▸ hidle'))
      rwa [State.length_readPa]
    | false =>
      rw [State.moveMem_of_fromPad hpad (by simpa [hpad] using hl), State.padLook_of_idle hidle']
      exact of_touches ((hlook.trans (Touches.consumePad ..)).trans (Touches.writePa ..))

/-! ## The steps of a copy (R292, R293) -/

/-- The copies of a context that runs go on (R294). -/
theorem State.copyRuns_of_running {s : State} {ctx : Nat} (h : (s.ctx ctx).st = .running) : s.copyRuns ctx = true := by
  simp [State.copyRuns, h]

/-- A pad without poison ends no read (R376). -/
theorem State.padError_of_clean {s : State} {bid : Nat} {b : Block} (hb : s.blocks[bid]? = some b) (hclean : b.padPoison = [])
    (off n who : Nat) : s.padError bid off n who = none := by
  simp [State.padError, hb, hclean]

/-- No place of a pad without poison ends the copy that reads it (R293). -/
theorem State.findSome?_padEnds_of_clean {α : Type} {s : State} {bid : Nat} {b : Block} (hb : s.blocks[bid]? = some b)
    (hclean : b.padPoison = []) (n who : Nat) (l : List Nat) (f : Nat → α) :
    (l.findSome? fun o => if s.padEnds bid o n who then some (f o) else none) = none := by
  simp [State.padEnds, State.padError_of_clean hb hclean]

/-- COPY_START lets a queued copy of a running context run (R292). -/
theorem exec_copyStart_of_queued {s : State} {cid : Nat} {c : Copy} (hc : s.copies[cid]? = some c) (hctx : (s.ctx c.ctx).st = .running)
    (hqueued : c.cst = .queued) : exec (.copyStart cid) s = .next (s.modCopy cid fun y => { y with cst := .running }) := by
  change execCopyStart cid s = _
  simp only [execCopyStart, hc, hqueued, State.copyRuns_of_running hctx, and_self, if_true]

/-- COPY_START does nothing to a copy that is not queued (R292). -/
theorem exec_copyStart_of_not_queued {s : State} {cid : Nat} {c : Copy} (hc : s.copies[cid]? = some c) (hqueued : c.cst ≠ .queued) :
    exec (.copyStart cid) s = .next s := by
  change execCopyStart cid s = _
  simp only [execCopyStart, hc, hqueued, false_and, if_false]

/-- A copy to the pad of a block that has been moved away waits, with a sector and with its landing. -/
theorem exec_copy_of_away {s : State} {cid : Nat} {c : Copy} {b : Block} (hc : s.copies[cid]? = some c) (hb : s.blocks[c.bid]? = some b)
    (haway : ∃ i ∈ c.recips, s.placed i = false) : exec (.copySector cid) s = .next s ∧ exec (.copyLand cid) s = .next s := by
  have hany : (c.recips.any fun i => !s.placed i) = true := by simpa using haway
  constructor
  · change execCopySector cid s = _
    simp only [execCopySector, hc, hb, Option.bind_some, Option.map_some, hany, or_true, if_true]
  · change execCopyLand cid s = _
    simp only [execCopyLand, hc, hb, Option.bind_some, Option.map_some, hany, or_true, if_true]

/-- A running copy that has a sector left and whose recipients stand on their cores (R293). -/
structure State.CopyRunning (s : State) (cid : Nat) (c : Copy) (b : Block) : Prop where
  copy : s.copies[cid]? = some c
  block : s.blocks[c.bid]? = some b
  context : (s.ctx c.ctx).st = .running
  running : c.cst = .running
  unfinished : c.prog < c.sectors
  placed : ∀ i ∈ c.recips, s.placed i = true

/-- The state after a sector of a copy has been written: PROG and the counter of copied bytes go on (R293). -/
def State.sectorDone (s : State) (cid : Nat) (c : Copy) : State :=
  (s.modCopy cid fun y => { y with prog := y.prog + 1 }).bump c.ctx 9 ((c.sector c.prog).length * shZ c.shape)

/-- A sector that is written advances the progress of its copy by one. -/
theorem State.sectorDone_copies {s : State} {cid : Nat} {c : Copy} (hc : s.copies[cid]? = some c) :
    (s.sectorDone cid c).copies = s.copies.set cid { c with prog := c.prog + 1 } := by
  simp [State.sectorDone, modify_eq_set _ hc]

@[simp] theorem State.sectorDone_blocks (s : State) (cid : Nat) (c : Copy) : (s.sectorDone cid c).blocks = s.blocks := by
  simp [State.sectorDone]

@[simp] theorem State.sectorDone_groups (s : State) (cid : Nat) (c : Copy) : (s.sectorDone cid c).groups = s.groups := by
  simp [State.sectorDone, State.bump_groups]

@[simp] theorem State.sectorDone_mem (s : State) (cid : Nat) (c : Copy) : (s.sectorDone cid c).mem = s.mem := by
  simp [State.sectorDone, State.bump_mem]

/-- The far addresses of the elements of a copy's next sector (R282). -/
def Copy.farAddrs (c : Copy) : List Nat := (c.sector c.prog).map fun e => c.grant.base + c.far + (c.place e).1

/-- What a sector between memory and pads makes of the look at its far elements: only where all are found are they moved (R293). -/
def State.sectorAfter (cid : Nat) (c : Copy) (a : Acc) : State × LaneEnd → State
  | (t, .trap x v) => t.copyFault cid c x v
  | (t, .wait) => t
  | (t, .later) => t
  | (t, .poison) => t.copyPoison cid ((c.farAddrs.head?).getD 0)
  | (t, .done) => ((c.sector c.prog).foldl (fun u e =>
      u.moveMem a c (c.grant.base + c.far + (c.place e).1) (c.pbase + (c.place e).2) (shZ c.shape)) t).sectorDone cid c

namespace State.CopyRunning

variable {s : State} {cid : Nat} {c : Copy} {b : Block}

/-- The copy goes on. -/
theorem goes (h : s.CopyRunning cid c b) :
    ¬ (c.cst ≠ .running ∨ c.sectors ≤ c.prog ∨ s.copyRuns c.ctx = false ∨ (c.recips.any fun i => !s.placed i) = true) := by
  have hplaced : (c.recips.any fun i => !s.placed i) = false := List.any_eq_false.2 fun i hi => by simp [h.placed i hi]
  simp [h.running, h.unfinished, State.copyRuns_of_running h.context, hplaced]

/-- A copy between memory and pads whose own pad holds no poison, or is not read, looks its far elements up first (R293). -/
theorem exec_copySector_of_memory (h : s.CopyRunning cid c b) (hwindow : c.window = false) (hclean : c.toPad = true ∨ b.padPoison = []) :
    exec (.copySector cid) s = .next (State.sectorAfter cid c (s.accAt c.ctx b.die b.clu none) (s.copyLook (s.accAt c.ctx b.die b.clu none)
      (if c.toPad then .read else .write) (shZ c.shape) (if c.toPad then some true else none) c.bid c.farAddrs)) := by
  have hbad : (if c.toPad then none else ((c.sector c.prog).map c.place |>.map fun p => c.pbase + p.2).findSome? fun o =>
      if s.padEnds c.bid o (shZ c.shape) c.bid then some (c.bid, o) else none) = none := by
    rcases hclean with hpad | hclean
    · rw [if_pos hpad]
    · rw [State.findSome?_padEnds_of_clean h.block hclean, ite_self]
  have haddrs : ((c.sector c.prog).map c.place).map (fun p => c.grant.base + c.far + p.1) = c.farAddrs := List.map_map
  change execCopySector cid s = _
  simp only [execCopySector, h.copy, h.block, Option.bind_some, Option.map_some, if_neg h.goes, hwindow, Bool.false_eq_true, if_false, hbad, haddrs]
  rcases s.copyLook _ _ _ _ _ c.farAddrs with ⟨t, o⟩
  cases o with
  | done => simp [sectorAfter, sectorDone, List.foldl_map]
  | poison => simp [sectorAfter, Copy.farAddrs, Function.comp_def]
  | _ => rfl

end State.CopyRunning

/-- The elements of a sector moved between memory and pads leave copies. -/
theorem State.foldl_moveMem_copies (s : State) (a : Acc) (c : Copy) (va po : Nat → Nat) (z : Nat) (l : List Nat) :
    (l.foldl (fun u e => u.moveMem a c (va e) (po e) z) s).copies = s.copies :=
  List.foldlRecOn (motive := fun u : State => u.copies = s.copies) l _ rfl fun u hu e _ => (u.moveMem_copies a c (va e) (po e) z).trans hu

/-- The elements of a sector moved between memory and pads change the pads of the recipients where the copy writes pads, in the bytes
of the elements there. -/
theorem PadsOnly.foldl_moveMem {s : State} (hidle : ∀ o ∈ s.tileOps, o.exposed = false) (a : Acc) (c : Copy) (va po : Nat → Nat) (z : Nat)
    (l : List Nat) : PadsOnly (fun i => c.toPad = true ∧ i ∈ c.recips) (fun p => ∃ e ∈ l, po e ≤ p ∧ p < po e + z) s
      (l.foldl (fun u e => u.moveMem a c (va e) (po e) z) s) :=
  .foldl (fun _ hv e he => .moveMem hv a c _ fun _ hlo hhi => ⟨e, he, hlo, hhi⟩) hidle

/-! ## Copies between two pads (R283, R292) -/

/-- The elements of a sector are each moved once (R282). -/
theorem Copy.nodup_sector (c : Copy) (k : Nat) : (c.sector k).Nodup :=
  (List.nodup_range.filter _).map fun _ _ h => Nat.add_left_cancel h

/-- Elements written to a pad one after another. -/
def Block.putElements (b : Block) (into : Nat → Nat) (data : Nat → List Byte) (l : List Nat) : Block :=
  l.foldl (fun b e => b.padWrite (into e) (data e)) b

section
variable {b : Block} {into : Nat → Nat} {data : Nat → List Byte}

/-- Elements change a block's pad and its poison there, and nothing else. -/
theorem Block.putElements_frame (l : List Nat) : { b.putElements into data l with pad := b.pad, padPoison := b.padPoison } = b :=
  List.foldlRecOn (motive := fun y : Block => { y with pad := b.pad, padPoison := b.padPoison } = b) l _ rfl fun _ hy _ _ => hy

/-- A byte outside every element is as it was. -/
theorem Block.padByte_putElements_of_outside {l : List Nat} {p : Nat} (hout : ∀ e ∈ l, p < into e ∨ into e + (data e).length ≤ p) :
    (b.putElements into data l).padByte p = b.padByte p :=
  List.foldlRecOn (motive := fun y : Block => y.padByte p = b.padByte p) l _ rfl fun _ hy e he =>
    (Block.padByte_padWrite_of_outside (hout e he)).trans hy

/-- A byte of an element is what was written there, where the elements lie apart. -/
theorem Block.padByte_putElements {l : List Nat} (hl : l.Nodup) (hroom : ∀ e ∈ l, into e + (data e).length + 128 ≤ b.padsz)
    (hapart : ∀ e ∈ l, ∀ e' ∈ l, e ≠ e' → into e + (data e).length ≤ into e' ∨ into e' + (data e').length ≤ into e)
    {e i : Nat} (he : e ∈ l) (hi : i < (data e).length) : (b.putElements into data l).padByte (into e + i) = ((data e)[i]?).getD 0 := by
  induction l generalizing b with
  | nil => cases he
  | cons e₁ l ih =>
    obtain ⟨hnotin, hnodup⟩ := List.nodup_cons.1 hl
    obtain ⟨hroom₁, hroom⟩ := List.forall_mem_cons.1 hroom
    rcases List.mem_cons.1 he with rfl | he
    · have hout : ∀ e' ∈ l, into e + i < into e' ∨ into e' + (data e').length ≤ into e + i := fun e' he' => by
        have hne : e ≠ e' := fun h => hnotin (h ▸ he')
        have := hapart e List.mem_cons_self e' (List.mem_cons_of_mem _ he') hne
        omega
      refine (Block.padByte_putElements_of_outside (b := b.padWrite (into e) (data e)) hout).trans ?_
      rw [Block.padByte_padWrite hroom₁, if_pos (by omega), Nat.add_sub_cancel_left]
    · exact ih (b := b.padWrite (into e₁) (data e₁)) hnodup hroom
        (fun e he e' he' => hapart e (List.mem_cons_of_mem _ he) e' (List.mem_cons_of_mem _ he')) he

end

/-- The two sides of a copy through the window: what a move needs of the block read and of the block written, where no tile operation
is exposed. -/
structure State.PadPair (s : State) (src dst : Nat) (sb : Block) : Prop where
  apart : src ≠ dst
  source : s.blocks[src]? = some sb
  clean : sb.padPoison = []
  kernel : (s.kernelOf dst).isSome
  idle : ∀ o ∈ s.tileOps, o.exposed = false

namespace State.PadPair

variable {s : State} {src dst : Nat} {sb : Block}

/-- The block of a copy through the window is one of its two sides. -/
theorem exists_block (h : s.PadPair src dst sb) {c : Copy} {far : Nat} (hsides : (src, dst) = if c.get then (far, c.bid) else (c.bid, far)) :
    ∃ b, s.blocks[c.bid]? = some b := by
  cases hget : c.get with
  | true =>
    obtain ⟨-, rfl⟩ : src = far ∧ dst = c.bid := by simpa [hget] using hsides
    obtain ⟨k, hk⟩ := Option.isSome_iff_exists.1 h.kernel
    obtain ⟨b, hb, -⟩ := Option.bind_eq_some_iff.1 hk
    exact ⟨b, hb⟩
  | false =>
    obtain ⟨rfl, -⟩ : src = c.bid ∧ dst = far := by simpa [hget] using hsides
    exact ⟨sb, h.source⟩

/-- The far side of a copy through the window is another block. -/
theorem far_ne (h : s.PadPair src dst sb) {c : Copy} {far : Nat} (hsides : (src, dst) = if c.get then (far, c.bid) else (c.bid, far)) :
    far ≠ c.bid := by
  rintro rfl
  rw [ite_self, Prod.mk.injEq] at hsides
  exact h.apart (hsides.1.trans hsides.2.symm)

/-- It stays so when the block written changes in its pad. -/
theorem modBlock (h : s.PadPair src dst sb) (off : Nat) (d : List Byte) : (s.modBlock dst (·.padWrite off d)).PadPair src dst sb where
  apart := h.apart
  source := by simpa [h.apart.symm] using h.source
  clean := h.clean
  kernel := by
    have hk := h.kernel
    simp only [State.kernelOf, State.modBlock_blocks, State.modBlock_kernels, List.getElem?_modify_eq] at hk ⊢
    cases hb : s.blocks[dst]? with
    | none => simp [hb] at hk
    | some b => simpa [hb, Block.padWrite] using hk
  idle := h.idle

/-- An element moved through the window is read from the one pad and written to the other (R283). -/
theorem movePad {c : Copy} {far : Nat} (h : s.PadPair src dst sb) (hsides : (src, dst) = if c.get then (far, c.bid) else (c.bid, far))
    (fo po z : Nat) : s.movePad c far fo po z =
      s.modBlock dst (·.padWrite (if c.get then po else fo) (sb.padRead (if c.get then fo else po) z)) := by
  obtain ⟨k, hk⟩ := Option.isSome_iff_exists.1 h.kernel
  have hread (off : Nat) : (s.padLook src off z).consumePad src off z c.bid = s := by
    simp [State.padLook_of_idle h.idle, State.consumePad, State.padError_of_clean h.source h.clean]
  cases hget : c.get with
  | true =>
    obtain ⟨rfl, rfl⟩ : src = far ∧ dst = c.bid := by simpa [hget] using hsides
    simp [State.movePad, hget, hread, h.source, h.apart, State.padStore_of_idle h.idle hk]
  | false =>
    obtain ⟨rfl, rfl⟩ : src = c.bid ∧ dst = far := by simpa [hget] using hsides
    simp [State.movePad, hget, hread, h.source, h.apart, State.padStore_of_idle h.idle hk]

/-- The elements of a sector moved through the window one after another. -/
theorem foldl_movePad {c : Copy} {far : Nat} (h : s.PadPair src dst sb) (hsides : (src, dst) = if c.get then (far, c.bid) else (c.bid, far))
    (fo po : Nat → Nat) (z : Nat) (l : List Nat) : l.foldl (fun u e => u.movePad c far (fo e) (po e) z) s =
      s.modBlock dst (·.putElements (fun e => if c.get then po e else fo e) (fun e => sb.padRead (if c.get then fo e else po e) z) l) := by
  refine Eq.trans ?_ (State.foldl_modBlock s dst (fun e b => b.padWrite _ _) l)
  induction l generalizing s with
  | nil => rfl
  | cons e l ih =>
    rw [List.foldl_cons, h.movePad hsides, ih (h.modBlock _ _)]
    rfl

end State.PadPair

namespace State.CopyRunning

variable {s : State} {cid : Nat} {c : Copy} {b : Block}

/-- A sector of a copy between the pads of two blocks (R283, R292). -/
theorem exec_copySector_of_window (h : s.CopyRunning cid c b) (hwindow : c.window = true) {f src dst : Nat} {sb : Block}
    (hfar : s.padTarget c.bid (BitVec.ofNat 4 (8 + c.stage)) = some f) (hplaced : s.placed f = true)
    (hsides : (src, dst) = if c.get then (f, c.bid) else (c.bid, f)) (hpair : s.PadPair src dst sb) :
    exec (.copySector cid) s = .next ((s.modBlock dst (·.putElements
      (fun e => if c.get then c.pbase + (c.place e).2 else c.far + (c.place e).1)
      (fun e => sb.padRead (if c.get then c.far + (c.place e).1 else c.pbase + (c.place e).2) (shZ c.shape)) (c.sector c.prog))).sectorDone cid c) := by
  have hne := hpair.far_ne hsides
  have hbad : (if c.get then ((c.sector c.prog).map c.place |>.map fun p => c.far + p.1).findSome? fun o =>
        if s.padEnds f o (shZ c.shape) c.bid then some (f, o) else none
      else ((c.sector c.prog).map c.place |>.map fun p => c.pbase + p.2).findSome? fun o =>
        if s.padEnds c.bid o (shZ c.shape) c.bid then some (c.bid, o) else none) = none := by
    cases hget : c.get with
    | true =>
      obtain ⟨rfl, -⟩ : src = f ∧ dst = c.bid := by simpa [hget] using hsides
      exact State.findSome?_padEnds_of_clean hpair.source hpair.clean ..
    | false =>
      obtain ⟨rfl, -⟩ : src = c.bid ∧ dst = f := by simpa [hget] using hsides
      exact State.findSome?_padEnds_of_clean hpair.source hpair.clean ..
  change execCopySector cid s = _
  simp only [execCopySector, h.copy, h.block, Option.bind_some, Option.map_some, if_neg h.goes, hwindow, if_true, hfar, hbad, hplaced,
    Bool.not_true, Bool.false_eq_true, if_false, List.foldl_map, hpair.foldl_movePad hsides, State.spoilOverlap, hne, ne_eq, not_false_eq_true,
    true_or, List.length_map]
  rfl

end State.CopyRunning

/-! ## A copy lands (R292, R297) -/

/-- An operation on a word leaves every copy. -/
@[simp] theorem State.wordOp_copies (s : State) (bid k : Nat) (f : BWord → BWord) : (s.wordOp bid k f).copies = s.copies := by
  unfold State.wordOp
  split
  · rfl
  · dsimp only
    split <;> rfl

/-- An operation on a word leaves every group. -/
@[simp] theorem State.wordOp_groups (s : State) (bid k : Nat) (f : BWord → BWord) : (s.wordOp bid k f).groups = s.groups := by
  unfold State.wordOp
  split
  · rfl
  · dsimp only
    split <;> rfl

/-- An operation on a word of a block settles the word there, and leaves every other block. -/
theorem State.wordOp_blocks {s : State} {bid : Nat} {b : Block} (hb : s.blocks[bid]? = some b) (k : Nat) (f : BWord → BWord) :
    (s.wordOp bid k f).blocks = s.blocks.set bid (b.settle k (f (b.word k))) := by
  simp only [State.wordOp, hb, State.modBlock_eq_set hb]
  split <;> rfl

/-- A word that settles leaves the halt of its block. -/
@[simp] theorem Block.settle_halt (b : Block) (k : Nat) (w : BWord) : (b.settle k w).halt = b.halt := by
  unfold Block.settle; split <;> rfl

/-- A copy that has landed leaves a group without pending BARDs all but as it was (R308). -/
theorem State.bardsLand_of_none {s : State} {gid cid : Nat} (h : ∀ g, s.groups[gid]? = some g → g.bards = []) :
    { s.bardsLand gid cid with groups := s.groups } = s := by
  unfold State.bardsLand State.bardsArrive
  cases hg : s.groups[gid]? with
  | none => simp [hg]
  | some g => simp [hg, h g hg]

/-- A block that does not stop alone does not pass to the reserve (R407). -/
theorem State.toReserve_of_not_halted {s : State} {bid : Nat} (h : ∀ b, s.blocks[bid]? = some b → b.halt = none) : s.toReserve bid = s := by
  unfold State.toReserve
  split
  · rfl
  · rename_i b hb
    simp [h b hb]

/-- COPY_LAND of a copy with one recipient, whose group has no pending BARD, where neither block stops alone (R292, R297). -/
theorem exec_copyLand_of_one {s : State} {cid r : Nat} {c : Copy} {b y : Block} (hc : s.copies[cid]? = some c) (hb : s.blocks[c.bid]? = some b)
    (hctx : (s.ctx c.ctx).st = .running) (hrunning : c.cst = .running) (hfinished : c.sectors ≤ c.prog) (hrecips : c.recips = [r])
    (hy : s.blocks[r]? = some y) (hplaced : y.bst = .placed) (hbards : ∀ g, s.groups[c.gid]? = some g → g.bards = [])
    (hyhalt : y.halt = none) (hbhalt : b.halt = none) :
    ∃ t, exec (.copyLand cid) s = .next t ∧ t.copies = s.copies.set cid { c with cst := .landed } ∧
      t.blocks = s.blocks.set r (y.settle c.k ((y.word c.k).transfer c.scope (if c.kind = 0 then 0 else c.rows.length))) := by
  obtain ⟨n, hn⟩ : ∃ n, n = if c.kind = 0 then 0 else c.rows.length := ⟨_, rfl⟩
  rw [← hn]
  let v := s.release (s.accAt c.ctx b.die b.clu none) c.scope
  let w := (v.modCopy cid fun c => { c with cst := .landed }).wordOp r c.k (·.transfer c.scope n)
  have hrelease : Touches s v := Touches.release ..
  have hblocks : w.blocks = s.blocks.set r (y.settle c.k ((y.word c.k).transfer c.scope n)) := by
    have hyv : (v.modCopy cid fun c => { c with cst := .landed }).blocks[r]? = some y := (congrArg (·[r]?) hrelease.blocks).trans hy
    exact (State.wordOp_blocks hyv ..).trans (congrArg (fun l : List Block => l.set r _) hrelease.blocks)
  have hland := State.bardsLand_of_none (s := w) (gid := c.gid) (cid := cid) fun g hg => by
    have hmon := hrelease.noMon_getElem? c.gid
    have hgroups : w.groups = v.groups := State.wordOp_groups ..
    rw [← hgroups, hg] at hmon
    obtain ⟨x, hx, hxg⟩ := Option.map_eq_some_iff.1 hmon.symm
    exact (congrArg Group.bards hxg).symm.trans (hbards x hx)
  have hlandBlocks : (w.bardsLand c.gid cid).blocks = w.blocks := (congrArg State.blocks hland :)
  have hstay : (w.bardsLand c.gid cid).toReserve c.bid = w.bardsLand c.gid cid := State.toReserve_of_not_halted fun b' hb' => by
    rw [hlandBlocks, hblocks, List.getElem?_set] at hb'
    split_ifs at hb'
    · obtain rfl := Option.some.inj hb'
      exact (y.settle_halt ..).trans hyhalt
    · obtain rfl := Option.some.inj (hb.symm.trans hb')
      exact hbhalt
  refine ⟨w.bardsLand c.gid cid, ?_, ?_, hlandBlocks.trans hblocks⟩
  · have hgo : ¬ (c.cst ≠ .running ∨ c.prog < c.sectors ∨ s.copyRuns c.ctx = false ∨ (c.recips.any fun i => !s.placed i) = true) := by
      simp [hrunning, hfinished, State.copyRuns_of_running hctx, hrecips, State.placed, hy, hplaced]
    change execCopyLand cid s = _
    simp only [execCopyLand, hc, hb, Option.bind_some, Option.map_some, if_neg hgo]
    simp only [hrecips, List.foldl_cons, List.foldl_nil, ← hn]
    exact congrArg Host.Outcome.next hstay
  · have hcopies : (w.bardsLand c.gid cid).copies = w.copies := (congrArg State.copies hland :)
    have hwcopies : w.copies = v.copies.modify cid fun c => { c with cst := .landed } := State.wordOp_copies ..
    rw [hcopies, hwcopies, hrelease.copies, modify_eq_set _ hc]

/-! ## The end of the drain (R294) -/

/-- Where no block stops alone the deadline of a halt is that of the line of the context (R294). -/
theorem exec_haltDrainDeadline_of_line {s : State} {ctx : Nat} {l : HaltLine} (hline : (s.ctx ctx).line = some l)
    (halone : ∀ b ∈ s.blocks, b.halt = none) : exec (.haltDrainDeadline ctx) s = .next (if l.at_ + 2000 ≤ s.clock then
      (s.stopCopies fun c => c.ctx == ctx).modCtx ctx fun x => { x with line := x.line.map fun l => { l with drained := true } } else s) := by
  change execHaltDrainDeadline ctx s = _
  unfold execHaltDrainDeadline
  extract_lets due alone s1
  have hnone : alone = [] := List.filter_eq_nil_iff.2 fun i _ => by
    split
    · rename_i hb
      cases halone _ (List.mem_of_getElem? hb)
    · decide
  have hs1 : s1 = s := by simp only [s1, hnone, List.foldl_nil]
  rw [hs1, hline]
  by_cases hdue : l.at_ + 2000 ≤ s.clock <;> simp [due, hdue]

/-- What becomes of a copy when those of a test stop (R294). -/
theorem State.stopCopies_getElem? {s : State} {i : Nat} {c : Copy} (hc : s.copies[i]? = some c) (p : Copy → Bool) :
    (s.stopCopies p).copies[i]? = some (if (c.cst = .queued ∨ c.cst = .running) ∧ p c = true then { c with cst := .stopped } else c) := by
  simp [State.stopCopies, hc]

end Sys2Proof.Machine

open Sys2Proof Sys2Proof.Machine

/-- Settles O29: the elements of a sector are looked up first and then moved one after another, each of which changes memory or the
bytes of its own place in the pads written; a landing settles one word, and the deadline stops copies where they stand. -/
theorem copyProgress : Obligations.CopyProgress := by
  unfold Obligations.CopyProgress
  refine ⟨fun s cid c b hc hb hctx => ⟨exec_copyStart_of_queued hc hctx, exec_copyStart_of_not_queued hc, exec_copy_of_away hc hb, ?sector, ?land⟩,
    ?window, ?deadline⟩
  case sector =>
    intro hrunning hunfinished hwindow hplaced hclean a vas found stop
    have h : s.CopyRunning cid c b := ⟨hc, hb, hctx, hrunning, hunfinished, hplaced⟩
    have hexec : exec (.copySector cid) s = .next (State.sectorAfter cid c a found) := h.exec_copySector_of_memory hwindow hclean
    have htouch : Touches s found.1 := Touches.copyLook ..
    rw [hexec]
    clear_value found
    obtain ⟨t, o⟩ := found
    refine ⟨?trap, ?wait, ?poison, ?done⟩
    case trap => rintro x v rfl; rfl
    case wait => rintro rfl; rfl
    case poison => rintro rfl; rfl
    case done =>
      rintro rfl z move u
      have hmove : move = fun u e => u.moveMem a c (c.grant.base + c.far + (c.place e).1) (c.pbase + (c.place e).2) z := by
        funext u e
        simp only [move, State.moveMem]
        rcases u.look a (if c.toPad then .read else .write) (c.grant.base + c.far + (c.place e).1) with ⟨v, o⟩
        cases o with
        | ok pa lf =>
          dsimp only
          split
          · rfl
          · cases (State.consumePad ..).blocks[c.bid]? <;> rfl
        | _ => rfl
      have hu : u = ((c.sector c.prog).foldl move t).sectorDone cid c := rfl
      clear_value u move
      subst hmove hu
      have hcopies := State.foldl_moveMem_copies t a c (fun e => c.grant.base + c.far + (c.place e).1) (fun e => c.pbase + (c.place e).2) z
        (c.sector c.prog)
      refine ⟨rfl, ?_, fun hidle => ?_⟩
      · rw [State.sectorDone_copies (c := c) (by rw [hcopies, htouch.copies, hc]), hcopies, htouch.copies]
      · have honly := (PadsOnly.of_touches htouch).trans (PadsOnly.foldl_moveMem (htouch.tileOps ▸ hidle) a c
          (fun e => c.grant.base + c.far + (c.place e).1) (fun e => c.pbase + (c.place e).2) z (c.sector c.prog))
        refine ⟨fun k j v hv => ?_, fun i y hy => ?_⟩
        · simpa only [State.thread?, State.sectorDone_groups] using honly.thread k j v hv
        · obtain ⟨y', hy', hrest, hsame, hbyte⟩ := honly.block i y hy
          refine ⟨y', by rwa [State.sectorDone_blocks], hrest, fun hno => hsame ?_, fun _ _ p hout => hbyte p ?_⟩
          · rintro ⟨hpad, hi⟩
            exact hno.elim (by simp [hpad]) (fun hn => hn hi)
          · rintro ⟨e, he, hlo, hhi⟩
            have := hout e he
            omega
  case land =>
    intro hrunning hfinished r y x hrecips hy hplaced hx hbards hyhalt hbhalt
    obtain ⟨t, hexec, hcopies, hblocks⟩ := exec_copyLand_of_one hc hb hctx hrunning hfinished hrecips hy hplaced
      (fun g hg => Option.some.inj (hx.symm.trans hg) ▸ hbards) hyhalt hbhalt
    refine ⟨t, _, hexec, hcopies, ?_, rfl, fun i hi => ?_⟩
    · rw [hblocks, List.getElem?_set_self (List.getElem?_eq_some_iff.1 hy).1]
    · rw [hblocks, List.getElem?_set_ne hi.symm]
  case window =>
    intro s cid f c src dst sb db k hc hctx hrunning hunfinished hwindow hfar hsides hne hsrc hdst hk hclean hwf hidle hplaced hrecips z from' into hroom
      hapart
    have hpair : s.PadPair src dst sb := ⟨hne, hsrc, hclean, by rw [hk]; rfl, hidle⟩
    obtain ⟨b, hb⟩ := hpair.exists_block hsides
    have h : s.CopyRunning cid c b := ⟨hc, hb, hctx, hrunning, hunfinished, hrecips⟩
    have hlen (e : Nat) : (sb.padRead (from' e) z).length = z := by simp [Block.padRead]
    refine ⟨_, db.putElements into (fun e => sb.padRead (from' e) z) (c.sector c.prog), h.exec_copySector_of_window hwindow hfar hplaced hsides hpair,
      State.sectorDone_copies hc, ?_, Block.putElements_frame _, fun e he i hi => ?_, fun p hout => ?_, fun i hi => ?_, ?_, ?_⟩
    · simp [hdst, into, from', z]
    · rw [Block.padByte_putElements (c.nodup_sector _) (by simpa only [hlen] using hroom) (by simpa only [hlen] using hapart) he (by rwa [hlen])]
      simp [Block.padRead, hi]
    · exact Block.padByte_putElements_of_outside (by simpa only [hlen] using hout)
    · simp [hi.symm]
    · simp
    · simp
  case deadline =>
    intro s ctx l hline halone
    have hexec := exec_haltDrainDeadline_of_line hline halone
    refine ⟨fun hearly => hexec.trans (congrArg _ (if_neg (by omega))),
      fun hdue => ⟨_, hexec.trans (congrArg _ (if_pos hdue)), rfl, ?_, ?_, fun i c hc => ?_⟩⟩
    · have hstop : ((s.stopCopies fun c => c.ctx == ctx).ctx ctx).line = some l := hline
      simp [hstop]
    · simp [State.stopCopies]
    · refine (State.stopCopies_getElem? hc _).trans ?_
      simp [and_comm]
end

section
/-! O28. Shapes (R281, R285), the checks of a copy at issue and its place in the queue (R287 to R291), and XSTAT (R298). -/

namespace Sys2Proof.Machine

/-! ## Guards (R45) -/

/-- The guard of a group's instruction is that of its uniform registers. -/
theorem State.uguard_of_group {s : State} {gid : Nat} {x : Group} (hwho : s.issue.who = .group gid) (hx : s.groups[gid]? = some x)
    (g : BitVec 4) : s.uguard g = x.u.guard g := by
  simp [State.uguard, State.ufile, hwho, hx]

/-! ## Shapes (R281, R285) -/

/-- The shape record that SHAPE takes of the registers of a group. -/
def Group.shapeRecord (x : Group) (a : BitVec 8) : List Word := (List.range 8).map fun i => x.u.getS (a.toNat + i)

/-- A word of the record is a register. -/
theorem Group.shWord_shapeRecord (x : Group) (a : BitVec 8) {i : Nat} (hi : i < 8) : shWord (x.shapeRecord a) i = (x.u.getS (a.toNat + i)).toNat := by
  simp [shWord, Group.shapeRecord, hi]

/-- A bit of a number is that of its word. -/
theorem bitAt_toNat (x : Word) (i : Nat) : bitAt x.toNat i = x.getLsbD i := by
  simp [bitAt, BitVec.getLsbD, Nat.testBit_eq_decide_div_mod_eq]
  rfl

/-- An element size of at most 16 bytes is a code below 5 (R281). -/
theorem shZ_le_iff (h : List Word) : shZ h ≤ 16 ↔ shWord h 0 % 8 < 5 := by
  rw [shZ, show 16 = 2 ^ 4 from rfl, Nat.pow_le_pow_iff_right (by decide)]
  omega

/-- An element size below 8 bytes is a code below 3 (R281). -/
theorem shZ_lt_iff (h : List Word) : shZ h < 8 ↔ shWord h 0 % 8 < 3 := by
  rw [shZ, show 8 = 2 ^ 3 from rfl, Nat.pow_lt_pow_iff_right (by decide)]

/-- A record that SHAPE accepts, check by check (R285). -/
theorem shapeOk_iff (k : Kernel) (h : List Word) : shapeOk k h = true ↔ shWord h 0 < 1024 ∧ bitAt (shWord h 0) 3 = false ∧ shZ h ≤ 16 ∧
    shWord h 6 < 2 ^ 24 ∧ shWord h 7 = 0 ∧ (∀ i ∈ [1, 2, 3], shS h i % shZ h = 0) ∧ shWord h 6 % 16 = 0 ∧
    (shNdim h = 0 → shWord h 6 = 0) ∧ (shNdim h ≠ 0 → shRow h ≤ shWord h 6) ∧
    (∀ i ∈ [1, 2, 3], shNdim h < i → shE h i = 1 ∧ shS h i = 0) ∧ (shTr h = true → shNdim h ≠ 0 ∧ shZ h < 8) ∧
    (if shMc h then k.mcast (shMg h) ≠ 0 else shMg h = 0) := by
  by_cases hpp : shWord h 6 < 2 ^ 24
  · have hpitch : shPp h = shWord h 6 := Nat.mod_eq_of_lt hpp
    have hrow : (if shNdim h = 0 then shWord h 6 == 0 else decide (shRow h ≤ shWord h 6)) = true ↔
        (shNdim h = 0 → shWord h 6 = 0) ∧ (shNdim h ≠ 0 → shRow h ≤ shWord h 6) := by
      by_cases hn : shNdim h = 0 <;> simp [hn]
    have hgroup : (if shMc h then k.mcast (shMg h) != 0 else shMg h == 0) = true ↔ if shMc h then k.mcast (shMg h) ≠ 0 else shMg h = 0 := by
      by_cases hm : shMc h = true <;> simp [hm]
    have hflat : ([1, 2, 3].all fun i => decide (i ≤ shNdim h) || (shE h i == 1 && shS h i == 0)) = true ↔
        ∀ i ∈ [1, 2, 3], shNdim h < i → shE h i = 1 ∧ shS h i = 0 := by
      simp only [List.all_eq_true, Bool.or_eq_true, decide_eq_true_eq, Bool.and_eq_true, beq_iff_eq, Nat.not_le.symm, or_iff_not_imp_left]
    have htr : (!(shTr h && (shNdim h == 0 || decide (3 ≤ shWord h 0 % 8)))) = true ↔ (shTr h = true → shNdim h ≠ 0 ∧ shZ h < 8) := by
      rw [shZ_lt_iff]
      cases shTr h <;> simp
    have hstride : ([1, 2, 3].all fun i => decide (shS h i % shZ h = 0)) = true ↔ ∀ i ∈ [1, 2, 3], shS h i % shZ h = 0 := by
      simp only [List.all_eq_true, decide_eq_true_eq]
    simp only [shapeOk, Bool.and_eq_true, hrow, hgroup, hflat, htr, hstride, shZ_le_iff, hpitch, decide_eq_true_eq, beq_iff_eq,
      Bool.not_eq_true', and_assoc]
  · refine iff_of_false (fun hok => hpp ?_) fun ⟨_, _, _, h6, _⟩ => hpp h6
    simp only [shapeOk, Bool.and_eq_true, decide_eq_true_eq, and_assoc] at hok
    obtain ⟨-, -, -, h6, -⟩ := hok
    exact h6

/-- A record of registers that SHAPE accepts, field by field (R285). -/
theorem Group.shapeOk_shapeRecord_iff (x : Group) (a : BitVec 8) (k : Kernel) :
    let w (i : Nat) : Word := x.u.getS (a.toNat + i)
    let z : Nat := 2 ^ ((w 0).extractLsb' 0 3).toNat
    let nd := ((w 0).extractLsb' 4 2).toNat
    let e (i : Nat) : Nat := ((w (1 + i / 2)).extractLsb' (16 * (i % 2)) 16).toNat + 1
    let st (i : Nat) : Nat := (w (2 + i)).toNat
    let pp := (w 6).toNat
    let tr := (w 0).getLsbD 6
    let mg := ((w 0).extractLsb' 8 2).toNat
    let row := (if tr then e 1 else e 0) * z
    shapeOk k (x.shapeRecord a) = true ↔ (w 0).toNat < 1024 ∧ (w 0).getLsbD 3 = false ∧ z ≤ 16 ∧ pp < 2 ^ 24 ∧ w 7 = 0 ∧
      (∀ i ∈ [1, 2, 3], st i % z = 0) ∧ pp % 16 = 0 ∧ (nd = 0 → pp = 0) ∧ (nd ≠ 0 → row ≤ pp) ∧
      (∀ i ∈ [1, 2, 3], nd < i → e i = 1 ∧ st i = 0) ∧ (tr = true → nd ≠ 0 ∧ z < 8) ∧
      (if (w 0).getLsbD 7 then k.mcast mg ≠ 0 else mg = 0) := by
  intro w z nd e st pp tr mg row
  have hw {i : Nat} (hi : i < 8) : shWord (x.shapeRecord a) i = (w i).toNat := x.shWord_shapeRecord a hi
  have h0 := hw (show 0 < 8 by decide)
  have hz : shZ (x.shapeRecord a) = z := by
    have hcode : (w 0).toNat % 8 = ((w 0).extractLsb' 0 3).toNat := by simp
    simp only [shZ, h0, hcode, z]
  have hnd : shNdim (x.shapeRecord a) = nd := by simp only [shNdim, h0, bitsOf_toNat, nd]
  have htr : shTr (x.shapeRecord a) = tr := by simp only [shTr, h0, bitAt_toNat, tr]
  have he (i : Nat) (hi : i < 4) : shE (x.shapeRecord a) i = e i := by
    simp only [shE, hw (show 1 + i / 2 < 8 by omega), bitsOf_toNat, e]
  have hst (i : Nat) (hi : i ∈ [1, 2, 3]) : shS (x.shapeRecord a) i = st i := by
    fin_cases hi <;> simp [shS, hw, st]
  have hlt (i : Nat) (hi : i ∈ [1, 2, 3]) : i < 4 := by fin_cases hi <;> decide
  have hrow : shRow (x.shapeRecord a) = row := by simp only [shRow, htr, he 0 (by decide), he 1 (by decide), hz, row]
  have hstride : (∀ i ∈ [1, 2, 3], shS (x.shapeRecord a) i % z = 0) ↔ ∀ i ∈ [1, 2, 3], st i % z = 0 :=
    forall₂_congr fun i hi => by rw [hst i hi]
  have hflat : (∀ i ∈ [1, 2, 3], nd < i → shE (x.shapeRecord a) i = 1 ∧ shS (x.shapeRecord a) i = 0) ↔
      ∀ i ∈ [1, 2, 3], nd < i → e i = 1 ∧ st i = 0 :=
    forall₂_congr fun i hi => by rw [hst i hi, he i (hlt i hi)]
  have h7 : (w 7).toNat = 0 ↔ w 7 = 0 := by simp [BitVec.toNat_eq]
  simp only [shapeOk_iff, hz, hnd, htr, hrow, hstride, hflat, shMc, shMg, h0, hw (show 6 < 8 by decide), hw (show 7 < 8 by decide), h7,
    bitsOf_toNat, bitAt_toNat, pp, mg]

/-- SHAPE of a group whose guard is true sets the shape entry of the block, or raises SHAPE_INVALID (R281, R285). -/
theorem exec_shape_of_group {s : State} {g : BitVec 4} {gid : Nat} {x : Group} {k : Kernel} (hguard : s.uguard g = true)
    (hwho : s.issue.who = .group gid) (hx : s.groups[gid]? = some x) (hk : s.kernelOf x.bid = some k) (a : BitVec 8) (n : BitVec 4) :
    exec (.shape g a n) s = .next (if shapeOk k (x.shapeRecord a) then
      (s.modBlock x.bid fun b => { b with shapes := b.shapes.set n.toNat (some (x.shapeRecord a)) }).advanceU else s.trapU .shapeInvalid 0) := by
  change execShape g a n s = _
  simp only [execShape, hguard, hwho, hx, hk, Option.bind_some, Option.map_some]
  rfl

/-- SHAPE of a cadence stream raises PRIV (R281). -/
theorem exec_shape_of_stream {s : State} {g : BitVec 4} {sid : Nat} (hguard : s.uguard g = true) (hwho : s.issue.who = .stream sid)
    (a : BitVec 8) (n : BitVec 4) : exec (.shape g a n) s = .next (s.trapU .priv 0) := by
  change execShape g a n s = _
  simp only [execShape, hguard, hwho]
  rfl

/-! ## The checks of a copy (R290) -/

/-- The checks of a grant raise no cause of a shape (R347). -/
theorem grantCheck_ne_shapeInvalid (a : Acc) (gt : Grant) (perm : Bool) (off : Int) (n : Nat) : grantCheck a gt perm off n ≠ some .shapeInvalid := by
  unfold grantCheck
  split_ifs <;> decide

/-- The checks of a grant look at the partition and the context of an access only (R347). -/
theorem grantCheck_congr {a a' : Acc} (hpart : a.part = a'.part) (hctx : a.ctx = a'.ctx) (gt : Grant) (perm : Bool) (off : Int) (n : Nat) :
    grantCheck a gt perm off n = grantCheck a' gt perm off n := by
  simp only [grantCheck, hpart, hctx]

/-- The shape of a copy fails its first check (R290). -/
def Copy.badShape (c : Copy) (valid : Bool) : Bool :=
  !valid || (shMc c.shape && !(c.kind == 0 && c.dir == 0)) ||
    (c.kind != 0 && (shNdim c.shape != 1 || shTr c.shape || shMc c.shape || decide (64 < shE c.shape 1))) || (c.window && shTr c.shape)

/-- A side of a copy is not aligned (R290). -/
def Copy.misaligned (c : Copy) : Bool :=
  (!c.window && decide ((c.grant.base + c.far) % shZ c.shape ≠ 0)) || decide (c.pbase % 16 ≠ 0) || (c.window && decide (c.far % shZ c.shape ≠ 0))

/-- Bytes of a pad lie below its barrier words (R290). -/
def State.padRoom (s : State) (i off span : Nat) : Bool := ((s.blocks[i]?).map fun x => decide (off + span + 128 ≤ x.padsz)).getD false

/-- A side of a copy leaves the pads that it reaches (R290). -/
def State.padExceeded (s : State) (c : Copy) : Bool :=
  !(c.recips.all fun i => s.padRoom i c.pbase (shPadSpan c.shape)) ||
    (c.window && !(((s.padTarget c.bid (BitVec.ofNat 4 (8 + c.stage))).map fun i => s.padRoom i c.far (shMemSpan c.shape)).getD false)) ||
    !(c.window.not || s.padRoom c.bid c.pbase (shPadSpan c.shape))

section
variable {s : State} {c : Copy} {b : Block} {valid : Bool}

/-- A shape that fails, told from its fields. -/
theorem Copy.badShape_iff : c.badShape valid = true ↔ valid = false ∨ (shMc c.shape = true ∧ ¬ (c.kind = 0 ∧ c.dir = 0)) ∨
    (c.kind ≠ 0 ∧ (shNdim c.shape ≠ 1 ∨ shTr c.shape = true ∨ shMc c.shape = true ∨ 64 < shE c.shape 1)) ∨
    (c.window = true ∧ shTr c.shape = true) := by
  simp [Copy.badShape, or_assoc, imp_iff_not_or]

/-- A side that is not aligned, told from its offsets. -/
theorem Copy.misaligned_iff : c.misaligned = true ↔ (¬ c.window = true ∧ (c.grant.base + c.far) % shZ c.shape ≠ 0) ∨ c.pbase % 16 ≠ 0 ∨
    (c.window = true ∧ c.far % shZ c.shape ≠ 0) := by
  simp [Copy.misaligned, or_assoc]

/-- Room in a pad is room in the pad of a block that stands. -/
theorem State.padRoom_iff {i off span : Nat} : s.padRoom i off span = true ↔ ∃ y : Block, s.blocks[i]? = some y ∧ off + span + 128 ≤ y.padsz := by
  unfold State.padRoom
  cases s.blocks[i]? <;> simp

/-- The sides of a copy lie within the pads that it reaches. -/
theorem State.padExceeded_iff : s.padExceeded c = false ↔ (∀ i ∈ c.recips, s.padRoom i c.pbase (shPadSpan c.shape) = true) ∧
    (c.window = true → s.padRoom c.bid c.pbase (shPadSpan c.shape) = true ∧
      ∃ f, s.padTarget c.bid (BitVec.ofNat 4 (8 + c.stage)) = some f ∧ s.padRoom f c.far (shMemSpan c.shape) = true) := by
  have hfar : ((s.padTarget c.bid (BitVec.ofNat 4 (8 + c.stage))).map fun i => s.padRoom i c.far (shMemSpan c.shape)).getD false = true ↔
      ∃ f, s.padTarget c.bid (BitVec.ofNat 4 (8 + c.stage)) = some f ∧ s.padRoom f c.far (shMemSpan c.shape) = true := by
    cases s.padTarget c.bid (BitVec.ofNat 4 (8 + c.stage)) <;> simp
  rw [← hfar]
  cases hwindow : c.window <;> simp [State.padExceeded, hwindow, and_assoc, and_comm]

/-- A word on which a transfer arrival can be made later (R290, R314). -/
theorem State.acceptsTransfer_iff {i k : Nat} : s.acceptsTransfer i k = true ↔
    (s.word i k).init = true ∧ -512 ≤ (s.word i k).tx - s.copiesAt i k - 1 := by
  simp [State.acceptsTransfer]

/-- SHAPE_INVALID is the first of the causes (R290). -/
theorem State.copyCheck_of_badShape (hbad : c.badShape valid = true) : s.copyCheck c b valid = some (.shapeInvalid, 0) := if_pos hbad

/-- The causes of the grant come next (R290). -/
theorem State.copyCheck_of_grant (hbad : c.badShape valid = false) (hwindow : c.window = false) {z : Cause}
    (hgrant : grantCheck (s.accAt c.ctx b.die b.clu none) c.grant (if c.toPad then c.grant.rd else c.grant.wr) c.far (shMemSpan c.shape) = some z) :
    s.copyCheck c b valid = some (z, c.grant.base + c.far) := by
  refine (if_neg (ne_true_of_eq_false hbad)).trans ?_
  simp only [hwindow, Bool.false_eq_true, if_false, hgrant]

/-- MISALIGN, PAD_BOUNDS and BARRIER_MISUSE come last, in this order (R290). -/
theorem State.copyCheck_of_granted (hbad : c.badShape valid = false) (hgrant : c.window = true ∨
    grantCheck (s.accAt c.ctx b.die b.clu none) c.grant (if c.toPad then c.grant.rd else c.grant.wr) c.far (shMemSpan c.shape) = none) :
    s.copyCheck c b valid = if c.misaligned then some (.misalign, c.grant.base + c.far)
      else if s.padExceeded c then some (.padBounds, c.pbase)
      else if !(c.recips.all fun i => s.acceptsTransfer i c.k) then some (.barrierMisuse, 0) else none := by
  have hnone : (if c.window then none else grantCheck (s.accAt c.ctx b.die b.clu none) c.grant (if c.toPad then c.grant.rd else c.grant.wr) c.far
      (shMemSpan c.shape)) = none := by
    rcases hgrant with hwindow | hnone
    · rw [if_pos hwindow]
    · rw [hnone, ite_self]
  refine (if_neg (ne_true_of_eq_false hbad)).trans ?_
  simp only [hnone]
  rfl

/-- Only a shape that fails raises SHAPE_INVALID (R290). -/
theorem State.copyCheck_ne_shapeInvalid (hbad : c.badShape valid = false) (v : Nat) : s.copyCheck c b valid ≠ some (.shapeInvalid, v) := by
  by_cases hgrant : c.window = true ∨
      grantCheck (s.accAt c.ctx b.die b.clu none) c.grant (if c.toPad then c.grant.rd else c.grant.wr) c.far (shMemSpan c.shape) = none
  · rw [State.copyCheck_of_granted hbad hgrant]
    split_ifs <;> simp
  · obtain ⟨hwindow, hne⟩ := not_or.1 hgrant
    obtain ⟨z, hz⟩ := Option.ne_none_iff_exists'.1 hne
    rw [State.copyCheck_of_grant hbad (by simpa using hwindow) hz]
    rintro ⟨⟩
    exact grantCheck_ne_shapeInvalid _ _ _ _ _ hz

end

/-! ## Issue (R287 to R291) -/

/-- A copy instruction of a group whose guard is true. -/
structure State.CopyIssue (s : State) (g : BitVec 4) (gid : Nat) (x : Group) (b : Block) (ke : Kernel) : Prop where
  who : s.issue.who = .group gid
  group : s.groups[gid]? = some x
  block : s.blocks[x.bid]? = some b
  kernel : s.kernels[b.kid]? = some ke
  guard : x.u.guard g = true

/-- The copy that joins the queue: what the instruction makes of the registers, with its agent, its shape entry and its recipients. -/
def State.issued (s : State) (gid : Nat) (x : Group) (ke : Kernel) (h : List Word) (m : Copy) : Copy :=
  { m with gid := gid, bid := x.bid, shape := h, recips := s.recipients x.bid ke h, ctx := ke.ctx,
           mask := if m.kind = 0 then 0 else m.mask % 2 ^ min 64 (shE h 1) }

/-- What a copy instruction of a group does, by the answer of the checks of its copy (R290, R291): SHAPE_INVALID comes before SCOPE, and
the other causes after it. -/
def State.issueAfter (s : State) (gid : Nat) (x : Group) (b : Block) (scope : BitVec 3) (c : Copy) : Option (Cause × Nat) → State
  | some (.shapeInvalid, v) => s.trapU .shapeInvalid v
  | r =>
    match s.scopeCheck (.group gid) scope.toNat with
    | none => s.trapU .scope 0
    | some (sc, cl) =>
      let s := s.clamped (.group gid) cl
      match r with
      | some (z, v) => s.trapU z v
      | none =>
        if 32 ≤ s.blockCopies x.bid ∨ 128 ≤ s.clusterCopies b then s.waitU
        else
          let s := s.release (s.accOf (.group gid)) 1
          ({ s with copies := s.copies ++ [{ c with scope := sc }] }).unwaitU.advanceU

section
variable {s : State} {gid : Nat} {x : Group} {b : Block} {scope : BitVec 3} {c : Copy}

/-- A scope that is refused raises SCOPE where the shape stands (R227, R290). -/
theorem State.issueAfter_of_refused (hscope : s.scopeCheck (.group gid) scope.toNat = none) {r : Option (Cause × Nat)}
    (hr : ∀ v, r ≠ some (.shapeInvalid, v)) : s.issueAfter gid x b scope c r = s.trapU .scope 0 := by
  unfold State.issueAfter
  split
  · rename_i v
    exact absurd rfl (hr v)
  · rw [hscope]

/-- A cause other than SHAPE_INVALID is raised where the scope stands (R290). -/
theorem State.issueAfter_of_cause (hfree : scopeFree s (.group gid) scope) {z : Cause} (hz : z ≠ .shapeInvalid) (v : Nat) :
    s.issueAfter gid x b scope c (some (z, v)) = s.trapU z v := by
  unfold State.issueAfter
  split
  · rename_i h
    exact absurd (congrArg (fun r => (r.map Prod.fst).getD z) h) hz
  · rw [State.scopeCheck_of_free hfree]
    rfl

/-- A copy that passes its checks waits for room, or joins the queue behind a release at CLUSTER (R291). -/
theorem State.issueAfter_of_pass (hfree : scopeFree s (.group gid) scope) : s.issueAfter gid x b scope c none =
    if 32 ≤ s.blockCopies x.bid ∨ 128 ≤ s.clusterCopies b then s.waitU
    else ({ s.release (s.accOf (.group gid)) 1 with copies := s.copies ++ [{ c with scope := scope.toNat }] } : State).unwaitU.advanceU := by
  simp only [State.issueAfter, State.scopeCheck_of_free hfree, State.clamped_false, (Touches.release ..).copies]

end

namespace State.CopyIssue

variable {s : State} {g n : BitVec 4} {gid : Nat} {x : Group} {b : Block} {ke : Kernel}

/-- The checks of a grant are those of the group's accesses (R290). -/
theorem grantCheck_accAt (h : s.CopyIssue g gid x b ke) (die clu : Nat) (core : Option Nat) (gt : Grant) (perm : Bool) (off : Int) (m : Nat) :
    grantCheck (s.accAt ke.ctx die clu core) gt perm off m = grantCheck (s.accOf (.group gid)) gt perm off m := by
  have hacc : s.accOf (.group gid) = s.accAt ke.ctx b.die b.clu (some b.coreNo) := by
    simp [State.accOf, h.group, h.block, State.ctxOfKernel, h.kernel]
  rw [hacc]
  exact grantCheck_congr rfl rfl ..

/-- A copy instruction does what the answer of its checks says. -/
theorem copyIssue_eq (h : s.CopyIssue g gid x b ke) (scope : BitVec 3) (mk : Group → Copy) :
    let entry := (b.shapes[n.toNat]?).join
    let c := s.issued gid x ke (entry.getD (List.replicate 8 0)) (mk x)
    s.copyIssue g n scope mk = s.issueAfter gid x b scope c (s.copyCheck c b entry.isSome) := by
  simp only [State.copyIssue, State.uguard_of_group h.who h.group, h.guard, h.who, h.group, h.block, h.kernel, Option.bind_some, Option.map_some]
  rfl

end State.CopyIssue

/-- A copy instruction whose guard is false only goes on (R45). -/
theorem State.copyIssue_of_skipped {s : State} {g : BitVec 4} (hguard : s.uguard g = false) (n : BitVec 4) (scope : BitVec 3) (mk : Group → Copy) :
    s.copyIssue g n scope mk = s.advanceU := by
  simp only [State.copyIssue, hguard, Bool.not_false, if_true]

/-! ## XSTAT (R298) -/

/-- The copies that XSTAT of a group counts: those of the group, of its block, or aimed at a word of it, that have not landed. -/
def State.counted (gid bid : Nat) (sl : BitVec 2) (k : BitVec 4) (c : Copy) : Bool :=
  (c.cst == .queued || c.cst == .running || c.cst == .stopped) &&
    (if sl = 0 then c.gid == gid else if sl = 1 then c.bid == bid else c.k == k.toNat && c.recips.contains bid)

/-- XSTAT of a group writes its counts under the guard, where each fits its field (R298). -/
theorem exec_xstat_of_group {s : State} {gid : Nat} {x : Group} (hwho : s.issue.who = .group gid) (hx : s.groups[gid]? = some x)
    (g la : BitVec 4) (d : BitVec 8) (sl : BitVec 2) (k : BitVec 4) (hfew : s.copies.countP (State.counted gid x.bid sl k) < 64) :
    exec (.xstat g la d sl k) s = .next (({ s with free := s.free + 2 } : State).uniOp g fun _ u => u.late la.toNat [(d.toNat,
      BitVec.ofNat 32 (s.copies.countP (State.counted gid x.bid sl k) + 256 *
        s.copies.countP fun c => State.counted gid x.bid sl k c && c.cst == .stopped))] []) := by
  change execXstat g la d sl k s = _
  have hbid : ((s.groups[gid]?).map (·.bid)).getD 0 = x.bid := by rw [hx]; rfl
  simp only [execXstat, hwho, hbid]
  have hl (p : Copy → Bool) (hp : ∀ c, p c = State.counted gid x.bid sl k c) : s.copies.filter p = s.copies.filter (State.counted gid x.bid sl k) :=
    List.filter_congr fun c _ => hp c
  rw [hl _ fun c => by fin_cases sl <;> rfl]
  have hle : (s.copies.countP fun c => State.counted gid x.bid sl k c && c.cst == .stopped) ≤ s.copies.countP (State.counted gid x.bid sl k) :=
    List.countP_mono_left fun c _ hc => (Bool.and_eq_true_iff.1 hc).1
  have hstopped : ((s.copies.filter (State.counted gid x.bid sl k)).filter fun c => c.cst == .stopped).length =
      s.copies.countP fun c => State.counted gid x.bid sl k c && c.cst == .stopped := by
    rw [List.filter_filter, ← List.countP_eq_length_filter]
    exact List.countP_congr fun c _ => by rw [Bool.and_comm]
  rw [hstopped, ← List.countP_eq_length_filter, if_pos hfew, if_pos (by omega)]

/-- A uniform result of one register, at once or when its window ends (R60). -/
theorem UFile.late_one (u : UFile) (la : BitVec 4) (d : Nat) (w : Word) : u.late la.toNat [(d, w)] [] = if la = 0 then u.putS d w
    else { u with pend := u.pend ++ [{ left := la.toNat, known := true, regs := [(d, w)], preds := [] }] } :=
  if_congr (by bv_omega) rfl rfl

end Sys2Proof.Machine

open Sys2Proof Sys2Proof.Machine

/-- Settles O28: a record is accepted field by field, the checks of a copy answer the first cause that is met, and the counts of XSTAT
are those of the copies of the state. -/
theorem copyIssue : Obligations.CopyIssue := by
  unfold Obligations.CopyIssue
  refine ⟨fun s g n a hguard => ⟨fun gid x k hwho hx hk => ?shape, fun sid hwho => exec_shape_of_stream hguard hwho a n⟩, ?copy,
    fun s g la k d sl => ⟨fun gid x hwho hx => ?xstat, fun sid hwho hguard => ?stream, fun hguard => ?skipped⟩⟩
  case shape =>
    intro w z nd e st pp tr mg row fits
    have hfits : shapeOk k (x.shapeRecord a) = true ↔ fits := x.shapeOk_shapeRecord_iff a k
    have hexec := exec_shape_of_group hguard hwho hx hk a n
    refine ⟨fun hfit => ?_, fun hfit => ?_⟩
    · exact hexec.trans (congrArg _ (if_pos (hfits.2 hfit)))
    · exact hexec.trans (congrArg _ (if_neg (hfits.not.2 hfit)))
  case copy =>
    intro s g d a sm dir hint n gr k scope st o64 get gid x b ke hwho hx hb hke hguard entry h gt base masked c0 free strict e he c into
    have hissue : s.CopyIssue g gid x b ke := ⟨hwho, hx, hb, hke, hguard⟩
    obtain ⟨hexec, hinto, hgt, hshape, hkn, hctx, hbid⟩ : exec e.1 s = .next (s.issueAfter gid x b scope c (s.copyCheck c b entry.isSome)) ∧
        c.toPad = into ∧ c.grant = gt ∧ c.shape = h ∧ c.k = k.toNat ∧ c.ctx = ke.ctx ∧ c.bid = x.bid := by
      simp only [List.mem_cons, List.not_mem_nil, or_false] at he
      rcases he with rfl | rfl | rfl
      · refine ⟨congrArg _ (hissue.copyIssue_eq scope _), ?_, rfl, rfl, rfl, rfl, rfl⟩
        change (false || (true && dir.toNat != 1)) = (dir != 1)
        fin_cases dir <;> rfl
      · exact ⟨congrArg _ (hissue.copyIssue_eq scope _), rfl, rfl, rfl, rfl, rfl, rfl⟩
      · exact ⟨congrArg _ (hissue.copyIssue_eq scope _), rfl, rfl, rfl, rfl, rfl, rfl⟩
    intro pads va room badShape grants odd fit accepts passes
    rw [hexec]
    have hpads : c.window = true ↔ pads := by simp [Copy.window, pads]
    have hbad : c.badShape entry.isSome = true ↔ badShape := by
      rw [Copy.badShape_iff, hpads, hshape, Option.isSome_eq_false_iff, Option.isNone_iff_eq_none]
    have hodd : c.misaligned = true ↔ odd := by rw [Copy.misaligned_iff, hpads, hshape, hgt]
    have hroom (i off span : Nat) : s.padRoom i off span = true ↔ room i off span := State.padRoom_iff
    have hexceeded : s.padExceeded c = true ↔ ¬ fit := by
      rw [← Bool.not_eq_false, not_iff_not]
      simp only [State.padExceeded_iff, hpads, hroom, hshape, hbid, fit]
    have hrefused : (!(c.recips.all fun i => s.acceptsTransfer i c.k)) = true ↔ ¬ accepts := by
      rw [Bool.not_eq_true', ← Bool.not_eq_true, not_iff_not]
      simp only [List.all_eq_true, State.acceptsTransfer_iff, hkn, accepts]
    have hgrants : grantCheck (s.accAt c.ctx b.die b.clu none) c.grant (if c.toPad then c.grant.rd else c.grant.wr) c.far (shMemSpan c.shape) =
        grants := by
      rw [hctx, hgt, hinto, hshape, hissue.grantCheck_accAt]
    have hgood (hn : ¬ badShape) : c.badShape entry.isSome = false := Bool.eq_false_iff.2 (hbad.not.2 hn)
    have hgranted (hn : ¬ badShape) (hpass : pads ∨ grants = none) := State.copyCheck_of_granted (s := s) (b := b) (hgood hn)
      (by rwa [hpads, hgrants])
    simp only [hgt] at hgranted
    have hpassed (hn : ¬ badShape) (hpass : pads ∨ grants = none) (ho : ¬ odd) (hf : fit) (ha : accepts) :
        s.copyCheck c b entry.isSome = none := by
      rw [hgranted hn hpass, if_neg (hodd.not.2 ho), if_neg (hexceeded.not_left.2 hf), if_neg (hrefused.not_left.2 ha)]
    refine ⟨fun hfails => ?_, fun hn hsys hpriv hstrict => ?_, fun hn hfree hwindow z hz => ?_, fun hn hfree hpass ho => ?_,
      fun hn hfree hpass ho hf => ?_, fun hn hfree hpass ho hf ha => ?_, ?_, ?_⟩
    · rw [State.copyCheck_of_badShape (hbad.2 hfails)]
      rfl
    · have hkid : s.kernels[s.kidOf (.group gid)]? = some ke := by simp [State.kidOf, hx, hb, hke]
      subst hsys
      have hscope : s.scopeCheck (.group gid) (4 : BitVec 3).toNat = none := (State.scopeCheck_sys hkid hpriv).trans (if_pos hstrict)
      rw [State.issueAfter_of_refused hscope (State.copyCheck_ne_shapeInvalid (hgood hn))]
    · have hcheck := State.copyCheck_of_grant (s := s) (b := b) (hgood hn) (Bool.eq_false_iff.2 (hpads.not.2 hwindow)) (hgrants.trans hz)
      rw [hcheck, hgt, State.issueAfter_of_cause hfree]
      rintro rfl
      exact grantCheck_ne_shapeInvalid _ _ _ _ _ hz
    · rw [hgranted hn hpass, if_pos (hodd.2 ho), State.issueAfter_of_cause hfree (by decide)]
    · rw [hgranted hn hpass, if_neg (hodd.not.2 ho), if_pos (hexceeded.2 hf), State.issueAfter_of_cause hfree (by decide)]
    · rw [hgranted hn hpass, if_neg (hodd.not.2 ho), if_neg (hexceeded.not_left.2 hf), if_pos (hrefused.2 ha),
        State.issueAfter_of_cause hfree (by decide)]
    · rintro ⟨hn, hfree, hpass, ho, hf, ha⟩ hfull
      rw [hpassed hn hpass ho hf ha, State.issueAfter_of_pass hfree, if_pos hfull]
    · rintro ⟨hn, hfree, hpass, ho, hf, ha⟩ hblock hcluster
      rw [hpassed hn hpass ho hf ha, State.issueAfter_of_pass hfree, if_neg (by omega)]
  case xstat =>
    intro mine hfew w
    have hexec := exec_xstat_of_group hwho hx g la d sl k hfew
    simp only [UFile.late_one] at hexec
    exact ⟨_, hexec, State.uniOp_only ..⟩
  case stream =>
    change execXstat g la d sl k s = _
    simp only [execXstat, hwho, hguard, if_true]
  case skipped =>
    intro a d' sm dir hint n gr scope st o64 get
    have hcopy (mk : Group → Copy) : (Host.Outcome.next (s.copyIssue g n scope mk) : Out) = .next s.advanceU :=
      congrArg _ (State.copyIssue_of_skipped hguard n scope mk)
    simp only [List.forall_mem_cons, List.not_mem_nil, false_imp_iff, implies_true, and_true]
    refine ⟨?_, hcopy _, hcopy _, hcopy _⟩
    change execShape g a n s = _
    simp only [execShape, hguard, Bool.not_false, if_true]
end
